-- ==== Sys2Proof/Word.lean ====
section
/-! DEFINITION. The word types of the device and the index types of its parts (spec 00 R2, 01 R7, Table S-2). -/

namespace Sys2Proof

/-- A byte, the smallest addressable unit (R2). -/
abbrev Byte := BitVec 8
/-- A 32-bit register value (R73). -/
abbrev Word := BitVec 32
/-- A 64-bit register pair or window slot value (R74, R79). -/
abbrev DWord := BitVec 64
/-- A lane mask of a group: bit i is lane i (R8). -/
abbrev Mask := BitVec 32
/-- A value for each of the 32 lane positions of a group (R8). -/
abbrev Lanes (α : Type) := Vector α 32
/-- An Erg die, 0 to 31. -/
abbrev DieId := Fin 32
/-- A core of a die, 0 to 47. -/
abbrev CoreId := Fin 48
/-- A group slot of a core, 0 to 31 (R52). -/
abbrev SlotId := Fin 32
/-- A lane number, 0 to 31 (R7). -/
abbrev Lane := Fin 32

/-- A group slot of the package: the name of whatever group it holds. -/
structure GRef where
  die : DieId
  core : CoreId
  slot : SlotId
  deriving DecidableEq, Repr

/-- Why an engine operation was cut short from outside: firmware cancelled it, or a request timed out (Table K-58). -/
inductive Abort
  | cancelled | timeout
  deriving DecidableEq, Repr

end Sys2Proof
end

