-- ==== Sys2Proof/Config.lean ====
section
/-! DEFINITION. What an implementation fixes and the manual does not state, as constants without a body: nothing can be
proved about their values. The log entries name each one. -/

namespace Sys2Proof.Config

/-- DESIGN CHOICE (log 15). A byte the manual leaves open (R116, R117, R119, R267): the destination of a failed or racing engine operation. -/
opaque freeByte : Nat → Byte
/-- DESIGN CHOICE (log 15). A word the manual leaves open, such as a column of a poisoned accumulator row (R261, R267). -/
opaque freeWord : Nat → Word
/-- DESIGN CHOICE (log 17). A measured figure of the telemetry (Table F-1): power, energy or temperature. -/
opaque freeReading : Nat → Nat → DWord
/-- DESIGN CHOICE (log 19). Physical place of a die's exchange window in its L2 (R97, R250). -/
opaque xwinPa : DieId → Nat
/-- DESIGN CHOICE (log 19). Virtual address of a die's exchange window in a grid's address space (Table K-59). -/
opaque xwinVa : DieId → DWord
/-- DESIGN CHOICE (log 83). The hash that turns each run of eight consecutive 4 KiB frames over the eight Cistern dies, which the manual does
not give (R98). -/
opaque cisternHash : Nat → Fin 8
/-- DESIGN CHOICE (log 83). The home slice of a line on its Cistern die: a fixed hash that the manual does not give (R98). -/
opaque homeSlice : Nat → Fin 64
/-- DESIGN CHOICE (log 83). The slice of a die's L2 that holds a line: a fixed hash that the manual does not give (R97). -/
opaque l2Slice : Nat → Fin 64
/-- DESIGN CHOICE (log 20). The namespaces, at most 256 (R326): the handle that the driver has assigned to each, and its LBA size in bytes
(Table D-7, R325). -/
opaque namespaces : Fin 256 → Option (BitVec 16 × Nat)
/-- DESIGN CHOICE (log 20). The PEER queue pair of a peer handle that the driver has assigned, none for an unknown handle (Table D-7, R327). -/
opaque peerQp : BitVec 16 → Option Nat
/-- DESIGN CHOICE (log 20). The greatest transfer of one command that the target of a namespace takes, in bytes; 0 sets no limit (R326). -/
opaque maxTransfer : BitVec 16 → Nat
/-- DESIGN CHOICE (log 11). Physical address at which firmware code runs in a group's context (R345). -/
opaque firmwareEntry : DWord
/-- DESIGN CHOICE (log 13). The SHA-384 digest, a standard that the manual names and does not define (R372, R375). -/
opaque sha384 : List Byte → BitVec 384
/-- DESIGN CHOICE (log 13). ECDSA verification over brainpoolP384r1 with the key whose SHA-384 digest is fused: fused digest, message digest, signature (R372). -/
opaque ecdsaOk : BitVec 384 → BitVec 384 → List Byte → Bool
/-- DESIGN CHOICE (log 13). The signature that the device identity key makes over a digest and a nonce (R377). -/
opaque sign : BitVec 384 → BitVec 256 → List Byte
/-- DESIGN CHOICE (log 13). The certificate chain in slot 0 (R377). -/
opaque certificate : List Byte
/-- DESIGN CHOICE (log 13). The digest of the ROM and of the fused configuration, the digest of the public key and the minimum SVN among it,
extended into M0 (R375). -/
opaque romDigest : BitVec 384 → Word → BitVec 384
/-- DESIGN CHOICE (log 102). The key of an SGL entry where no memory region of the transfer's address space has one (R326). -/
opaque regionKey : BitVec 12 → Word

end Sys2Proof.Config
end

