-- ==== Sys2Proof/Syntax.lean ====
section
/-! DEFINITION. The abstract syntax: one constructor of Instr for every row of spec/opcode_table.json.
A row with an encoding carries the decoded fields of its word (spec 06 R153 to R162); a row that is an event carries the
names of the units and operations it concerns. -/

namespace Sys2Proof

/-- The length of an instruction: 64, 96 or 128 bits (R149). -/
inductive Len
  | f64 | f96 | f128
  deriving DecidableEq, Repr

/-- An operand specifier as Table K-35 decodes it; none is 0x7FF in an optional or absent field (R158, R159). -/
inductive Operand
  | none
  | u (n : BitVec 10)
  | v (n : BitVec 8)
  | w (n : BitVec 3)
  | o (n : BitVec 3)
  | q (n : BitVec 4)
  | t (n : BitVec 4)
  | acc (row : BitVec 3)
  | zero
  | ones
  | imm32
  | inl (i : BitVec 8)
  | pred (n : BitVec 3)
  deriving DecidableEq, Repr

/-- The decoded fields of an instruction word (Tables K-32 to K-34). sx is SC in F64 and SD in F128. -/
structure Fields where
  len : Len
  guard : BitVec 3
  gn : Bool
  g2 : BitVec 3
  g2n : Bool
  sub : BitVec 3
  nw : Bool
  yld : Bool
  dst : Operand
  sa : Operand
  sb : Operand
  sx : Operand
  hint : BitVec 2
  md : BitVec 5
  imm : Word
  mcast : Byte
  breg : BitVec 4
  ctag : BitVec 3
  ru : Bool
  deriving DecidableEq, Repr

/-- A die's part of a collective that ends: the die, and the reason where the part is cut short (R236, R249). -/
structure CollPart where
  die : DieId
  abort : Option Abort
  deriving DecidableEq, Repr

/-- The window of slots that an inbound write names: its die and the key of the memory region (R316, R318). -/
structure SlotWindow where
  die : DieId
  rkey : Word
  deriving DecidableEq, Repr

/-- The header of one packet of an RDMA WRITE: the key of its memory region and the bytes of the whole message (R314, R316). -/
structure WriteHead where
  rkey : Word
  message : Nat
  deriving DecidableEq, Repr

/-- The response of an NVMe-oF command: its number and the NVMe status, zero for success (R326). -/
structure NvmResponse where
  command : Nat
  status : BitVec 16
  deriving DecidableEq, Repr

/-- A queue pair as firmware creates it (R315, R318, R322). -/
structure QueuePairSpec where
  qp : Nat
  role : BitVec 3
  asid : BitVec 12
  die : DieId
  slotLo : BitVec 12
  slotHi : BitVec 12
  ringBase : DWord
  ringLog : BitVec 5
  consumed : DWord
  mtu : BitVec 2
  deriving DecidableEq, Repr

/-- A register of the control blocks that a write reaches and that has no behaviour row of its own (R3). -/
inductive RegName
  | astbase | nctl | nstat | nxtab | pgrid | pcap | hmap | bootcfg | bootstat | loghead
  | cvquant (die : DieId)
  | savecfgBase (die : DieId)
  | savecfgSize (die : DieId)
  | dlim (die : DieId)
  | lstat (die : DieId) (mdl : Fin 4)
  | lcount (die : DieId) (mdl : Fin 4)
  | dbgen (die : DieId)
  | xinvWord (i : Fin 3)
  | counter (die : DieId) (i : Fin 9)
  | telemetry (i : Fin 7)
  deriving DecidableEq, Repr

/-- Where an uncorrectable error is found (R359, R255, R99). -/
inductive EccPlace
  | memory (unit : Nat)
  | bankUnit (die : DieId) (core : CoreId) (bank : Fin 64) (unit : Nat)
  | slot (die : DieId) (core : CoreId) (slot : Fin 32)
  deriving DecidableEq, Repr

/-- One constructor for every row of spec/opcode_table.json. -/
inductive Instr
  | iadd (f : Fields)
  | isub (f : Fields)
  | imul (f : Fields)
  | imulh (f : Fields)
  | imad (f : Fields)
  | imadw (f : Fields)
  | imin (f : Fields)
  | imax (f : Fields)
  | iabs (f : Fields)
  | iaddx (f : Fields)
  | idot4 (f : Fields)
  | idot2 (f : Fields)
  | lea (f : Fields)
  | icmp (f : Fields)
  | isel (f : Fields)
  | iclamp (f : Fields)
  | and (f : Fields)
  | or (f : Fields)
  | xor (f : Fields)
  | andn (f : Fields)
  | not (f : Fields)
  | shl (f : Fields)
  | shr (f : Fields)
  | sar (f : Fields)
  | shf (f : Fields)
  | bfext (f : Fields)
  | bfins (f : Fields)
  | popc (f : Fields)
  | clz (f : Fields)
  | ctz (f : Fields)
  | brev (f : Fields)
  | prmt (f : Fields)
  | fadd (f : Fields)
  | fsub (f : Fields)
  | fmul (f : Fields)
  | ffma (f : Fields)
  | fmin (f : Fields)
  | fmax (f : Fields)
  | fcmp (f : Fields)
  | fclass (f : Fields)
  | frnd (f : Fields)
  | fscale (f : Fields)
  | hfma2 (f : Fields)
  | hadd2 (f : Fields)
  | hmul2 (f : Fields)
  | fdot2 (f : Fields)
  | frcp (f : Fields)
  | frsq (f : Fields)
  | fsqrt (f : Fields)
  | fexp2 (f : Fields)
  | flog2 (f : Fields)
  | fsin (f : Fields)
  | fcos (f : Fields)
  | ftanh (f : Fields)
  | fdiv (f : Fields)
  | mov (f : Fields)
  | movi (f : Fields)
  | movs (f : Fields)
  | cvt (f : Fields)
  | cvtq (f : Fields)
  | pack (f : Fields)
  | unpack (f : Fields)
  | mxq (f : Fields)
  | mxdq (f : Fields)
  | rdsr (f : Fields)
  | wrsr (f : Fields)
  | pop (f : Fields)
  | pmov (f : Fields)
  | pmovSet (f : Fields)
  | vote (f : Fields)
  | ballot (f : Fields)
  | matchLanes (f : Fields)
  | shfl (f : Fields)
  | nbr (f : Fields)
  | redx (f : Fields)
  | scan (f : Fields)
  | segred (f : Fields)
  | segscan (f : Fields)
  | bra (f : Fields)
  | brx (f : Fields)
  | call (f : Fields)
  | callInd (f : Fields)
  | ret (f : Fields)
  | exit (f : Fields)
  | tkopen (f : Fields)
  | tkjoin (f : Fields)
  | tkleave (f : Fields)
  | yield (f : Fields)
  | nop (f : Fields)
  | trap (f : Fields)
  | sleep (f : Fields)
  | brkpt (f : Fields)
  | vgrow (f : Fields)
  | vshrink (f : Fields)
  | barSync (f : Fields)
  | barArrive (f : Fields)
  | barWait (f : Fields)
  | barTest (f : Fields)
  | barPhase (f : Fields)
  | barSyncOne (f : Fields)
  | barArriveOne (f : Fields)
  | barinit (f : Fields)
  | barexp (f : Fields)
  | fenceAr (f : Fields)
  | fenceSc (f : Fields)
  | sstep (f : Fields)
  | spawn (f : Fields)
  | launch (f : Fields)
  | reorder (f : Fields)
  | pksend (f : Fields)
  | pkrecv (f : Fields)
  | pkpoll (f : Fields)
  | route (f : Fields)
  | gang (f : Fields)
  | gangRd (f : Fields)
  | lease (f : Fields)
  | ld (f : Fields)
  | st (f : Fields)
  | ldx (f : Fields)
  | stx (f : Fields)
  | lds (f : Fields)
  | sts (f : Fields)
  | ldc (f : Fields)
  | pf (f : Fields)
  | ldt (f : Fields)
  | stt (f : Fields)
  | tmovRd (f : Fields)
  | tmovWr (f : Fields)
  | tmovC8 (f : Fields)
  | tmovC16 (f : Fields)
  | tmovC32 (f : Fields)
  | tmovC4 (f : Fields)
  | tmovWc32 (f : Fields)
  | tmovWc8 (f : Fields)
  | atom (f : Fields)
  | atomcas (f : Fields)
  | red (f : Fields)
  | atoms (f : Fields)
  | atomf (f : Fields)
  | cpy (f : Fields)
  | cpyt (f : Fields)
  | cwait (f : Fields)
  | ctest (f : Fields)
  | xform (f : Fields)
  | seal (f : Fields)
  | coll (f : Fields)
  | xsend (f : Fields)
  | wload (f : Fields)
  | balloc (f : Fields)
  | bfree (f : Fields)
  | bcfg (f : Fields)
  | bmac (f : Fields)
  | bmacs (f : Fields)
  | bdrain (f : Fields)
  | bclr (f : Fields)
  | bfeed (f : Fields)
  | bstat (f : Fields)
  | qcfg (f : Fields)
  | qlen (f : Fields)
  | qdrain (f : Fields)
  | tret (f : Fields)
  | tretSkip (f : Fields)
  | svcTransfer (f : Fields)
  | svcIcflush (f : Fields)
  | tlbinv (f : Fields)
  | cflushI (f : Fields)
  | cflushC (f : Fields)
  | cflushWb (f : Fields)
  | idle (f : Fields)
  | bremap (f : Fields)
  | btest (f : Fields)
  | sleepExpiry (g : GRef) (lane : Lane)
  | vgrowGrant (die : DieId) (core : CoreId)
  | fenceComplete (g : GRef)
  | sstepComplete (asid : Nat) (grid : DWord)
  | pksendAccepted (g : GRef)
  | loadDataReturn (g : GRef) (id : Nat)
  | atomicCompletion (g : GRef) (id : Nat)
  | cpyComplete (die : DieId) (id : Nat) (abort : Option Abort)
  | cpytCopyComplete (die : DieId) (id : Nat) (abort : Option Abort)
  | xformComplete (die : DieId) (id : Nat) (abort : Option Abort)
  | sealComplete (die : DieId) (id : Nat) (abort : Option Abort)
  | collComplete (id : Nat) (part : CollPart)
  | wloadComplete (die : DieId) (id : Nat) (abort : Option Abort)
  | declaredInputComplete (die : DieId) (id : Nat) (abort : Option Abort)
  | bmacAccepted (g : GRef)
  | bankOperationStart (die : DieId) (core : CoreId) (id : Nat) (residue : Option (Fin 64))
  | bankOperationEnd (die : DieId) (core : CoreId) (id : Nat)
  | bdrainComplete (g : GRef) (id : Nat)
  | feedRowAccepted (g : GRef)
  | trapEntry (g : GRef)
  | dispatcherRestart (die : DieId)
  | dieEvent (die : DieId)
  | allocatorPlacement (die : DieId)
  | packingUnitForm (die : DieId) (core : CoreId) (label : DWord)
  | reorderRegroup (die : DieId) (core : CoreId) (team : Nat)
  | gateTick (die : DieId) (core : CoreId)
  | groupDormant (g : GRef)
  | admissionEpochEnd (die : DieId) (core : CoreId)
  | leaseWindowEnd (g : GRef)
  | priorityPromotion (g : GRef)
  | swapOutForProgress (die : DieId) (core : CoreId)
  | packetArrival (die : DieId) (index : Nat)
  | mailboxSlotWrite (qp : Nat) (window : SlotWindow) (offset : Nat) (imm : Option Word) (data : List Byte)
  | rdmaWrite (qp : Nat) (head : WriteHead) (va : DWord) (data : List Byte)
  | rdmaRead (qp : Nat) (rkey : Word) (va : DWord) (len : Nat)
  | inboundSend (qp : Nat) (response : NvmResponse)
  | inboundAtomic (qp : Nat)
  | cnpReceived (qp : Nat)
  | transferComplete (die : DieId) (id : Nat)
  | launchCmd (qp : Nat) (cmd : BitVec 512)
  | launchComplete (asid : Nat) (grid : DWord)
  | install (qp : Nat) (cmd : BitVec 512)
  | dispatcherReplace (die : DieId)
  | uninstall (qp : Nat) (cmd : BitVec 512)
  | fence (qp : Nat) (cmd : BitVec 512)
  | space (qp : Nat) (cmd : BitVec 512)
  | badCommand (qp : Nat) (cmd : BitVec 512)
  | completionRecordPost (qp : Nat)
  | nomadWindowEnd
  | add (value : DWord)
  | drop (value : DWord)
  | ncmdNoop (value : DWord)
  | prepareComplete (abort : Option Abort)
  | verifyComplete
  | commit (die : DieId)
  | drainLatch
  | retire
  | departingEntryRemoval
  | haltSave (value : DWord)
  | resume (value : DWord)
  | pctlNoop (value : DWord)
  | teamSave (die : DieId) (team : Nat)
  | teamRestore (die : DieId) (team : Nat)
  | pageRange (value : BitVec 128)
  | wholeAsid (value : BitVec 128)
  | allAsids (value : BitVec 128)
  | xinvNoop (value : BitVec 128)
  | xinvComplete
  | pageWalkComplete (die : DieId) (core : Option CoreId) (asid : Nat) (va : DWord)
  | cschedWrite (die : DieId) (core : CoreId) (value : Word)
  | bootok
  | forcemin
  | svnminWrite (value : Word)
  | registerWrite (reg : RegName) (value : DWord)
  | densityWindowEnd (die : DieId)
  | telemetrySample
  | thermalTrip (source : Fin 41) (hbm : Bool)
  | eccUncorrectable (place : EccPlace)
  | flitReceive (die : DieId) (mdl : Fin 4) (flit : BitVec 2048)
  | trainingComplete (die : DieId) (mdl : Fin 4) (failed : List (Fin 64)) (ok : Bool)
  | reset
  | stageHandoff (hbmTrained : Bool) (diesUp : BitVec 32)
  | watchdog
  | imageWrite (slotB : Bool) (runtime : Bool) (image : List Byte)
  | getVersion
  | getCapabilities
  | negotiateAlgorithms
  | getDigests
  | getCertificate
  | challenge (nonce : BitVec 256)
  | getMeasurements (nonce : BitVec 256) (signed : Bool)
  | unsupportedRequest (code : Byte)
  | xsendComplete (die : DieId) (id : Nat) (abort : Option Abort)
  | eccCorrected (source : Fin 41) (addr : DWord)
  | queuePairCreate (qp : QueuePairSpec)
  | queuePairDestroy (qp : Nat)
  | rdmaResponse (id : Nat) (nak : Bool) (data : List Byte)
  | peerTimeout (id : Nat)
  | yieldExpiry (g : GRef)
  deriving DecidableEq, Repr

/-- The rows that have an encoding, without their fields. -/
inductive Op
  | iadd | isub | imul | imulh | imad | imadw | imin | imax | iabs | iaddx | idot4 | idot2
  | lea | icmp | isel | iclamp | and | or | xor | andn | not | shl | shr | sar
  | shf | bfext | bfins | popc | clz | ctz | brev | prmt | fadd | fsub | fmul | ffma
  | fmin | fmax | fcmp | fclass | frnd | fscale | hfma2 | hadd2 | hmul2 | fdot2 | frcp | frsq
  | fsqrt | fexp2 | flog2 | fsin | fcos | ftanh | fdiv | mov | movi | movs | cvt | cvtq
  | pack | unpack | mxq | mxdq | rdsr | wrsr | pop | pmov | pmovSet | vote | ballot | matchLanes
  | shfl | nbr | redx | scan | segred | segscan | bra | brx | call | callInd | ret | exit
  | tkopen | tkjoin | tkleave | yield | nop | trap | sleep | brkpt | vgrow | vshrink | barSync | barArrive
  | barWait | barTest | barPhase | barSyncOne | barArriveOne | barinit | barexp | fenceAr | fenceSc | sstep | spawn | launch
  | reorder | pksend | pkrecv | pkpoll | route | gang | gangRd | lease | ld | st | ldx | stx
  | lds | sts | ldc | pf | ldt | stt | tmovRd | tmovWr | tmovC8 | tmovC16 | tmovC32 | tmovC4
  | tmovWc32 | tmovWc8 | atom | atomcas | red | atoms | atomf | cpy | cpyt | cwait | ctest | xform
  | seal | coll | xsend | wload | balloc | bfree | bcfg | bmac | bmacs | bdrain | bclr | bfeed
  | bstat | qcfg | qlen | qdrain | tret | tretSkip | svcTransfer | svcIcflush | tlbinv | cflushI | cflushC | cflushWb
  | idle | bremap | btest
  deriving DecidableEq, Repr

/-- The instruction of a row with an encoding. -/
def Instr.ofOp (op : Op) (f : Fields) : Instr :=
  match op with
  | .iadd => .iadd f
  | .isub => .isub f
  | .imul => .imul f
  | .imulh => .imulh f
  | .imad => .imad f
  | .imadw => .imadw f
  | .imin => .imin f
  | .imax => .imax f
  | .iabs => .iabs f
  | .iaddx => .iaddx f
  | .idot4 => .idot4 f
  | .idot2 => .idot2 f
  | .lea => .lea f
  | .icmp => .icmp f
  | .isel => .isel f
  | .iclamp => .iclamp f
  | .and => .and f
  | .or => .or f
  | .xor => .xor f
  | .andn => .andn f
  | .not => .not f
  | .shl => .shl f
  | .shr => .shr f
  | .sar => .sar f
  | .shf => .shf f
  | .bfext => .bfext f
  | .bfins => .bfins f
  | .popc => .popc f
  | .clz => .clz f
  | .ctz => .ctz f
  | .brev => .brev f
  | .prmt => .prmt f
  | .fadd => .fadd f
  | .fsub => .fsub f
  | .fmul => .fmul f
  | .ffma => .ffma f
  | .fmin => .fmin f
  | .fmax => .fmax f
  | .fcmp => .fcmp f
  | .fclass => .fclass f
  | .frnd => .frnd f
  | .fscale => .fscale f
  | .hfma2 => .hfma2 f
  | .hadd2 => .hadd2 f
  | .hmul2 => .hmul2 f
  | .fdot2 => .fdot2 f
  | .frcp => .frcp f
  | .frsq => .frsq f
  | .fsqrt => .fsqrt f
  | .fexp2 => .fexp2 f
  | .flog2 => .flog2 f
  | .fsin => .fsin f
  | .fcos => .fcos f
  | .ftanh => .ftanh f
  | .fdiv => .fdiv f
  | .mov => .mov f
  | .movi => .movi f
  | .movs => .movs f
  | .cvt => .cvt f
  | .cvtq => .cvtq f
  | .pack => .pack f
  | .unpack => .unpack f
  | .mxq => .mxq f
  | .mxdq => .mxdq f
  | .rdsr => .rdsr f
  | .wrsr => .wrsr f
  | .pop => .pop f
  | .pmov => .pmov f
  | .pmovSet => .pmovSet f
  | .vote => .vote f
  | .ballot => .ballot f
  | .matchLanes => .matchLanes f
  | .shfl => .shfl f
  | .nbr => .nbr f
  | .redx => .redx f
  | .scan => .scan f
  | .segred => .segred f
  | .segscan => .segscan f
  | .bra => .bra f
  | .brx => .brx f
  | .call => .call f
  | .callInd => .callInd f
  | .ret => .ret f
  | .exit => .exit f
  | .tkopen => .tkopen f
  | .tkjoin => .tkjoin f
  | .tkleave => .tkleave f
  | .yield => .yield f
  | .nop => .nop f
  | .trap => .trap f
  | .sleep => .sleep f
  | .brkpt => .brkpt f
  | .vgrow => .vgrow f
  | .vshrink => .vshrink f
  | .barSync => .barSync f
  | .barArrive => .barArrive f
  | .barWait => .barWait f
  | .barTest => .barTest f
  | .barPhase => .barPhase f
  | .barSyncOne => .barSyncOne f
  | .barArriveOne => .barArriveOne f
  | .barinit => .barinit f
  | .barexp => .barexp f
  | .fenceAr => .fenceAr f
  | .fenceSc => .fenceSc f
  | .sstep => .sstep f
  | .spawn => .spawn f
  | .launch => .launch f
  | .reorder => .reorder f
  | .pksend => .pksend f
  | .pkrecv => .pkrecv f
  | .pkpoll => .pkpoll f
  | .route => .route f
  | .gang => .gang f
  | .gangRd => .gangRd f
  | .lease => .lease f
  | .ld => .ld f
  | .st => .st f
  | .ldx => .ldx f
  | .stx => .stx f
  | .lds => .lds f
  | .sts => .sts f
  | .ldc => .ldc f
  | .pf => .pf f
  | .ldt => .ldt f
  | .stt => .stt f
  | .tmovRd => .tmovRd f
  | .tmovWr => .tmovWr f
  | .tmovC8 => .tmovC8 f
  | .tmovC16 => .tmovC16 f
  | .tmovC32 => .tmovC32 f
  | .tmovC4 => .tmovC4 f
  | .tmovWc32 => .tmovWc32 f
  | .tmovWc8 => .tmovWc8 f
  | .atom => .atom f
  | .atomcas => .atomcas f
  | .red => .red f
  | .atoms => .atoms f
  | .atomf => .atomf f
  | .cpy => .cpy f
  | .cpyt => .cpyt f
  | .cwait => .cwait f
  | .ctest => .ctest f
  | .xform => .xform f
  | .seal => .seal f
  | .coll => .coll f
  | .xsend => .xsend f
  | .wload => .wload f
  | .balloc => .balloc f
  | .bfree => .bfree f
  | .bcfg => .bcfg f
  | .bmac => .bmac f
  | .bmacs => .bmacs f
  | .bdrain => .bdrain f
  | .bclr => .bclr f
  | .bfeed => .bfeed f
  | .bstat => .bstat f
  | .qcfg => .qcfg f
  | .qlen => .qlen f
  | .qdrain => .qdrain f
  | .tret => .tret f
  | .tretSkip => .tretSkip f
  | .svcTransfer => .svcTransfer f
  | .svcIcflush => .svcIcflush f
  | .tlbinv => .tlbinv f
  | .cflushI => .cflushI f
  | .cflushC => .cflushC f
  | .cflushWb => .cflushWb f
  | .idle => .idle f
  | .bremap => .bremap f
  | .btest => .btest f

/-- The row and the fields of an instruction word; an event has none. -/
def Instr.word? (i : Instr) : Option (Op × Fields) :=
  match i with
  | .iadd f => some (.iadd, f)
  | .isub f => some (.isub, f)
  | .imul f => some (.imul, f)
  | .imulh f => some (.imulh, f)
  | .imad f => some (.imad, f)
  | .imadw f => some (.imadw, f)
  | .imin f => some (.imin, f)
  | .imax f => some (.imax, f)
  | .iabs f => some (.iabs, f)
  | .iaddx f => some (.iaddx, f)
  | .idot4 f => some (.idot4, f)
  | .idot2 f => some (.idot2, f)
  | .lea f => some (.lea, f)
  | .icmp f => some (.icmp, f)
  | .isel f => some (.isel, f)
  | .iclamp f => some (.iclamp, f)
  | .and f => some (.and, f)
  | .or f => some (.or, f)
  | .xor f => some (.xor, f)
  | .andn f => some (.andn, f)
  | .not f => some (.not, f)
  | .shl f => some (.shl, f)
  | .shr f => some (.shr, f)
  | .sar f => some (.sar, f)
  | .shf f => some (.shf, f)
  | .bfext f => some (.bfext, f)
  | .bfins f => some (.bfins, f)
  | .popc f => some (.popc, f)
  | .clz f => some (.clz, f)
  | .ctz f => some (.ctz, f)
  | .brev f => some (.brev, f)
  | .prmt f => some (.prmt, f)
  | .fadd f => some (.fadd, f)
  | .fsub f => some (.fsub, f)
  | .fmul f => some (.fmul, f)
  | .ffma f => some (.ffma, f)
  | .fmin f => some (.fmin, f)
  | .fmax f => some (.fmax, f)
  | .fcmp f => some (.fcmp, f)
  | .fclass f => some (.fclass, f)
  | .frnd f => some (.frnd, f)
  | .fscale f => some (.fscale, f)
  | .hfma2 f => some (.hfma2, f)
  | .hadd2 f => some (.hadd2, f)
  | .hmul2 f => some (.hmul2, f)
  | .fdot2 f => some (.fdot2, f)
  | .frcp f => some (.frcp, f)
  | .frsq f => some (.frsq, f)
  | .fsqrt f => some (.fsqrt, f)
  | .fexp2 f => some (.fexp2, f)
  | .flog2 f => some (.flog2, f)
  | .fsin f => some (.fsin, f)
  | .fcos f => some (.fcos, f)
  | .ftanh f => some (.ftanh, f)
  | .fdiv f => some (.fdiv, f)
  | .mov f => some (.mov, f)
  | .movi f => some (.movi, f)
  | .movs f => some (.movs, f)
  | .cvt f => some (.cvt, f)
  | .cvtq f => some (.cvtq, f)
  | .pack f => some (.pack, f)
  | .unpack f => some (.unpack, f)
  | .mxq f => some (.mxq, f)
  | .mxdq f => some (.mxdq, f)
  | .rdsr f => some (.rdsr, f)
  | .wrsr f => some (.wrsr, f)
  | .pop f => some (.pop, f)
  | .pmov f => some (.pmov, f)
  | .pmovSet f => some (.pmovSet, f)
  | .vote f => some (.vote, f)
  | .ballot f => some (.ballot, f)
  | .matchLanes f => some (.matchLanes, f)
  | .shfl f => some (.shfl, f)
  | .nbr f => some (.nbr, f)
  | .redx f => some (.redx, f)
  | .scan f => some (.scan, f)
  | .segred f => some (.segred, f)
  | .segscan f => some (.segscan, f)
  | .bra f => some (.bra, f)
  | .brx f => some (.brx, f)
  | .call f => some (.call, f)
  | .callInd f => some (.callInd, f)
  | .ret f => some (.ret, f)
  | .exit f => some (.exit, f)
  | .tkopen f => some (.tkopen, f)
  | .tkjoin f => some (.tkjoin, f)
  | .tkleave f => some (.tkleave, f)
  | .yield f => some (.yield, f)
  | .nop f => some (.nop, f)
  | .trap f => some (.trap, f)
  | .sleep f => some (.sleep, f)
  | .brkpt f => some (.brkpt, f)
  | .vgrow f => some (.vgrow, f)
  | .vshrink f => some (.vshrink, f)
  | .barSync f => some (.barSync, f)
  | .barArrive f => some (.barArrive, f)
  | .barWait f => some (.barWait, f)
  | .barTest f => some (.barTest, f)
  | .barPhase f => some (.barPhase, f)
  | .barSyncOne f => some (.barSyncOne, f)
  | .barArriveOne f => some (.barArriveOne, f)
  | .barinit f => some (.barinit, f)
  | .barexp f => some (.barexp, f)
  | .fenceAr f => some (.fenceAr, f)
  | .fenceSc f => some (.fenceSc, f)
  | .sstep f => some (.sstep, f)
  | .spawn f => some (.spawn, f)
  | .launch f => some (.launch, f)
  | .reorder f => some (.reorder, f)
  | .pksend f => some (.pksend, f)
  | .pkrecv f => some (.pkrecv, f)
  | .pkpoll f => some (.pkpoll, f)
  | .route f => some (.route, f)
  | .gang f => some (.gang, f)
  | .gangRd f => some (.gangRd, f)
  | .lease f => some (.lease, f)
  | .ld f => some (.ld, f)
  | .st f => some (.st, f)
  | .ldx f => some (.ldx, f)
  | .stx f => some (.stx, f)
  | .lds f => some (.lds, f)
  | .sts f => some (.sts, f)
  | .ldc f => some (.ldc, f)
  | .pf f => some (.pf, f)
  | .ldt f => some (.ldt, f)
  | .stt f => some (.stt, f)
  | .tmovRd f => some (.tmovRd, f)
  | .tmovWr f => some (.tmovWr, f)
  | .tmovC8 f => some (.tmovC8, f)
  | .tmovC16 f => some (.tmovC16, f)
  | .tmovC32 f => some (.tmovC32, f)
  | .tmovC4 f => some (.tmovC4, f)
  | .tmovWc32 f => some (.tmovWc32, f)
  | .tmovWc8 f => some (.tmovWc8, f)
  | .atom f => some (.atom, f)
  | .atomcas f => some (.atomcas, f)
  | .red f => some (.red, f)
  | .atoms f => some (.atoms, f)
  | .atomf f => some (.atomf, f)
  | .cpy f => some (.cpy, f)
  | .cpyt f => some (.cpyt, f)
  | .cwait f => some (.cwait, f)
  | .ctest f => some (.ctest, f)
  | .xform f => some (.xform, f)
  | .seal f => some (.seal, f)
  | .coll f => some (.coll, f)
  | .xsend f => some (.xsend, f)
  | .wload f => some (.wload, f)
  | .balloc f => some (.balloc, f)
  | .bfree f => some (.bfree, f)
  | .bcfg f => some (.bcfg, f)
  | .bmac f => some (.bmac, f)
  | .bmacs f => some (.bmacs, f)
  | .bdrain f => some (.bdrain, f)
  | .bclr f => some (.bclr, f)
  | .bfeed f => some (.bfeed, f)
  | .bstat f => some (.bstat, f)
  | .qcfg f => some (.qcfg, f)
  | .qlen f => some (.qlen, f)
  | .qdrain f => some (.qdrain, f)
  | .tret f => some (.tret, f)
  | .tretSkip f => some (.tretSkip, f)
  | .svcTransfer f => some (.svcTransfer, f)
  | .svcIcflush f => some (.svcIcflush, f)
  | .tlbinv f => some (.tlbinv, f)
  | .cflushI f => some (.cflushI, f)
  | .cflushC f => some (.cflushC, f)
  | .cflushWb f => some (.cflushWb, f)
  | .idle f => some (.idle, f)
  | .bremap f => some (.bremap, f)
  | .btest f => some (.btest, f)
  | _ => Option.none

/-- Part 0 of the rows with an encoding. -/
def Op.part0 : List Op :=
  [Op.iadd, Op.isub, Op.imul, Op.imulh, Op.imad, Op.imadw, Op.imin, Op.imax, Op.iabs, Op.iaddx, Op.idot4, Op.idot2, Op.lea, Op.icmp, Op.isel, Op.iclamp]

/-- Part 1 of the rows with an encoding. -/
def Op.part1 : List Op :=
  [Op.and, Op.or, Op.xor, Op.andn, Op.not, Op.shl, Op.shr, Op.sar, Op.shf, Op.bfext, Op.bfins, Op.popc, Op.clz, Op.ctz, Op.brev, Op.prmt]

/-- Part 2 of the rows with an encoding. -/
def Op.part2 : List Op :=
  [Op.fadd, Op.fsub, Op.fmul, Op.ffma, Op.fmin, Op.fmax, Op.fcmp, Op.fclass, Op.frnd, Op.fscale, Op.hfma2, Op.hadd2, Op.hmul2, Op.fdot2, Op.frcp, Op.frsq]

/-- Part 3 of the rows with an encoding. -/
def Op.part3 : List Op :=
  [Op.fsqrt, Op.fexp2, Op.flog2, Op.fsin, Op.fcos, Op.ftanh, Op.fdiv, Op.mov, Op.movi, Op.movs, Op.cvt, Op.cvtq, Op.pack, Op.unpack, Op.mxq, Op.mxdq]

/-- Part 4 of the rows with an encoding. -/
def Op.part4 : List Op :=
  [Op.rdsr, Op.wrsr, Op.pop, Op.pmov, Op.pmovSet, Op.vote, Op.ballot, Op.matchLanes, Op.shfl, Op.nbr, Op.redx, Op.scan, Op.segred, Op.segscan, Op.bra, Op.brx]

/-- Part 5 of the rows with an encoding. -/
def Op.part5 : List Op :=
  [Op.call, Op.callInd, Op.ret, Op.exit, Op.tkopen, Op.tkjoin, Op.tkleave, Op.yield, Op.nop, Op.trap, Op.sleep, Op.brkpt, Op.vgrow, Op.vshrink, Op.barSync, Op.barArrive]

/-- Part 6 of the rows with an encoding. -/
def Op.part6 : List Op :=
  [Op.barWait, Op.barTest, Op.barPhase, Op.barSyncOne, Op.barArriveOne, Op.barinit, Op.barexp, Op.fenceAr, Op.fenceSc, Op.sstep, Op.spawn, Op.launch, Op.reorder, Op.pksend, Op.pkrecv, Op.pkpoll]

/-- Part 7 of the rows with an encoding. -/
def Op.part7 : List Op :=
  [Op.route, Op.gang, Op.gangRd, Op.lease, Op.ld, Op.st, Op.ldx, Op.stx, Op.lds, Op.sts, Op.ldc, Op.pf, Op.ldt, Op.stt, Op.tmovRd, Op.tmovWr]

/-- Part 8 of the rows with an encoding. -/
def Op.part8 : List Op :=
  [Op.tmovC8, Op.tmovC16, Op.tmovC32, Op.tmovC4, Op.tmovWc32, Op.tmovWc8, Op.atom, Op.atomcas, Op.red, Op.atoms, Op.atomf, Op.cpy, Op.cpyt, Op.cwait, Op.ctest, Op.xform]

/-- Part 9 of the rows with an encoding. -/
def Op.part9 : List Op :=
  [Op.seal, Op.coll, Op.xsend, Op.wload, Op.balloc, Op.bfree, Op.bcfg, Op.bmac, Op.bmacs, Op.bdrain, Op.bclr, Op.bfeed, Op.bstat, Op.qcfg, Op.qlen, Op.qdrain]

/-- Part 10 of the rows with an encoding. -/
def Op.part10 : List Op :=
  [Op.tret, Op.tretSkip, Op.svcTransfer, Op.svcIcflush, Op.tlbinv, Op.cflushI, Op.cflushC, Op.cflushWb, Op.idle, Op.bremap, Op.btest]

/-- Every row with an encoding, in the order of the opcode map. -/
def Op.all : List Op :=
  List.flatten [Op.part0, Op.part1, Op.part2, Op.part3, Op.part4, Op.part5, Op.part6, Op.part7, Op.part8, Op.part9, Op.part10]

end Sys2Proof
end

