-- ==== Sys2Proof/Machine/State.lean ====
section
/-! DEFINITION. The state of the device as plain data: lanes, groups, teams, banks, cores, Erg dies, and the Oasis side; the
reasons a step can stop; and the state after reset (spec 01 to 21; INVENTORY.md lists each field with its rule). -/

namespace Sys2Proof.Machine

/-- Memory by address: pairs of address and byte in rising order of address, no address twice. -/
abbrev Cells := List (Nat × Byte)

/-- The modes of a group (R345). -/
inductive Mode
  | user | trap | firmware
  deriving DecidableEq, Repr

/-- The roles of a group (R12, R14). -/
inductive Role
  | consumer | producer | dispatcher
  deriving DecidableEq, Repr

/-- What one lane position is doing (R8, R30): a candidate, exited, parked in a token, waiting at a group-wide operation, or
held at a barrier register, a copy tag, a sleep, a superstep or the rendezvous latch. -/
inductive LaneStatus
  | run
  | exited
  | parked (k : Fin 8)
  | waiting
  | barHold (b : Fin 16) (phase : BitVec 16)
  | tagHold (t : Fin 8) (k : Word)
  | asleep (wake : Nat)
  | sstepHold
  | gangHold
  deriving DecidableEq, Repr

/-- A slot of the result window (R78, R79): no result, a result in flight, or 64 bits a lane. -/
inductive WinSlot
  | noResult
  | pending
  | value (x : Lanes DWord)
  deriving DecidableEq, Repr

/-- One entry of the window, named by the issue that filled it. -/
structure WinEntry where
  seq : Nat
  slot : WinSlot
  deriving DecidableEq, Repr

/-- A token entry (R32). -/
structure Token where
  mask : Mask
  joinPc : DWord
  seq : Nat
  deriving DecidableEq, Repr

/-- A queue (R80, R274): its depth, 0 when unconfigured, its entries, oldest first, and the place of the entry that a held instruction
has allocated and not yet filled (R296). -/
structure Queue where
  depth : Nat
  items : List (Lanes Word)
  claim : Option Nat
  deriving DecidableEq, Repr

/-- A group-wide operation that waits for its named lanes (R37, R191): sources are read at each lane's arrival. -/
structure GroupWide where
  pc : DWord
  mask : Mask
  arrived : Mask
  contrib : Mask
  srcA : Lanes DWord
  srcB : Lanes Word
  deriving DecidableEq, Repr

/-- What a trap reports (Table K-70), the length of the trapping instruction for `tret.skip` (R348), and the address space of TRADDR where
that is not the team's own (R320). -/
structure TrapInfo where
  cause : Byte
  detail : Byte
  pc : DWord
  len : Nat
  mask : Mask
  addr : DWord
  info : Word
  space : Option (BitVec 12)
  deriving DecidableEq, Repr

/-- A trap or firmware entry that has not returned (R347): the mode it runs in, its information and the saved window. -/
structure TrapCtx where
  mode : Mode
  info : TrapInfo
  window : List WinEntry
  deriving DecidableEq, Repr

/-- A drain in flight (R271): the accumulator row, its SUB bits, the tile quarter, and the drain string once the row has been read. -/
structure DrainSpec where
  bank : Fin 64
  row : Fin 8
  sub : BitVec 3
  quarter : Nat
  read : Option (List Byte)
  deriving DecidableEq, Repr

/-- A place that a load reads: its lane, or its row for a tile, its address, the physical byte, and CACHE of its page (Table D-9). -/
structure ReadPlace where
  lane : Lane
  va : DWord
  pa : Nat
  cache : BitVec 2
  deriving DecidableEq, Repr

/-- What a load reads (R226, R230): bytes for each place, SUB and the hint, whether it bypasses L1, and whether it fills a tile. -/
structure LoadSpec where
  size : Nat
  sub : BitVec 3
  hint : BitVec 2
  bypass : Bool
  tile : Bool
  places : List ReadPlace
  deriving DecidableEq, Repr

/-- An instruction whose result is in flight: a load, an atomic or a drain (R226, R388, R271); late is what a load has yet to read
(R109). -/
structure Flight where
  id : Nat
  atomic : Bool
  pc : DWord
  len : Nat
  dst : Operand
  words : Nat
  mask : Mask
  poisoned : Mask
  addr : DWord
  vals : Lanes (BitVec 128)
  tileBytes : List (BitVec 128)
  drain : Option DrainSpec
  late : Option LoadSpec
  seq : Nat
  deriving DecidableEq, Repr

/-- One activation row (R258): its bytes and its eight scale bytes. -/
structure ActRow where
  bytes : List Byte
  scales : List Byte
  deriving DecidableEq, Repr

/-- A state-table entry (Table K-64). -/
structure Entry where
  i8 : Bool
  accBank : Fin 64
  chain : List (Fin 64)
  bitmaps : List Word
  deriving DecidableEq, Repr

/-- One contributing member of an operation: its target row and the rows its chain banks take (R260, R261). -/
structure Member where
  row : Fin 8
  acts : List ActRow
  deriving DecidableEq, Repr

/-- An accepted bank operation (R261). -/
structure BankOp where
  entry : Entry
  sparse : Bool
  members : List Member
  team : Nat
  deriving DecidableEq, Repr

/-- Why a group is held as a whole (R31, R69): `pop` is a group-wide operation that waits for a queue (R191), `octet` names the octet that a
`bfree` or a `balloc` waits for, `busy` is an operation on such an octet, with its place among those and its octets (R89; log 97), `launch` a
`launch` with its place among those that wait for room (R24), `wload` a `wload` that Caravan's queue has no room for, by its number in bank
order (R235, R265), `bank` a multiply that waits for the sequencer, by its number there, and `builtin` the default dispatcher, whose program
is firmware's own (R16). -/
inductive Hold
  | queue | pop | spawn | gang | engine | tag | drains | service | xinv | packet | idle | builtin
  | launch (n : Nat)
  | busy (n : Nat) (os : List (Fin 8))
  | wload (id : Nat)
  | octet (o : Fin 8)
  | vgrow (n : Nat)
  | fence (scope : Nat) (sc : Bool)
  | pksend (todo : List (Lane × DieId × BitVec 512)) (absent members : Mask) (f : Fields)
  | feed (todo : List (Fin 8)) (row : ActRow)
  | bank (id : Nat) (consume : Bool)
  deriving DecidableEq, Repr

/-- The lease of a group and its measurement (R56, R57, R64). -/
structure Lease where
  measured : Bool
  units : Nat
  lost : Word
  accesses : Nat
  lines : List Nat
  windowLost : Nat
  deriving DecidableEq, Repr

/-- What the gate and issue selection remember of a group (R44, R61, R62, R66, R201). -/
structure Sched where
  active : Bool
  activeSince : Nat
  dormant : Bool
  eligibleSince : Nat
  lastIssue : Nat
  notBefore : Nat
  promoted : Bool
  yieldAt : Option Nat
  yieldFor : List SlotId
  deriving DecidableEq, Repr

/-- A group: its lanes' registers and its own (Table K-1, Table K-11). -/
structure Group where
  team : Nat
  gix : Fin 32
  role : Role
  ended : Bool
  pcs : Lanes DWord
  status : Lanes LaneStatus
  v : Vector (Lanes Word) 256
  o : Vector (Lanes Word) 8
  p : Lanes Byte
  fpstat : Lanes (BitVec 5)
  u : Vector Word 1024
  window : List WinEntry
  issues : Nat
  queues : Vector Queue 16
  tiles : Vector (Vector Byte 1024) 16
  tokens : Vector (Option Token) 8
  tokenSeq : Nat
  tags : Vector Nat 8
  cterr : Vector Word 8
  budget : Nat
  lease : Lease
  sched : Sched
  hold : Option Hold
  heldRun : Mask
  heldNext : DWord
  gw : List GroupWide
  base : Mode
  traps : List TrapCtx
  pendingTrap : Option TrapInfo
  pendingSeq : Nat
  flights : List Flight
  deriving DecidableEq, Repr

/-- The team descriptor (Table K-4). -/
structure Descriptor where
  code : DWord
  args : DWord
  nprod : Nat
  ncons : Nat
  vgranP : Nat
  vgranC : Nat
  sgran : Nat
  tilePairs : Nat
  octets : Nat
  storOct : Nat
  barriers : Nat
  prio : Fin 4
  halo : Bool
  fptrap : Bool
  lease : Nat
  inputs : List (DWord × Nat × Nat)
  deriving DecidableEq, Repr

/-- A barrier register (R205). -/
structure Barrier where
  expect : Nat
  count : Nat
  phase : BitVec 16
  pend : Nat
  deriving DecidableEq, Repr

/-- One arrival at the rendezvous latch (R264): the group, the slot value, the target bank and row, and the PC after the
instruction. -/
structure GangArrival where
  slot : SlotId
  gix : Nat
  withRow : Bool
  table : Nat
  bank : Nat
  row : Fin 8
  reuse : Bool
  next : DWord
  deriving DecidableEq, Repr

/-- The rendezvous latch of a team, and the operation that waits for room once every group has arrived, by its number in bank order
(R264). -/
structure Latch where
  pc : DWord
  arrivals : List GangArrival
  pending : Option Nat
  deriving DecidableEq, Repr

/-- One deposit of `reorder` (R27). -/
structure Deposit where
  key : Word
  payload : List Word
  deriving DecidableEq, Repr

/-- A grid: its identifier in its address space (R390). -/
structure GridKey where
  asid : BitVec 12
  grid : DWord
  deriving DecidableEq, Repr

/-- A team (R9) as spawned, packed or resident. -/
structure Team where
  uid : Nat
  asid : BitVec 12
  desc : Descriptor
  descAddr : DWord
  grid : DWord
  teamIx : Word
  nteam : Word
  age : Nat
  inRange : Bool
  packed : Bool
  dispatcher : Bool
  items : List (DWord × List Word)
  slots : List SlotId
  landed : Bool
  barriers : Vector Barrier 16
  berr : Vector Word 16
  gang : Mask
  latch : Option Latch
  reserved : List (Fin 8)
  position : Vector (Option (Fin 8)) 8
  label : Option DWord
  deposits : List Deposit
  homeCore : Option CoreId
  chainLen : Nat
  originAge : Nat
  deriving DecidableEq, Repr

/-- Storage or compute mode of an allocated octet (R85). -/
inductive OctMode
  | storage | compute
  deriving DecidableEq, Repr

/-- A row in an octet's feed with the group slot that pushed it (R258). -/
structure FeedRow where
  slot : SlotId
  row : ActRow
  deriving DecidableEq, Repr

/-- An octet of a core: the team that has allocated it, its mode and its feed. -/
structure Octet where
  owner : Option Nat
  mode : OctMode
  feed : List FeedRow
  deriving DecidableEq, Repr

/-- A column remap entry (R360). -/
structure Remap where
  column : BitVec 9
  spare : BitVec 3
  deriving DecidableEq, Repr

/-- A bank: storage words or image, accumulators, counters, remap and error state; reloadBad says that its reload at a restore
failed (R83, R91, R267, R269, R273, R333, R360). -/
structure Bank where
  mem : Cells
  poison : List Nat
  acc : Vector (Vector Word 128) 8
  accPoison : Vector (Option Byte) 8
  source : Option (BitVec 12 × DWord)
  quarantined : Bool
  failed : Bool
  remap : List Remap
  badColumns : List Nat
  idle : Vector Word 4
  busy : Word
  lim : Word
  skip : Word
  lastI8 : Bool
  reloadBad : Bool
  deriving DecidableEq, Repr

/-- A state-table slot (R255). -/
structure TableSlot where
  entry : Option Entry
  poison : Bool
  deriving DecidableEq, Repr

/-- What takes a place in bank order (R265); a mark is the poison that a metadata-poison fault gives to a team's rows (R268). -/
inductive SeqKind
  | mac (op : BankOp)
  | wload (bank : Fin 64)
  | drain (g : GRef) (bank : Fin 64) (row : Fin 8)
  | clr (bank : Fin 64) (rows : List (Fin 8))
  | mark (bank : Fin 64) (row : Fin 8)
  deriving DecidableEq, Repr

/-- Where a chain bank is in an operation (R263, R270): the blocks that it has passed, in accumulation order, the planes of the next one that
it has broadcast, and whether an idle cycle of the density limiter follows (R382). -/
structure BankRun where
  block : Nat
  plane : Nat
  idle : Bool
  deriving DecidableEq, Repr

/-- The terms of a block that a chain bank has computed (R134, R261): its member, its place in the chain and its K-block, a term for each
column, and the origin of a poison. -/
structure BlockTerms where
  member : Nat
  chain : Nat
  kb : Nat
  cols : Vector Word 128
  poison : Option Byte
  deriving DecidableEq, Repr

/-- How far an operation has come (R263, R270): whether its setup cycle is over, where its chain banks are, and the terms computed. -/
structure MacRun where
  setup : Bool
  banks : List BankRun
  terms : List BlockTerms
  deriving DecidableEq, Repr

/-- An item of a core's bank order, named by its engine or flight number: whether the sequencer has accepted it, whether it runs, and how far
it has come. -/
structure SeqItem where
  id : Nat
  accepted : Bool
  running : Bool
  run : MacRun
  kind : SeqKind
  deriving DecidableEq, Repr

/-- A child item (R24). -/
structure Child where
  label : DWord
  payload : List Word
  team : Nat
  asid : BitVec 12
  desc : Descriptor
  grid : DWord
  teamIx : Word
  nteam : Word
  since : Nat
  age : Nat
  deriving DecidableEq, Repr

/-- A line of L1 (R94 to R96): the scope recorded for it, whether it is kept, and the group that last accessed it, none once that group
has ended or was saved (R58). -/
structure L1Line where
  line : Nat
  scope : Nat
  keep : Bool
  owner : Option SlotId
  deriving DecidableEq, Repr

/-- A relaxed store to be performed (R94, R95, R106, R109): its group, its first byte and its bytes, whether it allocates in L1, and whether
its instruction covers its sector whole. -/
structure PendingStore where
  slot : SlotId
  pa : Nat
  bytes : List Byte
  alloc : Bool
  whole : Bool
  deriving DecidableEq, Repr

/-- A victim tag (R58); no owner once the owner's group has ended or was saved. -/
structure VictimTag where
  line : Nat
  owner : Option SlotId
  evictor : SlotId
  deriving DecidableEq, Repr

/-- A page's attributes (Table D-9). -/
structure Attrs where
  r : Bool
  w : Bool
  x : Bool
  cache : BitVec 2
  rv : Bool
  res : Bool
  tol : Bool
  sealed : Bool
  deriving DecidableEq, Repr

/-- A leaf as a walk finds it: the address of its entry, the first byte and the size of its own page, where that lies, the first byte and the
size of what its group maps (R328), and its attributes. -/
structure Leaf where
  entry : Nat
  va : Nat
  size : Nat
  pa : Nat
  groupVa : Nat
  groupSize : Nat
  attrs : Attrs
  deriving DecidableEq, Repr

/-- A TLB entry (R338): the page or group it maps. -/
structure TlbEntry where
  asid : BitVec 12
  va : Nat
  size : Nat
  pa : Nat
  attrs : Attrs
  deriving DecidableEq, Repr

/-- CSCHED, and the counts and the beginning of an epoch (R60, Table K-8); Feff in sixteenths above 0.5. -/
structure Admission where
  admitf : BitVec 5
  adapt : Bool
  feff : Nat
  contcnt : BitVec 16
  misses : Nat
  contentions : Nat
  epochAt : Nat
  deriving DecidableEq, Repr

/-- A core (R52, R94, R255). -/
structure Core where
  slots : Vector (Option Group) 32
  teams : List Team
  banks : Vector Bank 64
  octets : Vector Octet 8
  table : Vector TableSlot 32
  seq : List SeqItem
  children : List Child
  l1 : Cells
  l1Dirty : Cells
  l1Lines : List L1Line
  pending : List PendingStore
  victims : List VictimTag
  icache : Cells
  ccache : Cells
  tlb : List TlbEntry
  adm : Admission
  gateAt : Nat
  deriving DecidableEq, Repr

/-- What a seal's engine has behind it once it has read its region (R121, R122, R334): how many of the watched home writes, and the leaves that
it has sealed. -/
structure SealRead where
  mark : Nat
  leaves : List Leaf
  deriving DecidableEq, Repr

/-- The kinds of engine operations with what each one adds: whether a seal's region is sealed for its own group from the fork on, and what its
engine has read (R121, R122); the code of a collective whose result is performed (R249). -/
inductive EngKind
  | cpy (dir : BitVec 3)
  | cpyt (dir : BitVec 3)
  | wload (bank : Fin 64)
  | xform (op : BitVec 3) (rnd : BitVec 3) (p : Word)
  | seal (record : Option DWord) (own : Bool) (read : Option SealRead)
  | coll (kind : BitVec 3) (md : BitVec 5) (n : Word) (index : Nat) (done : Option Byte)
  | xsend (spad : Bool) (target : DieId) (interval : Nat)
  | input
  deriving DecidableEq, Repr

/-- The completion object of an engine operation (R115): for Nomad's copy, the operation of Nomad (R364). -/
inductive Completion
  | bar (b : Fin 16)
  | tag (t : Fin 8)
  | input
  | interval
  | nomad
  deriving DecidableEq, Repr

/-- An engine operation after its fork (R115, R235), with the bytes that its chunks have moved and the first error that they met (R72, R236,
R356). -/
structure EngineOp where
  id : Nat
  kind : EngKind
  completion : Completion
  asid : BitVec 12
  core : CoreId
  team : Nat
  slot : SlotId
  grid : DWord
  cls : BitVec 2
  src : DWord
  dst : DWord
  len : Nat
  sent : Nat
  code : Byte
  deriving DecidableEq, Repr

/-- Caravan's service of its four classes (R72): their deficits in bytes, the class that the pass visits next, and whether a round is
open. -/
structure Caravan where
  deficit : Vector Nat 4
  visit : Fin 4
  opened : Bool
  deriving DecidableEq, Repr

/-- A merge of an expert (R287, R288): the collective of a grid, its participants by the table of the first participant that issued, those that
have not completed it, and whether every completion so far was without an error. -/
structure MergeSet where
  key : GridKey
  index : Nat
  expert : Nat
  dies : List DieId
  waiting : List DieId
  good : Bool
  deriving DecidableEq, Repr

/-- Where a packet comes from (R18). -/
inductive Source
  | die (d : DieId)
  | distributor
  | host (qp : Nat)
  deriving DecidableEq, Repr

/-- A work packet in a mailbox unit (Table K-3, R320), with its host slot when it occupies one (R318). -/
structure Packet where
  bits : BitVec 512
  asid : BitVec 12
  src : Source
  slot : Option Nat
  deriving DecidableEq, Repr

/-- The installed dispatcher of a die (R14, R16, R212, R320, R323). -/
structure Dispatcher where
  user : Option (BitVec 12 × Descriptor)
  pending : List (Option (BitVec 12 × Descriptor))
  gridLo : Word
  gridHi : Word
  nteam : Word
  dieCnt : Word
  spasid : Option (BitVec 12)
  inHand : List Packet
  deriving DecidableEq, Repr

/-- A placement of an expert (R276). -/
structure Placement where
  die : DieId
  slot : Nat
  deriving DecidableEq, Repr

/-- A replica table: the placements of each expert that has any, primary first (R276, R277). -/
structure ReplicaTable where
  version : BitVec 16
  experts : List (Nat × List Placement)
  departing : List (Nat × Placement × Nat)
  deriving DecidableEq, Repr

/-- A saved team (R357): its context, the save cause and the image sources of its banks; where its record lies in physical memory, and how
long it is. -/
structure Saved where
  team : Team
  groups : List (SlotId × Group)
  banks : List (Fin 64 × Bank)
  octets : List (Fin 8 × Octet)
  table : List (Fin 32 × TableSlot)
  seq : List SeqItem
  core : CoreId
  swap : Bool
  addr : Nat
  bytes : Nat
  corrupt : Bool
  resume : Bool
  deriving DecidableEq, Repr

/-- A die-link module (R368 to R370): unacked is its replay buffer, backlog the traffic that waits for it, wire what it has transmitted and asks
the replays that it has requested, by SEQ. -/
structure Link where
  state : BitVec 2
  retrain : Byte
  rep : Vector (BitVec 6) 4
  crcErr : Word
  replay : Word
  nextSeq : BitVec 16
  replays : Nat
  failedTrainings : Nat
  sendSeq : BitVec 16
  unacked : List (BitVec 2048)
  backlog : List (BitVec 128 × BitVec 1792)
  wire : List (BitVec 2048)
  asks : List (BitVec 16)
  deriving DecidableEq, Repr

/-- Where a module's link ends (R368): at an Erg die, a Cistern die or the Oasis die. -/
inductive LinkEnd
  | erg (die : DieId)
  | cistern (n : Fin 8)
  | oasis
  deriving DecidableEq, Repr

/-- A module of an Erg die, or the module of the Oasis die to a Cistern die (R368). -/
inductive LinkAt
  | die (die : DieId) (mdl : Fin 4)
  | hub (n : Fin 8)
  deriving DecidableEq, Repr

/-- The activation-density limiter of a die (R382, Table F-3), with the beginning of its window and the number of the first array cycle that
its arrays have not had. -/
structure Limiter where
  limit : BitVec 13
  win : BitVec 3
  nextLimit : BitVec 13
  nextWin : BitVec 3
  since : Nat
  count : Nat
  engaged : Bool
  next : Nat
  deriving DecidableEq, Repr

/-- An Erg die; gone are the entries that left its TLBs unasked, whose frames it may still cache (R340). -/
structure Die where
  cores : Vector Core 48
  waitList : List Team
  saved : List Saved
  disp : Dispatcher
  box : List Packet
  transit : List Packet
  hostSlots : List Nat
  sentTo : Vector Nat 32
  launchSent : Nat
  replicas : ReplicaTable
  redir : Word
  dropped : Word
  l2 : Cells
  l2Lines : List Nat
  tlb : List TlbEntry
  gone : List TlbEntry
  engines : List EngineOp
  xerr : List (GridKey × Word)
  collCount : List (GridKey × Nat)
  intervals : List (GridKey × Nat)
  cvquant : BitVec 16
  caravan : Caravan
  saveBase : DWord
  saveSize : Word
  dlim : Limiter
  links : Vector Link 4
  dbgen : Bool
  counters : Vector DWord 9
  residue : List (CoreId × Fin 64)
  dieEventPending : Bool
  deriving DecidableEq, Repr

/-- A queue pair (R314, R315, R318, R322): admin says that it is the admin queue of storage (R326), reads are the inbound READs accepted and not yet answered, each with its physical pieces, and
cnpAt is when it last returned a CNP. -/
structure QueuePair where
  spec : QueuePairSpec
  error : Bool
  placed : List (DieId × Nat)
  rate : Nat
  seq : Nat
  reads : List (List (Nat × Nat))
  cnpAt : Option Nat
  admin : Bool
  deriving DecidableEq, Repr

/-- A command that waits in its slot of the command window (R321). -/
structure Command where
  qp : Nat
  slot : Nat
  bits : BitVec 512
  deriving DecidableEq, Repr

/-- A memory region of an address space, by its key (R316). -/
structure Region where
  rkey : Word
  asid : BitVec 12
  deriving DecidableEq, Repr

/-- A completion record (Table D-6): its number on its ring gives SEQ and PHASE. -/
structure Record where
  qp : Nat
  tag : DWord
  status : Byte
  detail : Word
  seq : Nat
  deriving DecidableEq, Repr

/-- A launch in progress (R321, R390) and its superstep set (R211); id numbers the commands in the order taken. -/
structure Launch where
  id : Nat
  qp : Nat
  tag : DWord
  asid : BitVec 12
  grid : DWord
  desc : DWord
  ranges : List (DieId × Nat × Nat)
  ended : List (DieId × Nat)
  status : Option (Byte × Word)
  step : Nat
  deriving DecidableEq, Repr

/-- A command that waits to complete: INSTALL or UNINSTALL for its dies, or a FENCE, which waits for no die (R321, R323). -/
structure Waiting where
  id : Nat
  qp : Nat
  tag : DWord
  dies : List DieId
  deriving DecidableEq, Repr

/-- A storage or peer transfer (R324 to R327): sent is how many of its bytes have been asked for, failed the NVMe status of its first
command that failed. -/
structure Transfer where
  id : Nat
  op : Byte
  asid : BitVec 12
  die : DieId
  core : CoreId
  team : Nat
  breg : Fin 16
  target : BitVec 16
  remote : DWord
  loc : DWord
  len : Nat
  rkey : Word
  grid : DWord
  sent : Nat
  failed : Option (BitVec 16)
  deriving DecidableEq, Repr

/-- An NVMe-oF command of a transfer on a queue pair, or a Flush, which stands as its own transfer (R326): the ranges of a read that have not been written yet, and whether the target
has answered. -/
structure NvmCommand where
  id : Nat
  transfer : Nat
  qp : Nat
  todo : List (Nat × Nat)
  done : Bool
  deriving DecidableEq, Repr

/-- The commands of NVMe over Fabrics that firmware uses (R326). -/
inductive NvmOp
  | read | write | flush
  deriving DecidableEq, Repr

/-- A keyed SGL data block descriptor (R326): where the data is, its bytes, and the key of its memory region. -/
structure Sgl where
  va : DWord
  len : Nat
  key : Word
  deriving DecidableEq, Repr

/-- What the RDMA engine has sent of its own on a queue pair, in the order sent (R314, R317, R322, R326, R327). -/
inductive Outbound
  | write (qp : Nat) (addr : DWord) (rkey : Word) (data : List Byte)
  | read (qp : Nat) (addr : DWord) (rkey : Word) (len : Nat)
  | capsule (qp : Nat) (command : Nat) (op : NvmOp) (space : BitVec 16) (lba blocks : Nat) (sgl : Sgl)
  deriving DecidableEq, Repr

/-- What the RDMA engine answered to an inbound request (R314 to R318), and what it sent. -/
inductive RdmaReply
  | ack (qp : Nat)
  | readData (qp : Nat) (data : List Byte)
  | nakInvalid (qp : Nat)
  | nakAccess (qp : Nat)
  | nakOperational (qp : Nat)
  | rnr (qp : Nat)
  | cnp (qp : Nat)
  deriving DecidableEq, Repr

/-- The phases of a Nomad operation (Table D-23). -/
inductive NomadPhase
  | prepare | verify | commit | drain | retire | waitMerge
  deriving DecidableEq, Repr

/-- A replica region: its address space, its first byte and its length (Table D-21). -/
structure ReplicaRegion where
  asid : BitVec 12
  va : DWord
  len : Nat
  deriving DecidableEq, Repr

/-- A Nomad operation in progress (R364 to R366): the replica region that it fills or gives up, the number of its copy in Caravan, and whether a
die has taken the version. -/
structure NomadOp where
  isAdd : Bool
  expert : Nat
  die : DieId
  slot : Nat
  place : Nat
  phase : NomadPhase
  next : ReplicaTable
  waiting : List DieId
  age : Nat
  merged : Bool
  begun : Bool
  region : ReplicaRegion
  copy : Option Nat
  deriving DecidableEq, Repr

/-- An operation that Nomad has decided on (R363): the ADD of a hot expert, or the DROP of a cold one. -/
inductive NomadChoice
  | add (e : Nat) (d : DieId) (slot : Nat)
  | drop (e k : Nat)
  deriving DecidableEq, Repr

/-- Nomad (R361 to R367): its registers, its table, the counts of the window that began at windowAt, the operations that it has decided on and
not begun, and the replica regions that it has released. -/
structure Nomad where
  en : Bool
  auto : Bool
  hot : BitVec 16
  cold : BitVec 16
  hyst : BitVec 4
  version : BitVec 16
  expert : BitVec 12
  reason : Byte
  rollbacks : BitVec 16
  ncmd : DWord
  nxtab : DWord
  table : ReplicaTable
  counts : List (Nat × Nat)
  dieCounts : Vector Nat 32
  readout : List (Nat × Nat)
  streaks : List (Nat × Nat × Nat)
  windowAt : Nat
  todo : List NomadChoice
  released : List (Nat × DieId × ReplicaRegion)
  op : Option NomadOp
  deriving DecidableEq, Repr

/-- The translation control block (Tables D-10 and D-11). -/
structure Xlat where
  en : Bool
  base : BitVec 40
  xinv : BitVec 128
  busy : Bool
  waiter : Option GRef
  deriving DecidableEq, Repr

/-- A space record (R350). -/
structure SpaceRecord where
  asid : BitVec 12
  handler : DWord
  livedir : DWord
  ndir : Nat
  deriving DecidableEq, Repr

/-- Pre-emption control (Table D-15). -/
structure Pctl where
  value : DWord
  busy : Bool
  result : Byte
  pgrid : DWord
  todo : List (DieId × Nat)
  deriving DecidableEq, Repr

/-- A firmware image in flash (R372): its bytes, header included. -/
abbrev Image := List Byte

/-- Start-up, slots, measurement and identity (R372 to R378, R387): svnUse is the minimum SVN that this start applies, serviceSet says that
the loader has set INSERVICE; a start that has failed is halted until the next reset. -/
structure Boot where
  active : Bool
  try_ : Bool
  bootok : Bool
  stage : BitVec 2
  slot : Bool
  minimal : Bool
  failcnt : BitVec 4
  reason : Byte
  loaderA : Image
  runtimeA : Image
  loaderB : Image
  runtimeB : Image
  fusedKey : BitVec 384
  svnMin : Word
  m : Vector (BitVec 384) 3
  log : List (Word × Byte × BitVec 384)
  rollbackSeen : Bool
  firstSlotFailed : Bool
  halted : Bool
  svnUse : Word
  serviceSet : Bool
  deriving DecidableEq, Repr

/-- The SPDM capabilities of the device: a certificate chain, challenges, signed measurements, key exchange and secure sessions (R377). -/
structure SpdmCapabilities where
  cert : Bool
  chal : Bool
  meas : Bool
  keyEx : Bool
  session : Bool
  deriving DecidableEq, Repr

/-- The hash algorithm that is supported (R377). -/
inductive SpdmHash
  | tpmAlgSha384
  deriving DecidableEq, Repr

/-- The asymmetric algorithm that is supported, as an extended one under Storatil's vendor identifier (R377). -/
inductive SpdmAsym
  | storatilBrainpoolP384r1Ecdsa
  deriving DecidableEq, Repr

/-- An SPDM response (R377, R378). -/
inductive SpdmReply
  | version (major minor : Nat)
  | capabilities (x : SpdmCapabilities)
  | algorithms (hash : SpdmHash) (asym : SpdmAsym)
  | digests (d : BitVec 384)
  | certificate (c : List Byte)
  | challengeAuth (stage : BitVec 2) (m : List (BitVec 384)) (log : List (Word × Byte × BitVec 384)) (sig : List Byte)
  | measurements (stage : BitVec 2) (m : List (BitVec 384)) (log : List (Word × Byte × BitVec 384)) (sig : List Byte)
  | errorUnsupported (code : Byte)
  deriving DecidableEq, Repr

/-- An event record (Table F-5). -/
structure Event where
  time : Nat
  type : Byte
  source : Nat
  sev : Nat
  unit : Nat
  detail : DWord
  seq : Nat
  deriving DecidableEq, Repr

/-- Telemetry, power manager and event log (R380 to R386); heat says that a thermal limit has been reached and not yet left (R384). -/
structure Mgmt where
  cap : BitVec 12
  capEn : Bool
  regs : Vector DWord 7
  tdie : Vector DWord 41
  limit : Nat
  withheld : Nat
  heat : Bool
  powered : Bool
  loghead : Nat
  log : List Event
  nvhead : Nat
  nvlog : List Event
  sourceSeq : Vector Nat 41
  spares : List (Nat × BitVec 256)
  sampleAt : Nat
  thrcyc : Nat
  deriving DecidableEq, Repr

/-- A merged line of a completed seal: the line and the line that stands for it (R248). -/
structure Alias where
  line : Nat
  rep : Nat
  deriving DecidableEq, Repr

/-- What the management controller serves (R361, R379 to R386): a register, an expert's count, a record of a ring, or one of the
inventory. -/
inductive MgmtPlace
  | reg (r : RegName)
  | xinvCount
  | pctl
  | ncmd
  | csched (die : DieId) (core : CoreId)
  | tdie (n : Fin 41)
  | nvhead
  | readout (expert : Nat)
  | logRecord (i : Fin 4096)
  | nvRecord (i : Fin 256)
  | spare (array : Nat)
  deriving DecidableEq, Repr

/-- A move: which agent acts next. The model's own (log 2): a group's issue, alone or with its second path, an event, the picks of one
core cycle, the passing of core cycles, a write-back from L2, the default dispatcher taking a packet, the choice that the relaxed
accesses of the next issue wait, a waiting store performed, a sector that L1 takes by itself, a unit that leaves the instruction cache or the constant cache of a core, a chunk of
Caravan, a part of a transform of Sirocco, the seal engine's reading of its region, an array cycle of a die, a column of an array that begins to fail, firmware passing a trap to the handler, an ECN mark on a packet
of a queue pair, a key that the driver gives a region, the response to a READ, a request that a transfer sends, a Flush command, a flit given to a module, a replay that its far end requests of it, a flit
received by the Oasis die, the training of a module of the Oasis die, and a read by the management controller. -/
inductive Move
  | issue (g : GRef)
  | pair (g : GRef)
  | event (i : Instr)
  | pick (die : DieId) (core : CoreId)
  | tick (n : Nat)
  | writeBack (die : DieId) (line : Nat)
  | dispatch (die : DieId)
  | defer
  | perform (die : DieId) (core : CoreId) (n : Nat)
  | fill (die : DieId) (core : CoreId) (sector : Nat)
  | dropUnit (die : DieId) (core : CoreId) (code : Bool) (unit : Nat)
  | chunk (die : DieId)
  | sirocco (die : DieId) (id : Nat)
  | sealRead (die : DieId) (id : Nat)
  | array (die : DieId)
  | columnFails (die : DieId) (core : CoreId) (bank : Fin 64) (column : Fin 521)
  | passTrap (g : GRef)
  | ecn (qp : Nat)
  | region (rkey : Word) (asid : Option (BitVec 12))
  | readResponse (qp : Nat)
  | sendTransfer (id qp : Nat)
  | flush (qp : Nat) (space : BitVec 16)
  | sendFlit (at_ : LinkAt) (header : BitVec 128) (payload : BitVec 1792)
  | replay (at_ : LinkAt) (seq : BitVec 16)
  | hubFlit (n : Fin 8) (flit : BitVec 2048)
  | hubTrained (n : Fin 8) (failed : List (Fin 64)) (ok : Bool)
  | mgmtRead (place : MgmtPlace)
  deriving DecidableEq, Repr

end Sys2Proof.Machine

namespace Sys2Proof.Machine

/-- The device. -/
structure State where
  agenda : List Move
  cur : Option GRef
  curPair : Option (DWord × Mask)
  deferred : Bool
  fresh : Nat
  now : Nat
  uid : Nat
  hbm : Cells
  poison : List Nat
  aliases : List Alias
  llc : List Nat
  sharers : List (Nat × BitVec 32)
  sealWatch : Option (List Nat)
  merges : List MergeSet
  dies : Vector Die 32
  xlat : Xlat
  nomad : Nomad
  present : BitVec 32
  inService : BitVec 32
  pctl : Pctl
  spaces : List SpaceRecord
  qps : List QueuePair
  replies : List RdmaReply
  held : List Record
  posted : List Record
  outbound : List Outbound
  regions : List Region
  commands : List Command
  nvm : List NvmCommand
  launches : List Launch
  reserved : List (DieId × BitVec 12)
  waiting : List Waiting
  transfers : List Transfer
  boot : Boot
  spdm : List SpdmReply
  mgmt : Mgmt
  hubLinks : Vector Link 8
  served : List (Option (List Byte))
  deriving DecidableEq, Repr

/-- Why a step stops without a next state. -/
inductive Fault
  /-- Raised by the meaning of a row with an encoding when no group is issuing: exec was asked for an instruction outside an
  issue, which the device never does. Safe: no claim about a next state follows. -/
  | notIssuing
  deriving DecidableEq, Repr

/-- Why a step has no meaning. -/
inductive Refusal
  /-- Raised by an arm of exec whose row has no meaning yet. Safe. -/
  | notModelled (mnemonic : String)
  deriving DecidableEq, Repr

/-- A queue that is not configured (R22). -/
def Queue.empty : Queue := ⟨0, [], none⟩
/-- A barrier register that is idle (R205). -/
def Barrier.idle : Barrier := ⟨0, 0, 0, 0⟩
/-- An operation that has not begun (R263). -/
def MacRun.fresh : MacRun := ⟨false, [], []⟩
/-- An item as it takes its place in bank order (R265). -/
def seqItem (id : Nat) (kind : SeqKind) : SeqItem := ⟨id, true, false, MacRun.fresh, kind⟩
/-- A free bank, zero throughout (R87). -/
def Bank.zero : Bank :=
  ⟨[], [], Vector.replicate 8 (Vector.replicate 128 0), Vector.replicate 8 none, none, false, false, [], [],
    Vector.replicate 4 0, 0, 0, 0, false, false⟩
/-- A free octet. -/
def Octet.free : Octet := ⟨none, .storage, []⟩
/-- The reset value of CSCHED (Table K-8); no epoch counts. -/
def Admission.reset : Admission := ⟨8, true, 8, 0, 0, 0, 0⟩
/-- A core after reset. -/
def Core.reset : Core :=
  { slots := Vector.replicate 32 none, teams := [], banks := Vector.replicate 64 Bank.zero
    octets := Vector.replicate 8 Octet.free, table := Vector.replicate 32 ⟨none, false⟩, seq := [], children := []
    l1 := [], l1Dirty := [], l1Lines := [], pending := [], victims := [], icache := [], ccache := [], tlb := [], adm := Admission.reset, gateAt := 0 }
/-- The descriptor that the default dispatcher stands for: its fixed resources, and zero elsewhere (R14). -/
def Descriptor.default : Descriptor :=
  { code := 0, args := 0, nprod := 0, ncons := 1, vgranP := 0, vgranC := 8, sgran := 1, tilePairs := 0, octets := 0, storOct := 0
    barriers := 2, prio := 3, halo := false, fptrap := false, lease := 0, inputs := [] }
/-- The team of a default dispatcher (R14); as the oldest of all in selection order (DESIGN CHOICE, log 87), in address space 0 (DESIGN CHOICE,
log 105). -/
def Team.builtin (uid : Nat) : Team :=
  { uid := uid, asid := 0, desc := Descriptor.default, descAddr := 0, grid := 0, teamIx := 0, nteam := 1, age := 0, inRange := false
    packed := false, dispatcher := true, items := [], slots := [31], landed := true, barriers := Vector.replicate 16 Barrier.idle
    berr := Vector.replicate 16 0, gang := 0, latch := none, reserved := [], position := Vector.replicate 8 none, label := none
    deposits := [], homeCore := some 0, chainLen := 0, originAge := 0 }
/-- The group of a default dispatcher (R14, R22, R345): in firmware mode, always active, running firmware's own program; its PC and its address
space, which the spec does not give, are 0 (DESIGN CHOICE, log 105). -/
def Group.builtin (uid now : Nat) : Group :=
  { team := uid, gix := 0, role := .dispatcher, ended := false, pcs := Vector.replicate 32 0, status := Vector.replicate 32 .run
    v := Vector.replicate 256 (Vector.replicate 32 0), o := Vector.replicate 8 (Vector.replicate 32 0), p := Vector.replicate 32 0
    fpstat := Vector.replicate 32 0, u := Vector.replicate 1024 0, window := [], issues := 0, queues := Vector.replicate 16 Queue.empty
    tiles := Vector.replicate 16 (Vector.replicate 1024 0), tokens := Vector.replicate 8 none, tokenSeq := 0
    tags := Vector.replicate 8 0, cterr := Vector.replicate 8 0, budget := 8, lease := ⟨true, 4, 0, 0, [], 0⟩
    sched := ⟨true, 0, false, now, now, 0, false, none, []⟩, hold := some .builtin, heldRun := 0, heldNext := 0, gw := []
    base := .firmware, traps := [], pendingTrap := none, pendingSeq := 0, flights := [] }
/-- A core with a default dispatcher in slot 31. -/
def Core.withBuiltin (k : Core) (uid now : Nat) : Core :=
  { k with
    slots := k.slots.set 31 (some (Group.builtin uid now))
    teams := k.teams.filter (fun t => !t.dispatcher) ++ [Team.builtin uid] }
/-- Core 0 of a die after reset: the default dispatcher is resident in its slot (R14). -/
def Core.resetFirst : Core := Core.reset.withBuiltin 0 0
/-- The dispatcher after reset: the default one, no packet delivered (Table D-4). -/
def Dispatcher.reset : Dispatcher := ⟨none, [], 0, 0, 0, 0, none, []⟩
/-- A replica table at version 0 (Table D-19) without an expert: which ones have placements at reset, and how one gets its primary, the spec does not
say (DESIGN CHOICE, log 109). -/
def ReplicaTable.empty : ReplicaTable := ⟨0, [], []⟩
/-- A die-link module after reset (Table D-25). -/
def Link.reset : Link := ⟨0, 0, Vector.replicate 4 0x3F, 0, 0, 0, 0, 0, 0, [], [], [], []⟩
/-- DLIM after reset (Table F-3). -/
def Limiter.reset : Limiter := ⟨3072, 2, 3072, 2, 0, 0, false, 0⟩
/-- An Erg die after reset; RTREDIR and RTDROP, whose reset values Table K-67 does not give, are 0 (DESIGN CHOICE, log 110). -/
def Die.reset : Die :=
  { cores := (Vector.replicate 48 Core.reset).set 0 Core.resetFirst, waitList := [], saved := [], disp := Dispatcher.reset, box := [], transit := []
    hostSlots := [], sentTo := Vector.replicate 32 0, launchSent := 0, replicas := ReplicaTable.empty, redir := 0, dropped := 0, l2 := []
    l2Lines := []
    tlb := [], gone := [], engines := [], xerr := [], collCount := [], intervals := [], cvquant := 0x0013
    caravan := ⟨Vector.replicate 4 0, 0, false⟩, saveBase := 0, saveSize := 0
    dlim := Limiter.reset, links := Vector.replicate 4 Link.reset, dbgen := false, counters := Vector.replicate 9 0
    residue := [], dieEventPending := false }
/-- Nomad after reset (Tables D-18 to D-20). -/
def Nomad.reset : Nomad :=
  { en := false, auto := false, hot := 0x0400, cold := 0x0010, hyst := 2, version := 0, expert := 0, reason := 0
    rollbacks := 0, ncmd := 0, nxtab := 0, table := ReplicaTable.empty, counts := [], dieCounts := Vector.replicate 32 0
    readout := [], streaks := [], windowAt := 0, todo := [], released := [], op := none }
/-- Start-up state at reset; fields kept across resets are zero here (DESIGN CHOICE, log 9). -/
def Boot.reset : Boot :=
  { active := false, try_ := false, bootok := false, stage := 0, slot := false, minimal := false, failcnt := 0, reason := 0
    loaderA := [], runtimeA := [], loaderB := [], runtimeB := [], fusedKey := 0, svnMin := 0, m := Vector.replicate 3 0
    log := [], rollbackSeen := false, firstSlotFailed := false, halted := false, svnUse := 0, serviceSet := false }
/-- Management state at reset (Tables F-1, F-4); the log is empty, the non-volatile ring too, and the power manager's own limit is the
one that never engages (DESIGN CHOICE, log 9). -/
def Mgmt.reset : Mgmt :=
  { cap := 2600, capEn := true, regs := Vector.replicate 7 0, tdie := Vector.replicate 41 0, limit := 4096, withheld := 0, heat := false
    powered := true, loghead := 0, log := [], nvhead := 0, nvlog := [], sourceSeq := Vector.replicate 41 0, spares := [], sampleAt := 0, thrcyc := 0 }

/-- The device right after reset: every register at its stated reset value, no work, memory with nothing listed. -/
def State.reset : State :=
  { agenda := [], cur := none, curPair := none, deferred := false, fresh := 0, now := 0, uid := 1, hbm := [], poison := [], aliases := [], llc := [], sharers := []
    sealWatch := none, merges := []
    dies := Vector.replicate 32 Die.reset, xlat := ⟨false, 0, 0, false, none⟩, nomad := Nomad.reset, present := 0xFFFFFFFF
    inService := 0, pctl := ⟨0, false, 0, 0, []⟩, spaces := [], qps := [], replies := [], held := [], posted := [], outbound := [], regions := [], commands := [], nvm := []
    launches := [], reserved := [], waiting := [], transfers := [], boot := Boot.reset, spdm := [], mgmt := Mgmt.reset
    hubLinks := Vector.replicate 8 Link.reset, served := [] }

end Sys2Proof.Machine
end

