-- ==== Sys2Proof/Machine/Float.lean ====
section
/-! DEFINITION. Numbers and rounding (spec 05 R123 to R132, spec 07 R175 to R185): exact values, RoundToFormat, the operations of
IEEE 754-2019 on them, and the special functions by their series. -/

namespace Sys2Proof.Machine

/-- An exact value: a NaN, an infinity, or (−1)^neg × m × 2^e; with rest set, the magnitude lies strictly between m × 2^e and
(m + 1) × 2^e. An invalid operation gives the signalling NaN, so that rounding sets NV (R126, R175). -/
inductive Fx
  | nan (sig : Bool)
  | inf (neg : Bool)
  | num (neg : Bool) (m : Nat) (e : Int) (rest : Bool)
  deriving DecidableEq, Repr

/-- A floating format (Table K-22): fraction bits, exponent bits, bias, the largest finite code, infinity and NaN. -/
structure Fmt where
  mbits : Nat
  ebits : Nat
  bias : Nat
  maxCode : Nat
  hasInf : Bool
  nanCode : Option Nat
  deriving DecidableEq, Repr

def fmtF32 : Fmt := ⟨23, 8, 127, 0x7F7FFFFF, true, some 0x7FC00000⟩
def fmtF16 : Fmt := ⟨10, 5, 15, 0x7BFF, true, some 0x7E00⟩
def fmtBF16 : Fmt := ⟨7, 8, 127, 0x7F7F, true, some 0x7FC0⟩
def fmtE4M3 : Fmt := ⟨3, 4, 7, 0x7E, false, some 0x7F⟩
def fmtE5M2 : Fmt := ⟨2, 5, 15, 0x7B, true, some 0x7E⟩
def fmtE2M1 : Fmt := ⟨1, 2, 1, 0x7, false, none⟩

/-- The bits of a format. -/
def Fmt.width (f : Fmt) : Nat := 1 + f.ebits + f.mbits

/-- The flags of Table K-26. -/
abbrev Flags := BitVec 5
def flNV : Flags := 1
def flDZ : Flags := 2
def flOF : Flags := 4
def flUF : Flags := 8
def flNX : Flags := 16

/-- The exact value of an encoding (Value of R129). -/
def Fmt.value (f : Fmt) (bits : Nat) : Fx :=
  let b := bits % 2 ^ f.width
  let neg := decide (2 ^ (f.width - 1) ≤ b)
  let c := b % 2 ^ (f.width - 1)
  if f.maxCode < c then
    if f.hasInf && c == f.maxCode + 1 then .inf neg
    else .nan (f.hasInf && decide (c % 2 ^ f.mbits < 2 ^ (f.mbits - 1)))
  else
    let ex := c / 2 ^ f.mbits
    let m := c % 2 ^ f.mbits
    if ex = 0 then .num neg m (1 - (f.bias : Int) - f.mbits) false
    else .num neg (2 ^ f.mbits + m) ((ex : Int) - f.bias - f.mbits) false

/-- Whether a magnitude m × 2^e, cut at the unit 2^u, rounds away from zero, and whether it is inexact (Table K-25, R129). rnd and
k belong to RS. -/
def roundUp (mode : Nat) (neg : Bool) (q part whole : Nat) (rest : Bool) (rnd k : Nat) : Bool :=
  let inexact := part != 0 || rest
  match mode with
  | 0 => decide (whole < 2 * part) || (whole == 2 * part && (rest || q % 2 == 1))
  | 1 => false
  | 2 => !neg && inexact
  | 3 => neg && inexact
  | _ => decide (2 ^ k ≤ part * 2 ^ k / whole + rnd)

/-- A magnitude rounded to a multiple of 2^u: the multiple, and whether it is inexact. -/
def roundMag (mode : Nat) (neg : Bool) (m : Nat) (e u : Int) (rest : Bool) (rnd k : Nat) : Nat × Bool :=
  if u ≤ e then (m * 2 ^ (e - u).toNat, rest)
  else
    let sh := (u - e).toNat
    if Nat.log2 m + 80 < sh then
      let up := (m != 0 || rest) && ((mode == 2 && !neg) || (mode == 3 && neg))
      (if up then 1 else 0, m != 0 || rest)
    else
      let q := m / 2 ^ sh
      let part := m % 2 ^ sh
      (if roundUp mode neg q part (2 ^ sh) rest rnd k then q + 1 else q, part != 0 || rest)

/-- A code with its sign bit. -/
def Fmt.signed (f : Fmt) (neg : Bool) (code : Nat) : Nat := if neg then 2 ^ (f.width - 1) + code else code

/-- RoundToFormat for a floating format (R129): the encoding and the flags. -/
def Fmt.round (f : Fmt) (x : Fx) (mode rnd k : Nat) : Nat × Flags :=
  match x with
  | .nan sig =>
    let fl : Flags := if sig then flNV else 0
    match f.nanCode with
    | some c => (c, fl)
    | none => (0, fl ||| flNV)
  | .inf neg => if f.hasInf then (f.signed neg (f.maxCode + 1), 0) else (f.signed neg f.maxCode, flOF ||| flNX)
  | .num neg m e rest =>
    if m = 0 && !rest then (f.signed neg 0, 0)
    else
      let uMin : Int := 1 - (f.bias : Int) - f.mbits
      let u := max uMin ((Nat.log2 m : Int) + e - f.mbits)
      let r := roundMag mode neg m e u rest rnd k
      let code := (u - uMin).toNat * 2 ^ f.mbits + r.1
      if f.maxCode < code then
        let toInf := f.hasInf && (mode == 0 || mode == 4 || (mode == 2 && !neg) || (mode == 3 && neg))
        (f.signed neg (if toInf then f.maxCode + 1 else f.maxCode), flOF ||| flNX)
      else
        let fl : Flags := if r.2 then flNX else 0
        let tiny := r.2 && decide (code < 2 ^ f.mbits)
        (f.signed neg code, if tiny then fl ||| flUF else fl)

/-- RoundToFormat for an integer format (R129): the value and the flags. -/
def roundInt (lo hi : Int) (x : Fx) (mode rnd k : Nat) : Int × Flags :=
  match x with
  | .nan _ => (0, flNV)
  | .inf neg => (if neg then lo else hi, flNV)
  | .num neg m e rest =>
    let r := roundMag mode neg m e 0 rest rnd k
    let y : Int := if neg then -(r.1 : Int) else (r.1 : Int)
    if y < lo then (lo, flNV) else if hi < y then (hi, flNV) else (y, if r.2 then flNX else 0)

/-- The value of an integer. -/
def Fx.ofInt (x : Int) : Fx := .num (decide (x < 0)) x.natAbs 0 false

/-- Whether a value is a zero. -/
def Fx.isZero (x : Fx) : Bool :=
  match x with
  | .num _ m _ rest => m == 0 && !rest
  | _ => false
/-- Whether a value is a NaN. -/
def Fx.isNan (x : Fx) : Bool := match x with | .nan _ => true | _ => false
/-- Whether a value is a signalling NaN. -/
def Fx.isSig (x : Fx) : Bool := match x with | .nan sig => sig | _ => false
/-- Whether a value is infinite. -/
def Fx.isInf (x : Fx) : Bool := match x with | .inf _ => true | _ => false
/-- The sign of a value. -/
def Fx.isNeg (x : Fx) : Bool := match x with | .inf n => n | .num n _ _ _ => n | .nan _ => false
/-- The value with its sign turned. -/
def Fx.neg (x : Fx) : Fx :=
  match x with
  | .nan sig => .nan sig
  | .inf n => .inf (!n)
  | .num n m e rest => .num (!n) m e rest
/-- The value times a power of two. -/
def Fx.scale (x : Fx) (k : Int) : Fx :=
  match x with
  | .num n m e rest => .num n m (e + k) rest
  | y => y

/-- Exact product (R175): 0 × ∞ is invalid. -/
def Fx.mul (x y : Fx) : Fx :=
  match x, y with
  | .nan a, .nan b => .nan (a || b)
  | .nan a, _ => .nan a
  | _, .nan b => .nan b
  | .inf a, .inf b => .inf (a != b)
  | .inf a, .num b m _ _ => if m = 0 then .nan true else .inf (a != b)
  | .num a m _ _, .inf b => if m = 0 then .nan true else .inf (a != b)
  | .num a m e _, .num b n f _ => .num (a != b) (m * n) (e + f) false

/-- The signed multiple of 2^e that a finite value is. -/
def Fx.units (x : Fx) (e : Int) : Int :=
  match x with
  | .num neg m f _ => let v : Int := m * 2 ^ (f - e).toNat; if neg then -v else v
  | _ => 0

/-- The exponent of a finite value. -/
def Fx.exp (x : Fx) : Int := match x with | .num _ _ e _ => e | _ => 0

/-- Exact sum of a list (R129, R177): opposite infinities are invalid. A zero sum is −0 when every term is −0, +0 when every term is
+0 and `pos` holds, and otherwise −0 under RD and +0 under the other modes. -/
def sumFx (mode : Nat) (pos : Bool) (xs : List Fx) : Fx :=
  if xs.any Fx.isNan then .nan (xs.any Fx.isSig || (xs.any (· == .inf true) && xs.any (· == .inf false)))
  else if xs.any (· == .inf true) then (if xs.any (· == .inf false) then .nan true else .inf true)
  else if xs.any (· == .inf false) then .inf false
  else
    let e := xs.foldl (fun (a : Int) x => min a x.exp) (0 : Int)
    let v := xs.foldl (fun (a : Int) x => a + x.units e) (0 : Int)
    if v = 0 then
      let allNeg := xs.all (fun x => x.isZero && x.isNeg)
      let allPos := pos && xs.all (fun x => x.isZero && !x.isNeg)
      .num (allNeg || (mode == 3 && !allPos)) 0 0 false
    else .num (decide (v < 0)) v.natAbs e false

/-- Exact sum of two values. -/
def Fx.add (mode : Nat) (x y : Fx) : Fx := sumFx mode true [x, y]

/-- x × y + z, exactly (R175): 0 × ∞ is invalid even beside a quiet NaN. -/
def Fx.fma (mode : Nat) (x y z : Fx) : Fx := Fx.add mode (x.mul y) z

/-- Order of two values that are not NaN: −0 equals +0. -/
def Fx.lt (x y : Fx) : Bool :=
  match x, y with
  | .inf a, .inf b => a && !b
  | .inf a, _ => a
  | _, .inf b => !b
  | .num _ _ e _, .num _ _ f _ => let u := min e f; decide (x.units u < y.units u)
  | _, _ => false
/-- Equality of two values that are not NaN. -/
def Fx.eq (x y : Fx) : Bool := !x.isNan && !y.isNan && !x.lt y && !y.lt x

/-- minimumNumber or maximumNumber (R126): −0 orders below +0. Chooses the first operand or the second. -/
def pickMin (x y : Fx) : Bool := x.lt y || (x.eq y && x.isNeg)

/-! ## FP32 patterns -/

/-- The value of an FP32 pattern, a subnormal read as a zero of its sign under `.ftz` (R127). -/
def f32In (ftz : Bool) (w : Word) : Fx :=
  match fmtF32.value w.toNat with
  | .num n m e r => if ftz && m < 2 ^ 23 then .num n 0 0 false else .num n m e r
  | x => x

/-- A pattern with a subnormal replaced by the zero of its sign under `.ftz` (R127). -/
def ftzBits (ftz : Bool) (w : Word) : Word :=
  if ftz && w.extractLsb' 23 8 == 0 then w &&& 0x80000000 else w

/-- A rounded FP32 result under `.ftz`: a subnormal is written as the zero of its sign, with UF and NX (R127). -/
def ftzOut (ftz : Bool) (r : Nat × Flags) : Word × Flags :=
  let w := BitVec.ofNat 32 r.1
  if ftz && w.extractLsb' 23 8 == 0 && w.extractLsb' 0 23 != 0 then (w &&& 0x80000000, r.2 ||| flUF ||| flNX) else (w, r.2)

/-- An exact value rounded to FP32 in the rounding layout (R162, R175). -/
def f32Out (mode : Nat) (ftz : Bool) (x : Fx) : Word × Flags := ftzOut ftz (fmtF32.round x mode 0 32)

/-- FAdd of R135: binary32 addition with RNE, flags discarded. -/
def fAdd32 (a b : Word) : Word := (f32Out 0 false (Fx.add 0 (f32In false a) (f32In false b))).1

/-- fmin and fmax of R126 on patterns: the result and the flags. -/
def fMinMax (isMin ftz : Bool) (a b : Word) : Word × Flags :=
  let x := f32In ftz a
  let y := f32In ftz b
  let fl : Flags := if x.isSig || y.isSig then flNV else 0
  if x.isNan && y.isNan then (0x7FC00000, fl)
  else if x.isNan then (ftzBits ftz b, fl)
  else if y.isNan then (ftzBits ftz a, fl)
  else if pickMin x y == isMin then (ftzBits ftz a, fl) else (ftzBits ftz b, fl)

/-! ## Division and roots -/

/-- x / y, exactly or with a rest (R179). -/
def Fx.div (x y : Fx) : Fx × Flags :=
  match x, y with
  | .nan a, .nan b => (.nan (a || b), 0)
  | .nan a, _ => (.nan a, 0)
  | _, .nan b => (.nan b, 0)
  | .inf _, .inf _ => (.nan true, 0)
  | .inf a, .num b _ _ _ => (.inf (a != b), 0)
  | .num a _ _ _, .inf b => (.num (a != b) 0 0 false, 0)
  | .num a m e _, .num b n f _ =>
    if n = 0 then (if m = 0 then (.nan true, 0) else (.inf (a != b), flDZ))
    else (.num (a != b) (m * 2 ^ 96 / n) (e - f - 96) (m * 2 ^ 96 % n != 0), 0)

/-- ⌊√n⌋ built bit by bit from bit k down. -/
def isqrtFrom (n : Nat) (k r : Nat) : Nat :=
  match k with
  | 0 => r
  | j + 1 => isqrtFrom n j (if (r + 2 ^ j) * (r + 2 ^ j) ≤ n then r + 2 ^ j else r)

/-- ⌊√n⌋. -/
def isqrt (n : Nat) : Nat := isqrtFrom n (Nat.log2 n / 2 + 1) 0

/-- √x with a rest (R178). -/
def Fx.sqrt (x : Fx) : Fx :=
  match x with
  | .nan s => .nan s
  | .inf neg => if neg then .nan true else .inf false
  | .num neg m e _ =>
    if m = 0 then .num neg 0 0 false
    else if neg then .nan true
    else
      let odd := e % 2 != 0
      let n := (if odd then 2 * m else m) * 2 ^ 96
      let r := isqrt n
      .num false r ((if odd then e - 1 else e) / 2 - 48) (r * r != n)

/-- 1/√x with a rest (R178). -/
def Fx.rsqrt (x : Fx) : Fx × Flags :=
  match x with
  | .nan s => (.nan s, 0)
  | .inf neg => if neg then (.nan true, 0) else (.num false 0 0 false, 0)
  | .num neg m e _ =>
    if m = 0 then (.inf neg, flDZ)
    else if neg then (.nan true, 0)
    else
      let odd := e % 2 != 0
      let n := if odd then 2 * m else m
      let r := isqrt (2 ^ 192 / n)
      (.num false r (-((if odd then e - 1 else e) / 2) - 96) (r * r * n != 2 ^ 192), 0)

/-! ## Series in fixed point with 384 fraction bits (UNVERIFIED, log 14) -/

def fxBits : Nat := 384
def fxOne : Nat := 2 ^ fxBits

/-- The product of two fixed-point numbers. -/
def fxMul (a b : Nat) : Nat := a * b / fxOne

/-- Σ sign^j x^(2j+1)/(2j+1) for an x = 1/n: atan or atanh of 1/n. -/
def atanInv (alt : Bool) (n : Nat) (fuel j pow : Nat) (acc : Int) : Int :=
  match fuel with
  | 0 => acc
  | k + 1 =>
    let term : Int := (pow / (2 * j + 1) : Nat)
    atanInv alt n k (j + 1) (pow / (n * n)) (if alt && j % 2 == 1 then acc - term else acc + term)

/-- π by Machin's formula. -/
def fxPi : Nat :=
  (16 * atanInv true 5 100 0 (fxOne / 5) 0 - 4 * atanInv true 239 60 0 (fxOne / 239) 0).toNat
/-- ln 2 as 2 atanh(1/3). -/
def fxLn2 : Nat := (2 * atanInv false 3 140 0 (fxOne / 3) 0).toNat

/-- Σ x^j/j! from the j-th term on. -/
def expSeries (x : Nat) (fuel j term acc : Nat) : Nat :=
  match fuel with
  | 0 => acc
  | k + 1 => expSeries x k (j + 1) (fxMul term x / (j + 1)) (acc + term)
/-- e^x of a fixed-point x below 1. -/
def fxExp (x : Nat) : Nat := expSeries x 90 0 fxOne 0

/-- Σ x^(2j+1)/(2j+1) for a fixed-point x at most 1/3: atanh x. -/
def atanhSeries (x2 : Nat) (fuel j pow acc : Nat) : Nat :=
  match fuel with
  | 0 => acc
  | k + 1 => atanhSeries x2 k (j + 1) (fxMul pow x2) (acc + pow / (2 * j + 1))
/-- ln z of a fixed-point z from 1 to 2. -/
def fxLn (z : Nat) : Nat :=
  let x := (z - fxOne) * fxOne / (z + fxOne)
  2 * atanhSeries (fxMul x x) 130 0 x 0

/-- Σ (−1)^j x^(2j+s)/(2j+s)!: sine for s = 1, cosine for s = 0. -/
def trigSeries (x2 : Nat) (s : Nat) (fuel j term : Nat) (acc : Int) : Int :=
  match fuel with
  | 0 => acc
  | k + 1 =>
    trigSeries x2 s k (j + 1) (fxMul term x2 / ((2 * j + s + 1) * (2 * j + s + 2)))
      (if j % 2 == 1 then acc - term else acc + term)

/-- A fixed-point number cut to 256 fraction bits, with a rest, as an exact value. -/
def fxValue (neg : Bool) (x : Nat) (k : Int) : Fx := .num neg (x / 2 ^ 64) (k - 320) true

/-- 2^x of a finite x that is not an integer (Table K-42). -/
def exp2Of (neg : Bool) (m : Nat) (e : Int) : Fx :=
  let sh := (-e).toNat
  let whole := m / 2 ^ sh
  let part := m % 2 ^ sh
  let n : Int := if neg then -(whole : Int) - 1 else whole
  let frac := if neg then 2 ^ sh - part else part
  fxValue false (fxExp (fxMul (frac * fxOne / 2 ^ sh) fxLn2)) n

/-- Whether a finite value is an integer. -/
def Fx.isInt (x : Fx) : Bool :=
  match x with
  | .num _ m e rest => !rest && (decide (0 ≤ e) || m % 2 ^ (-e).toNat == 0)
  | _ => false

/-- fexp2 (Tables K-42 and K-43): the exact value or the special result, and the flags. -/
def Fx.exp2 (x : Fx) : Fx × Flags :=
  match x with
  | .nan s => (.nan s, 0)
  | .inf neg => if neg then (.num false 0 0 false, 0) else (.inf false, 0)
  | .num neg m e r =>
    if m = 0 then (.num false 1 0 false, 0)
    else if !x.lt (.num false 128 0 false) then (.inf false, flOF)
    else if x.lt (.num true 149 0 false) then (.num false 0 0 false, 0)
    else if (Fx.num neg m e r).isInt then (.num false 1 (x.units 0 / (if e < 0 then 2 ^ (-e).toNat else 1)) false, 0)
    else (exp2Of neg m e, 0)

/-- flog2 (Tables K-42 and K-43). -/
def Fx.log2 (x : Fx) : Fx × Flags :=
  match x with
  | .nan s => (.nan s, 0)
  | .inf neg => if neg then (.nan true, 0) else (.inf false, 0)
  | .num neg m e _ =>
    if m = 0 then (.inf true, flDZ)
    else if neg then (.nan true, 0)
    else
      let k : Int := Nat.log2 m + e
      if m == 2 ^ Nat.log2 m then (Fx.ofInt k, 0)
      else
        let z := m * fxOne / 2 ^ Nat.log2 m
        let v : Int := k * fxOne + fxLn z * fxOne / fxLn2
        (fxValue (decide (v < 0)) v.natAbs 0, 0)

/-- sin(π x) or cos(π x) of a finite value that is no multiple of one half, reduced to an eighth of a turn: x is num/2^sh half-turns. -/
def sinPi (cosine : Bool) (neg : Bool) (m : Nat) (e : Int) : Fx :=
  let sh := (-e).toNat
  let r := m % 2 ^ (sh + 1)
  let half := 2 ^ sh
  -- cos(π x) = sin(π (x + 1/2)); x in units of 2^-(sh+1) half-turns from here on
  let y0 := 2 * r + (if cosine then half else 0)
  let y := y0 % (4 * half)
  let down := decide (2 * half ≤ y)
  let t := if down then y - 2 * half else y
  let u := if half < t then 2 * half - t else t
  let x := u * fxPi / (2 * half)
  let x2 := fxMul x x
  fxValue ((neg && !cosine) != down) (trigSeries x2 1 80 0 x 0).toNat 0

/-- fsin and fcos (Tables K-42 and K-43). -/
def Fx.sincos (cosine : Bool) (x : Fx) : Fx × Flags :=
  match x with
  | .nan s => (.nan s, 0)
  | .inf _ => (.nan true, 0)
  | .num neg m e r =>
    if (Fx.num neg m e r).isInt then
      let odd := if 0 < e then false else (m / 2 ^ (-e).toNat) % 2 == 1
      if cosine then (.num odd 1 0 false, 0) else (.num neg 0 0 false, 0)
    else if (Fx.num neg m (e + 1) r).isInt then
      -- an odd multiple of one half: x = n/2
      let n := m / 2 ^ (-(e + 1)).toNat
      if cosine then (.num false 0 0 false, 0) else (.num (neg != (n % 4 == 3)) 1 0 false, 0)
    else (sinPi cosine neg m e, 0)

/-- The n-th doubling of an exponential. -/
def fxSquares (n x : Nat) : Nat :=
  match n with
  | 0 => x
  | k + 1 => fxSquares k (fxMul x x)

/-- ftanh (Tables K-42 and K-43). -/
def Fx.tanh (x : Fx) : Fx × Flags :=
  match x with
  | .nan s => (.nan s, 0)
  | .inf neg => (.num neg 1 0 false, 0)
  | .num neg m e _ =>
    if m = 0 then (.num neg 0 0 false, 0)
    else if !(Fx.num false m e false).lt (.num false 10 0 false) then (.num neg 1 0 false, 0)
    else
      let twice := if 0 ≤ e + 1 then m * fxOne * 2 ^ (e + 1).toNat else m * fxOne / 2 ^ (-(e + 1)).toNat
      let ex := fxSquares 5 (fxExp (twice / 32))
      (fxValue neg ((ex - fxOne) * fxOne / (ex + fxOne)) 0, 0)

end Sys2Proof.Machine
end

