-- ==== Sys2Proof/Machine/Encoding.lean ====
section
/-! DEFINITION. The encoding rules of every opcode as data (Tables K-36, K-46 to K-48, K-52, K-55, K-57, K-63, D-14) and the
checks that a decoded instruction must pass (R159 to R165). The decoder runs the same checks. -/

namespace Sys2Proof

/-- The decode checks that can fail, in the order of Table K-37. -/
inductive Illegal
  | pcAlign | length | fetchCross | opcode | form | reserved | sub | specifier | cls | md | field
  deriving DecidableEq, Repr

/-- The detail code of a failed check (Table K-37). -/
def Illegal.detail (c : Illegal) : Nat :=
  match c with
  | .pcAlign => 1 | .length => 2 | .fetchCross => 3 | .opcode => 4 | .form => 5 | .reserved => 6
  | .sub => 7 | .specifier => 8 | .cls => 9 | .md => 10 | .field => 11

/-- The major opcode of a row (Table K-36). -/
def Op.opc (op : Op) : Nat :=
  match op with
  | .iadd => 0x00
  | .isub => 0x01
  | .imul => 0x02
  | .imulh => 0x03
  | .imad => 0x04
  | .imadw => 0x05
  | .imin => 0x06
  | .imax => 0x07
  | .iabs => 0x08
  | .iaddx => 0x09
  | .idot4 => 0x0A
  | .idot2 => 0x0B
  | .lea => 0x0C
  | .icmp => 0x0D
  | .isel => 0x0E
  | .iclamp => 0x0F
  | .and => 0x10
  | .or => 0x11
  | .xor => 0x12
  | .andn => 0x13
  | .not => 0x14
  | .shl => 0x15
  | .shr => 0x16
  | .sar => 0x17
  | .shf => 0x18
  | .bfext => 0x19
  | .bfins => 0x1A
  | .popc => 0x1B
  | .clz => 0x1C
  | .ctz => 0x1D
  | .brev => 0x1E
  | .prmt => 0x1F
  | .fadd => 0x20
  | .fsub => 0x21
  | .fmul => 0x22
  | .ffma => 0x23
  | .fmin => 0x24
  | .fmax => 0x25
  | .fcmp => 0x26
  | .fclass => 0x27
  | .frnd => 0x28
  | .fscale => 0x29
  | .hfma2 => 0x2A
  | .hadd2 => 0x2B
  | .hmul2 => 0x2C
  | .fdot2 => 0x2D
  | .frcp => 0x30
  | .frsq => 0x31
  | .fsqrt => 0x32
  | .fexp2 => 0x33
  | .flog2 => 0x34
  | .fsin => 0x35
  | .fcos => 0x36
  | .ftanh => 0x37
  | .fdiv => 0x38
  | .mov => 0x40
  | .movi => 0x41
  | .movs => 0x42
  | .cvt => 0x43
  | .cvtq => 0x44
  | .pack => 0x45
  | .unpack => 0x46
  | .mxq => 0x47
  | .mxdq => 0x48
  | .rdsr => 0x49
  | .wrsr => 0x4A
  | .pop => 0x50
  | .pmov => 0x51
  | .pmovSet => 0x51
  | .vote => 0x52
  | .ballot => 0x53
  | .matchLanes => 0x54
  | .shfl => 0x55
  | .nbr => 0x56
  | .redx => 0x57
  | .scan => 0x58
  | .segred => 0x59
  | .segscan => 0x5A
  | .bra => 0x60
  | .brx => 0x61
  | .call => 0x62
  | .callInd => 0x62
  | .ret => 0x63
  | .exit => 0x64
  | .tkopen => 0x65
  | .tkjoin => 0x66
  | .tkleave => 0x67
  | .yield => 0x68
  | .nop => 0x69
  | .trap => 0x6A
  | .sleep => 0x6B
  | .brkpt => 0x6C
  | .vgrow => 0x6D
  | .vshrink => 0x6E
  | .barSync => 0x70
  | .barArrive => 0x70
  | .barWait => 0x70
  | .barTest => 0x70
  | .barPhase => 0x70
  | .barSyncOne => 0x70
  | .barArriveOne => 0x70
  | .barinit => 0x71
  | .barexp => 0x72
  | .fenceAr => 0x73
  | .fenceSc => 0x73
  | .sstep => 0x74
  | .spawn => 0x75
  | .launch => 0x76
  | .reorder => 0x77
  | .pksend => 0x78
  | .pkrecv => 0x79
  | .pkpoll => 0x7A
  | .route => 0x7B
  | .gang => 0x7C
  | .gangRd => 0x7C
  | .lease => 0x7D
  | .ld => 0x80
  | .st => 0x81
  | .ldx => 0x82
  | .stx => 0x83
  | .lds => 0x84
  | .sts => 0x85
  | .ldc => 0x86
  | .pf => 0x87
  | .ldt => 0x88
  | .stt => 0x89
  | .tmovRd => 0x8A
  | .tmovWr => 0x8A
  | .tmovC8 => 0x8A
  | .tmovC16 => 0x8A
  | .tmovC32 => 0x8A
  | .tmovC4 => 0x8A
  | .tmovWc32 => 0x8A
  | .tmovWc8 => 0x8A
  | .atom => 0x90
  | .atomcas => 0x91
  | .red => 0x92
  | .atoms => 0x93
  | .atomf => 0x94
  | .cpy => 0xA0
  | .cpyt => 0xA1
  | .cwait => 0xA2
  | .ctest => 0xA3
  | .xform => 0xA4
  | .seal => 0xA5
  | .coll => 0xA6
  | .xsend => 0xA7
  | .wload => 0xA8
  | .balloc => 0xB0
  | .bfree => 0xB1
  | .bcfg => 0xB2
  | .bmac => 0xB3
  | .bmacs => 0xB4
  | .bdrain => 0xB5
  | .bclr => 0xB6
  | .bfeed => 0xB7
  | .bstat => 0xB8
  | .qcfg => 0xBA
  | .qlen => 0xBB
  | .qdrain => 0xBC
  | .tret => 0xC0
  | .tretSkip => 0xC0
  | .svcTransfer => 0xC1
  | .svcIcflush => 0xC1
  | .tlbinv => 0xC2
  | .cflushI => 0xC3
  | .cflushC => 0xC3
  | .cflushWb => 0xC3
  | .idle => 0xC4
  | .bremap => 0xC6
  | .btest => 0xC7

/-- Opcodes that take F64 and F96 (Table K-36, cells ab). -/
def opcsAB : List Nat :=
  [0x00, 0x01, 0x02, 0x03, 0x06, 0x07, 0x08, 0x0D, 0x10, 0x11, 0x12, 0x13, 0x14, 0x15, 0x16, 0x17, 0x1B, 0x1C, 0x1D, 0x1E, 0x20, 0x21, 0x22, 0x24, 0x25, 0x26, 0x27, 0x28, 0x29, 0x2B, 0x2C, 0x30, 0x31, 0x32, 0x33, 0x34, 0x35, 0x36, 0x37, 0x38, 0x40, 0x42, 0x43, 0x46, 0x49, 0x4A, 0x50, 0x51, 0x61, 0x62, 0x6A, 0x6B, 0x6D, 0x6E, 0x70, 0x71, 0x72, 0x75, 0x7B, 0x7C, 0x7D, 0xA2, 0xA3, 0xB0, 0xB1, 0xB8, 0xBA, 0xBB, 0xBC, 0xC1]
/-- Opcodes that take F64 and F128 (cells ac). -/
def opcsAC : List Nat :=
  [0x04, 0x05, 0x09, 0x0A, 0x0B, 0x0C, 0x0E, 0x0F, 0x18, 0x19, 0x1A, 0x1F, 0x23, 0x2A, 0x2D, 0x44, 0x45]
/-- Opcodes that take F96 and F128 (cells bc). -/
def opcsBC : List Nat :=
  [0x47, 0x48, 0x52, 0x53, 0x54, 0x56, 0x57, 0x58, 0x76, 0x77, 0x78, 0x79, 0x7A, 0x80, 0x81, 0x82, 0x83, 0x84, 0x85, 0x86, 0x8A, 0x90, 0x92, 0x93, 0x94, 0xB2, 0xB6, 0xC2, 0xC3, 0xC6, 0xC7]
/-- Opcodes that take F64 only (cells a). -/
def opcsA : List Nat :=
  [0x63, 0x64, 0x66, 0x67, 0x68, 0x6C, 0x74, 0xC0, 0xC4]
/-- Opcodes that take F96 only (cells b). -/
def opcsB : List Nat :=
  [0x41, 0x60, 0x65, 0x73, 0x87]
/-- Opcodes that take F128 only (cells c). -/
def opcsC : List Nat :=
  [0x55, 0x59, 0x5A, 0x88, 0x89, 0x91, 0xA0, 0xA1, 0xA4, 0xA5, 0xA6, 0xA7, 0xA8, 0xB3, 0xB4, 0xB5, 0xB7]
/-- Opcodes that take all three lengths (cell abc). -/
def opcsABC : List Nat :=
  [0x69]

/-- Whether an opcode is assigned (R163). -/
def opcAssigned (o : Nat) : Bool :=
  opcsAB.contains o || opcsAC.contains o || opcsBC.contains o || opcsA.contains o || opcsB.contains o
    || opcsC.contains o || opcsABC.contains o

/-- Whether an opcode takes a length (Table K-36). -/
def opcTakes (o : Nat) (len : Len) : Bool :=
  opcsABC.contains o ||
  match len with
  | .f64 => opcsAB.contains o || opcsAC.contains o || opcsA.contains o
  | .f96 => opcsAB.contains o || opcsBC.contains o || opcsB.contains o
  | .f128 => opcsAC.contains o || opcsBC.contains o || opcsC.contains o

/-- The SUB values of a row, by length where the manual distinguishes them (R168, Tables K-46 to K-63, D-14). An F64 `cvt` is the conversion
under RNE (R181), so no other rounding code selects it (DEDUCED, log 94). -/
def Op.subOk (op : Op) (len : Len) (sub : BitVec 3) : Bool :=
  match op with
  | .iadd | .isub | .iabs | .iaddx | .idot4 | .idot2 | .shf | .mxdq | .matchLanes | .nbr | .pf | .ldt | .stt
  | .xsend | .balloc | .bcfg | .bmac | .bmacs | .bclr => sub.toNat ≤ 1
  | .icmp | .redx | .scan | .segred | .segscan => sub.toNat ≤ 5
  | .cvt => sub.toNat ≤ 4 && (len != .f64 || sub == 0)
  | .cvtq | .atomf => sub.toNat ≤ 4
  | .mxq | .vote | .cpyt => sub.toNat ≤ 2
  | .reorder | .coll | .bfeed | .cpy => sub.toNat ≤ 3
  | .fcmp | .pop | .shfl | .tkopen | .tkjoin | .tkleave | .atom | .atomcas | .red | .atoms | .cwait | .ctest
  | .xform | .bdrain | .bstat | .tlbinv => true
  | .pmovSet | .callInd | .fenceSc | .gangRd | .tretSkip => sub == 1
  | .call => sub == 0 && len == .f96
  | .nop => sub == 0 || sub == 7
  | .barSync => sub == 0
  | .barArrive => sub == 1
  | .barWait => sub == 2
  | .barTest => sub == 3
  | .barPhase => sub == 4
  | .barSyncOne => sub == 5
  | .barArriveOne => sub == 6
  | .ld | .ldx | .lds | .ldc => sub.toNat ≤ 6
  | .st | .stx | .sts => sub == 0 || sub == 2 || sub == 4 || sub == 5 || sub == 6
  | .tmovRd => sub == 0
  | .tmovWr => sub == 1
  | .tmovC8 => sub == 2
  | .tmovC16 => sub == 3
  | .tmovC32 => sub == 4
  | .tmovC4 => sub == 5
  | .tmovWc32 => sub == 6
  | .tmovWc8 => sub == 7
  | .cflushC => sub == 1
  | .cflushWb => sub == 2
  | _ => sub == 0

/-- The operand classes that the tables name (Tables K-38, K-46 to K-63). -/
inductive Cls
  | src32 | src64 | src128 | dst32 | dst64 | laneDest | perLane | mask | barrier | addr64 | loadDest (bytes : Nat)
  | stData (bytes : Nat) | atomDest (bytes : Nat) | vec | vecOrO | tile | acc | queue | immOnly | quadOrZero | drainDest
  deriving DecidableEq, Repr

/-- Whether a field is required, optional or absent (R159). -/
inductive Need
  | req | opt | absent
  deriving DecidableEq, Repr

/-- One operand field of a form: whether it is there, and the classes it accepts. -/
structure Slot where
  need : Need
  cls : Cls
  deriving DecidableEq, Repr

/-- The operand fields of one form of an instruction, whether IMM32 is free for the IMM32 specifier (R160), and whether the
instruction can leave a result, so that NW is allowed (R78). -/
structure Form where
  dst : Slot
  sa : Slot
  sb : Slot
  sx : Slot
  immFree : Bool
  nwOk : Bool
  deriving DecidableEq, Repr

/-- A source class by width in bytes (Table K-38). -/
def Cls.srcOf (bytes : Nat) : Cls :=
  if bytes ≤ 4 then .src32 else if bytes = 8 then .src64 else .src128

/-- Which operands a class accepts in form (Table K-38, R166, R188, R222, R251). -/
def Cls.accepts (c : Cls) (x : Operand) : Bool :=
  match c, x with
  | .src32, .v _ | .src32, .u _ | .src32, .o _ | .src32, .w _ | .src32, .q _ | .src32, .zero | .src32, .ones
  | .src32, .inl _ | .src32, .imm32 | .src32, .pred _ | .src32, .acc _ => true
  | .src64, .v _ | .src64, .u _ | .src64, .w _ | .src64, .zero | .src64, .ones | .src64, .inl _ | .src64, .imm32
  | .src64, .pred _ => true
  | .src128, .v _ | .src128, .zero | .src128, .ones => true
  | .dst32, .v _ | .dst32, .u _ | .dst32, .o _ | .dst32, .q _ | .dst32, .pred _ => true
  | .dst64, .v _ | .dst64, .u _ => true
  | .laneDest, .v _ | .laneDest, .o _ | .laneDest, .q _ | .laneDest, .pred _ => true
  | .perLane, .v _ | .perLane, .o _ | .perLane, .q _ => true
  | .mask, .u _ | .mask, .inl _ | .mask, .imm32 | .mask, .ones => true
  | .barrier, .inl _ | .barrier, .u _ => true
  | .addr64, .v _ | .addr64, .u _ | .addr64, .w _ => true
  | .loadDest _, .v _ => true
  | .loadDest n, .u _ => n ≤ 8
  | .loadDest n, .o _ => n ≤ 4
  | .stData n, .v _ => 1 ≤ n
  | .stData n, .u _ => n ≤ 8
  | .stData n, .pred _ => n ≤ 8
  | .stData n, .o _ | .stData n, .q _ | .stData n, .acc _ => n ≤ 4
  | .atomDest _, .v _ | .atomDest _, .u _ => true
  | .atomDest n, .o _ => n ≤ 4
  | .vec, .v _ => true
  | .vecOrO, .v _ | .vecOrO, .o _ => true
  | .tile, .t _ => true
  | .acc, .acc _ => true
  | .queue, .q _ => true
  | .immOnly, .inl _ | .immOnly, .imm32 => true
  | .quadOrZero, .v _ | .quadOrZero, .zero => true
  | .drainDest, .v _ | .drainDest, .q _ | .drainDest, .t _ => true
  | _, _ => false

/-- The bytes of an access width code (Table K-53); code 7 is undefined and never reaches here. -/
def widthBytes (sub : BitVec 3) : Nat :=
  match sub.toNat with
  | 0 | 1 => 1 | 2 | 3 => 2 | 4 => 4 | 5 => 8 | _ => 16

def slotR (c : Cls) : Slot := ⟨.req, c⟩
def slotO (c : Cls) : Slot := ⟨.opt, c⟩
def slotN : Slot := ⟨.absent, .src32⟩

/-- A form of three fields and no third source, with IMM32 free. -/
def mkForm (d a b : Slot) (nw : Bool) : Form := ⟨d, a, b, slotN, true, nw⟩
/-- A form whose IMM32 field is taken, so that no specifier may use it. -/
def mkImm (d a b x : Slot) (nw : Bool) : Form := ⟨d, a, b, x, false, nw⟩
/-- A form with a third source. -/
def mkForm3 (d a b x : Slot) (nw : Bool) : Form := ⟨d, a, b, x, true, nw⟩

/-- W of a drain: the 128-byte entries its string fills (R271). -/
def drainW (sub : BitVec 3) : Nat :=
  (if sub.getLsbD 0 then 1 else 2) * (if sub.getLsbD 2 then 1 else 2)

/-- Whether MOD selects the 64-bit form of a move, select, bit or match instruction (R171, R172, R180, R192). -/
def isB64 (md : BitVec 5) : Bool := md == 0x0B

/-- The form of an instruction: its operand fields and what they accept, by its SUB, MOD, length and operands. -/
def Op.form (op : Op) (f : Fields) : Form :=
  let d32 := slotR .dst32
  let s32 := slotR .src32
  let s64 := slotR .src64
  let ww := if isB64 f.md then s64 else s32
  let dw := if isB64 f.md then slotR .dst64 else d32
  let n := widthBytes f.sub
  match op with
  | .iadd | .isub | .imul | .imulh | .imin | .imax | .icmp => mkForm d32 s32 s32 true
  | .iabs => mkForm d32 s32 slotN true
  | .imad | .idot4 | .idot2 | .iclamp => mkForm3 d32 s32 s32 s32 true
  | .imadw => mkForm3 (slotR .dst64) s32 s32 s64 true
  | .iaddx => mkForm3 (slotR .dst64) s64 s64 (slotO .src32) true
  | .lea => mkForm3 (slotR .dst64) s64 s32 (slotO .src32) true
  | .isel => mkForm3 dw ww ww s32 true
  | .and | .or | .xor | .andn => mkForm dw ww ww true
  | .not | .brev => mkForm dw ww slotN true
  | .shl | .shr | .sar => mkForm dw ww s32 true
  | .shf | .bfext | .bfins | .prmt => mkForm3 d32 s32 s32 s32 true
  | .popc | .clz | .ctz => mkForm d32 ww slotN true
  | .fadd | .fsub | .fmul | .fmin | .fmax | .fcmp | .fscale | .hadd2 | .hmul2 | .fdiv => mkForm d32 s32 s32 true
  | .ffma | .hfma2 | .fdot2 => mkForm3 d32 s32 s32 s32 true
  | .fclass | .frnd | .frcp | .frsq | .fsqrt | .fexp2 | .flog2 | .fsin | .fcos | .ftanh => mkForm d32 s32 slotN true
  | .mov => mkForm dw ww slotN true
  | .movi => mkImm dw slotN slotN slotN true
  | .movs => mkForm dw ww (slotO .src32) true
  | .cvt => mkForm d32 s32 (if f.sub == 4 then s32 else slotN) true
  | .cvtq =>
    let c := if f.sub.toNat ≤ 1 then s32 else if f.sub == 4 then slotR .src128 else s64
    mkForm3 d32 c c (slotO .src32) true
  | .pack => mkForm3 d32 s32 s32 (if f.md.getLsbD 1 then slotO .src32 else slotN) true
  | .unpack => mkForm d32 s32 (slotO .src32) true
  | .mxq => mkForm3 (slotR .laneDest) s32 (slotO .src32) (if f.len == .f128 then slotO .src32 else slotN) true
  | .mxdq => mkForm d32 s32 (slotO .src32) true
  | .rdsr => mkForm d32 (slotR .immOnly) slotN true
  | .wrsr => mkForm slotN (slotR .immOnly) s32 false
  | .pop => mkForm d32 s32 s32 true
  | .pmov => mkForm d32 slotN slotN true
  | .pmovSet => mkForm slotN s32 (slotO .src32) false
  | .vote | .ballot | .redx => mkForm d32 s32 (slotR .mask) true
  | .matchLanes => mkForm d32 ww (slotR .mask) true
  | .shfl =>
    if f.sub.getLsbD 2 then mkImm (slotR .perLane) (slotR .vecOrO) s32 (slotR .mask) true
    else mkForm3 (slotR .perLane) (slotR .vecOrO) s32 (slotR .mask) true
  | .nbr => mkForm (slotR .perLane) (slotR .vecOrO) (slotO .src32) true
  | .scan => mkForm (slotR .perLane) s32 (slotR .mask) true
  | .segred | .segscan => mkForm3 (slotR .perLane) s32 s32 (slotR .mask) true
  | .bra | .tkopen => mkImm slotN slotN slotN slotN false
  | .brx => mkImm slotN s64 slotN slotN false
  | .call => mkImm (slotR .vec) slotN slotN slotN true
  | .callInd => mkImm (slotR .vec) s64 slotN slotN true
  | .ret => mkForm slotN s64 slotN false
  | .exit | .tkjoin | .tkleave | .yield | .nop | .brkpt | .fenceAr | .fenceSc | .sstep | .tret | .tretSkip | .idle =>
    mkForm slotN slotN slotN false
  | .trap => mkForm slotN (slotR .immOnly) slotN false
  | .sleep | .vgrow | .vshrink | .gang | .lease | .bfree => mkForm slotN s32 slotN false
  | .barSync | .barSyncOne => mkForm slotN (slotR .barrier) slotN false
  | .barArrive | .barArriveOne => mkForm (slotO .dst32) (slotR .barrier) slotN true
  | .barWait | .barinit | .barexp => mkForm slotN (slotR .barrier) s32 false
  | .barTest => mkForm d32 (slotR .barrier) s32 true
  | .barPhase => mkForm d32 (slotR .barrier) slotN true
  | .spawn => mkForm slotN s64 s32 false
  | .launch => mkImm slotN (slotO .quadOrZero) slotN slotN false
  | .reorder => mkImm slotN s32 (slotR .vec) slotN false
  | .pksend => mkForm (slotO .dst32) (slotR .vec) s32 true
  | .pkrecv | .pkpoll => mkForm (slotR .vec) slotN slotN false
  | .route => mkForm (slotR .dst64) s32 (slotO .src32) true
  | .gangRd => mkForm d32 slotN slotN true
  | .ld | .ldc => mkImm (slotR (.loadDest n)) (slotR .addr64) slotN slotN (n ≤ 8)
  | .st => mkImm slotN (slotR .addr64) (slotR (Cls.srcOf n)) slotN false
  | .ldx => mkImm (slotR (.loadDest n)) (slotR .addr64) s32 slotN (n ≤ 8)
  | .stx => mkImm (slotR (.stData n)) (slotR .addr64) s32 slotN false
  | .lds => mkImm (slotR (.loadDest n)) s32 slotN slotN (n ≤ 8)
  | .sts => mkImm slotN s32 (slotR (Cls.srcOf n)) slotN false
  | .pf => mkImm slotN (slotR .addr64) slotN slotN false
  | .ldt => mkImm (slotR .tile) (if f.sub == 1 then s32 else slotR .addr64) s32 slotN false
  | .stt => mkImm slotN (if f.sub == 1 then s32 else slotR .addr64) s32 (slotR .tile) false
  | .tmovRd | .tmovC8 | .tmovC16 | .tmovC32 | .tmovC4 => mkForm (slotR .vecOrO) (slotR .tile) s32 true
  | .tmovWr | .tmovWc32 | .tmovWc8 => mkForm (slotR .tile) s32 s32 false
  | .atom => mkImm (slotR (.atomDest 4)) (slotR .addr64) s32 slotN true
  | .atomcas =>
    let wd := if f.sub.getLsbD 0 then s64 else s32
    mkImm (slotR (.atomDest (if f.sub.getLsbD 0 then 8 else 4))) (if f.sub.getLsbD 2 then s32 else slotR .addr64) wd
      (if f.sub.getLsbD 1 then slotN else wd) true
  | .red => mkImm slotN (slotR .addr64) s32 slotN false
  | .atoms => mkImm (slotR (.atomDest 4)) s32 s32 slotN true
  | .atomf => mkImm (slotO (.atomDest 4)) (slotR .addr64) s32 slotN true
  | .cpy =>
    let g := f.sub == 0 || f.sub == 2
    let h := f.sub == 1 || f.sub == 2
    mkForm3 slotN (if g then s64 else s32) (if h then s64 else s32) s32 false
  | .cpyt =>
    let g := f.sub == 0 || f.sub == 2
    let h := f.sub == 1 || f.sub == 2
    mkForm3 slotN (if g then s64 else s32) (if h then s64 else s32) (slotO .src32) false
  | .cwait => mkForm slotN s32 slotN false
  | .ctest => mkForm d32 s32 slotN true
  | .xform => mkForm3 slotN s64 s64 (if f.sub == 7 then slotO .src32 else slotN) false
  | .seal => mkForm3 slotN s64 s64 (slotO .src64) false
  | .coll => mkImm slotN s64 s64 s32 false
  | .xsend => mkForm3 slotN (if f.sub == 1 then s32 else s64) s32 s32 false
  | .wload => mkForm slotN s64 s32 false
  | .balloc => mkForm (slotO .dst32) s32 slotN true
  | .bcfg => mkImm slotN s32 (if f.sub == 1 then s32 else slotR .addr64) slotN false
  | .bmac | .bmacs => mkForm3 (slotR .acc) s32 slotN (if f.sub == 1 then slotR .mask else slotN) false
  | .bdrain =>
    mkForm3 (slotR .drainDest) (slotR .acc) slotN
      (match f.dst with | .t _ => slotO .src32 | _ => slotN) (drainW f.sub ≤ 2)
  | .bclr => mkForm (slotR .acc) slotN slotN false
  | .bfeed =>
    mkForm3 slotN (if f.sub.getLsbD 1 then slotR .tile else slotR .vec) s64
      (if f.sub.getLsbD 1 then slotO .src32 else slotN) false
  | .bstat => mkForm d32 s32 (slotO .src32) true
  | .qcfg => mkForm slotN (slotR .queue) s32 false
  | .qlen => mkForm d32 (slotR .queue) slotN true
  | .qdrain => mkForm slotN (slotR .queue) (slotO .src32) false
  | .svcTransfer | .svcIcflush => mkForm (slotO .dst32) (slotR .immOnly) (slotO .src64) true
  | .tlbinv => mkImm slotN s64 s32 slotN false
  | .cflushI | .cflushC | .cflushWb => mkForm slotN (slotO .src64) (slotO .src32) false
  | .bremap => mkForm slotN s32 s32 false
  | .btest => mkForm d32 s32 slotN true

/-- One operand field against its slot: absent holds nothing, an optional one may be omitted and may not name s1023,
a required one holds an operand of an accepted class (R159). -/
def Slot.ok (s : Slot) (x : Operand) : Bool :=
  match s.need with
  | .absent => x == .none
  | .opt => x == .none || (s.cls.accepts x && x != .u 1023)
  | .req => s.cls.accepts x

/-- The destination field, which NW empties (R159). -/
def Form.dstSlot (fm : Form) (nw : Bool) : Slot :=
  if nw then ⟨.absent, fm.dst.cls⟩ else fm.dst

def Fields.operands (f : Fields) : List Operand := [f.dst, f.sa, f.sb, f.sx]

/-- The number of fields that use the IMM32 specifier. -/
def Fields.immUses (f : Fields) : Nat := (f.operands.filter (· == .imm32)).length

/-- Whether an operand is an accumulator specifier. -/
def Operand.isAcc (x : Operand) : Bool := match x with | .acc _ => true | _ => false

/-- The IMM32 and accumulator specifiers: only in F96 and F128, IMM32 in one field at most and only where it is free, not
both together, and one accumulator row per instruction (R160). -/
def Fields.immOk (f : Fields) (free : Bool) : Bool :=
  let accs := f.operands.filter Operand.isAcc
  (f.immUses == 0 || (f.immUses == 1 && free && f.len != .f64))
    && (accs.isEmpty || (f.len != .f64 && f.immUses == 0 && accs.all (fun a => accs.all (fun b => a == b))))

/-- The CLASS check of Table K-37. -/
def Op.clsOk (op : Op) (f : Fields) : Bool :=
  let fm := op.form f
  (fm.dstSlot f.nw).ok f.dst && fm.sa.ok f.sa && fm.sb.ok f.sb && fm.sx.ok f.sx && f.immOk fm.immFree
    && (!f.nw || fm.nwOk)

/-- MOD in the rounding layout: a code up to `top`, `.ftz` where allowed, MOD[4] where the opcode defines it (R162). -/
def roundMod (md : BitVec 5) (top : Nat) (ftz bf : Bool) : Bool :=
  (md.extractLsb' 0 3).toNat ≤ top && (ftz || !md.getLsbD 3) && (bf || !md.getLsbD 4)

/-- MOD in the ordering layout: a scope up to `top` and one of the orderings allowed (R101, R162). -/
def orderMod (md : BitVec 5) (top : Nat) (orders : List Nat) : Bool :=
  (md.extractLsb' 0 3).toNat ≤ top && orders.contains (md.extractLsb' 3 2).toNat

/-- MOD in the reduction layout (R194). -/
def reduceMod (md : BitVec 5) (sub : BitVec 3) (excl : Bool) : Bool :=
  let ty := (md.extractLsb' 0 2).toNat
  ty != 3 && (excl || !md.getLsbD 2) && (ty == 2 || !md.getLsbD 3) && !md.getLsbD 4 && (ty != 2 || sub.toNat ≤ 2)

/-- The MOD check of Table K-37. -/
def Op.modOk (op : Op) (f : Fields) : Bool :=
  let m := f.md
  let n := m.toNat
  match op with
  | .iadd | .isub | .imul | .imulh | .imad | .imadw | .imin | .imax | .iaddx | .lea | .icmp | .iclamp => n == 0 || n == 4
  | .idot4 | .idot2 | .pack | .unpack => n ≤ 3
  | .isel | .mov | .movs | .matchLanes | .and | .or | .xor | .andn | .not | .shl | .shr | .sar | .popc | .clz | .ctz
  | .brev => n == 0 || n == 4 || n == 8 || n == 0x0B
  | .shf | .bfext | .bfins | .prmt => n == 0 || n == 4 || n == 8
  | .fadd | .fsub | .fmul | .ffma | .frnd | .fscale | .fsqrt | .fdiv => roundMod m 3 true false
  | .fmin | .fmax | .fcmp | .frcp | .frsq | .fexp2 | .flog2 | .fsin | .fcos | .ftanh => roundMod m 0 true false
  | .hfma2 | .hadd2 | .hmul2 => roundMod m 3 false true
  | .fdot2 => roundMod m 3 true true
  | .movi => n == 0 || n == 8 || n == 0x0B
  | .cvt => n ≤ 0x15
  | .cvtq => roundMod m 4 true false
  | .mxq => roundMod m 4 true true
  | .mxdq => m.extractLsb' 0 4 == 0
  | .redx | .segred => reduceMod m f.sub false
  | .scan | .segscan => reduceMod m f.sub true
  | .fenceAr | .fenceSc => orderMod m 5 [3]
  | .ld | .ldx => orderMod m 5 [0, 1]
  | .st | .stx => orderMod m 5 [0, 2]
  | .ldt => orderMod m (if f.sub == 1 then 2 else 5) [0, 1]
  | .stt => orderMod m (if f.sub == 1 then 2 else 5) [0, 2]
  | .lds => orderMod m 2 [0, 1]
  | .sts => orderMod m 2 [0, 2]
  | .atom | .atomf => orderMod m 5 [0, 1, 2, 3]
  | .atomcas => orderMod m (if f.sub.getLsbD 2 then 2 else 5) [0, 1, 2, 3]
  | .atoms => orderMod m 2 [0, 1, 2, 3]
  | .red => orderMod m 5 [0, 2]
  | .cpy | .cpyt | .cwait | .ctest | .seal | .xsend | .wload => n ≤ 3
  | .xform => (m.extractLsb' 2 3).toNat ≤ 3
  | .coll => (m.extractLsb' 0 2).toNat ≤ 2 && (m.extractLsb' 2 2).toNat ≤ 2 && !m.getLsbD 4
  | _ => n == 0

/-- The service number of `svc`, from its SA field (R352). -/
def Fields.svcNumber (f : Fields) : Word :=
  match f.sa with
  | .inl i => i.signExtend 32
  | _ => f.imm

/-- The FIELD check of Table K-37: MCAST of `bfeed`, IMM32 beside an accumulator of row 0xB, and IMM32 of `tlbinv`. -/
def Op.fieldOk (op : Op) (f : Fields) : Bool :=
  let rowBOk := !f.operands.any Operand.isAcc || f.imm.extractLsb' 6 26 == 0
  match op with
  | .bfeed => f.mcast != 0 && rowBOk
  | .tlbinv => f.imm.extractLsb' 12 20 == 0
  | _ => op.opc / 16 != 0xB || rowBOk

/-- Whether an opcode uses a field of Table K-34. -/
def usesMcast (o : Nat) : Bool := o == 0xB7
def usesBreg (o : Nat) : Bool := o == 0xA0 || o == 0xA4 || o == 0xA5 || o == 0xA6 || o == 0xA8
def usesCtag (o : Nat) : Bool := o == 0xA1
def usesRu (o : Nat) : Bool := o == 0xB3 || o == 0xB4

/-- The pad of R151: `nop` with SUB 7 and every other field as an unguarded, empty instruction has it. -/
def Fields.padOk (f : Fields) : Bool :=
  f.guard == 7 && !f.nw && !f.yld && f.hint == 0 && f.md == 0 && f.imm == 0 && f.g2 == 7
    && f.operands.all (fun x => x == .none || x == .u 1023)

/-- The RESERVED check of Table K-37 on the fields (bit [63], bits [127:123] and a reserved specifier in a pad are the decoder's). -/
def reservedOk (o : Nat) (f : Fields) : Bool :=
  !(f.guard == 7 && f.gn) && !(f.g2 == 7 && f.g2n) && (f.hint == 0 || o / 16 == 8 || o / 16 == 9)
    && (usesMcast o || f.mcast == 0) && (usesBreg o || f.breg == 0) && (usesCtag o || f.ctag == 0)
    && (usesRu o || !f.ru) && (o != 0x69 || f.sub != 7 || f.padOk)

/-- Whether the row is the one that the SUB value and, for `svc`, the service number select among the rows of an opcode. -/
def Op.selects (op : Op) (f : Fields) : Bool :=
  op.subOk f.len f.sub &&
  match op with
  | .svcTransfer => f.svcNumber != 0x11
  | .svcIcflush => f.svcNumber == 0x11
  | _ => true

/-- The fields a length does not have hold what R154 to R156 give them. -/
def Fields.canonical (f : Fields) : Bool :=
  match f.len with
  | .f64 => f.g2 == 7 && !f.g2n && f.hint == 0 && f.md == 0 && f.imm == 0 && f.mcast == 0 && f.breg == 0 && f.ctag == 0 && !f.ru
  | .f96 => f.sx == .none && f.mcast == 0 && f.breg == 0 && f.ctag == 0 && !f.ru
  | .f128 => true

/-- The checks of Table K-37 from FORM to FIELD on decoded fields, in their order. -/
def Op.check (op : Op) (f : Fields) : Option Illegal :=
  if !opcTakes op.opc f.len then some .form
  else if !reservedOk op.opc f then some .reserved
  else if !op.selects f then some .sub
  else if !op.clsOk f then some .cls
  else if !op.modOk f then some .md
  else if !op.fieldOk f then some .field
  else none

end Sys2Proof
end

