-- ==== Sys2Proof/WellFormed.lean ====
section
/-! DEFINITION. Which instructions are well formed: those whose word passes every decode check (Table K-37, R159 to R165). -/

namespace Sys2Proof

/-- A well-formed instruction: its word passes every check of Table K-37. An event has no encoding and is well formed. -/
def Instr.wf (i : Instr) : Bool :=
  match i.word? with
  | some (op, f) => f.canonical && (op.check f).isNone
  | none => true

end Sys2Proof
end

