-- ==== Sys2Proof/Decode.lean ====
section
/-! DEFINITION. The decoder, total on any bits and rejecting by the detail code of Table K-37, and the encoder, both from the
encoding tables of spec 06 (Tables K-32 to K-35). -/

namespace Sys2Proof

/-- The operand that an 11-bit specifier names (Table K-35); none when the table marks it reserved. -/
def Operand.ofBits (x : BitVec 11) : Option Operand :=
  if x.getLsbD 10 then some (.u (x.extractLsb' 0 10))
  else
    match (x.extractLsb' 8 2).toNat with
    | 0 => some (.v (x.extractLsb' 0 8))
    | 2 => some (.inl (x.extractLsb' 0 8))
    | 3 => if x.extractLsb' 3 5 == 0 then some (.pred (x.extractLsb' 0 3)) else Option.none
    | _ =>
      match (x.extractLsb' 5 3).toNat with
      | 0 => if x.extractLsb' 3 2 == 0 then some (.w (x.extractLsb' 0 3)) else Option.none
      | 1 => if x.extractLsb' 3 2 == 0 then some (.o (x.extractLsb' 0 3)) else Option.none
      | 2 => if x.extractLsb' 4 1 == 0 then some (.q (x.extractLsb' 0 4)) else Option.none
      | 3 => if x.extractLsb' 4 1 == 0 then some (.t (x.extractLsb' 0 4)) else Option.none
      | 4 => if x.extractLsb' 3 2 == 0 then some (.acc (x.extractLsb' 0 3)) else Option.none
      | 5 =>
        match (x.extractLsb' 0 5).toNat with
        | 0 => some .zero
        | 1 => some .ones
        | 2 => some .imm32
        | _ => Option.none
      | _ => Option.none

/-- The specifier of an operand (Table K-35); an omitted operand is 0x7FF (R159). -/
def Operand.toBits (x : Operand) : BitVec 11 :=
  match x with
  | .none => 0x7FF
  | .u n => 1#1 ++ n
  | .v n => 0#3 ++ n
  | .w n => 0b00100000#8 ++ n
  | .o n => 0b00100100#8 ++ n
  | .q n => 0b0010100#7 ++ n
  | .t n => 0b0010110#7 ++ n
  | .acc r => 0b00110000#8 ++ r
  | .zero => 0b00110100000#11
  | .ones => 0b00110100001#11
  | .imm32 => 0b00110100010#11
  | .inl i => 0b010#3 ++ i
  | .pred n => 0b01100000#8 ++ n

/-- The operand of a field, before the form says whether 0x7FF omits it. -/
def Operand.raw (x : BitVec 11) : Operand := (Operand.ofBits x).getD .none

/-- Reads 0x7FF of an optional or absent field as no operand (R159). -/
def Slot.settle (s : Slot) (x : Operand) : Operand :=
  if s.need != .req && x == .u 1023 then .none else x

/-- The length that bits [1:0] give (R149). -/
def lenOf (w : BitVec 128) : Option Len :=
  match (w.extractLsb' 0 2).toNat with
  | 0 => some .f64
  | 1 => some .f96
  | 2 => some .f128
  | _ => none

/-- The specifier bits of the third source: SC in F64, SD in F128, none in F96 (R154 to R156). -/
def sxBits (len : Len) (w : BitVec 128) : BitVec 11 :=
  match len with
  | .f64 => w.extractLsb' 52 11
  | .f96 => 0x7FF
  | .f128 => w.extractLsb' 104 11

/-- The fields of Tables K-32 to K-34, with the operands before the form settles them. -/
def rawFields (len : Len) (w : BitVec 128) : Fields :=
  let long := len != .f64
  let wide := len == .f128
  { len := len
    guard := w.extractLsb' 10 3
    gn := w.getLsbD 13
    g2 := if long then w.extractLsb' 52 3 else 7
    g2n := long && w.getLsbD 55
    sub := w.extractLsb' 14 3
    nw := w.getLsbD 17
    yld := w.getLsbD 18
    dst := Operand.raw (w.extractLsb' 19 11)
    sa := Operand.raw (w.extractLsb' 30 11)
    sb := Operand.raw (w.extractLsb' 41 11)
    sx := Operand.raw (sxBits len w)
    hint := if long then w.extractLsb' 56 2 else 0
    md := if long then w.extractLsb' 58 5 else 0
    imm := if long then w.extractLsb' 64 32 else 0
    mcast := if wide then w.extractLsb' 96 8 else 0
    breg := if wide then w.extractLsb' 115 4 else 0
    ctag := if wide then w.extractLsb' 119 3 else 0
    ru := wide && w.getLsbD 122 }

/-- The fields with 0x7FF of optional and absent operands read as no operand (R159). -/
def Fields.settle (f : Fields) (fm : Form) : Fields :=
  { f with
    dst := (fm.dstSlot f.nw).settle f.dst
    sa := fm.sa.settle f.sa
    sb := fm.sb.settle f.sb
    sx := fm.sx.settle f.sx }

/-- Whether every specifier of the word is one that Table K-35 gives. -/
def specifiersOk (len : Len) (w : BitVec 128) : Bool :=
  (Operand.ofBits (w.extractLsb' 19 11)).isSome && (Operand.ofBits (w.extractLsb' 30 11)).isSome
    && (Operand.ofBits (w.extractLsb' 41 11)).isSome && (Operand.ofBits (sxBits len w)).isSome

/-- The must-be-zero bits of the word itself: [63], and [127:123] of F128 (R154 to R156). -/
def zeroBitsOk (len : Len) (w : BitVec 128) : Bool :=
  !w.getLsbD 63 && (len != .f128 || w.extractLsb' 123 5 == 0)

/-- A pad names no operand, so a specifier that Table K-35 reserves breaks R151. -/
def padSpecifiersOk (o : Nat) (f : Fields) (w : BitVec 128) : Bool := o != 0x69 || f.sub != 7 || specifiersOk f.len w

/-- The row that an opcode's SUB value selects (R163, R168). -/
def selectOp (o : Nat) (f : Fields) : Option Op :=
  Op.all.find? (fun op => op.opc == o && op.selects f)

/-- The instruction that the 128 bits from its first byte on hold, or the first failing check of Table K-37 (R165).
Bits above its length are ignored. -/
def decodeWord (w : BitVec 128) : Except Illegal Instr :=
  match lenOf w with
  | none => .error .length
  | some len =>
    let o := (w.extractLsb' 2 8).toNat
    let f := rawFields len w
    if !opcAssigned o then .error .opcode
    else if !opcTakes o len then .error .form
    else if !(zeroBitsOk len w && reservedOk o f && padSpecifiersOk o f w) then .error .reserved
    else
      match selectOp o f with
      | none => .error .sub
      | some op =>
        let g := f.settle (op.form f)
        if !specifiersOk len w then .error .specifier
        else if !op.clsOk g then .error .cls
        else if !op.modOk g then .error .md
        else if !op.fieldOk g then .error .field
        else .ok (Instr.ofOp op g)

/-- The bytes of an instruction of a length (R149). -/
def Len.bytes (len : Len) : Nat :=
  match len with
  | .f64 => 8 | .f96 => 12 | .f128 => 16

/-- Decoding at an address: the alignment and fetch-block checks first (R150, R165), then the word. -/
def decodeAt (pc : DWord) (w : BitVec 128) : Except Illegal Instr :=
  if pc.extractLsb' 0 2 != 0 then .error .pcAlign
  else
    match lenOf w with
    | none => .error .length
    | some len =>
      if (pc.extractLsb' 0 5).toNat + len.bytes > 32 then .error .fetchCross
      else decodeWord w

/-- The first 64 bits of an instruction but for bits [63:52], which depend on the format (Table K-32). -/
def Fields.head (f : Fields) (o : Nat) : BitVec 52 :=
  f.sb.toBits ++ f.sa.toBits ++ f.dst.toBits ++ BitVec.ofBool f.yld ++ BitVec.ofBool f.nw ++ f.sub
    ++ BitVec.ofBool f.gn ++ f.guard ++ BitVec.ofNat 8 o
    ++ (match f.len with | .f64 => 0b00#2 | .f96 => 0b01#2 | .f128 => 0b10#2)

/-- Bits [95:52] of F96 and F128 (Table K-33). -/
def Fields.middle (f : Fields) : BitVec 44 :=
  f.imm ++ 0#1 ++ f.md ++ f.hint ++ BitVec.ofBool f.g2n ++ f.g2

/-- Bits [127:96] of F128 (Table K-34). -/
def Fields.tail (f : Fields) : BitVec 32 :=
  0#5 ++ BitVec.ofBool f.ru ++ f.ctag ++ f.breg ++ f.sx.toBits ++ f.mcast

/-- The word of an instruction of a row with an encoding, in 128 bits, zero above its length (R153 to R156). -/
def encodeFields (o : Nat) (f : Fields) : BitVec 128 :=
  match f.len with
  | .f64 => (0#64 ++ (0#1 ++ f.sx.toBits ++ f.head o : BitVec 64) : BitVec 128)
  | .f96 => (0#32 ++ (f.middle ++ f.head o : BitVec 96) : BitVec 128)
  | .f128 => (f.tail ++ (f.middle ++ f.head o : BitVec 96) : BitVec 128)

/-- The words of an instruction; an event has none. -/
def encode (i : Instr) : Option (BitVec 128) :=
  match i.word? with
  | some (op, f) => some (encodeFields op.opc f)
  | none => none

/-- The instruction whose bits are w, bit 0 the least significant bit of the first byte, bits above nbits zero. -/
def decodeTableWord (nbits w : Nat) : Option Instr :=
  match decodeWord (BitVec.ofNat 128 (w % 2 ^ nbits)) with
  | .ok i => some i
  | .error _ => none

end Sys2Proof
end

