-- ==== Sys2Proof/Machine/Memory.lean ====
section
/-! DEFINITION. Memory: the one canonical form of a list of bytes, and global memory as the cores, the L2 of a die and the home
slices see it (spec 03 R94 to R99, spec 04 R104 to R112). A byte is read at three places: a core reads its own dirty bytes,
then the clean bytes of its L1, then its die; a die reads the dirty bytes of its L2, then the home slice. -/

namespace Sys2Proof.Machine

/-! ## Lists of bytes -/

/-- The byte listed at an address. -/
def cellGet (m : Cells) (a : Nat) : Option Byte :=
  match m with
  | [] => none
  | (k, b) :: rest => if k = a then some b else if a < k then none else cellGet rest a

/-- The list with a byte at an address, in rising order. -/
def cellSet (m : Cells) (a : Nat) (b : Byte) : Cells :=
  match m with
  | [] => [(a, b)]
  | (k, x) :: rest =>
    if a < k then (a, b) :: (k, x) :: rest
    else if a = k then (a, b) :: rest
    else (k, x) :: cellSet rest a b

/-- The list without an address. -/
def cellDel (m : Cells) (a : Nat) : Cells :=
  match m with
  | [] => []
  | (k, x) :: rest => if k = a then rest else if a < k then (k, x) :: rest else (k, x) :: cellDel rest a

/-- A byte written to a memory whose unlisted bytes read zero: a zero is not listed (log 1). -/
def cellPut (m : Cells) (a : Nat) (b : Byte) : Cells :=
  if b = 0 then cellDel m a else cellSet m a b

/-- The list without the addresses of a set. -/
def cellDrop (m : Cells) (p : Nat → Bool) : Cells := m.filter (fun x => !p x.1)
/-- The listed bytes of a set of addresses. -/
def cellKeep (m : Cells) (p : Nat → Bool) : Cells := m.filter (fun x => p x.1)

/-- A list of bytes put at consecutive addresses of a memory whose unlisted bytes read zero. -/
def cellPutAll (m : Cells) (a : Nat) (bs : List Byte) : Cells :=
  match bs with
  | [] => m
  | b :: rest => cellPutAll (cellPut m a b) (a + 1) rest

/-- A list of bytes set at consecutive addresses. -/
def cellSetAll (m : Cells) (a : Nat) (bs : List Byte) : Cells :=
  match bs with
  | [] => m
  | b :: rest => cellSetAll (cellSet m a b) (a + 1) rest

/-- Every cell of the first list set in the second. -/
def cellMerge (xs m : Cells) : Cells := xs.foldl (fun acc x => cellSet acc x.1 x.2) m

/-- Rising addresses, none twice. -/
def cellsSorted (m : Cells) : Bool :=
  match m with
  | [] => true
  | (k, _) :: rest => rest.all (fun x => decide (k < x.1)) && cellsSorted rest

/-- The canonical form of a memory whose unlisted bytes read zero: rising addresses, no zero byte listed. -/
def Memory.wf (m : Cells) : Bool := cellsSorted m && m.all (fun x => x.2 != 0)

/-- Little-endian value of a list of bytes (R2). -/
def leNat (bs : List Byte) : Nat :=
  match bs with
  | [] => 0
  | b :: rest => b.toNat + 256 * leNat rest

/-- The n little-endian bytes of a number (R2). -/
def leBytes (n v : Nat) : List Byte :=
  match n with
  | 0 => []
  | k + 1 => BitVec.ofNat 8 v :: leBytes k (v / 256)

/-- n bytes of a list from a place on, as a number. -/
def bytesAt (bs : List Byte) (at_ n : Nat) : Nat := leNat ((bs.drop at_).take n)

/-- The addresses of n bytes from a. -/
def span (a n : Nat) : List Nat := (List.range n).map (a + ·)

/-! ## Access to dies, cores and groups -/

/-- A die with a change made to it. -/
def State.modDie (s : State) (d : DieId) (f : Die → Die) : State :=
  { s with dies := s.dies.set d (f s.dies[d]) }

/-- A core of a die. -/
def State.core (s : State) (d : DieId) (c : CoreId) : Core := s.dies[d].cores[c]

/-- A core with a change made to it. -/
def State.modCore (s : State) (d : DieId) (c : CoreId) (f : Core → Core) : State :=
  s.modDie d (fun x => { x with cores := x.cores.set c (f x.cores[c]) })

/-- The group in a slot. -/
def State.group? (s : State) (r : GRef) : Option Group := (s.core r.die r.core).slots[r.slot]

/-- A group put into a slot. -/
def State.setGroup (s : State) (r : GRef) (g : Group) : State :=
  s.modCore r.die r.core (fun k => { k with slots := k.slots.set r.slot (some g) })

/-- A change made to the group of a slot, if there is one. -/
def State.modGroup (s : State) (r : GRef) (f : Group → Group) : State :=
  match s.group? r with
  | some g => s.setGroup r (f g)
  | none => s

/-- A counter of a die raised (Table F-2). -/
def State.count (s : State) (d : DieId) (i : Fin 9) (n : Nat) : State :=
  s.modDie d (fun x => { x with counters := x.counters.set i (x.counters[i] + BitVec.ofNat 64 n) })

/-- A fresh number for a free value, and the state that has used it (log 15). -/
def State.freshened (s : State) : State := { s with fresh := s.fresh + 1 }

/-- The argument of the k-th free value of a step: no two free values of a run share one (log 15). -/
def freeAt (fresh k : Nat) : Nat := fresh * 2 ^ 70 + k

/-! ## Global memory -/

/-- Where a write or a read takes place (Table K-19): the core's L1, the die's L2, the home slice. -/
inductive Level
  | core | die | home
  deriving DecidableEq, Repr

/-- The level of a scope code (R99, R105): group, team and core lie in L1. -/
def scopeLevel (code : Nat) : Level :=
  if code ≤ 2 then .core else if code = 3 then .die else .home

/-- The first byte beyond device memory (R330). -/
def memEnd : Nat := 2 ^ 39

/-- The storage address of a physical byte: a merged line stands at its representative (R248). -/
def State.homeAddr (s : State) (a : Nat) : Nat :=
  match s.aliases.find? (fun x => x.line == a / 128) with
  | some x => x.rep * 128 + a % 128
  | none => a

/-- A byte at its home slice. -/
def State.homeByte (s : State) (a : Nat) : Byte := (cellGet s.hbm (s.homeAddr a)).getD 0

/-- A byte as a die's L2 holds it (R97, R107). -/
def State.dieByte (s : State) (d : DieId) (a : Nat) : Byte :=
  match cellGet s.dies[d].l2 a with
  | some b => b
  | none => s.homeByte a

/-- A byte as a core's L1 holds it (R106, R107). -/
def State.coreByte (s : State) (d : DieId) (c : CoreId) (a : Nat) : Byte :=
  match cellGet (s.core d c).l1Dirty a with
  | some b => b
  | none =>
    match cellGet (s.core d c).l1 a with
    | some b => b
    | none => s.dieByte d a

/-- A byte read at a level. -/
def State.byteAt (s : State) (d : DieId) (c : CoreId) (lvl : Level) (a : Nat) : Byte :=
  match lvl with
  | .core => s.coreByte d c a
  | .die => s.dieByte d a
  | .home => s.homeByte a

/-- n bytes read at a level. -/
def State.readAt (s : State) (d : DieId) (c : CoreId) (lvl : Level) (a n : Nat) : List Byte :=
  (span a n).map (s.byteAt d c lvl)

/-- n bytes as a die holds them. -/
def State.readDie (s : State) (d : DieId) (a n : Nat) : List Byte := (span a n).map (s.dieByte d)

/-- n bytes as the home slices hold them. -/
def State.readHome (s : State) (a n : Nat) : List Byte := (span a n).map s.homeByte

/-- Whether a byte's 16-byte unit is poisoned (R359; one poison per physical unit, log 6). -/
def State.poisonedAt (s : State) (a : Nat) : Bool := s.poison.contains (s.homeAddr a / 16)

/-- Whether any unit of n bytes is poisoned. -/
def State.poisonedIn (s : State) (a n : Nat) : Bool := (span a n).any s.poisonedAt

/-- The 16-byte units that n bytes from a cover whole. -/
def wholeUnits (a n : Nat) : List Nat :=
  ((List.range (n / 16 + 1)).map (a / 16 + ·)).filter (fun u => a ≤ u * 16 && u * 16 + 16 ≤ a + n)

/-- A write of a whole unit clears its poison; a partial write leaves it (R359). -/
def State.clearPoison (s : State) (a n : Nat) : State :=
  let us := (wholeUnits a n).map (fun u => s.homeAddr (u * 16) / 16)
  { s with poison := s.poison.filter (fun u => !us.contains u) }

/-- Poison put on units. -/
def State.addPoison (s : State) (us : List Nat) : State :=
  { s with poison := (us.filter (fun u => !s.poison.contains u)) ++ s.poison }

/-- A byte put at its home slice. -/
def State.homePut (s : State) (a : Nat) (b : Byte) : State := { s with hbm := cellPut s.hbm (s.homeAddr a) b }

/-- Listed bytes put at their home slices; the lines written are noted while a seal engine has read its region (R122). -/
def State.homePutCells (s : State) (xs : Cells) : State :=
  xs.foldl (fun t x => t.homePut x.1 x.2)
    { s with sealWatch := s.sealWatch.map (fun ls => (xs.map (fun x => s.homeAddr x.1 / 128)).eraseDups ++ ls) }

/-! ### Lines of L2, of the LLC and of the directory (R1, R97, R98) -/

/-- The lines that one slice of L2 holds: 1 GiB in 64 slices, less the slice's part of the 64 MiB exchange window (R97, R250). -/
def l2SliceLines : Nat := 131072 - 8192

/-- The lines that one home slice caches in the LLC: 768 MiB a Cistern die in 64 slices (R1, R98). -/
def llcSliceLines : Nat := 98304

/-- The Cistern die of a 4 KiB frame (R98): each aligned run of eight frames lies over the eight dies, turned by a hash (log 83). -/
def homeCistern (frame : Nat) : Fin 8 := Fin.ofNat 8 (frame + (Config.cisternHash (frame / 8)).val)

/-- The home slice of a line (R98): its Cistern die by its 4 KiB frame, and its slice there by the line. -/
def homeSliceOf (line : Nat) : Fin 8 × Fin 64 := (homeCistern (line / 32), Config.homeSlice line)

/-- The last line of a list that a test holds of, the oldest entered. -/
def oldestWith (xs : List Nat) (p : Nat → Bool) : Option Nat := xs.reverse.find? p

/-- A line cached at its home slice; a full slice gives up its oldest line, whose bytes are in HBM4 (R98; log 83). -/
def llcEnter (xs : List Nat) (line : Nat) : List Nat :=
  if xs.contains line then xs
  else if xs.length < llcSliceLines then line :: xs
  else
    let same := fun (y : Nat) => homeSliceOf y == homeSliceOf line
    if (xs.filter same).length < llcSliceLines then line :: xs
    else
      match oldestWith xs same with
      | some v => line :: xs.filter (· != v)
      | none => line :: xs

/-- The sharer vector of a line (R98). -/
def shareOf (xs : List (Nat × BitVec 32)) (line : Nat) : BitVec 32 :=
  match xs.find? (fun x => x.1 == line) with
  | some x => x.2
  | none => 0

/-- A sharer vector replaced; an empty one is not listed. -/
def shareSet (xs : List (Nat × BitVec 32)) (line : Nat) (v : BitVec 32) : List (Nat × BitVec 32) :=
  let rest := xs.filter (fun x => x.1 != line)
  if v = 0 then rest else (line, v) :: rest

/-- The dirty bytes of a die's L2 in a set of addresses put at home and gone from L2. -/
def State.l2Move (s : State) (d : DieId) (p : Nat → Bool) : State :=
  let moved := cellKeep s.dies[d].l2 p
  if moved.isEmpty then s
  else (s.homePutCells moved).modDie d (fun x => { x with l2 := cellDrop x.l2 p })

/-- The same on every die of a list. -/
def State.l2MoveOn (s : State) (ds : List DieId) (p : Nat → Bool) : State :=
  ds.foldl (fun t d => t.l2Move d p) s

def allDies : List DieId := List.finRange 32
def allCores : List CoreId := List.finRange 48
def allSlots : List SlotId := List.finRange 32
def allLanes : List Lane := List.finRange 32

/-- A die without its copies of a set of lines. -/
def Die.dropLines (x : Die) (p : Nat → Bool) : Die := { x with l2Lines := x.l2Lines.filter (fun l => !p l) }

/-- The copies of a set of lines in the dies of a list written back and invalidated, and the dies taken out of their sharer vectors
(R98, R107). -/
def State.takeBack (s : State) (ds : List DieId) (lines : Nat → Bool) : State :=
  let s1 := s.l2MoveOn ds (fun a => lines (a / 128))
  let out : BitVec 32 := ds.foldl (fun v d => v ||| 1#32 <<< d.val) 0
  { s1 with
    dies := Vector.ofFn fun d => if ds.contains d then (s1.dies[d]).dropLines lines else s1.dies[d]
    sharers := (s1.sharers.map (fun x => if lines x.1 then (x.1, x.2 &&& ~~~out) else x)).filter (fun x => x.2 != 0) }

/-- Before a home slice performs a write, every other die's copy of the line is written back and invalidated (R107). -/
def State.recall (s : State) (keep : Option DieId) (a n : Nat) : State :=
  s.takeBack (allDies.filter (fun d => some d != keep)) (fun l => a / 128 ≤ l && l ≤ (a + n - 1) / 128)

/-- A die's dirty L2 bytes of a set of addresses performed at home, every other die's copy of their lines invalidated first (R106,
R107). -/
def State.l2WriteBack (s : State) (d : DieId) (p : Nat → Bool) : State :=
  let moved := cellKeep s.dies[d].l2 p
  if moved.isEmpty then s
  else
    let lines := fun (l : Nat) => moved.any (fun x => x.1 / 128 == l)
    (s.takeBack (allDies.filter (· != d)) lines).l2Move d p

/-- A line that a die's L2 takes: it stands at its home slice with the die among its sharers; a full slice of L2 gives up the line that
it has held longest, written back (R97, R98; log 83). -/
def State.l2Take (s : State) (d : DieId) (line : Nat) : State :=
  let xs := s.dies[d].l2Lines
  if xs.contains line then s
  else
    let s1 : State := { s with
      llc := llcEnter s.llc line, sharers := shareSet s.sharers line (shareOf s.sharers line ||| 1#32 <<< d.val) }
    let same := fun (y : Nat) => Config.l2Slice y == Config.l2Slice line
    let out := if xs.length < l2SliceLines then none else if (xs.filter same).length < l2SliceLines then none else oldestWith xs same
    match out with
    | some v =>
      (s1.l2WriteBack d (fun a => a / 128 == v)).modDie d (fun x => { x with l2Lines := line :: x.l2Lines.filter (· != v) })
    | none => s1.modDie d (fun x => { x with l2Lines := line :: x.l2Lines })

/-- The lines of n bytes from a. -/
def linesOf (a n : Nat) : List Nat := (List.range ((a % 128 + n + 127) / 128)).map (a / 128 + ·)

/-- Lines that a die's L2 takes. -/
def State.l2TakeAll (s : State) (d : DieId) (lines : List Nat) : State := lines.foldl (fun t l => t.l2Take d l) s

/-- Bytes performed at their home slices, from a die or from outside the dies (R105, R107). -/
def State.writeHome (s : State) (d : Option DieId) (a : Nat) (bs : List Byte) : State :=
  if bs.isEmpty then s
  else
    let n := bs.length
    let s1 := (s.recall d a n).clearPoison a n
    let s2 := match d with
      | some d => s1.modDie d (fun x => { x with l2 := cellDrop x.l2 (fun k => a ≤ k && k < a + n) })
      | none => s1
    s2.homePutCells ((span a n).zip bs)

/-- Bytes performed in a die's L2 (R105). -/
def State.writeDie (s : State) (d : DieId) (a : Nat) (bs : List Byte) : State :=
  ((s.clearPoison a bs.length).l2TakeAll d (linesOf a bs.length)).modDie d (fun x => { x with l2 := cellSetAll x.l2 a bs })

/-- The dirty L1 bytes of a set of addresses performed in the die's L2; they stay valid and clean (R96, R106). -/
def State.l1WriteBack (s : State) (d : DieId) (c : CoreId) (p : Nat → Bool) : State :=
  let moved := cellKeep (s.core d c).l1Dirty p
  if moved.isEmpty then s
  else
    ((s.l2TakeAll d ((moved.map (fun x => x.1 / 128)).eraseDups)).modDie d (fun x => { x with l2 := cellMerge moved x.l2 })).modCore d c
      (fun k => { k with l1Dirty := cellDrop k.l1Dirty p, l1 := cellMerge moved k.l1 })

/-- The copies in a core's own L1 after a write that went through: valid bytes replaced (R96). -/
def Core.passThrough (k : Core) (a : Nat) (bs : List Byte) : Core :=
  { k with l1 := ((span a bs.length).zip bs).foldl (fun m x => if (cellGet k.l1 x.1).isSome then cellSet m x.1 x.2 else m) k.l1 }

/-- Bytes performed in a core's L1, left dirty (R96, R106). -/
def Core.writeL1 (k : Core) (a : Nat) (bs : List Byte) : Core :=
  { k with
    l1Dirty := cellSetAll k.l1Dirty a bs
    l1 := cellDrop k.l1 (fun x => a ≤ x && x < a + bs.length) }

/-- The dirty sector of a core that holds a byte performed in L2: no write of 16 bytes is split (R102). -/
def State.sectorBack (s : State) (d : DieId) (c : CoreId) (a : Nat) : State := s.l1WriteBack d c (fun x => x / 32 == a / 32)

/-- The dirty bytes of a byte's sector in L1 and of its line in L2 performed at the home slice (R102). -/
def State.lineHome (s : State) (d : DieId) (c : CoreId) (a : Nat) : State :=
  (s.sectorBack d c a).l2WriteBack d (fun x => x / 128 == a / 128)

/-- A core's write performed at a level; what the level's own copies hold of the sector reaches it first (R96, R102, R105). -/
def State.writeAt (s : State) (d : DieId) (c : CoreId) (lvl : Level) (a : Nat) (bs : List Byte) : State :=
  match lvl with
  | .core => (s.clearPoison a bs.length).modCore d c (fun k => k.writeL1 a bs)
  | .die => ((s.sectorBack d c a).writeDie d a bs).modCore d c (fun k => k.passThrough a bs)
  | .home => ((s.lineHome d c a).writeHome (some d) a bs).modCore d c (fun k => k.passThrough a bs)

/-- Whether every byte of a list is valid in L1. -/
def Core.l1Has (k : Core) (as : List Nat) : Bool :=
  as.all (fun a => (cellGet k.l1 a).isSome || (cellGet k.l1Dirty a).isSome)

/-- The 32-byte sectors of a list of bytes. -/
def sectorsOf (as : List Nat) : List Nat := (as.map (· / 32)).eraseDups

/-- The bytes of the sectors that n bytes touch. -/
def sectorBytes (a n : Nat) : List Nat := (sectorsOf (span a n)).flatMap (fun c => span (32 * c) 32)

/-- Whether a core's L1 holds a line. -/
def Core.holdsLine (k : Core) (line : Nat) : Bool := k.l1Lines.any (fun x => x.line == line)

/-- Whether a core's L1 holds the sectors of n bytes. -/
def Core.holds (k : Core) (a n : Nat) : Bool := k.holdsLine (a / 128) && k.l1Has (sectorBytes a n)

/-- A sector fetched from L2 unless it is valid: its bytes that are not dirty become clean copies, all at one moment (R94, R102). -/
def State.fillSector (s : State) (d : DieId) (c : CoreId) (sec : Nat) : State :=
  if (s.core d c).l1Has (span (32 * sec) 32) then s
  else
    let t := s.l2Take d (sec / 4)
    t.modCore d c (fun k =>
      let clean := (span (32 * sec) 32).filter (fun a => (cellGet k.l1Dirty a).isNone)
      { k with l1 := clean.foldl (fun m a => cellSet m a (t.dieByte d a)) k.l1 })

/-- A line whose dirty bytes are those of relaxed stores (R96). -/
def Core.recordCore (k : Core) (line : Nat) : Core :=
  { k with l1Lines := k.l1Lines.map (fun x => if x.line == line then { x with scope := 2 } else x) }

/-- One relaxed store performed (R94 to R96, R106): in L1 where its sector is valid, or where it allocates it in a line that L1 holds,
fetched first unless the instruction covers it whole; else in L2. -/
def State.performStore (s : State) (d : DieId) (c : CoreId) (x : PendingStore) : State :=
  let n := x.bytes.length
  let inL1 := fun (t : State) => (t.writeAt d c .core x.pa x.bytes).modCore d c (fun k => k.recordCore (x.pa / 128))
  if (s.core d c).holds x.pa n then inL1 s
  else if x.alloc && (s.core d c).holdsLine (x.pa / 128) then
    inL1 (if x.whole then s else (sectorsOf (span x.pa n)).foldl (fun t sec => t.fillSector d c sec) s)
  else s.writeAt d c .die x.pa x.bytes

/-- The waiting stores of a core that a test holds of, performed in their order (R106, R109). -/
def State.performStores (s : State) (d : DieId) (c : CoreId) (p : PendingStore → Bool) : State :=
  match (s.core d c).pending.filter p with
  | [] => s
  | xs => xs.foldl (fun t x => t.performStore d c x) (s.modCore d c (fun k => { k with pending := k.pending.filter (fun x => !p x) }))

/-- Whether two ranges of bytes meet. -/
def rangesMeet (a n b m : Nat) : Bool := decide (a < b + m) && decide (b < a + n)

/-- The n-th waiting store of a core performed, unless an earlier one of its group writes a byte of it too (R104, R109). -/
def State.performNth (s : State) (d : DieId) (c : CoreId) (n : Nat) : State :=
  let xs := (s.core d c).pending
  match xs[n]? with
  | none => s
  | some x =>
    if (xs.take n).any (fun y => y.slot == x.slot && rangesMeet y.pa y.bytes.length x.pa x.bytes.length) then s
    else (s.modCore d c (fun k => { k with pending := k.pending.take n ++ k.pending.drop (n + 1) })).performStore d c x

/-- A group's own waiting stores to any of some bytes, performed before its later access to them (R106). -/
def State.performOwn (s : State) (r : GRef) (as : List Nat) : State :=
  s.performStores r.die r.core (fun x => x.slot == r.slot && as.any (fun a => decide (x.pa ≤ a) && decide (a < x.pa + x.bytes.length)))

/-- Whether a level lies within a scope that was recorded: a line recorded at the level or wider is clean there (R96). -/
def Level.within (lvl : Level) (scope : Nat) : Bool :=
  match lvl with
  | .core => true
  | .die => decide (3 ≤ scope)
  | .home => decide (4 ≤ scope)

/-- The lines that a synchronisation at a level writes back: those recorded at a narrower scope (R96). -/
def Core.narrower (k : Core) (lvl : Level) (a : Nat) : Bool :=
  match k.l1Lines.find? (fun x => x.line == a / 128) with
  | some x => !lvl.within x.scope
  | none => true

/-- A release or fence of a core at a level (R96, R112): its waiting stores are performed, the dirty sectors of its lines recorded at a
narrower scope reach L2, and at home level the dirty bytes of the die reach their home slices. -/
def State.releaseTo (s : State) (d : DieId) (c : CoreId) (lvl : Level) : State :=
  let s1 := s.performStores d c (fun _ => true)
  match lvl with
  | .core => s1
  | .die => s1.l1WriteBack d c ((s1.core d c).narrower .die)
  | .home => (s1.l1WriteBack d c ((s1.core d c).narrower .home)).l2WriteBack d (fun _ => true)

/-- An acquire of a core at a level (R96, R107, R111): at die scope or wider it writes back the dirty sectors recorded at a narrower
scope, and every clean sector is invalid; a sector that was dirty stays, with the bytes of L2 where it has none of its own (log 7). -/
def State.acquireAt (s : State) (d : DieId) (c : CoreId) (lvl : Level) : State :=
  match lvl with
  | .core => s
  | lvl =>
    let dirty := sectorsOf ((s.core d c).l1Dirty.map Prod.fst)
    dirty.foldl (fun t sec => t.fillSector d c sec)
      ((s.l1WriteBack d c ((s.core d c).narrower lvl)).modCore d c (fun k => { k with l1 := [] }))

/-- Every waiting store of the package performed (R340). -/
def State.performAll (s : State) : State :=
  allDies.foldl (fun t d => allCores.foldl (fun u c => u.performStores d c (fun _ => true)) t) s

/-- Every clean copy of a set of addresses invalidated, anywhere in the package. -/
def State.dropCopies (s : State) (p : Nat → Bool) : State :=
  { s with
    sharers := s.sharers.filter (fun x => !p (128 * x.1))
    dies := s.dies.map (fun x => { x with
      l2Lines := x.l2Lines.filter (fun l => !p (128 * l))
      cores := x.cores.map (fun k => { k with l1 := cellDrop k.l1 p }) }) }

/-- The dirty copies of a set of addresses in the L1 of every core performed in L2. -/
def State.l1WriteBackAll (s : State) (p : Nat → Bool) : State :=
  allDies.foldl (fun t d => allCores.foldl (fun u c => u.l1WriteBack d c p) t) s

/-- The dirty copies of a set of addresses, anywhere in the package, written back to the home slices, and every copy
invalidated (R340, R353). -/
def State.flushEverywhere (s : State) (p : Nat → Bool) : State :=
  ((s.performAll.l1WriteBackAll p).l2MoveOn allDies p).dropCopies p

/-! ## L1 lines, victim tags and lease measurement -/

/-- The end of a measurement window (R57). -/
def Lease.closeWindow (l : Lease) : Lease :=
  if l.measured then
    { l with units := min 128 (max 1 ((l.lines.length + 15) / 16) + l.windowLost), accesses := 0, lines := [], windowLost := 0 }
  else l

/-- One access counted in the window of a measured lease (R57). -/
def Lease.access (l : Lease) (line : Nat) : Lease :=
  if l.measured then
    let l := if l.accesses ≥ 4096 then l.closeWindow else l
    { l with
      accesses := l.accesses + 1
      lines := if l.lines.contains line || l.lines.length ≥ 2048 then l.lines else line :: l.lines }
  else l

/-- A lost-locality event of a group (R58, Table K-7). -/
def Lease.lostOne (l : Lease) : Lease :=
  { l with
    lost := if l.lost = 0xFFFFFFFF then l.lost else l.lost + 1
    units := if l.measured then min 128 (l.units + 1) else l.units
    windowLost := if l.measured then l.windowLost + 1 else l.windowLost }

/-- The line that a set gives up (R94, Table K-15): the least recently used without keep, or of all when all are kept. -/
def Core.victim (k : Core) (set : Nat) : Option L1Line :=
  let xs := (k.l1Lines.filter (fun x => x.line % 128 == set)).reverse
  match xs.find? (fun x => !x.keep) with
  | some x => some x
  | none => xs.head?

/-- A line evicted: its dirty bytes reach L2, and it leaves a victim tag (R58, R94). -/
def State.evictLine (s : State) (d : DieId) (c : CoreId) (x : L1Line) (evictor : SlotId) : State :=
  let inLine := fun (a : Nat) => a / 128 == x.line
  (s.l1WriteBack d c inLine).modCore d c (fun k =>
    { k with
      l1 := cellDrop k.l1 inLine
      l1Lines := k.l1Lines.filter (fun y => y.line != x.line)
      victims := (⟨x.line, x.owner, evictor⟩ :: k.victims.filter (fun v => v.line != x.line)).take 4096 })

/-- At most 12 kept lines of a set: the least recently used of the others loses keep (Table K-15). -/
def limitKeep (lines : List L1Line) (line : Nat) : List L1Line :=
  let kept := lines.filter (fun x => x.keep && x.line % 128 == line % 128)
  if kept.length ≤ 12 then lines
  else
    match (kept.filter (fun x => x.line != line)).getLast? with
    | some y => lines.map (fun x => if x.line == y.line then { x with keep := false } else x)
    | none => lines

/-- The L1 miss of a group on a line: the counts, and the look-up of the victim tag store (R58, Table F-2). -/
def State.l1Miss (s : State) (r : GRef) (line : Nat) : State :=
  let k := s.core r.die r.core
  let s1 := (s.count r.die 3 1).modCore r.die r.core (fun k =>
    { k with adm := { k.adm with misses := k.adm.misses + 1 }, victims := k.victims.filter (fun v => v.line != line) })
  match k.victims.find? (fun v => v.line == line) with
  | some ⟨_, some o, _⟩ =>
    if o == r.slot then (s1.count r.die 5 1).modGroup r (fun g => { g with lease := g.lease.lostOne })
    else (s1.count r.die 4 1).modCore r.die r.core (fun k =>
      { k with adm := { k.adm with
          contcnt := if k.adm.contcnt = 0xFFFF then k.adm.contcnt else k.adm.contcnt + 1
          contentions := k.adm.contentions + 1 } })
  | _ => s1

/-- A line entered in the order of use. -/
def enterLine (lines : List L1Line) (x : L1Line) (last : Bool) : List L1Line :=
  let rest := lines.filter (fun y => y.line != x.line)
  if last then rest ++ [x] else x :: rest

/-- One L1 access to the bytes of one line (R57, R58, R94 to R96, R225): the counts, the allocation with an eviction when the
set is full, and the fetch of the sectors it touches; a bypass that misses allocates nothing. A store fetches no sector that it covers
whole; `wrote` is the scope that a write performed in L1 or through it records. Tiles take no lease account, and `pf` neither that nor a
count of its miss. -/
def State.l1Access (s : State) (r : GRef) (line : Nat) (bytes : List Nat) (store : Bool) (hint : BitVec 2)
    (wrote : Option Nat) (lease miss : Bool) : State :=
  let s0 := if lease then s.modGroup r (fun g => { g with lease := g.lease.access line }) else s
  let k := s0.core r.die r.core
  let old := k.l1Lines.find? (fun x => x.line == line)
  let hit := old.isSome && k.l1Has bytes
  let s1 := if hit || !miss then s0 else s0.l1Miss r line
  if !hit && hint == 3 then s1
  else
    let full := old.isNone && decide (16 ≤ (k.l1Lines.filter (fun x => x.line % 128 == line % 128)).length)
    let s2 := match (if full then k.victim (line % 128) else none) with
      | some v => s1.evictLine r.die r.core v r.slot
      | none => s1
    let fetch := (sectorsOf bytes).filter (fun c => !store || !(span (c * 32) 32).all bytes.contains)
    let s3 := fetch.foldl (fun t c => t.fillSector r.die r.core c) s2
    let keep := hint == 2 || (match old with | some x => x.keep | none => false)
    let scope := match wrote with
      | some n => max 2 n
      | none => match old with | some x => if hit then x.scope else 2 | none => 2
    s3.modCore r.die r.core (fun k =>
      let lines := enterLine k.l1Lines ⟨line, scope, keep, some r.slot⟩ (hint == 1 && old.isNone)
      { k with l1Lines := if keep then limitKeep lines line else lines })

/-- The lookups of one instruction after coalescing: one access for each distinct line, in order of the lowest lane that touches it
(R225); noL1 tells the lines that act as bypassed (R332). -/
def State.l1Lookups (s : State) (r : GRef) (as : List Nat) (store : Bool) (hint : BitVec 2) (noL1 : Nat → Bool) (wrote : Option Nat)
    (lease : Bool) : State :=
  ((as.map (· / 128)).eraseDups).foldl
    (fun t line => t.l1Access r line (as.filter (fun a => a / 128 == line)) store (if noL1 line then 3 else hint) wrote lease true) s

/-- Sectors that a store performed beyond L1 covers whole, valid in the lines that L1 holds without a fetch (R94): they take the bytes just
performed. -/
def State.adoptSectors (s : State) (d : DieId) (c : CoreId) (sectors : List Nat) : State :=
  sectors.foldl (fun t sec =>
    if (t.core d c).holdsLine (sec / 4) then
      t.modCore d c (fun k =>
        let clean := (span (32 * sec) 32).filter (fun a => (cellGet k.l1Dirty a).isNone)
        { k with l1 := clean.foldl (fun m a => cellSet m a (t.dieByte d a)) k.l1 })
    else t) s

/-- A sector that a core's L1 takes by itself, of a page that L1 may hold and a TLB of the core maps: a relaxed load may be served by it
(R107; log 5). -/
def State.takeSector (s : State) (d : DieId) (c : CoreId) (sec : Nat) : State :=
  let k := s.core d c
  let line := sec / 4
  let mapped := k.tlb.any (fun e => e.attrs.cache == 0 && decide (e.pa ≤ 32 * sec) && decide (32 * sec < e.pa + e.size))
  if k.holdsLine line then s.fillSector d c sec
  else if mapped && decide ((k.l1Lines.filter (fun x => x.line % 128 == line % 128)).length < 16) then
    (s.modCore d c (fun k => { k with l1Lines := enterLine k.l1Lines ⟨line, 2, false, none⟩ true })).fillSector d c sec
  else s

/-! ## Instruction and constant caches -/

/-- The 16-byte units that n bytes from a touch, as their first bytes. -/
def unitsTouched (a n : Nat) : List Nat := (List.range ((a % 16 + n + 15) / 16)).map (fun j => 16 * (a / 16 + j))

/-- A unit's bytes set in a cache that does not hold it. -/
def fillUnit (m : Cells) (u : Nat) (f : Nat → Byte) : Cells :=
  if (cellGet m u).isSome then m else (span u 16).foldl (fun m x => cellSet m x (f x)) m

/-- The bytes that a core's instruction cache gives, filling the whole 16-byte units it lacks from L2 (R152). A unit that it holds is
fetched as it stood at its fill: a fetch of the newer bytes before an invalidation, which R152 allows too, follows a drop of the unit,
a move of its own; a unit that it does not hold is fetched new (DESIGN CHOICE, log 84). -/
def State.fillI (s : State) (d : DieId) (c : CoreId) (a n : Nat) : State :=
  let us := unitsTouched a n
  let t := s.l2TakeAll d ((us.filter (fun u => (cellGet (s.core d c).icache u).isNone)).map (· / 128)).eraseDups
  t.modCore d c (fun k => { k with icache := us.foldl (fun m u => fillUnit m u (t.dieByte d)) k.icache })

/-- A unit that leaves the instruction cache, or the constant cache, of a core. -/
def State.dropUnit (s : State) (d : DieId) (c : CoreId) (code : Bool) (unit : Nat) : State :=
  let here := fun (a : Nat) => a / 16 == unit
  s.modCore d c (fun k =>
    { k with icache := if code then cellDrop k.icache here else k.icache, ccache := if code then k.ccache else cellDrop k.ccache here })

/-- A byte through the instruction cache: of a unit that it does not hold, as L2 gives it (log 84). -/
def State.iByte (s : State) (d : DieId) (c : CoreId) (a : Nat) : Byte :=
  (cellGet (s.core d c).icache a).getD (s.dieByte d a)

/-- The constant cache, filled in whole 16-byte units: from L2, or from the home slices for a page that bypasses L2 (R228, R332). -/
def State.fillC (s : State) (d : DieId) (c : CoreId) (a n : Nat) (home : Bool) : State :=
  let us := unitsTouched a n
  let t := if home then s else s.l2TakeAll d ((us.filter (fun u => (cellGet (s.core d c).ccache u).isNone)).map (· / 128)).eraseDups
  t.modCore d c (fun k =>
    { k with ccache := us.foldl (fun m u => fillUnit m u (if home then t.homeByte else t.dieByte d)) k.ccache })

/-- A byte through the constant cache. -/
def State.cByte (s : State) (d : DieId) (c : CoreId) (a : Nat) : Byte :=
  (cellGet (s.core d c).ccache a).getD (s.dieByte d a)

/-- Every instruction cache and constant cache of a die invalidated (R152, R228, R353). -/
def State.flushCode (s : State) (d : DieId) (code const : Bool) : State :=
  s.modDie d (fun x => { x with cores := x.cores.map (fun k =>
    { k with icache := if code then [] else k.icache, ccache := if const then [] else k.ccache }) })

end Sys2Proof.Machine
end

