-- ==== Sys2Proof/Machine/Translate.lean ====
section
/-! DEFINITION. Address translation: page tables, walks, TLBs and the access checks of Table D-12 (spec 17 R328 to R344). -/

namespace Sys2Proof.Machine

/-- The access fault details of Table D-12. -/
inductive AccessDetail
  | nonCanonical | asidInvalid | walkPoison | notPresent | malformed | execute | read | write | sealed | notResident | imageCross
  deriving DecidableEq, Repr

/-- The detail code of an access fault (Table D-12). -/
def AccessDetail.code (x : AccessDetail) : Byte :=
  match x with
  | .nonCanonical => 0x01 | .asidInvalid => 0x0A | .walkPoison => 0x0B | .notPresent => 0x02 | .malformed => 0x03
  | .execute => 0x09 | .read => 0x04 | .write => 0x05 | .sealed => 0x08 | .notResident => 0x06 | .imageCross => 0x07

/-- What an access does to the byte it translates (Table D-12). -/
inductive AccessKind
  | fetch | read | write | atomic | wload
  deriving DecidableEq, Repr

/-- Bits [63:57] all equal bit 56 (R223, R328). -/
def canonical (va : DWord) : Bool :=
  va.extractLsb' 56 8 == 0 || va.extractLsb' 56 8 == 0xFF

/-- The 57 translated bits of an address. -/
def va57 (va : DWord) : Nat := va.toNat % 2 ^ 57

/-- The span of one entry at a level (Table D-8). -/
def levelSpan (level : Nat) : Nat := 2 ^ (12 + 9 * (level - 1))

/-- The entry's index at a level (Table D-8). -/
def levelIndex (va : Nat) (level : Nat) : Nat := va / levelSpan level % 512

/-- The attributes of a leaf (Table D-9). -/
def leafAttrs (e : DWord) : Attrs :=
  ⟨e.getLsbD 2, e.getLsbD 3, e.getLsbD 4, e.extractLsb' 5 2, e.getLsbD 7, e.getLsbD 8, e.getLsbD 9, e.getLsbD 10⟩

/-- The physical address of an entry (Table D-9). -/
def entryPa (e : DWord) : Nat := (e.extractLsb' 12 40).toNat * 4096

/-- The entries of a leaf's group: 1, 16 or 64; none for the code that is malformed (Table D-9). -/
def contigCount (e : DWord) : Option Nat :=
  match (e.extractLsb' 52 2).toNat with
  | 0 => some 1 | 1 => some 16 | 2 => some 64 | _ => none

/-- Whether a group size is allowed at a level (Table D-8). -/
def contigOk (level n : Nat) : Bool :=
  n == 1 || (n == 16 && level ≤ 3) || (n == 64 && level == 1)

/-- A valid table entry that is malformed (R329, R330): only V, L and PA may be non-zero. -/
def tableBad (e : DWord) (level : Nat) : Bool :=
  level == 1 || e.extractLsb' 1 11 != 0 || e.extractLsb' 52 12 != 0 || decide (memEnd ≤ entryPa e)

/-- A valid leaf that is malformed (R329, R330, R333); j is the entry's place in its table. -/
def leafBad (e : DWord) (level j : Nat) : Bool :=
  let span := levelSpan level
  let pa := entryPa e
  level == 5 || e.getLsbD 11 || e.extractLsb' 54 10 != 0 || (e.getLsbD 3 && !e.getLsbD 2) || e.extractLsb' 5 2 == 3
    || (match contigCount e with
        | none => true
        | some n =>
          !contigOk level n || pa % span != 0 || decide (pa < j % n * span) || (pa - j % n * span) % (n * span) != 0
            || (e.getLsbD 8 && !(level == 2 && n == 1)))
    || decide (memEnd < pa + span)

/-- What a walk found: the page or group that maps the address, or the failure. -/
abbrev WalkResult := Except AccessDetail TlbEntry

/-- The 8 bytes of a table entry, read as an acquire at package scope (R339). -/
def State.entryAt (s : State) (d : DieId) (pa : Nat) : DWord := BitVec.ofNat 64 (leNat (s.readDie d pa 8))

/-- The walk from a table at a level down (R328 to R331, R339). -/
def State.walkFrom (s : State) (d : DieId) (asid : BitVec 12) (va : Nat) (level table : Nat) : WalkResult :=
  match level with
  | 0 => .error .malformed
  | below + 1 =>
    let j := levelIndex va (below + 1)
    let pa := table + 8 * j
    if s.poisonedIn pa 8 then .error .walkPoison
    else
      let e := s.entryAt d pa
      if !e.getLsbD 0 then .error .notPresent
      else if e.getLsbD 1 then
        if leafBad e (below + 1) j then .error .malformed
        else
          let span := levelSpan (below + 1)
          let n := (contigCount e).getD 1
          let size := n * span
          .ok ⟨asid, va / size * size, size, entryPa e - j % n * span, leafAttrs e⟩
      else if tableBad e (below + 1) then .error .malformed
      else s.walkFrom d asid va below (entryPa e)

/-- The address-space entry of an ASID (R336, R339): its root, or the failure. -/
def State.rootOf (s : State) (d : DieId) (asid : BitVec 12) : Except AccessDetail Nat :=
  if !s.xlat.en then .error .asidInvalid
  else
    let pa := (s.xlat.base.toNat * 4096) / 65536 * 65536 + 16 * asid.toNat
    if s.poisonedIn pa 16 then .error .walkPoison
    else
      let lo := s.entryAt d pa
      let hi := s.entryAt d (pa + 8)
      if !lo.getLsbD 0 || hi != 0 || lo.extractLsb' 1 11 != 0 || lo.extractLsb' 52 12 != 0 then .error .asidInvalid
      else if memEnd ≤ entryPa lo then .error .malformed
      else .ok (entryPa lo)

/-- The whole walk of an address (R328, R336, R339). -/
def State.walk (s : State) (d : DieId) (asid : BitVec 12) (va : Nat) : WalkResult :=
  match s.rootOf d asid with
  | .error e => .error e
  | .ok root => s.walkFrom d asid va 5 root

/-- A TLB entry that maps an address. -/
def tlbFind (t : List TlbEntry) (asid : BitVec 12) (va : Nat) : Option TlbEntry :=
  t.find? (fun e => e.asid == asid && decide (e.va ≤ va) && decide (va < e.va + e.size))

/-- Whether an address lies in a replica region that Nomad has released: its accesses take the access fault (R282; log 101). -/
def State.released (s : State) (asid : BitVec 12) (va : Nat) : Bool :=
  s.nomad.released.any (fun x => x.2.2.asid == asid && decide (va57 x.2.2.va ≤ va) && decide (va < va57 x.2.2.va + x.2.2.len))

/-- The translation an access uses: the core's TLB when the access has a core, the die's, or a walk (R338, R339); none while EN is 0
(Table D-10), or in a region that is released. -/
def State.lookup (s : State) (d : DieId) (c : Option CoreId) (asid : BitVec 12) (va : Nat) : WalkResult :=
  if !s.xlat.en then .error .asidInvalid
  else if s.released asid va then .error .notPresent
  else match (match c with | some c => tlbFind (s.core d c).tlb asid va | none => none) with
  | some e => .ok e
  | none =>
    match tlbFind s.dies[d].tlb asid va with
    | some e => .ok e
    | none => s.walk d asid va

/-- A TLB with an entry entered; the oldest leave it when it is full (R338). -/
def tlbEnter (t : List TlbEntry) (e : TlbEntry) (room : Nat) : List TlbEntry := (e :: t.filter (fun x => x != e)).take room

/-- The entries that leave a TLB when one is entered. -/
def tlbOut (t : List TlbEntry) (e : TlbEntry) (room : Nat) : List TlbEntry := (e :: t.filter (fun x => x != e)).drop room

/-- Entries that have left a TLB of a die unasked. -/
def Die.leave (x : Die) (es : List TlbEntry) : Die := { x with gone := es.filter (fun e => !x.gone.contains e) ++ x.gone }

/-- An entry cached in the die's TLB and, for an access that has a core, in that core's (R338). -/
def State.cacheEntry (s : State) (d : DieId) (c : Option CoreId) (e : TlbEntry) : State :=
  let s1 := s.modDie d (fun x => { x.leave (tlbOut x.tlb e 16384) with tlb := tlbEnter x.tlb e 16384 })
  match c with
  | some c =>
    (s1.modDie d (fun x => x.leave (tlbOut (s1.core d c).tlb e 256))).modCore d c (fun k => { k with tlb := tlbEnter k.tlb e 256 })
  | none => s1

/-- What the translation of an address leaves in the TLBs (R338, R339): the entry of the walk or of the die's TLB that gave it; of a walk that
fails nothing. -/
def State.noteWalk (s : State) (d : DieId) (c : Option CoreId) (asid : BitVec 12) (va : DWord) : State :=
  if !canonical va || (match c with | some c => (tlbFind (s.core d c).tlb asid (va57 va)).isSome | none => (tlbFind s.dies[d].tlb asid (va57 va)).isSome) then s
  else
    match s.lookup d c asid (va57 va) with
    | .ok e => s.cacheEntry d c e
    | .error _ => s

/-- The permission checks of Table D-12 on a leaf, for a kind of access. -/
def Attrs.deny (x : Attrs) (kind : AccessKind) : Option AccessDetail :=
  match kind with
  | .fetch => if x.x then none else some .execute
  | .read => if x.r then none else some .read
  | .wload => if x.r then (if x.res then none else some .notResident) else some .read
  | .write => if !x.w then some .write else if x.sealed then some .sealed else none
  | .atomic => if !x.r then some .read else if !x.w then some .write else if x.sealed then some .sealed else none

/-- A translated address: the physical address and the leaf's attributes. -/
structure Translated where
  pa : Nat
  attrs : Attrs
  deriving DecidableEq, Repr

/-- The translation of one address with the checks of Table D-12 in their order (R342). -/
def State.translate (s : State) (d : DieId) (c : Option CoreId) (asid : BitVec 12) (va : DWord) (kind : AccessKind) :
    Except AccessDetail Translated :=
  if !canonical va then .error .nonCanonical
  else
    match s.lookup d c asid (va57 va) with
    | .error e => .error e
    | .ok e =>
      match e.attrs.deny kind with
      | some x => .error x
      | none => .ok ⟨e.pa + (va57 va - e.va), e.attrs⟩

/-- An access fault on a page discards the page's entries in the core's TLB and the die's TLB (R338). -/
def State.dropTlb (s : State) (d : DieId) (c : CoreId) (asid : BitVec 12) (va : DWord) : State :=
  let here := fun (e : TlbEntry) => e.asid == asid && decide (e.va ≤ va57 va) && decide (va57 va < e.va + e.size)
  let s1 := s.modDie d (fun x => { x.leave (x.tlb.filter here ++ (s.core d c).tlb.filter here) with tlb := x.tlb.filter (fun e => !here e) })
  s1.modCore d c (fun k => { k with tlb := k.tlb.filter (fun e => !here e) })

/-- The entries that satisfy a test leave every TLB of the package (R340). -/
def State.discardTlb (s : State) (p : TlbEntry → Bool) : State :=
  { s with dies := s.dies.map (fun x => { x with
      tlb := x.tlb.filter (fun e => !p e)
      cores := x.cores.map (fun k => { k with tlb := k.tlb.filter (fun e => !p e) }) }) }

/-- The leaf that maps an address, from a table down; one of a group with what the group maps (R328). -/
def State.leafFrom (s : State) (d : DieId) (va level table : Nat) : Option Leaf :=
  match level with
  | 0 => none
  | below + 1 =>
    let j := levelIndex va (below + 1)
    let pa := table + 8 * j
    let e := s.entryAt d pa
    if s.poisonedIn pa 8 || !e.getLsbD 0 then none
    else if e.getLsbD 1 then
      let span := levelSpan (below + 1)
      let n := (contigCount e).getD 1
      if leafBad e (below + 1) j then none
      else some ⟨pa, va / span * span, span, entryPa e, va / (n * span) * (n * span), n * span, leafAttrs e⟩
    else if tableBad e (below + 1) then none
    else s.leafFrom d va below (entryPa e)

/-- The leaf that maps an address of an address space. -/
def State.leafOf (s : State) (d : DieId) (asid : BitVec 12) (va : Nat) : Option Leaf :=
  match s.rootOf d asid with
  | .ok root => s.leafFrom d va 5 root
  | .error _ => none

/-- The chunks of n bytes at a virtual address between 4 KiB page boundaries: each its address and length. -/
def pageChunks (fuel : Nat) (va n : Nat) : List (Nat × Nat) :=
  match fuel with
  | 0 => []
  | k + 1 => if n = 0 then [] else
      let len := min n (4096 - va % 4096)
      (va, len) :: pageChunks k (va + len) (n - len)

/-- The TLBs after the translations of a range by an engine (R338). -/
def State.noteRange (s : State) (d : DieId) (asid : BitVec 12) (va : DWord) (n : Nat) : State :=
  (pageChunks (n / 4096 + 2) va.toNat n).foldl (fun t x => t.noteWalk d none asid (BitVec.ofNat 64 x.1)) s

/-- The physical bytes of a virtual range for an engine or a firmware access of a die, or the first failure (R344). -/
def State.translateRange (s : State) (d : DieId) (asid : BitVec 12) (va : DWord) (n : Nat) (kind : AccessKind) :
    Except AccessDetail (List (Nat × Nat)) :=
  (pageChunks (n / 4096 + 2) va.toNat n).foldr
    (fun x acc =>
      match s.translate d none asid (BitVec.ofNat 64 x.1) kind with
      | .error e => .error e
      | .ok t => acc.map (fun l => (t.pa, x.2) :: l))
    (.ok [])

end Sys2Proof.Machine
end

