-- ==== Sys2Proof/Machine/Operands.lean ====
section
/-! DEFINITION. Lanes and masks, and every operand form: which registers an instruction names, whether they exist, what a source
reads and what a destination writes (spec 03 R73 to R82, spec 06 R157 to R161). -/

namespace Sys2Proof.Machine

/-! ## Lanes and masks -/

/-- The mask of the lanes that satisfy a test. -/
def maskOf (p : Lane → Bool) : Mask := BitVec.ofFnLE p
/-- Whether a mask holds a lane. -/
def inMask (m : Mask) (i : Lane) : Bool := m.getLsbD i.val
/-- A value for every lane. -/
def lanes {α : Type} (f : Lane → α) : Lanes α := Vector.ofFn f
/-- The lanes of a mask in ascending order. -/
def lanesOf (m : Mask) : List Lane := allLanes.filter (inMask m)
/-- The lowest lane of a mask. -/
def lowest (m : Mask) : Option Lane := allLanes.find? (inMask m)
/-- The number of lanes of a mask. -/
def laneCount (m : Mask) : Nat := (lanesOf m).length
/-- The values with those of a mask's lanes replaced. -/
def updLanes {α : Type} (xs : Lanes α) (m : Mask) (f : Lane → α) : Lanes α :=
  Vector.ofFn fun i => if inMask m i then f i else xs[i]

/-! ## The run (R30, R31, R289) -/

/-- The mode a group runs in (R345). -/
def Group.mode (g : Group) : Mode :=
  match g.traps with
  | [] => g.base
  | t :: _ => t.mode

/-- The lanes that may issue: in a trap, those of TRMASK (R289). -/
def Group.laneSet (g : Group) : Mask :=
  match g.traps with
  | [] => 0xFFFFFFFF
  | t :: _ => t.info.mask

/-- Whether a lane is a candidate that may issue (R30). -/
def Group.candidate (g : Group) (i : Lane) : Bool := g.status[i] == .run && inMask g.laneSet i

/-- The lower of two addresses, where there is one. -/
def minPc (x : Option DWord) (y : DWord) : Option DWord :=
  match x with
  | some x => some (if y.toNat < x.toNat then y else x)
  | none => some y

/-- The PC of the run: the lowest among the candidates (R30), or that of the instruction that holds the group (R69). -/
def Group.runPc (g : Group) : Option DWord :=
  if g.hold.isSome then (allLanes.find? (inMask g.heldRun)).map (fun (i : Lane) => g.pcs[i])
  else allLanes.foldl (fun acc i => if g.candidate i then minPc acc g.pcs[i] else acc) none

/-- The next distinct PC, for a second path (R31). -/
def Group.secondPc (g : Group) : Option DWord :=
  match g.runPc with
  | none => none
  | some pc => allLanes.foldl (fun acc i => if g.candidate i && g.pcs[i] != pc then minPc acc g.pcs[i] else acc) none

/-- The candidates at a PC, or the run that holds the group. -/
def Group.runAt (g : Group) (pc : DWord) : Mask :=
  if g.hold.isSome then g.heldRun else maskOf fun i => g.candidate i && g.pcs[i] == pc

/-- A predicate of a lane; p7 is true (R76). -/
def Group.pred (g : Group) (n : BitVec 3) (i : Lane) : Bool := n == 7 || (g.p[i]).getLsbD n.toNat

/-- The guard in a lane (R157). -/
def Group.guardOf (g : Group) (f : Fields) (i : Lane) : Bool :=
  (g.pred f.guard i != f.gn) && (g.pred f.g2 i != f.g2n)

/-- The lanes of a run whose guard is true. -/
def Group.members (g : Group) (f : Fields) (run : Mask) : Mask := maskOf fun i => inMask run i && g.guardOf f i

/-! ## Reading (R74 to R81, R160) -/

/-- The result in a window slot, slot n holding the n+1-th issue before this one (R78). -/
def Group.windowAt (g : Group) (n : BitVec 3) : Option WinSlot := (g.window[n.toNat]?).map WinEntry.slot

/-- A 64-bit window value of a lane; zero where there is none. -/
def Group.windowVal (g : Group) (n : BitVec 3) (i : Lane) : DWord :=
  match g.windowAt n with
  | some (.value x) => x[i]
  | _ => 0

/-- A vector register of a lane. -/
def Group.vreg (g : Group) (n : BitVec 8) (i : Lane) : Word := (g.v.get n.toFin)[i]
/-- A uniform register. -/
def Group.ureg (g : Group) (n : BitVec 10) : Word := g.u.get n.toFin
/-- A queue. -/
def Group.queue (g : Group) (n : BitVec 4) : Queue := g.queues.get n.toFin
/-- The head entry of a queue, in a lane. -/
def Group.queueHead (g : Group) (n : BitVec 4) (i : Lane) : Word :=
  match (g.queue n).items with
  | x :: _ => x[i]
  | [] => 0

/-- A 32-bit source in a lane (R75 to R81, R160). -/
def Group.read32 (g : Group) (f : Fields) (x : Operand) (i : Lane) : Word :=
  match x with
  | .v n => g.vreg n i
  | .u n => g.ureg n
  | .o n => (g.o.get n.toFin)[i]
  | .w n => (g.windowVal n i).setWidth 32
  | .q n => g.queueHead n i
  | .ones => 0xFFFFFFFF
  | .imm32 => f.imm
  | .inl k => k.signExtend 32
  | .pred n => if g.pred n i then 1 else 0
  | .zero | .none | .t _ | .acc _ => 0

/-- A 64-bit source in a lane (R74, R79, R160). -/
def Group.read64 (g : Group) (f : Fields) (x : Operand) (i : Lane) : DWord :=
  match x with
  | .v n => g.vreg (n + 1) i ++ g.vreg n i
  | .u n => g.ureg (n + 1) ++ g.ureg n
  | .w n => g.windowVal n i
  | .ones => 0xFFFFFFFFFFFFFFFF
  | .imm32 => f.imm.signExtend 64
  | .inl k => k.signExtend 64
  | .pred n => if g.pred n i then 1 else 0
  | _ => 0

/-- A 128-bit source in a lane (R74). -/
def Group.read128 (g : Group) (x : Operand) (i : Lane) : BitVec 128 :=
  match x with
  | .v n => g.vreg (n + 3) i ++ g.vreg (n + 2) i ++ g.vreg (n + 1) i ++ g.vreg n i
  | .ones => BitVec.allOnes 128
  | _ => 0

/-- k vector registers of a lane from n up. -/
def Group.readVs (g : Group) (n : BitVec 8) (k : Nat) (i : Lane) : List Word :=
  (List.range k).map (fun j => g.vreg (n + BitVec.ofNat 8 j) i)

/-- A source read in the lowest member lane: a group-level operand (R189); zero without a member. -/
def Group.level32 (g : Group) (f : Fields) (x : Operand) (m : Mask) : Word :=
  match lowest m with
  | some i => g.read32 f x i
  | none => 0

/-- A 64-bit group-level operand (R189). -/
def Group.level64 (g : Group) (f : Fields) (x : Operand) (m : Mask) : DWord :=
  match lowest m with
  | some i => g.read64 f x i
  | none => 0

/-! ## Writing (R75 to R81) -/

/-- A vector register written in the lanes of a mask. -/
def Group.setV (g : Group) (n : BitVec 8) (m : Mask) (f : Lane → Word) : Group :=
  { g with v := g.v.set n.toNat (updLanes (g.v.get n.toFin) m f) n.isLt }
/-- A uniform register written. -/
def Group.setU (g : Group) (n : BitVec 10) (x : Word) : Group := { g with u := g.u.set n.toNat x n.isLt }
/-- An operand-file register written in the lanes of a mask. -/
def Group.setO (g : Group) (n : BitVec 3) (m : Mask) (f : Lane → Word) : Group :=
  { g with o := g.o.set n.toNat (updLanes (g.o.get n.toFin) m f) n.isLt }
/-- A predicate written in the lanes of a mask; p7 is never written (R76). -/
def Group.setP (g : Group) (n : BitVec 3) (m : Mask) (f : Lane → Bool) : Group :=
  if n == 7 then g
  else
    { g with p := updLanes g.p m (fun i =>
        bif f i then g.p[i] ||| (1#8 <<< n.toNat) else g.p[i] &&& ~~~(1#8 <<< n.toNat)) }
/-- A queue replaced. -/
def Group.setQ (g : Group) (n : BitVec 4) (q : Queue) : Group := { g with queues := g.queues.set n.toNat q n.isLt }
/-- An entry put into a queue: at the place that the instruction allocated when it issued, else as the newest (R81, R296). -/
def Queue.put (q : Queue) (x : Lanes Word) : Queue :=
  match q.claim with
  | some k => { q with items := q.items.take k ++ x :: q.items.drop k, claim := none }
  | none => { q with items := q.items ++ [x] }
/-- The entries of a queue with the one that a held instruction has allocated (R296). -/
def Queue.taken (q : Queue) : Nat := q.items.length + (if q.claim.isSome then 1 else 0)
/-- An entry pushed onto a queue by an instruction (R81). -/
def Group.push (g : Group) (n : BitVec 4) (x : Lanes Word) : Group := g.setQ n ((g.queue n).put x)
/-- The oldest entry taken off a queue (R81). -/
def Group.popQ (g : Group) (n : BitVec 4) : Group :=
  g.setQ n { g.queue n with items := (g.queue n).items.tail, claim := (g.queue n).claim.map (· - 1) }
/-- The entry of a queue destination allocated by an instruction that holds (R296); any other destination has none. -/
def Group.claimQ (g : Group) (x : Operand) : Group :=
  match x with
  | .q n => g.setQ n { g.queue n with claim := some (g.queue n).items.length }
  | _ => g
/-- No queue has an entry allocated for a held instruction. -/
def Group.dropClaims (g : Group) : Group := { g with queues := g.queues.map (fun q => { q with claim := none }) }

/-- The value a uniform register receives: that of the lowest lane (R75). -/
def uniformOf {α : Type} (m : Mask) (f : Lane → α) : Option α := (lowest m).map f

/-- A 32-bit result written to a destination in the lanes of a mask (R75 to R77, R81). -/
def Group.write32 (g : Group) (x : Operand) (m : Mask) (f : Lane → Word) : Group :=
  match x with
  | .v n => g.setV n m f
  | .u n => match uniformOf m f with | some y => g.setU n y | none => g
  | .o n => g.setO n m f
  | .pred n => g.setP n m (fun i => f i != 0)
  | .q n => if m == 0 then g else g.push n (lanes fun i => if inMask m i then f i else 0)
  | _ => g

/-- A 64-bit result written to a pair (R74, R75). -/
def Group.write64 (g : Group) (x : Operand) (m : Mask) (f : Lane → DWord) : Group :=
  match x with
  | .v n => (g.setV n m (fun i => (f i).setWidth 32)).setV (n + 1) m (fun i => (f i).extractLsb' 32 32)
  | .u n =>
    match uniformOf m f with
    | some y => (g.setU n (y.setWidth 32)).setU (n + 1) (y.extractLsb' 32 32)
    | none => g
  | _ => g

/-- k words written to vector registers from n up. -/
def Group.writeVs (g : Group) (n : BitVec 8) (k : Nat) (m : Mask) (f : Lane → Nat → Word) : Group :=
  (List.range k).foldl (fun g j => g.setV (n + BitVec.ofNat 8 j) m (fun i => f i j)) g

/-- The words a destination receives from 128 bits a lane: one, two or four of them (R74, Table K-53). -/
def Group.writeWords (g : Group) (x : Operand) (words : Nat) (m : Mask) (f : Lane → BitVec 128) : Group :=
  if words ≤ 1 then g.write32 x m (fun i => (f i).setWidth 32)
  else if words = 2 then g.write64 x m (fun i => (f i).setWidth 64)
  else match x with
    | .v n => g.writeVs n 4 m (fun i j => (f i).extractLsb' (32 * j) 32)
    | _ => g

/-! ## The window slot of a result (R78, R79) -/

/-- Whether a destination leaves a result in the window: a vector, operand-file or uniform register, or NW (R78). -/
def leavesResult (f : Fields) : Bool :=
  f.nw || match f.dst with
    | .v _ | .o _ | .u _ => true
    | _ => false

/-- A 64-bit result in the lanes of a mask; the other lanes read zero, and a uniform result is that of the lowest lane, placed in every
lane (R75, R79). -/
def slotOf (f : Fields) (m : Mask) (x : Lane → DWord) : WinSlot :=
  if !leavesResult f then .noResult
  else
    match f.dst, lowest m with
    | .u _, some k => .value (lanes fun _ => x k)
    | _, _ => .value (lanes fun i => if inMask m i then x i else 0)

/-- A 32-bit result in the window (R79). -/
def slot32 (f : Fields) (m : Mask) (x : Lane → Word) : WinSlot := slotOf f m (fun i => (x i).setWidth 64)

/-! ## Which registers an instruction names (R73, R74, R80) -/

/-- The consecutive registers that a vector-register field of a row names, where its class does not say (R74, R216 to R218,
R259). -/
def vecWords (op : Op) (f : Fields) : Nat :=
  match op with
  | .call | .callInd => 2
  | .reorder => f.sub.toNat % 4 + 1
  | .pksend | .pkrecv | .pkpoll => 16
  | .bfeed => if f.sub.getLsbD 0 then 2 else 1
  | _ => 1

/-- The number a field's first register must be a multiple of (R74, R217, R218). -/
def alignOf (op : Op) (words : Nat) : Nat :=
  match op with
  | .reorder => 1
  | _ => if words ≤ 1 then 1 else if words = 2 then 2 else 4

/-- The registers that a class names. -/
def clsWords (c : Cls) (vec drain : Nat) : Nat :=
  match c with
  | .src64 | .dst64 | .addr64 => 2
  | .src128 | .quadOrZero => 4
  | .loadDest n | .stData n | .atomDest n => (n + 3) / 4
  | .vec => vec
  | .drainDest => drain
  | _ => 1

/-- The operand fields of an instruction with their classes; NW empties the destination. -/
def opSlots (op : Op) (f : Fields) : List (Operand × Cls) :=
  let fm := op.form f
  [(f.dst, fm.dst.cls), (f.sa, fm.sa.cls), (f.sb, fm.sb.cls), (f.sx, fm.sx.cls)].filter (fun x => x.1 != .none)

/-- The vector registers of a group's budget that its queues leave (R80). -/
def Group.vLimit (g : Group) : Nat :=
  let depth := (g.queues.toList.map Queue.depth).foldl (· + ·) 0
  8 * (g.budget - (depth + 7) / 8)

/-- The uniform registers of a group: the dispatcher always has 64 (R14, R73). -/
def Team.uLimit (t : Team) : Nat := if t.dispatcher then 64 else 64 * t.desc.sgran

/-- Whether an operand names what the group and the team have: ranges, pairs and quads, filled window slots, configured
queues, tiles, no accumulator as an ordinary source (R73, R74, R78, R80, R82, R83). -/
def operandOk (g : Group) (t : Team) (cls : Cls) (x : Operand) (words align : Nat) : Bool :=
  match x with
  | .v n => n.toNat % align == 0 && decide (n.toNat + words ≤ g.vLimit)
  | .u n => n.toNat % align == 0 && decide (n.toNat + words ≤ t.uLimit)
  | .w n => match g.windowAt n with | some .noResult => false | none => false | _ => true
  | .q n => cls == .queue || (g.queue n).depth != 0
  | .t n => decide (n.toNat < 2 * t.desc.tilePairs)
  | .acc _ => cls == .acc
  | _ => true

/-- The R73 check of every operand field of an instruction. -/
def operandsOk (op : Op) (f : Fields) (g : Group) (t : Team) : Bool :=
  (opSlots op f).all (fun x =>
    let words := clsWords x.2 (vecWords op f) (drainW f.sub)
    operandOk g t x.2 x.1 words (alignOf op words))

/-- The queues that an instruction pops, each once (R81). -/
def opPops (op : Op) (f : Fields) : List (BitVec 4) :=
  ((opSlots op f).filterMap (fun x =>
    match x.1, x.2 with
    | .q n, .src32 | .q n, .stData _ => some n
    | _, _ => none)).eraseDups

/-- The queue that an instruction pushes (R81). -/
def opPushes (op : Op) (f : Fields) : Option (BitVec 4) :=
  (opSlots op f).findSome? (fun x =>
    match x.1, x.2 with
    | .q n, .dst32 | .q n, .laneDest | .q n, .perLane => some n
    | _, _ => none)

end Sys2Proof.Machine
end

