-- ==== Sys2Proof/Machine/Eligible.lean ====
section
/-! DEFINITION. Fetching an instruction, whether a group is eligible, and what a change of a group does to its wait for a pick (spec 01
R30, R31, R44, spec 02 R61, spec 06 R150 to R152, R165, spec 14 R292, R293). -/

namespace Sys2Proof.Machine

/-! ## Teams and their groups -/

/-- A team resident on a core. -/
def State.team? (s : State) (d : DieId) (c : CoreId) (uid : Nat) : Option Team :=
  (s.core d c).teams.find? (fun t => t.uid == uid)

/-- The groups of a team that its slots hold, with their references. -/
def State.groupsOf (s : State) (d : DieId) (c : CoreId) (t : Team) : List (GRef × Group) :=
  t.slots.filterMap (fun i =>
    match s.group? ⟨d, c, i⟩ with
    | some g => if g.team == t.uid then some (⟨d, c, i⟩, g) else none
    | none => none)

/-! ## Fetch (R150, R152, R165, R345) -/

/-- What the fetch at a PC gives: an instruction, or the cause, detail and length of the trap. -/
inductive Fetched
  | instr (i : Instr)
  | fault (cause detail : Byte) (len : Nat)
  deriving DecidableEq, Repr

/-- The physical address of a PC: translated, but in firmware mode (R345). -/
def State.fetchPa (s : State) (r : GRef) (g : Group) (t : Team) (pc : DWord) : Except AccessDetail Nat :=
  if g.mode == .firmware then (if pc.toNat < memEnd then .ok pc.toNat else .error .malformed)
  else
    match s.translate r.die (some r.core) t.asid pc .fetch with
    | .error e => .error e
    | .ok x => .ok x.pa

/-- The bytes that remain of the fetch block at a PC. -/
def blockRest (pc : DWord) : Nat := 32 - (pc.extractLsb' 0 5).toNat

/-- The bytes of a fetch block as the core's instruction cache gives them, in 128 bits. -/
def State.fetchBits (s : State) (r : GRef) (pa n : Nat) : BitVec 128 :=
  BitVec.ofNat 128 (leNat ((span pa (min n 16)).map (s.iByte r.die r.core)))

/-- The bytes of a length, 4 where the length cannot be read (R348). -/
def lenBytes (x : Option Len) : Nat := match x with | some len => len.bytes | none => 4

/-- The fetch at a PC (R150, R165, R342, R345): alignment, translation, poison of the units the instruction overlaps, decode. -/
def State.fetchAt (s : State) (r : GRef) (g : Group) (t : Team) (pc : DWord) : Fetched :=
  if pc.extractLsb' 0 2 != 0 then .fault 0x01 0x01 4
  else
    match s.fetchPa r g t pc with
    | .error e => .fault 0x21 e.code 4
    | .ok pa =>
      let w := s.fetchBits r pa (blockRest pc)
      let len := lenOf w
      if s.poisonedIn pa (min (lenBytes len) (blockRest pc)) then .fault 0x30 0x02 4
      else
        match decodeAt pc w with
        | .ok i => .instr i
        | .error e => .fault 0x01 (BitVec.ofNat 8 e.detail) (lenBytes len)

/-- What a fetch leaves in the TLBs and in the instruction cache (R152, R338). -/
def State.fetchFill (s : State) (r : GRef) (g : Group) (t : Team) (pc : DWord) : State :=
  match s.fetchPa r g t pc with
  | .ok pa =>
    (if g.mode == .firmware then s else s.noteWalk r.die (some r.core) t.asid pc).fillI r.die r.core pa (min (blockRest pc) 16)
  | .error _ => s

/-! ## Operands in flight (R292, R293) -/

/-- Whether n registers from a meet k registers from b. -/
def meets (a n b k : Nat) : Bool := decide (a < b + k) && decide (b < a + n)

/-- Whether an instruction in flight has yet to write an operand that a run names. -/
def Flight.touches (x : Flight) (op : Operand) (words : Nat) (run : Mask) : Bool :=
  match x.dst, op with
  | .v a, .v b => meets a.toNat x.words b.toNat words && (x.mask &&& run) != 0
  | .u a, .u b => meets a.toNat x.words b.toNat words
  | .o a, .o b => a == b && (x.mask &&& run) != 0
  | .t a, .t b => a == b
  | _, _ => false

/-- Whether every operand of an instruction is there: no register it names is in flight, no window slot it reads is pending. -/
def Group.operandsReady (g : Group) (op : Op) (f : Fields) (run : Mask) : Bool :=
  (opSlots op f).all (fun x =>
    let words := clsWords x.2 (vecWords op f) (drainW f.sub)
    !g.flights.any (fun y => y.touches x.1 words run) &&
      match x.1 with
      | .w n => g.windowAt n != some .pending
      | _ => true)

/-! ## Which group may issue (R44) -/

/-- Whether a hold has no event of its own that ends it: the instruction is issued again. -/
def Hold.retried (h : Hold) : Bool :=
  match h with
  | .vgrow _ | .fence _ _ | .pksend _ _ _ _ | .feed _ _ | .bank _ _ | .xinv | .idle | .builtin => false
  | _ => true

/-- Whether a hold is of an instruction that has had a part of its effect, or that ends by itself: it ends before its group takes a trap
(R301, R347). -/
def Hold.lasting (h : Hold) : Bool :=
  match h with
  | .fence _ _ | .xinv | .pksend _ _ _ _ | .feed _ _ | .bank _ _ => true
  | _ => false

/-- Whether the wait that `yield` asks for is over (R201). -/
def Sched.yields (x : Sched) (now : Nat) : Bool :=
  match x.yieldAt with
  | some t => !x.yieldFor.isEmpty && decide (now < t + 64)
  | none => false

/-- Whether a group may issue at all: resident with its inputs landed, active, not ended, no trap to take, not held (R44, R62, R66, R69, R347).
An instruction that holds issued when it was picked, and goes on whether its group is active or not. -/
def Group.mayIssue (g : Group) (t : Team) (now : Nat) : Bool :=
  t.landed && !g.ended && g.pendingTrap.isNone &&
    match g.hold with
    | none => (g.sched.active || t.dispatcher) && !g.sched.yields now && decide (g.sched.notBefore ≤ now)
    | some h => h.retried

/-- The run's PCs moved past the instruction (R30). -/
def Group.advance (g : Group) (run : Mask) (next : DWord) : Group := { g with pcs := updLanes g.pcs run (fun _ => next) }

/-- The length of a pad (R151); none of any other instruction. -/
def padLen (i : Instr) : Option Nat :=
  match i with
  | .nop f => if f.sub == 7 then some (match f.len with | .f64 => 8 | .f96 => 12 | .f128 => 16) else none
  | _ => none

/-- The fetch at the PC of a path of a group, pads consumed (R151): the group with the path past them, the PC and what stands there; n is
the most pads that one look passes. -/
def State.fetchPath (s : State) (r : GRef) (t : Team) (path : Group → Option DWord) (n : Nat) (g : Group) :
    Option (Group × DWord × Fetched) :=
  match path g with
  | none => none
  | some pc =>
    let x := s.fetchAt r g t pc
    match n, x with
    | n + 1, .instr i =>
      match padLen i with
      | some k => s.fetchPath r t path n (g.advance (g.runAt pc) (pc + BitVec.ofNat 64 k))
      | none => some (g, pc, x)
    | _, _ => some (g, pc, x)

/-- The fetch at the run's PC, pads consumed. -/
def State.fetchRun (s : State) (r : GRef) (t : Team) (n : Nat) (g : Group) : Option (Group × DWord × Fetched) :=
  s.fetchPath r t Group.runPc n g

/-- The pads that one look at a group passes at most: as many as the PCs of an address space have room for, so that none is left. -/
def padRun : Nat := 2 ^ 61

/-- The PC of a lane in the group's table: past the pads that it has reached (R151). -/
def State.tablePc (s : State) (r : GRef) (g : Group) (t : Team) (n : Nat) (pc : DWord) : DWord :=
  match n, s.fetchAt r g t pc with
  | n + 1, .instr i =>
    match padLen i with
    | some k => s.tablePc r g t n (pc + BitVec.ofNat 64 k)
    | none => pc
  | _, _ => pc

/-- The instruction that a group would issue next, without any effect: the group past its pads, its team, the PC and what stands there.
A team that a pre-emption has selected issues none (R355), nor does any after a thermal trip (R384). -/
def State.peek (s : State) (r : GRef) : Option (Group × Team × DWord × Fetched) :=
  match s.group? r with
  | none => none
  | some g =>
    match s.team? r.die r.core g.team with
    | none => none
    | some t =>
      if !g.mayIssue t s.now || s.pctl.todo.contains (r.die, t.uid) || !s.mgmt.powered then none
      else
        match s.fetchRun r t padRun g with
        | none => none
        | some x => some (x.1, t, x.2)

/-- Whether a group is eligible (R44): a group whose next instruction faults is, since the fault comes when the run reaches it. -/
def State.eligible (s : State) (r : GRef) : Bool :=
  match s.peek r with
  | none => false
  | some (g, _, pc, .instr i) =>
    match i.word? with
    | some (op, f) => g.hold.isNone && g.operandsReady op f (g.runAt pc)
    | none => false
  | some (_, _, _, .fault _ _ _) => true

/-! ## A change that may make a group eligible (R44, R61) -/

/-- Whether a group has a candidate thread: none while it is held as a whole (R61). -/
def Group.ready (g : Group) : Bool := g.hold.isNone && g.runPc.isSome

/-- What a change of a group leaves in its scheduling state: with a candidate it is no longer dormant (R61), and the wait for a pick of a
group that was not eligible before starts with the change (R44). -/
def Group.roused (g : Group) (was : Bool) (now : Nat) : Group :=
  { g with sched := { g.sched with
      dormant := g.sched.dormant && !g.ready
      eligibleSince := if was then g.sched.eligibleSince else now } }

/-- A change of the group in a slot that may make it eligible. -/
def State.rouse (s : State) (r : GRef) (f : Group → Group) : State :=
  match s.group? r with
  | none => s
  | some g => s.setGroup r ((f g).roused (s.eligible r) s.now)

end Sys2Proof.Machine
end

