-- ==== Sys2Proof/Machine/Ops.lean ====
section
/-! DEFINITION. The operations that instructions and events share: the event log, teams and their barrier registers, the end of
groups and teams, taking a trap and returning from one, and the frame of every issue (spec 01 R8 to R36, spec 08 R189 to R209,
spec 12 R289 to R291, spec 18 R345 to R349 and R391, R392). -/

namespace Sys2Proof.Machine

/-! ## Event log (R385) -/

/-- A record written to the event log; records of severity 2 and above also go to the non-volatile ring (Table F-5). -/
def State.log (s : State) (type : Byte) (source : Fin 41) (sev unit : Nat) (detail : DWord) : State :=
  let e : Event := ⟨s.now / 1880, type, source.val, sev, unit, detail, s.mgmt.sourceSeq[source]⟩
  { s with mgmt := { s.mgmt with
      loghead := s.mgmt.loghead + 1
      log := (e :: s.mgmt.log).take 4096
      nvhead := if 2 ≤ sev then s.mgmt.nvhead + 1 else s.mgmt.nvhead
      nvlog := if 2 ≤ sev then (e :: s.mgmt.nvlog).take 256 else s.mgmt.nvlog
      sourceSeq := s.mgmt.sourceSeq.set source (s.mgmt.sourceSeq[source] + 1) } }

/-- A die as a source of the log (Table F-1). -/
def dieSource (d : DieId) : Fin 41 := ⟨d.val, by omega⟩
/-- The Oasis die as a source of the log. -/
def oasisSource : Fin 41 := 32

/-! ## Teams -/

/-- A change made to a team, resident on its core or saved on its die (R356). -/
def State.modTeam (s : State) (d : DieId) (c : CoreId) (uid : Nat) (f : Team → Team) : State :=
  if (s.team? d c uid).isSome then
    s.modCore d c (fun k => { k with teams := k.teams.map (fun t => if t.uid == uid then f t else t) })
  else
    s.modDie d (fun x => { x with saved := x.saved.map (fun v => if v.team.uid == uid then { v with team := f v.team } else v) })

/-- A team wherever its record stands: resident on its core or saved. -/
def State.teamAnywhere? (s : State) (d : DieId) (c : CoreId) (uid : Nat) : Option Team :=
  match s.team? d c uid with
  | some t => some t
  | none => (s.dies[d].saved.find? (fun v => v.team.uid == uid)).map Saved.team

/-- The default dispatcher or an installed one: the team that holds slot 31 of core 0 (R14). -/
def dispatcherRef (d : DieId) : GRef := ⟨d, 0, 31⟩

/-! ## Lanes released -/

/-- A change of the status of lanes. -/
def Group.mapStatus (g : Group) (f : Lane → LaneStatus → LaneStatus) : Group :=
  { g with status := Vector.ofFn fun i => f i g.status[i] }

/-- The lanes of a group that a barrier register's phase releases (R206). -/
def Group.releaseBar (g : Group) (bars : Vector Barrier 16) : Group :=
  g.mapStatus (fun _ st =>
    match st with
    | .barHold b ph => if bars[b].phase != ph then .run else st
    | _ => st)

/-- The lanes of a group that a copy tag's count releases (R240). -/
def Group.releaseTag (g : Group) (n : Fin 8) : Group :=
  g.mapStatus (fun _ st =>
    match st with
    | .tagHold t k => if t == n && decide (g.tags[n] ≤ k.toNat) then .run else st
    | _ => st)

/-! ## Barrier registers (R205 to R209) -/

/-- An arrival of n (R206): the phase completes when COUNT reaches EXPECT. -/
def Barrier.arrive (b : Barrier) (n : Nat) : Barrier :=
  if b.count + n = b.expect then { b with count := 0, phase := b.phase + 1 } else { b with count := b.count + n }

/-- Whether an arrival of n is one that a register can take (R206). -/
def Barrier.takes (b : Barrier) (n : Nat) : Bool := b.expect != 0 && decide (b.count + n ≤ b.expect)

/-- The resident teams of a halo chain with their cores: those of the same grid and address space on the die (R42). -/
def State.chain (s : State) (d : DieId) (t : Team) : List (CoreId × Nat) :=
  allCores.flatMap (fun c =>
    ((s.core d c).teams.filter (fun x => x.desc.halo && x.grid == t.grid && x.asid == t.asid)).map (fun x => (c, x.uid)))

/-- The teams that share a barrier register: the whole chain, resident or saved, for b15 of a halo chain, else the team alone (R42, R206,
R356). -/
def State.barTeams (s : State) (d : DieId) (c : CoreId) (t : Team) (b : Fin 16) : List (CoreId × Nat) :=
  if t.desc.halo && b == 15 then
    s.chain d t ++ ((s.dies[d].saved.filter (fun v => v.team.desc.halo && v.team.grid == t.grid && v.team.asid == t.asid)).map
      (fun v => (v.core, v.team.uid)))
  else [(c, t.uid)]

/-- Whether a lane is held for a phase that a register has left. -/
def Group.heldAt (g : Group) (b : Fin 16) (phase : BitVec 16) : Bool :=
  g.status.any (fun st => match st with | .barHold k ph => k == b && ph != phase | _ => false)

/-- A barrier register written in one team, with the release of the lanes that its phase ends the wait of; at the b15 of a halo
chain those lanes acquire at die scope (Table K-20). -/
def State.putBarOne (s : State) (d : DieId) (c : CoreId) (uid : Nat) (b : Fin 16) (x : Barrier) : State :=
  let s1 := s.modTeam d c uid (fun t => { t with barriers := t.barriers.set b x })
  match s1.team? d c uid with
  | none => s1
  | some t =>
    let gs := s1.groupsOf d c t
    let s2 := gs.foldl (fun u p => u.rouse p.1 (fun g => g.releaseBar t.barriers)) s1
    if t.desc.halo && b == 15 && gs.any (fun p => p.2.heldAt b x.phase) then s2.acquireAt d c .die else s2

/-- A barrier register written, in every team that shares it (R42, R206). -/
def State.putBar (s : State) (d : DieId) (c : CoreId) (t : Team) (b : Fin 16) (x : Barrier) : State :=
  (s.barTeams d c t b).foldl (fun u p => u.putBarOne d p.1 p.2 b x) s

/-! ## The end of a team and of a group -/

/-- An octet given back to the core (R254): its slots and its feed are gone. -/
def Core.freeOctet (k : Core) (o : Fin 8) : Core :=
  { k with
    octets := k.octets.set o Octet.free
    table := (List.finRange 4).foldl (fun t j => t.set (4 * o.val + j.val) ⟨none, false⟩ (by omega)) k.table }

/-- The victim tags and the lines of a slot whose group has ended or was saved belong to no group (R58). -/
def Core.disown (k : Core) (slot : SlotId) : Core :=
  { k with
    victims := k.victims.map (fun v => if v.owner == some slot then { v with owner := none } else v)
    l1Lines := k.l1Lines.map (fun x => if x.owner == some slot then { x with owner := none } else x) }

/-- A slot given back to the core. -/
def Core.clearSlot (k : Core) (slot : SlotId) : Core :=
  { k.disown slot with slots := k.slots.set slot none }

/-- The octets that a team has allocated. -/
def Core.octetsOf (k : Core) (uid : Nat) : List (Fin 8) :=
  (List.finRange 8).filter (fun o => k.octets[o].owner == some uid)

/-- Whether an item of the bank order belongs to a team. -/
def Core.itemOf (k : Core) (t : Team) (x : SeqItem) : Bool :=
  match x.kind with
  | .mac op => op.team == t.uid
  | .wload b | .clr b _ | .mark b _ => (k.octets[b.val / 8]'(by omega)).owner == some t.uid
  | .drain g _ _ => t.slots.contains g.slot

/-- The resources of a team returned to its core (R9). -/
def Core.dropTeam (k : Core) (t : Team) : Core :=
  let k1 := { k with seq := k.seq.filter (fun x => !k.itemOf t x) }
  let k2 := (k.octetsOf t.uid).foldl Core.freeOctet k1
  let k3 := t.slots.foldl Core.clearSlot k2
  { k3 with teams := k3.teams.filter (fun x => x.uid != t.uid) }

/-- The end of a team counted in its launch, with the first non-OK status of the grid (R321, R390). -/
def State.noteEnd (s : State) (d : DieId) (t : Team) (status : Option (Byte × Word)) : State :=
  if t.inRange then
    { s with launches := s.launches.map (fun l =>
        if l.asid == t.asid && l.grid == t.grid then
          { l with
            ended := (d, t.teamIx.toNat) :: l.ended
            status := match l.status with | some x => some x | none => status }
        else l) }
  else s

/-- A team ends, with a status when it does not end well (R9, R349, R390). -/
def State.endTeam (s : State) (d : DieId) (c : CoreId) (t : Team) (status : Option (Byte × Word)) : State :=
  (s.modCore d c (fun k => k.dropTeam t)).noteEnd d t status

/-- TRCAUSE of a trap (Table K-70). -/
def TrapInfo.trcause (x : TrapInfo) : Word := 0#16 ++ x.detail ++ x.cause

/-- An unhandled trap (R349): firmware ends the team; the dispatcher is restarted (R16). A trap of firmware mode, and one in a
team of no launch (R214), is logged as a firmware fault. -/
def State.unhandled (s : State) (r : GRef) (g : Group) (t : Team) (x : TrapInfo) : State :=
  let s1 := if g.mode == .firmware || (!t.inRange && !t.dispatcher) then
      s.log 0x09 (dieSource r.die) 2 r.core.val (x.trcause.setWidth 64) else s
  if t.dispatcher then
    s1.setGroup r { g with ended := true, pendingTrap := some x, traps := [], flights := [], gw := [], hold := none }
  else s1.endTeam r.die r.core t (some (0x06, t.teamIx.setWidth 16 ++ x.detail ++ x.cause))

/-! ## Taking a trap (R347, R289) and returning (R348) -/

/-- The trap handler of an address space (R350). -/
def State.handler (s : State) (asid : BitVec 12) : DWord :=
  match s.spaces.find? (fun x => x.asid == asid) with
  | some x => x.handler
  | none => 0

/-- The lanes of a group that wait at the rendezvous latch. -/
def Group.gangMask (g : Group) : Mask := maskOf fun i => g.status[i] == LaneStatus.gangHold

/-- The entry itself: the information registers, the saved window, the mode, and the lanes of TRMASK at the handler. -/
def Group.enter (g : Group) (mode : Mode) (x : TrapInfo) (handler : DWord) : Group :=
  let gw := (g.gw.map (fun w => { w with arrived := w.arrived &&& ~~~x.mask })).filter (fun w => w.arrived != 0)
  { g with
    traps := ⟨mode, x, g.window⟩ :: g.traps
    pcs := updLanes g.pcs x.mask (fun _ => handler)
    status := Vector.ofFn fun i =>
      if g.status[i] == LaneStatus.exited then LaneStatus.exited
      else if inMask x.mask i || (g.status[i] == LaneStatus.gangHold && g.gangMask &&& x.mask != 0) then .run
      else g.status[i]
    gw := gw
    queues := g.dropClaims.queues
    hold := none
    pendingTrap := none }

/-- What a group waits for beside itself when a trap takes it from there: the place in bank order of a `wload` that waits for room, which
issues anew after the trap (R265), and its arrival at the rendezvous latch, made anew when its lanes come back (Group.enter puts those of its
lanes that the trap leaves out before the instruction again). -/
def State.leaveLatch (s0 : State) (r : GRef) (g : Group) (mask : Mask) : State :=
  let s := match g.hold with
    | some (.wload id) => s0.modCore r.die r.core (fun k => { k with seq := k.seq.filter (fun x => x.id != id) })
    | _ => s0
  if g.gangMask &&& mask == 0 then s
  else
    (s.modTeam r.die r.core g.team (fun t => { t with latch :=
      match t.latch with
      | some l =>
        let rest := l.arrivals.filter (fun a => a.slot != r.slot)
        if rest.isEmpty then none else some { l with arrivals := rest, pending := none }
      | none => none }))

/-- Whether a cause is one that firmware may resume by itself after walking the address again (R391). -/
def TrapInfo.rewalks (x : TrapInfo) : Bool :=
  x.cause == 0x21 && (x.detail == 0x02 || x.detail == 0x03 || x.detail == 0x0A)

/-- A trap goes to the handler of the address space, or is unhandled (R346, R349). -/
def State.toHandler (s : State) (r : GRef) (g : Group) (t : Team) (x : TrapInfo) : State :=
  let h := s.handler t.asid
  if g.mode != .user || h == 0 then s.unhandled r g t x
  else (s.leaveLatch r g x.mask).rouse r (fun _ => g.enter .trap x h)

/-- The address space of TRADDR: the team's, or the one that the instruction named (R320, R391). -/
def TrapInfo.asid (x : TrapInfo) (t : Team) : BitVec 12 := x.space.getD t.asid

/-- Whether a walk of the faulting address now translates (R391). -/
def State.mended (s : State) (d : DieId) (t : Team) (x : TrapInfo) : Bool :=
  match s.walk d (x.asid t) (va57 x.addr) with
  | .ok _ => true
  | .error _ => false

/-- Trap entry (R347): firmware acts first on the causes that Tables D-12 and D-13 send to it (R391), and a breakpoint enters
firmware mode when DBGEN is 1; every other trap goes to the handler. -/
def State.takeTrap (s : State) (r : GRef) (x : TrapInfo) : State :=
  match s.group? r with
  | none => s
  | some g =>
    match s.team? r.die r.core g.team with
    | none => s
    | some t =>
      if g.mode == .firmware then s.unhandled r g t x
      else if x.rewalks && s.mended r.die t x then
        s.rouse r (fun g => { g with pendingTrap := none })
      else if x.cause == 0x0C && s.dies[r.die].dbgen then
        (s.leaveLatch r g x.mask).rouse r (fun _ => g.enter .firmware x Config.firmwareEntry)
      else s.toHandler r g t x

/-- A trap recorded for an instruction issue: of two, the one whose instruction issued earlier stays (R347). -/
def Group.recordTrap (g : Group) (x : TrapInfo) (seq : Nat) : Group :=
  if g.pendingTrap.isSome && decide (g.pendingSeq ≤ seq) then g
  else { g with pendingTrap := some x, pendingSeq := seq }

/-- Whether something that a group issued is outstanding (R301, R347): a result in flight, an instruction that holds and has had a part of
its effect, or the operation of its gang that waits for the sequencer. -/
def State.owes (s : State) (r : GRef) (g : Group) : Bool :=
  !g.flights.isEmpty || (match g.hold with | some h => h.lasting | none => false)
    || (g.gangMask != 0 && match s.team? r.die r.core g.team with
        | some t => (match t.latch with | some l => l.pending.isSome | none => false)
        | none => false)

/-- The resume PC of plain `tret` (R348): the next instruction for SOFTWARE and BREAKPOINT, else the trapping one. -/
def TrapInfo.resumePc (x : TrapInfo) : DWord :=
  if x.cause == 0x0B || x.cause == 0x0C then x.pc + BitVec.ofNat 64 x.len else x.pc

/-- Whether a cause cannot be resumed (Table D-13). -/
def TrapInfo.final (x : TrapInfo) : Bool := x.cause == 0x07 || x.cause == 0x08

/-- The return from a trap (R348, R79): the window of the entry, the mode before it, and the lanes of TRMASK at an address; with
none they keep their PCs (R291). The registers of Table K-70 read as the outer entry left them (DESIGN CHOICE, log 113). -/
def Group.leave (g : Group) (pc : Option DWord) : Group :=
  match g.traps with
  | [] => g
  | t :: rest =>
    { g with
      traps := rest
      window := t.window
      pcs := match pc with | some pc => updLanes g.pcs t.info.mask (fun _ => pc) | none => g.pcs }

/-- Firmware passes the trap that it acts on to the handler, which sees the same TRCAUSE (R346, R391): the group leaves firmware mode with
its lanes where they are, and enters as the trap would have entered from there. -/
def State.passTrap (s : State) (r : GRef) : State :=
  match s.group? r with
  | none => s
  | some g =>
    match s.team? r.die r.core g.team, g.traps with
    | some t, x :: _ =>
      if x.mode != .firmware || g.ended || s.owes r g || g.pendingTrap.isSome || g.hold.isSome then s
      else
        let g1 := g.leave none
        (s.setGroup r g1).toHandler r g1 t x.info
    | _, _ => s

/-- An access fault discards the page's entries in the core's TLB and the die's (R338). -/
def State.faulted (s : State) (r : GRef) (x : TrapInfo) : State :=
  if x.cause == 0x21 && canonical x.addr then
    match (s.group? r).bind (fun g => s.team? r.die r.core g.team) with
    | some t => s.dropTlb r.die r.core (x.asid t) x.addr
    | none => s
  else s

/-- A trap raised (R347): entered at once when nothing the group issued is outstanding; else it waits for those. -/
def State.raise (s0 : State) (r : GRef) (x : TrapInfo) : State :=
  let s := s0.faulted r x
  match s.group? r with
  | none => s
  | some g =>
    if !s.owes r g && g.pendingTrap.isNone then s.takeTrap r x
    else s.setGroup r (g.recordTrap x g.issues)

/-! ## Groups that end, and the token deadlock (R8, R36) -/

/-- Whether every lane of a group is exited. -/
def Group.allExited (g : Group) : Bool := allLanes.all (fun i => g.status[i] == .exited)

/-- The rows that a group slot pushed leave the feeds of the core (R258). -/
def Core.dropRows (k : Core) (slot : SlotId) : Core :=
  { k with octets := k.octets.map (fun o => { o with feed := o.feed.filter (fun x => x.slot != slot) }) }

/-- The mask of the lanes that are not exited. -/
def Group.liveMask (g : Group) : Mask := maskOf fun i => g.status[i] != .exited

/-- A trap raised in every group that waits at a team's rendezvous latch, which waits no longer (R264). -/
def State.breakLatch (s : State) (d : DieId) (c : CoreId) (t : Team) (cause : Byte) : State :=
  match t.latch with
  | none => s
  | some l =>
    let s1 := s.modTeam d c t.uid (fun t => { t with latch := none })
    l.arrivals.foldl (fun u a => u.raise ⟨d, c, a.slot⟩
      ⟨cause, 0, l.pc, 16, (match u.group? ⟨d, c, a.slot⟩ with | some g => g.gangMask | none => 0), 0, 0, none⟩) s1

/-- The end of a group whose lanes are all exited (R8, R199, R264): its team ends with its last group, unless deposits of
`reorder` wait to be regrouped (R28). -/
def State.closeGroup (s : State) (r : GRef) : State :=
  match s.group? r with
  | none => s
  | some g =>
    if !g.allExited || g.ended then s
    else
      let s1 := (s.setGroup r { g with ended := true, traps := [], pendingTrap := none, gw := [], hold := none }).modCore r.die r.core
        (fun k => (k.dropRows r.slot).disown r.slot)
      match s1.team? r.die r.core g.team with
      | none => s1
      | some t =>
        let s2 := if t.gang.getLsbD g.gix.val && t.latch.isSome then s1.breakLatch r.die r.core t 0x08 else s1
        if t.dispatcher || !t.deposits.isEmpty then s2
        else if (s2.groupsOf r.die r.core t).all (fun p => p.2.ended) then s2.endTeam r.die r.core t none
        else s2

/-- The token-deadlock trap (R36): no candidate, and every non-exited thread parked or waiting. -/
def Group.deadlocked (g : Group) : Bool :=
  !g.allExited && allLanes.all (fun i =>
    match g.status[i] with
    | .exited | .parked _ | .waiting => true
    | _ => false)

/-- The lowest PC among the parked and waiting threads. -/
def Group.blockedPc (g : Group) : DWord :=
  (allLanes.foldl (fun acc i => if g.status[i] == .exited then acc else minPc acc g.pcs[i]) none).getD 0

/-- The token-deadlock test after an instruction that parks, holds at a group-wide operation or exits. -/
def State.checkDeadlock (s : State) (r : GRef) : State :=
  match s.group? r with
  | some g => if g.deadlocked then s.raise r ⟨0x07, 0, g.blockedPc, 8, g.liveMask, 0, 0, none⟩ else s
  | none => s

/-! ## The frame of an issue (R30, R73, R78, R81, R164) -/

/-- One issue: the state before it, the state with its queues popped, the group as it stood, its team, the fields, the PC, the
run and the members. -/
structure Ctx where
  s0 : State
  s : State
  r : GRef
  g : Group
  t : Team
  f : Fields
  pc : DWord
  run : Mask
  m : Mask

/-- How an issue ends: done, with the run advanced; placed, with the lanes where the meaning put them; left, the same without a
slot of its own in the window; a trap; or a hold of the group, before anything has happened or after a part has. -/
inductive Act
  | done (s : State) (slot : WinSlot)
  | placed (s : State) (slot : WinSlot)
  | left (s : State)
  | trap (s : State) (x : TrapInfo)
  | hold (h : Hold)
  | holdWith (s : State) (h : Hold)

/-- The address of the next instruction. -/
def Ctx.next (c : Ctx) : DWord := c.pc + BitVec.ofNat 64 (match c.f.len with | .f64 => 8 | .f96 => 12 | .f128 => 16)

/-- The length of the instruction in bytes (R149). -/
def Ctx.len (c : Ctx) : Nat := match c.f.len with | .f64 => 8 | .f96 => 12 | .f128 => 16

/-- TRMASK of a trap that an instruction raises (R289): its members, or its whole run when it has none. -/
def Ctx.trmask (c : Ctx) : Mask := if c.m == 0 then c.run else c.m

/-- The information of a trap that an instruction raises (R289, R392). -/
def Ctx.info (c : Ctx) (cause detail : Byte) (addr : DWord) (info : Word) : TrapInfo :=
  ⟨cause, detail, c.pc, c.len, c.trmask, addr, info, none⟩

/-- A precise trap: nothing of the instruction has happened (R165). -/
def Ctx.trap (c : Ctx) (cause detail : Byte) (addr : DWord) : Act := .trap c.s0 (c.info cause detail addr 0)
/-- The illegal-operand trap (Table D-13). -/
def Ctx.illegal (c : Ctx) : Act := c.trap 0x02 0 0

/-- An issue entered in the window (R78). -/
def Group.entered (g : Group) (slot : WinSlot) : Group :=
  { g with window := (⟨g.issues, slot⟩ :: g.window).take 8, issues := g.issues + 1 }

/-- The times of an issue (R44, R66). -/
def Group.passed (g : Group) (now : Nat) : Group :=
  { g with sched := { g.sched with lastIssue := now, eligibleSince := now, promoted := false } }

/-- The issue counted on its die (Table F-2); an instruction that held was counted when it was picked (R69). -/
def Ctx.counted (c : Ctx) (s : State) : State := if c.g.hold.isSome then s else s.count c.r.die 0 1

/-- The times of the issue; of an instruction that held, only the hold ends (R44, R69). -/
def Ctx.timed (c : Ctx) (g : Group) : Group := if c.g.hold.isSome then g.roused false c.s0.now else g.passed c.s0.now

/-- The issue counted and entered in the window, with its times. -/
def Ctx.ended (c : Ctx) (s : State) (slot : WinSlot) : State := (c.counted s).modGroup c.r (fun g => c.timed (g.entered slot))

/-- The issue counted, with its times. -/
def Ctx.charged (c : Ctx) (s : State) : State := (c.counted s).modGroup c.r c.timed

/-- Whether a held instruction has allocated its entry of a queue destination (R296): a group-wide operation pushes when it takes effect
(R191), and a `bdrain`, which alone of those that name a queue waits for an octet, when it completes (R271). -/
def Hold.allocates (h : Hold) : Bool :=
  match h with
  | .pop | .busy _ _ => false
  | _ => true

/-- The group held by the instruction, which issued when it was picked (R69): the entry of a queue destination is allocated then (R296). -/
def Ctx.held (c : Ctx) (s : State) (h : Hold) : State :=
  (c.counted s).modGroup c.r (fun g =>
    { (if c.g.hold.isSome then g else (fun x => if h.allocates then x.claimQ c.f.dst else x) (g.passed c.s0.now)) with
      hold := some h, heldRun := c.run, heldNext := c.next })

/-- What an issue leaves behind. -/
def Ctx.settle (c : Ctx) (a : Act) : State :=
  match a with
  | .done s slot => c.ended (s.modGroup c.r (fun g => g.advance c.run c.next)) slot
  | .placed s slot => ((c.ended s slot).closeGroup c.r).checkDeadlock c.r
  | .left s => ((c.charged s).closeGroup c.r).checkDeadlock c.r
  | .trap s x => (c.charged s).raise c.r x
  | .hold h => c.held c.s0 h
  | .holdWith s h => c.held s h

/-- The end of a hold with the instruction's effect made: the run that it held goes on past the instruction, which enters the
window (R69, R78). -/
def State.finishHold (s : State) (r : GRef) (slot : WinSlot) : State :=
  s.rouse r (fun g => Group.entered { g.advance g.heldRun g.heldNext with hold := none } slot)

/-- Whether a row is refused in the group's mode (R164, R345). -/
def privileged (op : Op) (mode : Mode) : Bool :=
  match op with
  | .tret | .tretSkip => mode == .user
  | .tlbinv | .cflushI | .cflushC | .cflushWb | .idle | .bremap | .btest => mode != .firmware
  | _ => false

/-- Whether a `bdrain` is in flight into a queue (R81). -/
def Group.drainInto (g : Group) (n : BitVec 4) : Bool :=
  g.flights.any (fun x => x.drain.isSome && x.dst == .q n)

/-- The queue conditions of an issue (R81): none, a hold for a drain in flight, or the queue-stall trap. -/
inductive QueueCheck
  | ok | hold | stall
  deriving DecidableEq, Repr

/-- Whether a push finds its queue full, after the pop when the instruction pops it too; one that has allocated its entry has room (R81, R296). -/
def pushFull (g : Group) (pops : List (BitVec 4)) (n : BitVec 4) : Bool :=
  decide ((g.queue n).depth ≤ (g.queue n).items.length - (if pops.contains n then 1 else 0)) && (g.queue n).claim.isNone

/-- The test of R81: a pop that no drain can end and a push that finds no room stall, whatever else the instruction waits for; a pop that a
drain ends holds. -/
def queueCheck (g : Group) (pops : List (BitVec 4)) (push : Option (BitVec 4)) : QueueCheck :=
  if pops.any (fun n => (g.queue n).items.isEmpty && !g.drainInto n) || push.any (pushFull g pops) then .stall
  else if pops.any (fun n => (g.queue n).items.isEmpty) then .hold
  else .ok

/-- The slot of an issue without a member: zero in every lane where the instruction would leave a result (R79). -/
def zeroSlot (op : Op) (f : Fields) : WinSlot :=
  if leavesResult f && decide (clsWords (op.form f).dst.cls (vecWords op f) (drainW f.sub) ≤ 2) then .value (lanes fun _ => 0)
  else .noResult

/-- One issue of an instruction (R30, R73, R81, R164): the checks that come before the meaning, and the meaning. A run without a
member only advances, except for an instruction that acts on it all the same: a group-wide operation, whose push is checked
when it takes effect (R191). -/
def Ctx.run1 (c : Ctx) (op : Op) (always : Bool) (body : Ctx → Act) : Act :=
  if privileged op c.g.mode then c.trap 0x03 0 0
  else if c.m == 0 && !always then .done c.s (zeroSlot op c.f)
  else if c.m == 0 then body c
  else if !operandsOk op c.f c.g c.t then c.illegal
  else
    match queueCheck c.g (opPops op c.f) (if always then none else opPushes op c.f) with
    | .stall => c.trap 0x09 0 0
    | .hold => .hold (if always then .pop else .queue)
    | .ok => body { c with s := (opPops op c.f).foldl (fun s n => s.modGroup c.r (fun g => g.popQ n)) c.s }

/-- The issue under way: the group that the step has picked, its team and the PC of its path (R30, R31). -/
def State.ctx? (s : State) (f : Fields) : Option Ctx :=
  match s.cur with
  | none => none
  | some r =>
    match s.group? r with
    | none => none
    | some g =>
      match s.team? r.die r.core g.team with
      | none => none
      | some t =>
        match (match s.curPair with | some p => some (p.1, g.runAt p.1 &&& p.2) | none => g.runPc.map (fun pc => (pc, g.runAt pc))) with
        | none => none
        | some (pc, run) => some ⟨s, s.setGroup r { g with hold := none }, r, g, t, f, pc, run, g.members f run⟩

/-- An instruction issued with a meaning; outside an issue there is nothing to execute. -/
def issueWith (op : Op) (always : Bool) (f : Fields) (s : State) (body : Ctx → Act) : Host.Outcome State Fault Refusal :=
  match s.ctx? f with
  | none => .fault .notIssuing
  | some c => .next (c.settle (c.run1 op always body))

/-- An instruction that does nothing without a member. -/
def issue (op : Op) (f : Fields) (s : State) (body : Ctx → Act) : Host.Outcome State Fault Refusal :=
  issueWith op false f s body

/-- The group changed. -/
def Ctx.withGroup (c : Ctx) (f : Group → Group) : State := c.s.modGroup c.r f

/-- A 32-bit result in every member lane (R166). -/
def Ctx.result32 (c : Ctx) (x : Lane → Word) : Act :=
  .done (c.withGroup (fun g => g.write32 c.f.dst c.m x)) (slot32 c.f c.m x)

/-- A 64-bit result in every member lane. -/
def Ctx.result64 (c : Ctx) (x : Lane → DWord) : Act :=
  .done (c.withGroup (fun g => g.write64 c.f.dst c.m x)) (slotOf c.f c.m x)

/-- A 32-bit or a 64-bit result by MOD (R171, R172). -/
def Ctx.resultMod (c : Ctx) (x : Lane → DWord) : Act :=
  if isB64 c.f.md then c.result64 x else c.result32 (fun i => (x i).setWidth 32)

/-- The source fields read in a lane. -/
def Ctx.a32 (c : Ctx) (i : Lane) : Word := c.g.read32 c.f c.f.sa i
def Ctx.b32 (c : Ctx) (i : Lane) : Word := c.g.read32 c.f c.f.sb i
def Ctx.c32 (c : Ctx) (i : Lane) : Word := c.g.read32 c.f c.f.sx i
def Ctx.a64 (c : Ctx) (i : Lane) : DWord := c.g.read64 c.f c.f.sa i
def Ctx.b64 (c : Ctx) (i : Lane) : DWord := c.g.read64 c.f c.f.sb i
def Ctx.c64 (c : Ctx) (i : Lane) : DWord := c.g.read64 c.f c.f.sx i
/-- Group-level operands (R189). -/
def Ctx.aLevel (c : Ctx) : Word := c.g.level32 c.f c.f.sa c.m
def Ctx.bLevel (c : Ctx) : Word := c.g.level32 c.f c.f.sb c.m
def Ctx.cLevel (c : Ctx) : Word := c.g.level32 c.f c.f.sx c.m

/-- An operand that is omitted, with its default (R159). -/
def Ctx.orElse (c : Ctx) (x : Operand) (i : Lane) (dflt : Word) : Word :=
  if x == .none then dflt else c.g.read32 c.f x i

end Sys2Proof.Machine
end

