-- ==== Sys2Proof/Machine/Loads.lean ====
section
/-! DEFINITION. What a load reads, now or later (spec 03 R94, R95, spec 04 R104, R107, R109, R110, spec 09 R226, R230, spec 17 R332), and
what the accesses and the releases of a group do to its loads that have yet to read. -/

namespace Sys2Proof.Machine

/-- A loaded value extended by its width (Table K-53). -/
def extendLoad (sub : BitVec 3) (bs : List Byte) : BitVec 128 :=
  let x := leNat bs
  match sub.toNat with
  | 1 => ((BitVec.ofNat 8 x).signExtend 32).setWidth 128
  | 3 => ((BitVec.ofNat 16 x).signExtend 32).setWidth 128
  | _ => BitVec.ofNat 128 x

/-- The 16-byte parts of a list of bytes. -/
def quads (n : Nat) (bs : List Byte) : List (BitVec 128) :=
  (List.range n).map (fun j => BitVec.ofNat 128 (bytesAt bs (16 * j) 16))

/-- The value that a list gives a lane. -/
def laneValue (xs : List (Lane × BitVec 128)) (i : Lane) : BitVec 128 :=
  match xs.find? (fun x => x.1 == i) with
  | some x => x.2
  | none => 0

/-- A flight replaced. -/
def Group.setFlight (g : Group) (x : Flight) : Group := { g with flights := g.flights.map (fun y => if y.id == x.id then x else y) }

/-! ## Reading (R107, R226, R230, R332) -/

/-- The level that a place is read at: home for a page that bypasses L2 (R332). -/
def ReadPlace.level (x : ReadPlace) : Level := if x.cache == 2 then .home else .core

/-- The bytes that a load reads. -/
def LoadSpec.bytes (x : LoadSpec) : List Nat := x.places.flatMap (fun p => span p.pa x.size)

/-- Whether a load reads one of some bytes. -/
def LoadSpec.reads (x : LoadSpec) (as : List Nat) : Bool :=
  x.places.any (fun p => as.any (fun a => decide (p.pa ≤ a) && decide (a < p.pa + x.size)))

/-- The lines that act as bypassed: of a page that L1 does not hold, or all of them (R107, R332). -/
def LoadSpec.noL1 (x : LoadSpec) (line : Nat) : Bool := x.bypass || x.places.any (fun p => p.pa / 128 == line && p.cache != 0)

/-- What a load has read: the state, the lanes whose data are poisoned and the address of the first, the values of the lanes and the parts of
a tile. -/
structure ReadResult where
  s : State
  bad : Mask
  addr : DWord
  vals : Lanes (BitVec 128)
  quads : List (BitVec 128)

/-- What a load reads now (R94, R104, R107, R226, R230): after its group's own waiting stores to its bytes, and of a page that bypasses L2
after the dirty bytes that the die has of it; a tile with a poisoned unit is bad in every member lane. -/
def State.readNow (s : State) (r : GRef) (x : LoadSpec) (m : Mask) : ReadResult :=
  let s1 := (x.places.filter (fun p => p.cache == 2)).foldl (fun t p => t.lineHome r.die r.core p.pa) (s.performOwn r x.bytes)
  let s2 := s1.l1Lookups r x.bytes false x.hint x.noL1 none (!x.tile)
  let bytes := fun (p : ReadPlace) => s2.readAt r.die r.core p.level p.pa x.size
  let bad := x.places.filter (fun p => s2.poisonedIn p.pa x.size)
  { s := s2
    bad := if x.tile then (if bad.isEmpty then 0 else m) else maskOf (fun i => bad.any (fun p => p.lane == i))
    addr := match bad with | p :: _ => p.va | [] => 0
    vals := lanes (fun i => if x.tile then 0 else laneValue (x.places.map (fun p => (p.lane, extendLoad x.sub (bytes p)))) i)
    quads := if x.tile then quads 64 (x.places.flatMap bytes) else [] }

/-- A flight with what its load has read. -/
def Flight.took (x : Flight) (y : ReadResult) : Flight :=
  { x with late := none, poisoned := y.bad, addr := y.addr, vals := y.vals, tileBytes := y.quads }

/-- The reading of a load in flight that has yet to read. -/
def State.readFlight (s : State) (r : GRef) (x : Flight) : State :=
  match x.late with
  | none => s
  | some y =>
    let q := s.readNow r y x.mask
    q.s.modGroup r (fun g => g.setFlight (x.took q))

/-- The loads of a group that have yet to read and that a test holds of read now, in the order of their issue (R109). -/
def State.readLate (s : State) (r : GRef) (p : Flight → Bool) : State :=
  match s.group? r with
  | none => s
  | some g => (g.flights.filter (fun x => x.late.isSome && p x)).foldl (fun t x => t.readFlight r x) s

/-- Whether a flight has yet to read one of some bytes. -/
def Flight.owesRead (as : List Nat) (x : Flight) : Bool := match x.late with | some y => y.reads as | none => false

/-! ## Accesses and releases of a group (R94 to R96, R104, R110) -/

/-- The lookups of one instruction, after its group's earlier accesses to the same bytes (R104, R225). -/
def State.l1Accesses (s : State) (r : GRef) (as : List Nat) (store : Bool) (hint : BitVec 2) (noL1 : Nat → Bool) (wrote : Option Nat)
    (lease : Bool) : State :=
  ((s.readLate r (Flight.owesRead as)).performOwn r as).l1Lookups r as store hint noL1 wrote lease

/-- A release that a group makes at a level (R96, R110): what the group has yet to read is read before it. -/
def State.releaseBy (s : State) (r : GRef) (lvl : Level) : State := (s.readLate r (fun _ => true)).releaseTo r.die r.core lvl

/-- Every load of the package that has yet to read reads, and every waiting store is performed (R340). -/
def State.settleAll (s : State) : State :=
  (allDies.foldl (fun t d => allCores.foldl (fun u c => allSlots.foldl (fun v i => v.readLate ⟨d, c, i⟩ (fun _ => true)) u) t) s).performAll

end Sys2Proof.Machine
end

