-- ==== Sys2Proof/Machine/Flags.lean ====
section
/-! DEFINITION. The flag computations: the condition of a compare, and the exception flags of FPSTAT with the arithmetic trap
(spec 05 R130, R131, spec 07 R167, R171). -/

namespace Sys2Proof.Machine

/-- The integer a word stands for: signed under `.i32`, unsigned under `.n32` (R169). -/
def extOf (signed : Bool) (x : Word) : Int := if signed then x.toInt else x.toNat

/-- The condition of `icmp` by SUB (R171). -/
def intCond (sub : BitVec 3) (a b : Int) : Bool :=
  match sub.toNat with
  | 0 => a == b
  | 1 => a != b
  | 2 => decide (a < b)
  | 3 => decide (a ≤ b)
  | 4 => decide (b < a)
  | _ => decide (b ≤ a)

/-- The condition of `fcmp` by SUB, with its flags (R176). -/
def floatCond (sub : BitVec 3) (x y : Fx) : Bool × Flags :=
  let un := x.isNan || y.isNan
  let ordered := 2 ≤ sub.toNat && sub.toNat ≤ 5
  let fl : Flags := if (ordered && un) || x.isSig || y.isSig then flNV else 0
  (match sub.toNat with
   | 0 => x.eq y
   | 1 => un || !x.eq y
   | 2 => !un && x.lt y
   | 3 => !un && !y.lt x
   | 4 => !un && y.lt x
   | 5 => !un && !x.lt y
   | 6 => un
   | _ => !un, fl)

/-- Flags ORed into FPSTAT in the lanes of a mask (R130). -/
def Group.orFlags (g : Group) (m : Mask) (fl : Lane → Flags) : Group :=
  { g with fpstat := updLanes g.fpstat m (fun i => g.fpstat[i] ||| fl i) }

/-- NV, DZ and OF of a set of flags: those that trap (R131). -/
def trapBits (fl : Flags) : Flags := fl &&& 7

/-- The OR of the trapping flags over the lanes of a mask: the detail of ARITHMETIC (Table D-13). -/
def flagDetail (m : Mask) (fl : Lane → Flags) : Flags := (lanesOf m).foldl (fun acc i => acc ||| trapBits (fl i)) 0

/-- An instruction with floating flags in the lanes of a mask (R130, R131, R167): under FPTRAP a trapping flag raises the
arithmetic trap after the flags are set, and the issue leaves no result; else the flags are set and the rest follows. Whether the queue
sources are popped under the trap is left open: they stay (DESIGN CHOICE, log 91). -/
def Ctx.withFlags (c : Ctx) (m : Mask) (fl : Lane → Flags) (rest : Ctx → Act) : Act :=
  let d := flagDetail m fl
  if c.t.desc.fptrap && d != 0 then
    .trap (c.s0.modGroup c.r (fun g => Group.entered { g.orFlags m fl with hold := none } .noResult)) (c.info 0x0A (d.setWidth 8) 0 0)
  else rest { c with s := c.withGroup (fun g => g.orFlags m fl) }

/-- A 32-bit floating result with its flags in every member lane (R167). -/
def Ctx.fpResult (c : Ctx) (x : Lane → Word × Flags) : Act :=
  let v := lanes x
  c.withFlags c.m (fun i => v[i].2) (fun c => c.result32 (fun i => v[i].1))

end Sys2Proof.Machine
end

