-- ==== Sys2Proof/Machine/SystemRegs.lean ====
section
/-! DEFINITION. System registers: `rdsr` and `wrsr` (spec 07 R186, R187; Tables K-2, K-7, K-26, K-45, K-51, K-59, K-67, K-70, D-4). -/

namespace Sys2Proof.Machine

/-- What a read of a system register gives: a value in each lane, or the trap it raises. -/
inductive SrRead
  | value (x : Lane → Word)
  | illegal
  | privileged
  | dispatcherOnly

/-- A grid's key of a team. -/
def Team.key (t : Team) : GridKey := ⟨t.asid, t.grid⟩

/-- The value kept for a key. -/
def keyGet {α : Type} (xs : List (GridKey × α)) (k : GridKey) (dflt : α) : α :=
  match xs.find? (fun x => x.1 == k) with
  | some x => x.2
  | none => dflt

/-- The value kept for a key replaced. -/
def keySet {α : Type} (xs : List (GridKey × α)) (k : GridKey) (v : α) : List (GridKey × α) :=
  (k, v) :: xs.filter (fun x => x.1 != k)

/-- The number of a role (Table K-2). -/
def Role.code (r : Role) : Word := match r with | .consumer => 0 | .producer => 1 | .dispatcher => 2

/-- SPASID (Table D-4). -/
def Dispatcher.spasidWord (x : Dispatcher) : Word :=
  match x.spasid with
  | some a => a.setWidth 32
  | none => 0x1000

/-- LEASENOW (Table K-7, R14). -/
def leaseNow (g : Group) (t : Team) : Word :=
  if t.dispatcher then 0 else BitVec.ofNat 32 (g.lease.units + (if g.lease.measured then 256 else 0))

/-- FPSTAT of a lane (Table K-26). -/
def fpstatWord (g : Group) (t : Team) (i : Lane) : Word :=
  (g.fpstat[i]).setWidth 32 ||| (if t.desc.fptrap then 0x100 else 0)

/-- Bits [56:32] of an address in [24:0] (Tables K-59, K-70). -/
def highOf (a : DWord) : Word := (a.extractLsb' 32 25).setWidth 32

/-- The work identity of a lane (Table K-2, R14). -/
def workIdentity (r : GRef) (g : Group) (t : Team) (n : Nat) (i : Lane) : Word :=
  match n with
  | 0x000 => BitVec.ofNat 32 i.val
  | 0x001 => BitVec.ofNat 32 g.gix.val
  | 0x002 => BitVec.ofNat 32 t.slots.length
  | 0x003 => g.role.code
  | 0x004 => t.teamIx
  | 0x005 => t.nteam
  | 0x006 => BitVec.ofNat 32 r.core.val
  | 0x007 => BitVec.ofNat 32 r.die.val
  | 0x008 => BitVec.ofNat 32 t.desc.prio.val
  | 0x009 => t.grid.setWidth 32
  | 0x00A => t.grid.extractLsb' 32 32
  | 0x00B => t.desc.args.setWidth 32
  | _ => t.desc.args.extractLsb' 32 32

/-- The trap information registers (Table K-70). -/
def trapRegister (x : TrapInfo) (n : Nat) : Word :=
  match n with
  | 0x070 => x.trcause
  | 0x071 => x.mask
  | 0x072 => x.pc.setWidth 32
  | 0x073 => highOf x.pc
  | 0x074 => x.addr.setWidth 32
  | 0x075 => highOf x.addr
  | _ => x.info

/-- A read of system register n (R186, R212, R289): the trap information stands in trap mode alone. -/
def Ctx.readSr (c : Ctx) (n : Nat) : SrRead :=
  let die := c.s0.dies[c.r.die]
  if n ≤ 0x00C then .value (fun i => workIdentity c.r c.g c.t n i)
  else if n = 0x010 then .value (fun _ => leaseNow c.g c.t)
  else if n = 0x011 then .value (fun _ => BitVec.ofNat 32 (c.s0.core c.r.die c.r.core).adm.feff)
  else if n = 0x012 then .value (fun _ => c.g.lease.lost)
  else if n = 0x020 then .value (fun i => fpstatWord c.g c.t i)
  else if 0x030 ≤ n ∧ n ≤ 0x034 then
    if !c.t.dispatcher then .dispatcherOnly
    else .value (fun _ =>
      if n = 0x030 then die.disp.gridLo else if n = 0x031 then die.disp.gridHi else if n = 0x032 then die.disp.nteam
      else if n = 0x033 then die.disp.dieCnt else die.disp.spasidWord)
  else if 0x040 ≤ n ∧ n ≤ 0x04F then .value (fun _ => c.t.berr[Fin.ofNat 16 (n - 0x040)])
  else if 0x050 ≤ n ∧ n ≤ 0x057 then .value (fun _ => c.g.cterr[Fin.ofNat 8 (n - 0x050)])
  else if n = 0x058 then .value (fun _ => (Config.xwinVa c.r.die).setWidth 32)
  else if n = 0x059 then .value (fun _ => highOf (Config.xwinVa c.r.die))
  else if n = 0x05A then .value (fun _ => keyGet die.xerr c.t.key 0)
  else if n = 0x060 then .value (fun _ => die.replicas.version.setWidth 32)
  else if n = 0x061 then .value (fun _ => die.redir)
  else if n = 0x062 then .value (fun _ => die.dropped)
  else if 0x070 ≤ n ∧ n ≤ 0x076 then
    match c.g.traps with
    | x :: _ => if x.mode == .trap then .value (fun _ => trapRegister x.info n) else .illegal
    | [] => .illegal
  else if 0x800 ≤ n ∧ n ≤ 0xFFF then
    if c.g.mode != .firmware then .privileged
    else if n = 0x800 then .value (fun _ => if die.dbgen then 1 else 0)
    else .illegal
  else .illegal

/-- The number that SA names (R186). -/
def Ctx.srNumber (c : Ctx) : Nat := (c.g.read32 c.f c.f.sa 0).toNat

/-- `rdsr` (R186). -/
def execRdsr (f : Fields) (s : State) :=
  issue .rdsr f s fun c =>
    match c.readSr c.srNumber with
    | .value x => c.result32 x
    | .illegal => c.illegal
    | .privileged => c.trap 0x03 0 0
    | .dispatcherOnly => c.trap 0x04 0 0

/-- A register that writing 1 to VALID clears (Table K-60); any member lane may write the 1. -/
def Ctx.clears (c : Ctx) : Bool := (lanesOf c.m).any (fun i => (c.b32 i).getLsbD 31)

/-- The spawn context registers written, with the value of the lowest member lane (R212). -/
def Dispatcher.write (x : Dispatcher) (n : Nat) (v : Word) : Dispatcher :=
  match n with
  | 0x030 => { x with gridLo := v }
  | 0x031 => { x with gridHi := v }
  | 0x032 => { x with nteam := v }
  | _ => { x with dieCnt := v }

/-- A write of system register n (R3, R11, R64, R186, R212, R237). -/
def Ctx.writeSr (c : Ctx) (n : Nat) : Act :=
  let ok := fun (s : State) => Act.done s .noResult
  if n = 0x020 then
    ok (c.withGroup (fun g => { g with fpstat := updLanes g.fpstat c.m (fun i => (c.b32 i).setWidth 5) }))
  else if 0x030 ≤ n ∧ n ≤ 0x034 then
    if !c.t.dispatcher then c.trap 0x04 0 0
    else if n = 0x034 then c.illegal
    else ok (c.s.modDie c.r.die (fun x => { x with disp := x.disp.write n c.bLevel }))
  else if 0x040 ≤ n ∧ n ≤ 0x04F then
    if c.clears then
      ok (c.s.modTeam c.r.die c.r.core c.t.uid (fun t => { t with berr := t.berr.set (Fin.ofNat 16 (n - 0x040)) 0 }))
    else ok c.s
  else if 0x050 ≤ n ∧ n ≤ 0x057 then
    if c.clears then ok (c.withGroup (fun g => { g with cterr := g.cterr.set (Fin.ofNat 8 (n - 0x050)) 0 })) else ok c.s
  else if n = 0x05A then
    if c.clears then ok (c.s.modDie c.r.die (fun x => { x with xerr := x.xerr.filter (fun y => y.1 != c.t.key) })) else ok c.s
  else if 0x800 ≤ n ∧ n ≤ 0xFFF then
    if c.g.mode != .firmware then c.trap 0x03 0 0
    else if n = 0x800 then ok (c.s.modDie c.r.die (fun x => { x with dbgen := c.bLevel.getLsbD 0 }))
    else c.illegal
  else c.illegal

/-- `wrsr` (R186). -/
def execWrsr (f : Fields) (s : State) := issue .wrsr f s fun c => c.writeSr c.srNumber

end Sys2Proof.Machine
end

