-- ==== Sys2Proof/Machine/LaneOps.lean ====
section
/-! DEFINITION. Row 0x5: predicate logic, group-wide lane operations and neighbour reads (spec 01 R37 to R43, spec 08 R190 to
R196). -/

namespace Sys2Proof.Machine

/-! ## Predicate logic -/

/-- The operation of `pop` by SUB (R190). -/
def popOf (sub : BitVec 3) (a b : Bool) : Bool :=
  match sub.toNat with
  | 0 => a && b
  | 1 => a || b
  | 2 => a != b
  | 3 => a && !b
  | 4 => a || !b
  | 5 => !(a && b)
  | 6 => !(a || b)
  | _ => a == b

/-- `pop` (R190). -/
def execPop (f : Fields) (s : State) :=
  issue .pop f s fun c => c.result32 (fun i => if popOf c.f.sub (c.a32 i != 0) (c.b32 i != 0) then 1 else 0)

/-- `pmov` (R190). -/
def execPmov (f : Fields) (s : State) :=
  issue .pmov f s fun c => c.result32 (fun i => (c.g.p[i] ||| 0x80#8).setWidth 32)

/-- `pmov.set` (R190). -/
def execPmovSet (f : Fields) (s : State) :=
  issue .pmovSet f s fun c =>
    .done (c.withGroup (fun g =>
      { g with p := updLanes g.p c.m (fun i =>
          let b := ((c.orElse c.f.sb i 0x7F).setWidth 8) &&& 0x7F#8
          (g.p[i] &&& ~~~b) ||| ((c.a32 i).setWidth 8 &&& b)) })) .noResult

/-! ## Group-wide operations (R37, R191) -/

/-- The values that the lanes of a mask take their new ones from, the others keeping theirs. -/
def mergeLanes {α : Type} (m : Mask) (new old : Lanes α) : Lanes α := Vector.ofFn fun i => if inMask m i then new[i] else old[i]

/-- The arrival of a run at a group-wide operation with a member mask (R37, R191): the operation with the run's lanes arrived
and their sources read, or the trap. -/
def Ctx.arrive (c : Ctx) (mask : Mask) (a : Lane → DWord) (b : Lane → Word) : Except Act GroupWide :=
  match c.g.gw.find? (fun w => w.pc == c.pc) with
  | some w =>
    if mask != w.mask || (c.run &&& ~~~mask) != 0 then .error c.illegal
    else .ok { w with
      arrived := w.arrived ||| c.run, contrib := w.contrib ||| c.m
      srcA := mergeLanes c.run (lanes a) w.srcA, srcB := mergeLanes c.run (lanes b) w.srcB }
  | none =>
    if mask == 0 then .error c.illegal
    else if (lanesOf mask).any (fun i => c.g.status[i] == .exited) then .error (.trap c.s0 { c.info 0x08 0 0 0 with mask := c.run })
    else if (c.run &&& ~~~mask) != 0 then .error c.illegal
    else .ok ⟨c.pc, mask, c.run, c.m, lanes a, lanes b⟩

/-- Whether every named lane has arrived. -/
def GroupWide.complete (w : GroupWide) : Bool := (w.mask &&& ~~~w.arrived) == 0

/-- The operations that wait, but for the one at a PC. -/
def Group.withoutGw (g : Group) (pc : DWord) : Group := { g with gw := g.gw.filter (fun w => w.pc != pc) }

/-- The lanes of the run wait at the operation (R37), whose push is one of the completing issue: none is allocated before (R191). -/
def Ctx.waitAt (c : Ctx) (w : GroupWide) : Act :=
  .placed (c.withGroup (fun g =>
    let g := g.dropClaims.withoutGw c.pc
    { g with gw := w :: g.gw, status := updLanes g.status c.run (fun _ => .waiting) })) .noResult

/-- The waiting lanes of an operation that has taken effect go on at the next instruction. -/
def Group.passGw (g : Group) (w : GroupWide) (next : DWord) : Group :=
  let g := g.withoutGw w.pc
  { g with status := updLanes g.status w.arrived (fun _ => .run), pcs := updLanes g.pcs w.arrived (fun _ => next) }

/-- The operation takes effect (R191): the results of the contributors, its flags in every one of them, the one push of a queue destination, and the
arithmetic trap of the completing issue, whose lanes are TRMASK under the first case of R289. -/
def Ctx.finishGw (c : Ctx) (w : GroupWide) (x : Lane → Word × Flags) : Act :=
  let v := lanes x
  let fl : Flags := (lanesOf w.contrib).foldl (fun acc i => acc ||| v[i].2) 0
  let d := trapBits fl
  let popped := match c.s.group? c.r with | some g => g | none => c.g
  if w.contrib != 0 && (match c.f.dst with | .q n => decide ((popped.queue n).depth ≤ (popped.queue n).items.length) | _ => false) then
    c.trap 0x09 0 0
  else if c.t.desc.fptrap && d != 0 then
    .trap (c.s0.modGroup c.r (fun g => Group.entered { g.orFlags w.contrib (fun _ => fl) with hold := none } .noResult))
      (c.info 0x0A (d.setWidth 8) 0 0)
  else
    .placed (c.withGroup (fun g =>
      ((g.orFlags w.contrib (fun _ => fl)).write32 c.f.dst w.contrib (fun i => v[i].1)).passGw w c.next))
      (slot32 c.f w.contrib (fun i => v[i].1))

/-- One issue of a group-wide operation: the arrival, and the effect at the completing issue. -/
def Ctx.groupWide (c : Ctx) (mask : Operand) (a : Lane → DWord) (b : Lane → Word) (x : GroupWide → Lane → Word × Flags) : Act :=
  match c.arrive (c.g.read32 c.f mask 0) a b with
  | .error act => act
  | .ok w => if w.complete then c.finishGw w (x w) else c.waitAt w

/-- The contributors in ascending lane order. -/
def GroupWide.cs (w : GroupWide) : List Lane := lanesOf w.contrib

/-- `vote` (R192). -/
def voteOf (sub : BitVec 3) (w : GroupWide) : Bool :=
  let all := w.cs.all (fun j => w.srcA[j] != 0)
  match sub.toNat with
  | 0 => all
  | 1 => w.cs.any (fun j => w.srcA[j] != 0)
  | _ => all || w.cs.all (fun j => w.srcA[j] == 0)

/-- `vote` (R192). -/
def execVote (f : Fields) (s : State) :=
  issueWith .vote true f s fun c =>
    c.groupWide c.f.sb (fun i => (c.a32 i).setWidth 64) (fun _ => 0) (fun w _ => (if voteOf c.f.sub w then 1 else 0, 0))

/-- `ballot` (R192). -/
def execBallot (f : Fields) (s : State) :=
  issueWith .ballot true f s fun c =>
    c.groupWide c.f.sb (fun i => (c.a32 i).setWidth 64) (fun _ => 0)
      (fun w _ => (maskOf (fun j => inMask w.contrib j && w.srcA[j] != 0), 0))

/-- The result of `match` in a lane (R192). -/
def matchOf (all : Bool) (w : GroupWide) (i : Lane) : Word :=
  if all then (if w.cs.all (fun j => w.cs.all (fun k => w.srcA[j] == w.srcA[k])) then w.contrib else 0)
  else maskOf (fun j => inMask w.contrib j && w.srcA[j] == w.srcA[i])

/-- `match` (R192). -/
def execMatchLanes (f : Fields) (s : State) :=
  issueWith .matchLanes true f s fun c =>
    c.groupWide c.f.sb (fun i => if isB64 c.f.md then c.a64 i else (c.a32 i).setWidth 64) (fun _ => 0)
      (fun w i => (matchOf (c.f.sub == 1) w i, 0))

/-- The source lane of `shfl`, before the range check (R193). -/
def shflLane (sub : BitVec 3) (i : Lane) (b : Word) : Int :=
  match (sub.extractLsb' 0 2).toNat with
  | 0 => b.toInt
  | 1 => (i.val : Int) - b.toInt
  | 2 => (i.val : Int) + b.toInt
  | _ => ((i.val ^^^ (b.extractLsb' 0 5).toNat : Nat) : Int)

/-- `shfl` (R38, R193). -/
def execShfl (f : Fields) (s : State) :=
  issueWith .shfl true f s fun c =>
    c.groupWide c.f.sx (fun i => (c.a32 i).setWidth 64) c.b32 (fun w i =>
      let k := shflLane c.f.sub i w.srcB[i]
      (if k < 0 ∨ 31 < k then (if c.f.sub.getLsbD 2 then c.f.imm else (w.srcA[i]).setWidth 32)
       else
         let j : Lane := Fin.ofNat 32 k.toNat
         if inMask w.contrib j then (w.srcA[j]).setWidth 32 else c.a32 j, 0))

/-! ## Reductions (R194, R195) -/

/-- The identity of a reduction by operation and type (Table K-49). -/
def identityOf (op ty : Nat) : Word :=
  match op, ty with
  | 0, 2 => 0x80000000
  | 1, 0 => 0x7FFFFFFF
  | 1, 1 => 0xFFFFFFFF
  | 2, 0 => 0x80000000
  | 1, 2 | 2, 2 => 0x7FC00000
  | 3, _ => 0xFFFFFFFF
  | _, _ => 0

/-- One step of a fold (R194): the accumulator with x, and the flags. -/
def foldStep (op ty : Nat) (ftz : Bool) (acc x : Word) : Word × Flags :=
  if ty = 2 then
    if op = 0 then f32Out 0 ftz (Fx.add 0 (f32In ftz acc) (f32In ftz x))
    else fMinMax (op == 1) ftz acc x
  else
    (match op with
     | 0 => acc + x
     | 1 => if ty = 0 then (if acc.slt x then acc else x) else (if acc.ult x then acc else x)
     | 2 => if ty = 0 then (if x.slt acc then acc else x) else (if x.ult acc then acc else x)
     | 3 => acc &&& x
     | 4 => acc ||| x
     | _ => acc ^^^ x, 0)

/-- The fold of a list of values in ascending lane order (R194). -/
def foldOf (op ty : Nat) (ftz : Bool) (xs : List Word) : Word × Flags :=
  xs.foldl (fun p x => let r := foldStep op ty ftz p.1 x; (r.1, p.2 ||| r.2)) (identityOf op ty, 0)

/-- The fold of the contributors in a list of lanes, with the operation and type of an instruction. -/
def Ctx.foldLanes (c : Ctx) (w : GroupWide) (ls : List Lane) : Word × Flags :=
  foldOf c.f.sub.toNat (c.f.md.extractLsb' 0 2).toNat (c.f.md.getLsbD 3) (ls.map (fun j => (w.srcA[j]).setWidth 32))

/-- The contributors of the segment that holds lane i (R195). -/
def GroupWide.segment (w : GroupWide) (i : Lane) : List Lane :=
  let start := ((w.cs.filter (fun j => j ≤ i && w.srcB[j] != 0)).getLast?).getD 0
  let stop := w.cs.find? (fun j => i < j && w.srcB[j] != 0)
  w.cs.filter (fun j => start ≤ j && (match stop with | some k => decide (j < k) | none => true))

/-- The lanes of a prefix: up to lane i, or below it under `.excl` (R194). -/
def Ctx.upTo (c : Ctx) (ls : List Lane) (i : Lane) : List Lane :=
  ls.filter (fun j => j < i || (j == i && !c.f.md.getLsbD 2))

/-- `redx` (R194). -/
def execRedx (f : Fields) (s : State) :=
  issueWith .redx true f s fun c =>
    c.groupWide c.f.sb (fun i => (c.a32 i).setWidth 64) (fun _ => 0) (fun w _ => c.foldLanes w w.cs)

/-- `scan` (R194). -/
def execScan (f : Fields) (s : State) :=
  issueWith .scan true f s fun c =>
    c.groupWide c.f.sb (fun i => (c.a32 i).setWidth 64) (fun _ => 0) (fun w i => c.foldLanes w (c.upTo w.cs i))

/-- `segred` (R195). -/
def execSegred (f : Fields) (s : State) :=
  issueWith .segred true f s fun c =>
    c.groupWide c.f.sx (fun i => (c.a32 i).setWidth 64) c.b32 (fun w i => c.foldLanes w (w.segment i))

/-- `segscan` (R195). -/
def execSegscan (f : Fields) (s : State) :=
  issueWith .segscan true f s fun c =>
    c.groupWide c.f.sx (fun i => (c.a32 i).setWidth 64) c.b32 (fun w i => c.foldLanes w (c.upTo (w.segment i) i))

/-! ## Neighbour reads (R41, R42, R196) -/

/-- The group of a team with a group index. -/
def State.groupAt (s : State) (d : DieId) (c : CoreId) (t : Team) (ix : Nat) : Option Group :=
  ((s.groupsOf d c t).find? (fun p => p.2.gix.val == ix)).map Prod.snd

/-- The team beside a team of a halo chain, by its team index (R42). One that has ended is not there, and R196, which speaks of an ended
group of a living team alone, leaves open what an edge lane reads then: the model takes the neighbour as missing (DESIGN CHOICE, log 92). -/
def State.besideTeam (s : State) (d : DieId) (t : Team) (right : Bool) : Option (CoreId × Team) :=
  if !t.desc.halo then none
  else
    allCores.findSome? (fun c =>
      ((s.core d c).teams.find? (fun x => x.desc.halo && x.grid == t.grid && x.asid == t.asid
        && (if right then x.teamIx.toNat == t.teamIx.toNat + 1 else x.teamIx.toNat + 1 == t.teamIx.toNat))).map (fun x => (c, x)))

/-- The neighbour group across the edge of a group (R41, R42). -/
def State.besideGroup (s : State) (r : GRef) (g : Group) (t : Team) (right : Bool) : Option Group :=
  let inside := if right then s.groupAt r.die r.core t (g.gix.val + 1)
    else if g.gix.val = 0 then none else s.groupAt r.die r.core t (g.gix.val - 1)
  match inside with
  | some x => some x
  | none =>
    if right && g.gix.val + 1 < t.slots.length || (!right && g.gix.val != 0) then none
    else
      match s.besideTeam r.die t right with
      | some (c, x) => s.groupAt r.die c x (if right then 0 else x.slots.length - 1)
      | none => none

/-- The neighbour of a lane: its group and lane number, none when it is missing. -/
def State.neighbour (s : State) (r : GRef) (g : Group) (t : Team) (right : Bool) (i : Lane) : Option (Group × Lane) :=
  if right && decide (i.val < 31) then some (g, i + 1)
  else if !right && decide (0 < i.val) then some (g, i - 1)
  else (s.besideGroup r g t right).map (fun x => (x, if right then 0 else 31))

/-- Whether a register of a neighbour exists within its own group's budget (R13, R80). -/
def Group.hasSource (g : Group) (x : Operand) : Bool :=
  match x with
  | .v n => decide (n.toNat < g.vLimit)
  | _ => true

/-- `nbr` (R196). A register beyond the neighbour group's own budget has a value the manual does not state: a free one (log 15). -/
def execNbr (f : Fields) (s : State) :=
  issue .nbr f s fun c =>
    let right := c.f.sub == 0
    let free := (lanesOf c.m).any (fun i =>
      match c.s0.neighbour c.r c.g c.t right i with
      | some (g, _) => !g.hasSource c.f.sa
      | none => false)
    let c := if free then { c with s := c.s.freshened } else c
    c.result32 (fun i =>
      match c.s0.neighbour c.r c.g c.t right i with
      | some (g, j) => if g.hasSource c.f.sa then g.read32 c.f c.f.sa j else Config.freeWord (freeAt c.s0.fresh i.val)
      | none => c.orElse c.f.sb i (c.a32 i))

end Sys2Proof.Machine
end

