-- ==== Sys2Proof/Machine/Issue.lean ====
section
/-! DEFINITION. An issue made ready, the second path, and the picks of a core cycle (spec 01 R30, R31, spec 02 R65 to R69, spec 08 R196,
R201, spec 14 R300). -/

namespace Sys2Proof.Machine

/-! ## What the step does with an issue -/

/-- An issue made ready: nothing to do, another effect in its place (a trap, or pads consumed), or the instruction to execute. -/
inductive Prepared
  | nothing
  | instead (s : State)
  | run (s : State) (i : Instr)

/-- A wait of `yield` without a slot that has been picked; the wait of a group that waits for no other ends with that pick (R44, R201). -/
def Sched.picked (x : Sched) (slot : SlotId) (now : Nat) : Sched :=
  if x.yieldAt.isSome && x.yieldFor.contains slot then
    let rest := x.yieldFor.filter (· != slot)
    { x with yieldFor := rest, eligibleSince := if rest.isEmpty then now else x.eligibleSince }
  else x

/-- A pick of a slot ends the waits of `yield` for it (R201). -/
def Core.picked (k : Core) (slot : SlotId) (now : Nat) : Core :=
  { k with slots := k.slots.map (fun x => x.map (fun g => { g with sched := g.sched.picked slot now })) }

/-! ### The second path (R31, R300) -/

/-- Whether a row is a group-wide operation (R37). -/
def groupWideOp (op : Op) (f : Fields) : Bool :=
  match op with
  | .vote | .ballot | .matchLanes | .shfl | .redx | .scan | .segred | .segscan => true
  | .bmac | .bmacs => f.sub == 1
  | _ => false

/-- Whether a row can hold (R31). -/
def canHold (op : Op) (f : Fields) (g : Group) : Bool :=
  (match op with
   | .barSync | .barSyncOne | .barWait | .cwait | .sleep | .vgrow | .spawn | .launch | .pksend | .pkrecv | .sstep | .gang
   | .balloc | .bfree | .bcfg | .bfeed | .bmac | .bmacs | .qdrain | .svcTransfer | .svcIcflush | .tlbinv | .cflushI | .cflushC
   | .cflushWb | .idle => true
   | .fenceAr | .fenceSc => scopeLevel (f.md.extractLsb' 0 3).toNat != .core
   | _ => op.opc / 16 == 0xA)
  || (opPops op f).any (fun n => (g.queue n).items.isEmpty)

/-- Whether a row writes a uniform register, a queue or a tile (R31). -/
def writesShared (f : Fields) : Bool :=
  match f.dst with
  | .u _ | .q _ | .t _ => true
  | _ => false

/-- Whether a row may form half of a dual-path pair (R31). -/
def pairs (op : Op) (f : Fields) (g : Group) : Bool :=
  !groupWideOp op f && !(op == .tkopen || op == .tkjoin || op == .tkleave) && !canHold op f g && !writesShared f

/-- Whether an `nbr` reads only within its group or across a missing edge: the condition of a pair, for the lanes whose guard is true
(R196). -/
def State.nbrPairs (s : State) (r : GRef) (op : Op) (f : Fields) (g : Group) (t : Team) (m : Mask) : Bool :=
  op != .nbr || !(inMask m (if f.sub == 0 then 31 else 0)) || (s.besideGroup r g t (f.sub == 0)).isNone

/-- The acquire of a team's first instruction, which matches the release of the `spawn` that made the team (R213). -/
def State.firstAcquire (s : State) (r : GRef) (t : Team) : State :=
  if !t.dispatcher && (s.groupsOf r.die r.core t).all (fun x => x.2.issues == 0) then s.acquireAt r.die r.core .die else s

/-- The state with a group past the pads that it reached (R151). -/
def State.passPads (s : State) (r : GRef) (g : Group) : State := s.modGroup r (fun x => { x with pcs := g.pcs })

/-- The scheduling state of a group that is picked (R44, R66): its next pick is an ordinary one, and no earlier than n core cycles on. -/
def Sched.taken (x : Sched) (now n : Nat) : Sched := { x with promoted := false, eligibleSince := now, notBefore := max x.notBefore (now + n) }

/-- What a pick of a group does before its instruction: a wait of `yield` ends (R201), and its next pick is n core cycles later at the
earliest. A group that is held took its pick when it issued (R69). -/
def State.takePick (s : State) (r : GRef) (g : Group) (n : Nat) : State :=
  if g.hold.isSome then s
  else (s.modCore r.die r.core (fun k => k.picked r.slot s.now)).modGroup r (fun g => { g with sched := g.sched.taken s.now n })

/-! ### Reads of register banks and ports (R67, R68) -/

/-- The vector registers that an instruction reads, each once (R67). -/
def vectorReads (op : Op) (f : Fields) : List Nat :=
  let stores := match (op.form f).dst.cls with | .stData _ => true | _ => false
  let xs := opSlots op (if stores then f else { f with dst := .none })
  (xs.flatMap (fun x =>
    match x.1 with
    | .v n => (List.range (clsWords x.2 (vecWords op f) (drainW f.sub))).map (n.toNat + ·)
    | _ => [])).eraseDups

/-- The reads of one bank. -/
def bankReads (xs : List Nat) (b : Nat) : Nat := (xs.filter (fun n => n % 4 == b)).length

/-- The ports of a core cycle (R68). -/
inductive Port
  | sfu | lsu | bankFeed
  deriving DecidableEq, Repr

/-- The port that a row needs (R68). -/
def portOf (op : Op) : Option Port :=
  match op with
  | .bfeed | .bmac | .bmacs | .bdrain | .bclr => some .bankFeed
  | _ =>
    let row := op.opc / 16
    if row = 3 then some .sfu else if row = 8 ∨ row = 9 ∨ row = 0xA then some .lsu else none

/-- Whether two instructions conflict in register banks or ports (R67, R68). -/
def conflicts (a b : Op × Fields) : Bool :=
  let xs := vectorReads a.1 a.2
  let ys := vectorReads b.1 b.2
  (List.range 4).any (fun k => decide (2 < bankReads xs k + bankReads ys k))
    || ((portOf a.1).isSome && portOf a.1 == portOf b.1)

/-- Whether an instruction needs more than two reads of one register bank (R66). -/
def wideRead (w : Op × Fields) : Bool := (List.range 4).any (fun k => decide (2 < bankReads (vectorReads w.1 w.2) k))

/-- The core cycles from an issue to the group's next pick at the earliest: after YLD = 1 the four cycles that follow pass (R157), and after an
instruction that needs more than two reads of one register bank one does (R66). -/
def pickGap (w : Op × Fields) : Nat := if w.2.yld then 5 else if wideRead w then 2 else 0

/-! ### The issue made ready -/

/-- An issue of a group's first path made ready (R30, R151, R165, R213, R289). -/
def State.prepare (s : State) (r : GRef) : Prepared :=
  match s.peek r with
  | none => .nothing
  | some (g, t, pc, x) =>
    let s1 := s.passPads r g
    match x with
    | .fault cause detail len =>
      .instead (((s1.fetchFill r g t pc).takePick r g 0).raise r ⟨cause, detail, pc, len, g.runAt pc, if cause == 0x01 then 0 else pc, 0, none⟩)
    | .instr i =>
      match i.word? with
      | none => .nothing
      | some (op, f) =>
        if (padLen i).isSome then .instead s1
        else if !g.operandsReady op f (g.runAt pc) then .nothing
        else .run { (((s1.fetchFill r g t pc).firstAcquire r t).takePick r g (pickGap (op, f))) with cur := some r, curPair := none } i

/-- The second path of a pick: the group past the pads of both paths, the PC and the lanes of its run, and its instruction. -/
structure SecondPath where
  g : Group
  pc : DWord
  run : Mask
  instr : Instr
  deriving DecidableEq, Repr

/-- Whether a source is window slot w1, which the first path's issue fills (R300). -/
def readsNewest (op : Op) (f : Fields) : Bool := (opSlots op f).any (fun x => x.1 == .w 0)

/-- A group as the second path finds it: the first path's slot is the newest of the window, and the entries that it pops are gone (R31, R300). -/
def Group.afterFirst (g : Group) (op : Op) (f : Fields) : Group :=
  (opPops op f).foldl (fun g n => g.popQ n) { g with window := ⟨g.issues, .pending⟩ :: g.window }

/-- The second path that a pick of a group may issue with its first path (R31, R66 to R68, R196, R300): neither instruction is one that
R31 leaves out, both are eligible, and they conflict in neither register banks nor ports. -/
def State.pairOf (s : State) (r : GRef) : Option SecondPath :=
  match s.peek r with
  | some (g1, t, pc, .instr i) =>
    match i.word?, s.fetchPath r t Group.secondPc padRun g1 with
    | some (op, f), some (g, pc2, .instr j) =>
        match j.word? with
        | some (op2, f2) =>
          let run := g.runAt pc
          let run2 := g.runAt pc2
          let g2 := if g.members f run == 0 then { g with window := ⟨g.issues, .pending⟩ :: g.window } else g.afterFirst op f
          if s.eligible r && !wideRead (op, f) && (padLen j).isNone
              && pairs op f g && pairs op2 f2 g2 && s.nbrPairs r op f g t (g.members f run) && s.nbrPairs r op2 f2 g t (g.members f2 run2)
              && !conflicts (op, f) (op2, f2) && !readsNewest op2 f2 && g2.operandsReady op2 f2 run2
          then some ⟨g, pc2, run2, j⟩ else none
        | none => none
    | _, _ => none
  | _ => none

/-- The second path made ready, after the first path's issue: the lanes of its run that are still where the pick saw them. A trap that the
first path raised comes first (R31, R347). -/
def State.prepareSecond (s : State) (r : GRef) (x : SecondPath) : Prepared :=
  match s.group? r with
  | none => .nothing
  | some g =>
    match s.team? r.die r.core g.team with
    | none => .nothing
    | some t =>
      if g.ended || g.pendingTrap.isSome || g.hold.isSome || g.runAt x.pc &&& x.run == 0 then .nothing
      else .run { s.fetchFill r g t x.pc with cur := some r, curPair := some (x.pc, x.run) } x.instr

/-! ## The picks of a core cycle (R65 to R68) -/

/-- The class of a group for a pick (R44, R66). -/
def pickClass (g : Group) (t : Team) : Nat := if g.sched.promoted || t.dispatcher then 3 else t.desc.prio.val

/-- The selection order (R66): descending class, then ascending age, then ascending GROUPIX. -/
def pickBefore (x y : Group × Team) : Bool :=
  let a := pickClass x.1 x.2
  let b := pickClass y.1 y.2
  decide (b < a) || (a == b && (decide (x.2.age < y.2.age) || (x.2.age == y.2.age && decide (x.1.gix ≤ y.1.gix))))

/-- The word that a group would issue, none when it would fault. -/
def State.nextWord (s : State) (r : GRef) : Option (Op × Fields) :=
  match s.peek r with
  | some (_, _, _, .instr i) => i.word?
  | _ => none

/-- The eligible groups of a core in selection order. -/
def State.selection (s : State) (d : DieId) (c : CoreId) : List GRef :=
  let xs := allSlots.filterMap (fun i =>
    match s.group? ⟨d, c, i⟩ with
    | some g =>
      match s.team? d c g.team with
      | some t => if s.eligible ⟨d, c, i⟩ then some ((g, t), (⟨d, c, i⟩ : GRef)) else none
      | none => none
    | none => none)
  (xs.insertionSort (fun x y => pickBefore x.1 y.1 = true)).map Prod.snd

/-- The moves of one core cycle (R31, R66). -/
def State.picks (s : State) (d : DieId) (c : CoreId) : List Move :=
  match s.selection d c with
  | [] => []
  | a :: rest =>
    let wa := s.nextWord a
    if wa.any wideRead then [.issue a]
    else
      match rest.find? (fun b => match wa, s.nextWord b with | some wa, some wb => !conflicts wa wb && !wideRead wb | none, some wb => !wideRead wb | _, none => true) with
      | some b => [.issue a, .issue b]
      | none => if (s.pairOf a).isSome then [.pair a] else [.issue a]

end Sys2Proof.Machine
end

