-- ==== Sys2Proof/Machine/ControlOps.lean ====
section
/-! DEFINITION. Row 0x6: branches, calls, exit, tokens, yield, traps, sleep and register budgets (spec 01 R32 to R36, spec 08
R197 to R204, spec 12 R291). -/

namespace Sys2Proof.Machine

/-! ## Branches and calls (R197, R198) -/

/-- The run past the instruction, its members at their targets. -/
def Ctx.branch (c : Ctx) (s : State) (slot : WinSlot) (target : Lane → DWord) : Act :=
  .placed (s.modGroup c.r (fun g => let g := g.advance c.run c.next; { g with pcs := updLanes g.pcs c.m target })) slot

/-- The address of the instruction plus IMM32 (R141). -/
def Ctx.label (c : Ctx) : DWord := c.pc + c.f.imm.signExtend 64

/-- `bra` (R197). -/
def execBra (f : Fields) (s : State) := issue .bra f s fun c => c.branch c.s .noResult (fun _ => c.label)
/-- `brx` (R197). -/
def execBrx (f : Fields) (s : State) :=
  issue .brx f s fun c => c.branch c.s .noResult (fun i => c.a64 i + c.f.imm.signExtend 64)

/-- The return address written, and the branch (R198). -/
def Ctx.callTo (c : Ctx) (target : Lane → DWord) : Act :=
  c.branch (c.withGroup (fun g => g.write64 c.f.dst c.m (fun _ => c.next))) (slotOf c.f c.m (fun _ => c.next)) target

/-- `call` (R198). -/
def execCall (f : Fields) (s : State) := issue .call f s fun c => c.callTo (fun _ => c.label)
/-- `call.ind` (R198). -/
def execCallInd (f : Fields) (s : State) := issue .callInd f s fun c => c.callTo (fun i => c.a64 i + c.f.imm.signExtend 64)
/-- `ret` (R197). -/
def execRet (f : Fields) (s : State) := issue .ret f s fun c => c.branch c.s .noResult c.a64

/-! ## Tokens (R32 to R35, R200) -/

/-- A token entry replaced. -/
def Group.setToken (g : Group) (k : Fin 8) (x : Option Token) : Group := { g with tokens := g.tokens.set k x }

/-- The completion test of an entry (R34, R35): empty, it is discarded; when every member is parked at it, they unpark at the
join PC. -/
def Group.settleToken (g : Group) (k : Fin 8) : Group :=
  match g.tokens[k] with
  | none => g
  | some x =>
    if x.mask == 0 then g.setToken k none
    else if (lanesOf x.mask).all (fun i => g.status[i] == .parked k) then
      { g.setToken k none with
        status := updLanes g.status x.mask (fun _ => .run)
        pcs := updLanes g.pcs x.mask (fun _ => x.joinPc) }
    else g

/-- Lanes removed from the entries of a set, with the completion tests. -/
def Group.dropTokens (g : Group) (from_ : Fin 8 → Mask) : Group :=
  (List.finRange 8).foldl (fun g k =>
    match g.tokens[k] with
    | none => g
    | some x => if from_ k == 0 then g else (g.setToken k (some { x with mask := x.mask &&& ~~~(from_ k) })).settleToken k) g

/-- The lanes that `tkleave k` takes from each entry (R35): members of entry k, from it and from every younger entry. -/
def Group.leaving (g : Group) (k : Fin 8) (m : Mask) (j : Fin 8) : Mask :=
  match g.tokens[k], g.tokens[j] with
  | some x, some y => if j == k || decide (x.seq < y.seq) then m &&& x.mask &&& y.mask else 0
  | _, _ => 0

/-- The token that SUB names. -/
def Ctx.token (c : Ctx) : Fin 8 := c.f.sub.toFin

/-- `tkopen` (R33, R200). -/
def execTkopen (f : Fields) (s : State) :=
  issue .tkopen f s fun c =>
    match c.g.tokens[c.token] with
    | none =>
      .done (c.withGroup (fun g => { g.setToken c.token (some ⟨c.m, c.label, g.tokenSeq⟩) with tokenSeq := g.tokenSeq + 1 })) .noResult
    | some x =>
      if x.joinPc == c.label then
        .done (c.withGroup (fun g => g.setToken c.token (some { x with mask := x.mask ||| c.m }))) .noResult
      else c.trap 0x06 0 0

/-- `tkjoin` (R34, R200): the members of the entry park at the instruction, the other lanes of the run go on. -/
def execTkjoin (f : Fields) (s : State) :=
  issue .tkjoin f s fun c =>
    let park := match c.g.tokens[c.token] with | some x => c.m &&& x.mask | none => 0
    .placed (c.withGroup (fun g =>
      let g := g.advance (c.run &&& ~~~park) c.next
      { g with status := updLanes g.status park (fun _ => .parked c.token) }.settleToken c.token)) .noResult

/-- `tkleave` (R35, R200). -/
def execTkleave (f : Fields) (s : State) :=
  issue .tkleave f s fun c =>
    .placed (c.withGroup (fun g => (g.advance c.run c.next).dropTokens (c.g.leaving c.token c.m))) .noResult

/-! ## Exit (R199, R291) -/

/-- Lanes exited and removed from every token entry (R35, R199). -/
def Group.exitLanes (g : Group) (m : Mask) : Group :=
  let g1 := { g with status := updLanes g.status m (fun _ => .exited) }
  g1.dropTokens (fun k => match g.tokens[k] with | some x => x.mask &&& m | none => 0)

/-- Whether every lane of a mask is exited. -/
def Group.gone (g : Group) (m : Mask) : Bool := (lanesOf m).all (fun i => g.status[i] == .exited)

/-- Trap mode ends when every lane of TRMASK has exited and others have not (R291). -/
def Group.leaveGone (g : Group) : Group :=
  g.traps.foldl (fun g t => if g.gone t.info.mask && !g.allExited then g.leave none else g) g

/-- The waiting operation with the lowest PC that names an exited lane which has not arrived (R37, R199). -/
def Group.brokenGw (g : Group) : Option GroupWide :=
  let xs := g.gw.filter (fun w => (lanesOf (w.mask &&& ~~~w.arrived)).any (fun i => g.status[i] == .exited))
  xs.foldl (fun acc w => match acc with | some x => some (if w.pc.toNat < x.pc.toNat then w else x) | none => some w) none

/-- The exited-member trap of a group that waits for an exited lane (R199). -/
def State.exitTrap (s : State) (r : GRef) : Option TrapInfo :=
  match s.group? r with
  | none => none
  | some g => g.brokenGw.map (fun w => ⟨0x08, 0, w.pc, 12, w.arrived, 0, 0, none⟩)

/-- The members exit (R199); the trap of an operation that waits for one of them comes after the exit has taken effect. -/
def Ctx.exitMembers (c : Ctx) : Act :=
  let after := fun (g : Group) => (g.advance c.run c.next).exitLanes c.m
  let ends := (after c.g).traps.length != (after c.g).leaveGone.traps.length
  let s1 := c.withGroup (fun g => (after g).leaveGone)
  match s1.exitTrap c.r with
  | some x => .trap (if ends then s1 else s1.modGroup c.r (Group.entered · .noResult)) x
  | none => if ends then .left s1 else .placed s1 .noResult

/-- `exit` (R199). -/
def execExit (f : Fields) (s : State) := issue .exit f s fun c => c.exitMembers

/-! ## Yield, nop, traps and sleep (R151, R201 to R203) -/

/-- The other eligible groups of the core in the same priority class (R201). -/
def Ctx.peers (c : Ctx) : List SlotId :=
  allSlots.filter (fun i =>
    i != c.r.slot && c.s0.eligible ⟨c.r.die, c.r.core, i⟩ &&
      match c.s0.group? ⟨c.r.die, c.r.core, i⟩ with
      | some g =>
        match c.s0.team? c.r.die c.r.core g.team with
        | some t => (if t.dispatcher then 3 else t.desc.prio.val) == (if c.t.dispatcher then 3 else c.t.desc.prio.val)
        | none => false
      | none => false)

/-- `yield` (R201). -/
def execYield (f : Fields) (s : State) :=
  issue .yield f s fun c =>
    .done (c.withGroup (fun g => { g with sched := { g.sched with yieldAt := some c.s0.now, yieldFor := c.peers } })) .noResult

/-- `nop`, and the pad of R151, which never issues: the PC passes it and nothing else changes. -/
def execNop (f : Fields) (s : State) : Host.Outcome State Fault Refusal :=
  if f.sub == 7 then
    match s.ctx? f with
    | none => .fault .notIssuing
    | some c => .next (c.s.modGroup c.r (fun g => g.advance c.run c.next))
  else issue .nop f s fun c => .done c.s .noResult

/-- `trap n` (R202): the software trap, TRINFO n[15:0]. -/
def execTrap (f : Fields) (s : State) :=
  issue .trap f s fun c => .trap c.s0 (c.info 0x0B 0 0 ((c.g.read32 c.f c.f.sa 0) &&& 0xFFFF))

/-- `brkpt` (R202). -/
def execBrkpt (f : Fields) (s : State) := issue .brkpt f s fun c => c.trap 0x0C 0 0

/-- `sleep` (R203). -/
def execSleep (f : Fields) (s : State) :=
  issue .sleep f s fun c =>
    .placed (c.withGroup (fun g =>
      let g := g.advance c.run c.next
      { g with status := updLanes g.status c.m (fun i =>
          if c.a32 i == 0 then .run else .asleep (c.s0.now + min (c.a32 i).toNat 1048576)) })) .noResult

/-! ## Register budgets (R46, R204) -/

/-- The vector granules of a core that the allocator accounts for (Table K-6). -/
def coreGranules (c : CoreId) : Nat := if c = 0 then 504 else 512

/-- The granules that the groups of a team hold. -/
def State.teamGranules (s : State) (d : DieId) (c : CoreId) (t : Team) : Nat :=
  ((s.groupsOf d c t).map (fun p => p.2.budget)).foldl (· + ·) 0

/-- Whether `vgrow` and `vshrink` are refused to a group: the dispatcher, or a configured queue (R204). -/
def Ctx.budgetFixed (c : Ctx) : Bool := c.t.dispatcher || c.g.queues.any (fun q => q.depth != 0)

/-- The granules of a core that no group holds. -/
def State.freeGranules (s : State) (d : DieId) (c : CoreId) : Nat :=
  coreGranules c - ((((s.core d c).teams.filter (fun t => !t.dispatcher)).map (s.teamGranules d c)).foldl (· + ·) 0)

/-- Whether a group is held in `vgrow`. -/
def Group.growing (g : Group) : Bool := match g.hold with | some (.vgrow _) => true | _ => false

/-- Whether a group of a core waits for granules. -/
def State.anyGrowing (s : State) (d : DieId) (c : CoreId) : Bool :=
  allSlots.any (fun i => match s.group? ⟨d, c, i⟩ with | some g => g.growing | none => false)

/-- `vgrow` (R46, R204): granted at once when the granules are free and no group waits for some, else it holds; that one which fits waits behind
an older request is a DESIGN CHOICE (log 51). -/
def execVgrow (f : Fields) (s : State) :=
  issue .vgrow f s fun c =>
    let n := c.aLevel.toNat
    if c.budgetFixed then c.illegal
    else if n = 0 then .done c.s .noResult
    else if 32 < c.g.budget + n then c.illegal
    else if coreGranules c.r.core < c.s0.teamGranules c.r.die c.r.core c.t + n then c.illegal
    else if n ≤ c.s0.freeGranules c.r.die c.r.core && !c.s.anyGrowing c.r.die c.r.core then
      .done (c.withGroup (fun g => { g with budget := g.budget + n })) .noResult
    else .holdWith c.s (.vgrow n)

/-- The registers at or above a budget read zero when they exist again (R204). -/
def Group.clearAbove (g : Group) (budget : Nat) : Group :=
  { g with v := Vector.ofFn fun (i : Fin 256) => if 8 * budget ≤ i.val then Vector.replicate 32 0 else g.v[i] }

/-- `vshrink` (R204). -/
def execVshrink (f : Fields) (s : State) :=
  issue .vshrink f s fun c =>
    let n := c.aLevel.toNat
    if c.budgetFixed then c.illegal
    else if n = 0 then .done c.s .noResult
    else if c.g.budget ≤ n then c.illegal
    else .done (c.withGroup (fun g => { g.clearAbove (g.budget - n) with budget := g.budget - n })) .noResult

end Sys2Proof.Machine
end

