-- ==== Sys2Proof/Machine/BarrierOps.lean ====
section
/-! DEFINITION. Row 0x7, first part: barrier registers, fences and supersteps (spec 08 R205 to R211). -/

namespace Sys2Proof.Machine

/-! ## Barrier registers (R206 to R208) -/

/-- The register that a barrier operand names, when the team has it enabled (R206). -/
def Ctx.barrier? (c : Ctx) : Option (Fin 16) :=
  let n := c.aLevel.toNat
  if h : n < 16 then (if n < c.t.desc.barriers then some ⟨n, h⟩ else none) else none

/-- Whether a register is the chain barrier of a halo chain (R42). -/
def Ctx.onChain (c : Ctx) (b : Fin 16) : Bool := c.t.desc.halo && b == 15

/-- The release that an arrival makes: at die scope on a chain barrier, else at team scope (Table K-20, R209). -/
def Ctx.arriveRelease (c : Ctx) (b : Fin 16) (s : State) : State :=
  s.releaseBy c.r (if c.onChain b then .die else .core)

/-- The acquire that an observation makes (Table K-20, R209). -/
def Ctx.observe (c : Ctx) (b : Fin 16) (s : State) : State :=
  if c.onChain b then s.acquireAt c.r.die c.r.core .die else s

/-- The member lanes held at a register until its phase differs from a value, the run past the instruction. -/
def Group.holdAt (g : Group) (run m : Mask) (next : DWord) (b : Fin 16) (phase : BitVec 16) : Group :=
  let g := g.advance run next
  { g with status := updLanes g.status m (fun _ => .barHold b phase) }

/-- The arrivals that an issue makes: one for each member lane, or one with `.one` (R207). -/
def Ctx.arrivals (c : Ctx) (one : Bool) : Nat := if one then 1 else laneCount c.m

/-- `bar.sync` and `bar.sync.one` (R206, R207). -/
def Ctx.barSync (c : Ctx) (one : Bool) : Act :=
  match c.barrier? with
  | none => c.illegal
  | some b =>
    let x := c.t.barriers[b]
    if !x.takes (c.arrivals one) then c.illegal
    else
      let s := (c.arriveRelease b c.s).modGroup c.r (fun g => g.holdAt c.run c.m c.next b x.phase)
      .placed (s.putBar c.r.die c.r.core c.t b (x.arrive (c.arrivals one))) .noResult

/-- `bar.arrive` and `bar.arrive.one` (R206, R207). -/
def Ctx.barArrive (c : Ctx) (one : Bool) : Act :=
  match c.barrier? with
  | none => c.illegal
  | some b =>
    let x := c.t.barriers[b]
    if !x.takes (c.arrivals one) then c.illegal
    else
      let s := (c.arriveRelease b c.s).modGroup c.r (fun g => g.write32 c.f.dst c.m (fun _ => x.phase.setWidth 32))
      .done (s.putBar c.r.die c.r.core c.t b (x.arrive (c.arrivals one))) (slot32 c.f c.m (fun _ => x.phase.setWidth 32))

/-- `bar.sync` (R207). -/
def execBarSync (f : Fields) (s : State) := issue .barSync f s fun c => c.barSync false
/-- `bar.sync.one` (R207). -/
def execBarSyncOne (f : Fields) (s : State) := issue .barSyncOne f s fun c => c.barSync true
/-- `bar.arrive` (R207). -/
def execBarArrive (f : Fields) (s : State) := issue .barArrive f s fun c => c.barArrive false
/-- `bar.arrive.one` (R207). -/
def execBarArriveOne (f : Fields) (s : State) := issue .barArriveOne f s fun c => c.barArrive true

/-- `bar.wait` (R207). -/
def execBarWait (f : Fields) (s : State) :=
  issue .barWait f s fun c =>
    match c.barrier? with
    | none => c.illegal
    | some b =>
      let x := c.t.barriers[b]
      let a : BitVec 16 := c.bLevel.setWidth 16
      if x.phase != a then .done (c.observe b c.s) .noResult
      else if x.expect = 0 then c.illegal
      else .placed (c.withGroup (fun g => g.holdAt c.run c.m c.next b a)) .noResult

/-- `bar.test` (R207). -/
def execBarTest (f : Fields) (s : State) :=
  issue .barTest f s fun c =>
    match c.barrier? with
    | none => c.illegal
    | some b =>
      let hit := c.t.barriers[b].phase != c.bLevel.setWidth 16
      let c1 : Ctx := if hit then { c with s := c.observe b c.s } else c
      c1.result32 (fun _ => if hit then 1 else 0)

/-- `bar.phase` (R207). On a chain barrier every read acquires: whether a lane has read the value before is not kept. -/
def execBarPhase (f : Fields) (s : State) :=
  issue .barPhase f s fun c =>
    match c.barrier? with
    | none => c.illegal
    | some b =>
      let c1 : Ctx := { c with s := c.observe b c.s }
      c1.result32 (fun _ => c.t.barriers[b].phase.setWidth 32)

/-- `barinit` (R208). -/
def execBarinit (f : Fields) (s : State) :=
  issue .barinit f s fun c =>
    match c.barrier? with
    | none => c.illegal
    | some b =>
      let x := c.t.barriers[b]
      let a := c.bLevel.toNat
      if x.count ≠ 0 ∨ 65535 < a ∨ (a = 0 ∧ 0 < x.pend) then c.illegal
      else .done (c.s.putBar c.r.die c.r.core c.t b { x with expect := a, count := 0 }) .noResult

/-- A register whose EXPECT has been changed (R208). -/
def Barrier.expecting (b : Barrier) (n : Nat) : Barrier :=
  if n ≤ b.count then { b with expect := n, count := 0, phase := b.phase + 1 } else { b with expect := n }

/-- `barexp` (R208). -/
def execBarexp (f : Fields) (s : State) :=
  issue .barexp f s fun c =>
    match c.barrier? with
    | none => c.illegal
    | some b =>
      let x := c.t.barriers[b]
      let n := (x.expect : Int) + c.bLevel.toInt
      if n < 1 ∨ 65535 < n then c.illegal
      else .done (c.s.putBar c.r.die c.r.core c.t b (x.expecting n.toNat)) .noResult

/-! ## Fences and supersteps (R112, R210, R211) -/

/-- A fence at the scope that MOD gives: at core scope or narrower it ends with its issue, with the writes it orders in L1, else it holds
(R112, R210). The loads before it read. `fence.ar` acquires when it issues, so that it does not order earlier stores before later loads,
which a sector that L1 takes meanwhile may serve (log 5); `fence.sc` acquires when it completes, after the stores before it are
performed. -/
def Ctx.fence (c : Ctx) (sc : Bool) : Act :=
  let scope := (c.f.md.extractLsb' 0 3).toNat
  let lvl := scopeLevel scope
  if lvl == .core then .done (c.s.releaseBy c.r .core) .noResult
  else
    let s := c.s.readLate c.r (fun _ => true)
    .holdWith (if sc then s else s.acquireAt c.r.die c.r.core lvl) (.fence scope sc)

/-- `fence.ar` (R112, R210). -/
def execFenceAr (f : Fields) (s : State) := issue .fenceAr f s fun c => c.fence false
/-- `fence.sc` (R112, R210). One step at a time, the steps themselves are the total order of the fences. -/
def execFenceSc (f : Fields) (s : State) := issue .fenceSc f s fun c => c.fence true

/-- `sstep` (R211): the member lanes hold until the superstep completes. -/
def execSstep (f : Fields) (s : State) :=
  issue .sstep f s fun c =>
    if !c.t.inRange || c.t.packed then c.illegal
    else
      .placed (c.withGroup (fun g =>
        let g := g.advance c.run c.next
        { g with status := updLanes g.status c.m (fun _ => .sstepHold) })) .noResult

end Sys2Proof.Machine
end

