-- ==== Sys2Proof/Machine/WorkOps.lean ====
section
/-! DEFINITION. Row 0x7, second part: work creation, packets, routing, gang and lease (spec 01 R14 to R28, R389, spec 08 R212 to
R221, spec 11 R276 to R281, spec 16 R320). -/

namespace Sys2Proof.Machine

/-! ## The team descriptor (R21, R42) -/

/-- The inputs of a descriptor: those of non-zero length, each its source, length and scratchpad offset (Table K-4). -/
def descInputs (bs : List Byte) : List (DWord × Nat × Nat) :=
  ((List.range 4).map (fun j =>
    (BitVec.ofNat 64 (bytesAt bs (32 + 16 * j) 8), bytesAt bs (40 + 16 * j) 4, bytesAt bs (44 + 16 * j) 4))).filter
    (fun x => x.2.1 != 0)

/-- The descriptor that 128 bytes hold (Table K-4). -/
def parseDescriptor (bs : List Byte) : Descriptor :=
  let byte := fun n => bytesAt bs n 1
  { code := BitVec.ofNat 64 (bytesAt bs 0 8), args := BitVec.ofNat 64 (bytesAt bs 8 8), nprod := byte 16, ncons := byte 17
    vgranP := byte 18, vgranC := byte 19, sgran := byte 20, tilePairs := byte 21, octets := byte 22, storOct := byte 23
    barriers := byte 24, prio := Fin.ofNat 4 (byte 25), halo := byte 26 % 2 == 1, fptrap := byte 26 / 2 % 2 == 1
    lease := bytesAt bs 28 2, inputs := descInputs bs }

/-- The vector granules that a team needs (Table K-6). -/
def Descriptor.vneed (x : Descriptor) : Nat :=
  (if x.nprod = 0 then 0 else x.nprod * x.vgranP) + (if x.ncons = 0 then 0 else x.ncons * x.vgranC)

/-- The groups of a team. -/
def Descriptor.groups (x : Descriptor) : Nat := x.nprod + x.ncons

/-- The checks of R21 and R42 on a descriptor's contents. -/
def descriptorOk (bs : List Byte) : Bool :=
  let x := parseDescriptor bs
  let byte := fun n => bytesAt bs n 1
  x.code.toNat % 4 == 0 && decide (x.nprod ≤ 31) && decide (x.ncons ≤ 32) && decide (1 ≤ x.groups) && decide (x.groups ≤ 32)
    && (x.nprod == 0 || (decide (1 ≤ x.vgranP) && decide (x.vgranP ≤ 32)))
    && (x.ncons == 0 || (decide (1 ≤ x.vgranC) && decide (x.vgranC ≤ 32)))
    && decide (x.sgran ≤ 16) && decide (x.tilePairs ≤ 8) && decide (x.groups * 2 * x.tilePairs ≤ 64)
    && decide (x.octets ≤ 8) && decide (x.storOct ≤ x.octets) && decide (1 ≤ x.barriers) && decide (x.barriers ≤ 16)
    && decide (byte 25 < 4) && decide (byte 26 < 4) && byte 27 == 0 && decide (x.lease ≤ 128) && bytesAt bs 30 2 == 0
    && bytesAt bs 96 32 == 0
    && x.inputs.all (fun i => i.1.toNat % 16 == 0 && i.2.1 % 16 == 0 && i.2.2 % 16 == 0
        && decide (i.2.2 + i.2.1 ≤ x.storOct * 131072))
    && decide (x.vneed ≤ 512) && decide (x.groups * x.sgran ≤ 128) && (!x.halo || x.barriers == 16)

/-- Why a descriptor cannot be used: the cause, detail and address of the trap (R213, R392). -/
structure DescFault where
  cause : Byte
  detail : Byte
  addr : DWord
  deriving DecidableEq, Repr

/-- A descriptor read from a die's L2 in an address space and checked, in the order of R213. -/
def State.readDescriptor (s : State) (d : DieId) (asid : BitVec 12) (va : DWord) : Except DescFault Descriptor :=
  if va.toNat % 128 ≠ 0 then .error ⟨0x05, 0, va⟩
  else
    match s.translate d (some 0) asid va .read with
    | .error e => .error ⟨0x21, e.code, va⟩
    | .ok x =>
      if s.poisonedIn x.pa 128 then .error ⟨0x30, 0x01, va⟩
      else
        let bs := s.readDie d x.pa 128
        if descriptorOk bs then .ok (parseDescriptor bs) else .error ⟨0x05, 0, va⟩

/-! ## spawn (R213, R214) -/

/-- A team of a descriptor as it enters a wait list (R19, R51). -/
def freshTeam (uid : Nat) (asid : BitVec 12) (desc : Descriptor) (addr grid : DWord) (teamIx nteam : Word) (inRange : Bool)
    (chainLen : Nat) : Team :=
  { uid := uid, asid := asid, desc := desc, descAddr := addr, grid := grid, teamIx := teamIx, nteam := nteam, age := uid
    inRange := inRange, packed := false, dispatcher := false, items := [], slots := [], landed := false
    barriers := Vector.replicate 16 Barrier.idle, berr := Vector.replicate 16 0, gang := 0, latch := none, reserved := []
    position := Vector.replicate 8 none, label := none, deposits := [], homeCore := none, chainLen := chainLen, originAge := uid }

/-- n bytes of a packet from a place on, as a number (Table K-3). -/
def pktField (x : BitVec 512) (at_ n : Nat) : Nat := x.toNat / 256 ^ at_ % 256 ^ n

/-- Whether a die has received the LAUNCH packet that the distributor sent it for a grid (R20, R214). -/
def Die.received (x : Die) (asid : BitVec 12) (grid : DWord) : Bool :=
  !x.transit.any (fun p => p.src == .distributor && p.asid == asid && pktField p.bits 24 8 == grid.toNat)

/-- Whether a spawned team is in a LAUNCH range of its grid on a die (R214). -/
def State.inLaunch (s : State) (d : DieId) (asid : BitVec 12) (grid desc : DWord) (teamIx : Nat) : Bool :=
  s.dies[d].received asid grid && s.launches.any (fun l => l.asid == asid && l.grid == grid && l.desc == desc
    && l.ranges.any (fun x => x.1 == d && decide (x.2.1 ≤ teamIx) && decide (teamIx < x.2.1 + x.2.2)))

/-- The entries of a die's wait list, the saved teams that are to be restored among them (R45, R51, R358). -/
def Die.waitCount (x : Die) : Nat := x.waitList.length + (x.saved.filter Saved.resume).length

/-- One team put at the end of a die's wait list. -/
def State.enterTeam (s : State) (d : DieId) (t : Team) : State :=
  { s with uid := s.uid + 1 }.modDie d (fun x => { x with waitList := x.waitList ++ [t] })

/-- The team that a lane of `spawn` creates, with the context of Table K-51. -/
def State.spawnOne (s : State) (d : DieId) (asid : BitVec 12) (desc : Descriptor) (addr : DWord) (ix : Word) : State :=
  let x := s.dies[d].disp
  let grid := x.gridHi ++ x.gridLo
  (s.noteWalk d (some 0) asid addr).enterTeam d (freshTeam s.uid asid desc addr grid ix x.nteam (s.inLaunch d asid grid addr ix.toNat) x.dieCnt.toNat)

/-- The descriptors that the member lanes of `spawn` name, or the fault of the lowest lane that has one. -/
def Ctx.descriptors (c : Ctx) (asid : BitVec 12) : Except DescFault (List (Lane × Descriptor)) :=
  (lanesOf c.m).foldr (fun i acc =>
    match c.s0.readDescriptor c.r.die asid (c.a64 i) with
    | .error e => .error e
    | .ok x => acc.map (fun l => (i, x) :: l)) (.ok [])

/-- `spawn` (R15, R19, R213, R214, R320). -/
def execSpawn (f : Fields) (s : State) :=
  issue .spawn f s fun c =>
    if !c.t.dispatcher then c.trap 0x04 0 0
    else
      match c.s0.dies[c.r.die].disp.spasid with
      | none => c.trap 0x05 0 0
      | some asid =>
        match c.descriptors asid with
        | .error e => .trap c.s0 { c.info e.cause e.detail e.addr 0 with space := some asid }
        | .ok xs =>
          if 256 < c.s0.dies[c.r.die].waitCount + xs.length then .hold .spawn
          else
            .done (xs.foldl (fun s x => s.spawnOne c.r.die asid x.2 (c.a64 x.1) (c.b32 x.1))
              (c.s.releaseBy c.r .die)) .noResult

/-! ## Child items and deposits (R24, R27, R215, R216) -/

/-- The payload of a child item: a vector quad, or zeros. -/
def Ctx.payload (c : Ctx) (i : Lane) : List Word :=
  (List.range 4).map (fun j => (c.g.read128 c.f.sa i).extractLsb' (32 * j) 32)

/-- The places of the `launch` instructions of a core that wait for room (R24). -/
def State.launchPlaces (s : State) (d : DieId) (c : CoreId) : List Nat :=
  allSlots.filterMap (fun i => match (s.group? ⟨d, c, i⟩).bind Group.hold with | some (.launch n) => some n | _ => none)

/-- The place of a `launch`: the one that it holds with, or a new one behind every other (R24). -/
def Ctx.launchPlace (c : Ctx) : Nat := match c.g.hold with | some (.launch n) => n | _ => c.s0.uid

/-- `launch` (R24, R26, R215): the items enter in the order in which the instructions issued. -/
def execLaunch (f : Fields) (s : State) :=
  issue .launch f s fun c =>
    let items := (lanesOf c.m).map (fun i =>
      ({ label := c.label, payload := c.payload i, team := c.t.uid, asid := c.t.asid, desc := c.t.desc, grid := c.t.grid
         teamIx := c.t.teamIx, nteam := c.t.nteam, since := c.s0.now, age := c.t.originAge } : Child))
    if 4096 < (c.s0.core c.r.die c.r.core).children.length + items.length
        || (c.s0.launchPlaces c.r.die c.r.core).any (fun n => decide (n < c.launchPlace)) then
      .holdWith { c.s0 with uid := c.s0.uid + 1 } (.launch c.launchPlace)
    else
      .done ((c.s.releaseBy c.r .core).modCore c.r.die c.r.core (fun k => { k with children := k.children ++ items })) .noResult

/-- The registers of a deposit's payload (R216). -/
def Ctx.depositWords (c : Ctx) (i : Lane) : List Word :=
  match c.f.sb with
  | .v n => c.g.readVs n (c.f.sub.toNat % 4 + 1) i
  | _ => []

/-- `reorder` (R27, R216). -/
def execReorder (f : Fields) (s : State) :=
  issue .reorder f s fun c =>
    if c.t.desc.nprod ≠ 0 ∨ (c.t.label.isSome ∧ c.t.label ≠ some c.label) then c.illegal
    else
      let xs := (lanesOf c.m).map (fun i => (⟨c.a32 i, c.depositWords i⟩ : Deposit))
      let s1 := c.s.modTeam c.r.die c.r.core c.t.uid (fun t => { t with label := some c.label, deposits := t.deposits ++ xs })
      Ctx.exitMembers { c with s := s1 }

/-! ## Packets (R17, R20, R217, R218, R280, R281) -/

/-- n bytes of a packet replaced. -/
def pktPut (x : BitVec 512) (at_ n v : Nat) : BitVec 512 :=
  BitVec.ofNat 512 (x.toNat - pktField x at_ n * 256 ^ at_ + v % 256 ^ n * 256 ^ at_)

/-- KIND, HOPS and VERSION of a packet (Table K-3). -/
def pktKind (x : BitVec 512) : Nat := pktField x 0 1
def pktHops (x : BitVec 512) : Nat := pktField x 1 1
def pktVersion (x : BitVec 512) : Nat := pktField x 2 2
/-- EXPERT, CORESLOT and PLACEMENT of a ROUTED packet (Table K-68). -/
def pktExpert (x : BitVec 512) : Nat := pktField x 16 2
def pktSlot (x : BitVec 512) : Nat := pktField x 18 1
def pktPlace (x : BitVec 512) : Nat := pktField x 19 1

/-- Whether a die is present and in service (R48). -/
def State.inPlay (s : State) (d : DieId) : Bool := s.present.getLsbD d.val && s.inService.getLsbD d.val

/-- Whether a ROUTED packet's fields are in range (R280). -/
def routedOk (x : BitVec 512) : Bool :=
  pktKind x != 2 || (decide (pktExpert x < 4096) && decide (pktSlot x ≤ 47) && decide (pktPlace x ≤ 7))

/-- The words of a register string joined, the first lowest. -/
def joinWords (xs : List Word) : Nat :=
  match xs with
  | [] => 0
  | w :: rest => w.toNat + 2 ^ 32 * joinWords rest

/-- The packet of a lane: 16 registers, with HOPS 0 and bytes 5 to 7 zero (R217). -/
def Ctx.packet (c : Ctx) (i : Lane) : BitVec 512 :=
  match c.f.sa with
  | .v n => pktPut (pktPut (BitVec.ofNat 512 (joinWords (c.g.readVs n 16 i))) 1 1 0) 5 3 0
  | _ => 0

/-- The packets of a mailbox unit that came from inside the package (R389); a LAUNCH packet that the distributor still holds is not
among them. -/
def Die.inside (x : Die) : Nat :=
  ((x.box.filter (fun p => p.slot.isNone)) ++ (x.transit.filter (fun p => p.slot.isNone && p.src != .distributor))).length

/-- Whether a mailbox unit has room for one more packet from inside the package (R389). -/
def Die.packetRoom (x : Die) : Bool := decide (x.inside < 1024)

/-- VERSION as the sending mailbox unit leaves it (R281). -/
def sentVersion (bits : BitVec 512) (v : BitVec 16) : BitVec 512 :=
  if pktKind bits != 2 then bits
  else
    let u : BitVec 16 := BitVec.ofNat 16 (pktVersion bits)
    if u == v || u == v - 1 then bits else pktPut bits 2 2 v.toNat

/-- A packet accepted by the mailbox unit of a die for a target: SRCDIE, SEQ and VERSION set, and the packet on its way (R20, R281,
R320). -/
def State.sendPacket (s : State) (d : DieId) (asid : BitVec 12) (target : DieId) (bits : BitVec 512) : State :=
  let x := s.dies[d]
  let b := sentVersion (pktPut (pktPut bits 4 1 d.val) 8 8 x.sentTo[target]) x.replicas.version
  (s.modDie d (fun x => { x with sentTo := x.sentTo.set target (x.sentTo[target] + 1) })).modDie target
    (fun y => { y with transit := y.transit ++ [⟨b, asid, .die d, none⟩] })

/-- Packets sent in order until one finds no room: the state, and those that wait. -/
def State.sendAll (s : State) (d : DieId) (asid : BitVec 12) (todo : List (Lane × DieId × BitVec 512)) :
    State × List (Lane × DieId × BitVec 512) :=
  match todo with
  | [] => (s, [])
  | x :: rest => if s.dies[x.2.1].packetRoom then (s.sendPacket d asid x.2.1 x.2.2).sendAll d asid rest else (s, todo)

/-- D of `pksend`: 0 where the packet was accepted, 1 where the target is absent (R217). -/
def sentCode (absent : Mask) (i : Lane) : Word := if inMask absent i then 1 else 0

/-- `pksend` (R20, R217, R280, R389): a release at package scope; it holds from the first packet that finds no room. -/
def execPksend (f : Fields) (s : State) :=
  issue .pksend f s fun c =>
    let ls := lanesOf c.m
    if ls.any (fun i => decide (31 < (c.b32 i).toNat) || !routedOk (c.packet i)) then c.illegal
    else
      let todo := (ls.map (fun i => (i, (Fin.ofNat 32 (c.b32 i).toNat : DieId), c.packet i))).filter (fun x => c.s0.inPlay x.2.1)
      let absent := maskOf (fun i => inMask c.m i && !(todo.any (fun x => x.1 == i)))
      let p := (if todo.isEmpty then c.s else c.s.releaseBy c.r .home).sendAll c.r.die c.t.asid todo
      if p.2.isEmpty then Ctx.result32 { c with s := p.1 } (sentCode absent) else .holdWith p.1 (.pksend p.2 absent c.m c.f)

/-- The packets delivered to the member lanes, in delivery order (R218): the k lowest receive one each, the others the empty
packet. -/
def Group.deliver (g : Group) (dst : Operand) (m : Mask) (ps : List Packet) : Group :=
  match dst with
  | .v n =>
    let ls := lanesOf m
    g.writeVs n 16 m (fun i j =>
      match ps[ls.idxOf i]? with
      | some p => p.bits.extractLsb' (32 * j) 32
      | none => if j = 0 then 0x0000FF00 else 0)
  | _ => g

/-- The mailbox after a delivery of k packets: they leave it, their host slots are free, and SPASID is that of the first (R318,
R320). -/
def Die.take (x : Die) (k : Nat) : Die :=
  let ps := x.box.take k
  { x with
    box := x.box.drop k
    hostSlots := x.hostSlots.filter (fun n => !ps.any (fun p => p.slot == some n))
    disp := { x.disp with
      inHand := ps
      spasid := match ps with | p :: _ => some p.asid | [] => x.disp.spasid } }

/-- The delivery of `pkrecv` and `pkpoll` (R218), an acquire at package scope when a packet is delivered. -/
def Ctx.receive (c : Ctx) : Act :=
  let box := c.s0.dies[c.r.die].box
  let k := min (laneCount c.m) box.length
  let s1 := (c.s.modDie c.r.die (fun x => x.take k)).modGroup c.r (fun g => g.deliver c.f.dst c.m (box.take k))
  .done (if k = 0 then s1 else s1.acquireAt c.r.die c.r.core .home) .noResult

/-- No packet is in the dispatcher's hand: it has issued its next `pkrecv` or `pkpoll` (R281). -/
def Die.handDone (x : Die) : Die := { x with disp := { x.disp with inHand := [] } }

/-- `pkrecv` (R218, R281). -/
def execPkrecv (f : Fields) (s : State) :=
  issue .pkrecv f s fun c =>
    if !c.t.dispatcher then c.trap 0x04 0 0
    else if c.s0.dies[c.r.die].box.isEmpty then .holdWith (c.s0.modDie c.r.die Die.handDone) .packet
    else c.receive

/-- `pkpoll` (R218). -/
def execPkpoll (f : Fields) (s : State) :=
  issue .pkpoll f s fun c => if !c.t.dispatcher then c.trap 0x04 0 0 else c.receive

/-! ## Routing (R219, R276 to R278) -/

/-- The placements of an expert, primary first. -/
def ReplicaTable.places (t : ReplicaTable) (e : Nat) : List Placement :=
  match t.experts.find? (fun x => x.1 == e) with
  | some x => x.2
  | none => []

/-- The result of `route` for an expert and a placement choice (R219). -/
def routeOf (t : ReplicaTable) (e b : Nat) : DWord :=
  let ps := t.places e
  let k := b % ps.length
  match ps[k]? with
  | some p => BitVec.ofNat 32 k ++ (t.version ++ BitVec.ofNat 8 p.slot ++ BitVec.ofNat 8 p.die.val : BitVec 32)
  | none => 0xFFFFFFFFFFFFFFFF

/-- `route` (R219, R278). -/
def execRoute (f : Fields) (s : State) :=
  issue .route f s fun c =>
    if (lanesOf c.m).any (fun i => decide (4095 < (c.a32 i).toNat)) then c.illegal
    else
      let c1 : Ctx := { c with s := c.s.acquireAt c.r.die c.r.core .home }
      c1.result64 (fun i =>
        routeOf c.s0.dies[c.r.die].replicas (c.a32 i).toNat (c.orElse c.f.sb i (BitVec.ofNat 32 i.val)).toNat)

/-! ## Gang and lease (R220, R221) -/

/-- `gang` (R220). -/
def execGang (f : Fields) (s : State) :=
  issue .gang f s fun c =>
    let a := c.aLevel
    let n := laneCount a
    if n < 2 ∨ 8 < n ∨ (lanesOf a).any (fun i => decide (c.t.slots.length ≤ i.val)) then c.illegal
    else if c.t.latch.isSome then .hold .gang
    else .done (c.s.modTeam c.r.die c.r.core c.t.uid (fun t => { t with gang := a })) .noResult

/-- `gang.rd` (R220). -/
def execGangRd (f : Fields) (s : State) := issue .gangRd f s fun c => c.result32 (fun _ => c.t.gang)

/-- A lease set by `lease` (R221). -/
def Lease.declare (l : Lease) (n : Nat) : Lease :=
  if n = 0 then { l with measured := true, units := 4, accesses := 0, lines := [], windowLost := 0 }
  else { l with measured := false, units := n, accesses := 0, lines := [], windowLost := 0 }

/-- `lease` (R221). -/
def execLease (f : Fields) (s : State) :=
  issue .lease f s fun c =>
    let a := c.aLevel.toNat
    if c.t.dispatcher then .done c.s .noResult
    else if 128 < a then c.illegal
    else .done (c.withGroup (fun g => { g with lease := g.lease.declare a })) .noResult

end Sys2Proof.Machine
end

