-- ==== Sys2Proof/Machine/Scratchpad.lean ====
section
/-! DEFINITION. Storage-mode banks as the scratchpad of a team (spec 03 R85 to R90, R92, R99). -/

namespace Sys2Proof.Machine

/-- Where a scratchpad byte lies: the bank of the core and the byte within its 16 KiB (R85, R86). -/
structure SpadPlace where
  bank : Fin 64
  off : Nat
  deriving DecidableEq, Repr

/-- The octet at a position of a team. -/
def Team.octetAt (t : Team) (pos : Nat) : Option (Fin 8) := if h : pos < 8 then t.position[pos] else none

/-- The place of scratchpad address A in a storage-mode octet (R86), or the fault: SCRATCHPAD-RANGE or BANK-MODE. -/
def Core.spadPlace (k : Core) (t : Team) (a : Nat) : Except Byte SpadPlace :=
  match t.octetAt (a / 131072) with
  | none => .error 0x22
  | some o =>
    if k.octets[o].mode == .compute then .error 0x23
    else
      let x := a % 131072
      .ok ⟨⟨8 * o.val + x / 16 % 8, by omega⟩, 16 * (x / 128) + x % 16⟩

/-- The fault of an address range of at most 16 aligned bytes, if there is one. -/
def Core.spadFault (k : Core) (t : Team) (a : Nat) : Option Byte :=
  match k.spadPlace t a with
  | .error e => some e
  | .ok _ => none

/-- A byte of the scratchpad. -/
def Core.spadByte (k : Core) (t : Team) (a : Nat) : Byte :=
  match k.spadPlace t a with
  | .ok p => (cellGet k.banks[p.bank].mem p.off).getD 0
  | .error _ => 0

/-- n bytes of the scratchpad. -/
def Core.spadRead (k : Core) (t : Team) (a n : Nat) : List Byte := (span a n).map (k.spadByte t)

/-- Whether a scratchpad byte's 16-byte word is poisoned (R99). -/
def Core.spadPoisoned (k : Core) (t : Team) (a n : Nat) : Bool :=
  (span a n).any (fun x =>
    match k.spadPlace t x with
    | .ok p => k.banks[p.bank].poison.contains (p.off / 16)
    | .error _ => false)

/-- A bank with one byte written. -/
def Bank.put (b : Bank) (off : Nat) (x : Byte) : Bank := { b with mem := cellPut b.mem off x }

/-- A byte written to the scratchpad. -/
def Core.spadPut (k : Core) (t : Team) (a : Nat) (x : Byte) : Core :=
  match k.spadPlace t a with
  | .ok p => { k with banks := k.banks.set p.bank (k.banks[p.bank].put p.off x) }
  | .error _ => k

/-- The poison of the 16-byte word that holds a scratchpad byte set or cleared (R99, R359). -/
def Core.spadMark (k : Core) (t : Team) (a : Nat) (bad : Bool) : Core :=
  match k.spadPlace t a with
  | .ok p =>
    let b := k.banks[p.bank]
    let rest := b.poison.filter (fun u => u != p.off / 16)
    { k with banks := k.banks.set p.bank { b with poison := if bad then (p.off / 16) :: rest else rest } }
  | .error _ => k

/-- Bytes written to the scratchpad; a word written whole loses its poison (R359). -/
def Core.spadWrite (k : Core) (t : Team) (a : Nat) (bs : List Byte) : Core :=
  let k1 := ((span a bs.length).zip bs).foldl (fun k x => k.spadPut t x.1 x.2) k
  (wholeUnits a bs.length).foldl (fun k u => k.spadMark t (16 * u) false) k1

/-- Bytes written to the scratchpad of a team on a core. -/
def State.spadWrite (s : State) (d : DieId) (c : CoreId) (t : Team) (a : Nat) (bs : List Byte) : State :=
  s.modCore d c (fun k => k.spadWrite t a bs)

end Sys2Proof.Machine
end

