-- ==== Sys2Proof/Machine/MemoryOps.lean ====
section
/-! DEFINITION. Row 0x8: loads, stores, prefetch and tiles (spec 04 R101 to R107, spec 09 R222 to R231). A load reads when it issues, or, a
relaxed one that the agenda defers, later, and writes its destination when its data returns (R109; logs 5, 85). -/

namespace Sys2Proof.Machine

/-! ## Widths, addresses and checks (R222 to R224) -/

/-- The bytes of the access (Table K-53). -/
def Ctx.size (c : Ctx) : Nat := widthBytes c.f.sub

/-- The words of a load result. -/
def Ctx.words (c : Ctx) : Nat := (c.size + 3) / 4

/-- The global effective address of a lane (R223). -/
def Ctx.ea (c : Ctx) (i : Lane) : DWord := c.a64 i + c.f.imm.signExtend 64
/-- The effective address with an element index (R223). -/
def Ctx.eaIndexed (c : Ctx) (i : Lane) : DWord := c.ea i + (c.b32 i).signExtend 64 * BitVec.ofNat 64 c.size
/-- The scratchpad address of a lane (R223). -/
def Ctx.eaSpad (c : Ctx) (i : Lane) : Word := c.a32 i + c.f.imm

/-- Whether an address lies in a region that this group is sealing: from the fork on, its own stores there fault (R121, step 1). -/
def Ctx.sealing (c : Ctx) (va : DWord) : Bool :=
  c.s0.dies[c.r.die].engines.any (fun x =>
    match x.kind with
    | .seal _ own _ => own && x.core == c.r.core && x.slot == c.r.slot && x.team == c.t.uid
        && decide (x.src.toNat ≤ va.toNat) && decide (va.toNat < x.src.toNat + x.len)
    | _ => false)

/-- The translation of an access of the group (R224, R342), with the sealed attribute of a seal of its own. -/
def Ctx.translate (c : Ctx) (va : DWord) (kind : AccessKind) : Except AccessDetail Translated :=
  match c.s0.translate c.r.die (some c.r.core) c.t.asid va kind with
  | .error e => .error e
  | .ok x => if (kind == .write || kind == .atomic) && c.sealing va then .error .sealed else .ok x

/-- The accesses of the member lanes with their translations, or the trap of the lowest lane that fails (R224, R342, R392). -/
def Ctx.checkGlobal (c : Ctx) (kind : AccessKind) (size : Nat) (ea : Lane → DWord) : Except Act (List (Lane × Translated)) :=
  (lanesOf c.m).foldr (fun i acc =>
    if (ea i).toNat % size ≠ 0 then .error (c.trap 0x20 0 (ea i))
    else
      match c.translate (ea i) kind with
      | .error e => .error (c.trap 0x21 e.code (ea i))
      | .ok x => acc.map (fun l => (i, x) :: l)) (.ok [])

/-- The trap of the lowest lane whose scratchpad access fails (R92, R224, R392). -/
def Ctx.checkSpad (c : Ctx) (size : Nat) (ea : Lane → Word) : Option Act :=
  (lanesOf c.m).findSome? (fun i =>
    if (ea i).toNat % size ≠ 0 then some (c.trap 0x20 0 ((ea i).setWidth 64))
    else ((c.s0.core c.r.die c.r.core).spadFault c.t (ea i).toNat).map (fun e => c.trap e 0 ((ea i).setWidth 64)))

/-! ## Ordering (R101, R106, R107, R110, Table K-17) -/

/-- The scope code of the ordering layout. -/
def Ctx.scope (c : Ctx) : Nat := (c.f.md.extractLsb' 0 3).toNat
/-- Whether the access acquires, and whether it releases. -/
def Ctx.acquires (c : Ctx) : Bool := c.f.md.getLsbD 3
def Ctx.releases (c : Ctx) : Bool := c.f.md.getLsbD 4

/-- The acquire of an access at its scope. -/
def Ctx.acquire (c : Ctx) (s : State) : State := if c.acquires then s.acquireAt c.r.die c.r.core (scopeLevel c.scope) else s
/-- The release of an access at its scope. -/
def Ctx.release (c : Ctx) (s : State) : State := if c.releases then s.releaseBy c.r (scopeLevel c.scope) else s

/-- Whether an acquire load bypasses L1 (R107). -/
def Ctx.bypasses (c : Ctx) : Bool := c.acquires && scopeLevel c.scope != .core

/-- Whether no line of a page is allocated in L1 (R332). -/
def Translated.noL1 (x : Translated) : Bool := x.attrs.cache != 0

/-- The lines of an instruction's accesses that L1 does not allocate: those of such a page, or all of them (R107, R332). -/
def bypassed (xs : List Translated) (always : Bool) (line : Nat) : Bool :=
  always || xs.any (fun x => x.pa / 128 == line && x.noL1)

/-- The TLBs after the translation of some addresses of the group (R338). -/
def Ctx.walked (c : Ctx) (vas : List DWord) : State := vas.foldl (fun s va => s.noteWalk c.r.die (some c.r.core) c.t.asid va) c.s

/-- The level that a store is written through to at once: that of its scope when it releases; when the agenda defers its home stage, L2
first, which is written back later (R96, R105; log 85). -/
def Ctx.through (c : Ctx) : Level :=
  if !c.releases then .core
  else if c.s0.deferred && scopeLevel c.scope == .home then .die
  else scopeLevel c.scope

/-- One relaxed store that waits to be performed (R106, R109). -/
def State.enqueueStore (s : State) (r : GRef) (x : PendingStore) : State :=
  s.modCore r.die r.core (fun k => { k with pending := k.pending ++ [x] })

/-- The sectors that an instruction's bytes cover whole. -/
def wholeSectors (as : List Nat) : List Nat := (sectorsOf as).filter (fun sec => (span (32 * sec) 32).all as.contains)

/-- One store of an instruction as it performs in L1 or L2 (R94, R95): it allocates unless it bypasses L1. -/
def Ctx.storeOf (c : Ctx) (x : Translated) (bs : List Byte) (whole : List Nat) : PendingStore :=
  ⟨c.r.slot, x.pa, bs, c.f.hint != 3 && !x.noL1, (sectorsOf (span x.pa bs.length)).all whole.contains⟩

/-- A store's bytes (R94 to R96, R106, R109, R332; log 85): at the home slice for a page that bypasses L2; of a release at its level; a
relaxed store waits when the agenda defers it, and else is performed in L1 or, where L1 does not take it, in L2. -/
def Ctx.putStore (c : Ctx) (whole : List Nat) (s : State) (x : Translated) (bs : List Byte) : State :=
  if x.attrs.cache == 2 then s.writeAt c.r.die c.r.core .home x.pa bs
  else if c.releases && c.through != .core then s.writeAt c.r.die c.r.core c.through x.pa bs
  else if c.s0.deferred && !c.releases then s.enqueueStore c.r (c.storeOf x bs whole)
  else s.performStore c.r.die c.r.core (c.storeOf x bs whole)

/-- The scope that the lines of a store record (R96). -/
def Ctx.wrote (c : Ctx) : Option Nat :=
  some (if !c.releases then 2 else if c.s0.deferred && scopeLevel c.scope == .home then 3 else c.scope)

/-- The bytes of the accesses of an instruction. -/
def accessBytes (xs : List (Lane × Translated)) (size : Nat) : List Nat := xs.flatMap (fun x => span x.2.pa size)

/-! ## In flight (R226, R388) -/

/-- An instruction put in flight, with its window slot pending when it leaves a result. -/
def Ctx.launchFlight (c : Ctx) (s : State) (x : Flight) : Act :=
  .done ({ s with uid := s.uid + 1 }.modGroup c.r (fun g => { g with flights := g.flights ++ [x] }))
    (if leavesResult c.f && decide (x.words ≤ 2) then .pending else .noResult)

/-- A flight of the instruction, with values for its member lanes. -/
def Ctx.flight (c : Ctx) (atomic : Bool) (words : Nat) (poisoned : Mask) (addr : DWord) (vals : Lanes (BitVec 128)) : Flight :=
  { id := c.s0.uid, atomic := atomic, pc := c.pc, len := c.len, dst := c.f.dst, words := words, mask := c.m, poisoned := poisoned
    addr := addr, vals := vals, tileBytes := [], drain := none, late := none, seq := c.g.issues }

/-- The address of the lowest lane of a mask, by the lanes' addresses. -/
def lowestAddr (m : Mask) (ea : Lane → DWord) : DWord :=
  match lowest m with
  | some i => ea i
  | none => 0

/-! ## Global loads and stores (R226) -/

/-- What a load reads at translated addresses. -/
def Ctx.loadSpec (c : Ctx) (tile : Bool) (size : Nat) (places : List ReadPlace) : LoadSpec :=
  ⟨size, c.f.sub, c.f.hint, c.bypasses, tile, places⟩

/-- A load put in flight (R109, R226; log 85): it has read, or, a relaxed one that the agenda defers, has yet to. The group's earlier loads of
its bytes read before it (R104). -/
def Ctx.fly (c : Ctx) (s : State) (words : Nat) (x : LoadSpec) : Act :=
  let s1 := s.readLate c.r (Flight.owesRead x.bytes)
  let fl := c.flight false words 0 0 (lanes fun _ => 0)
  if c.s0.deferred && !c.acquires then c.launchFlight s1 { fl with late := some x }
  else
    let y := s1.readNow c.r x c.m
    c.launchFlight y.s (fl.took y)

/-- The place that a lane's load reads. -/
def readPlace (i : Lane) (va : DWord) (x : Translated) : ReadPlace := ⟨i, va, x.pa, x.attrs.cache⟩

/-- A global load at the lanes' addresses. -/
def Ctx.load (c : Ctx) (ea : Lane → DWord) : Act :=
  match c.checkGlobal .read c.size ea with
  | .error a => a
  | .ok xs =>
    c.fly (c.acquire (c.walked ((lanesOf c.m).map ea))) c.words (c.loadSpec false c.size (xs.map (fun x => readPlace x.1 (ea x.1) x.2)))

/-- n bytes of global memory that an instruction reads at once, with the state after the read; none when a unit of them is poisoned. -/
def Ctx.readBytes (c : Ctx) (va : DWord) (x : Translated) (n : Nat) : State × Option (List Byte) :=
  let p := readPlace 0 va x
  let q : LoadSpec := ⟨n, 0, 0, false, false, [p]⟩
  let y := ((c.walked [va]).readLate c.r (Flight.owesRead q.bytes)).readNow c.r q c.m
  (y.s, if y.bad == 0 then some (y.s.readAt c.r.die c.r.core p.level x.pa n) else none)

/-- The stores of an instruction at translated addresses, in order: the release first, then the lookups, the writes, and the sectors covered
whole that L1 holds without a fetch (R90, R94 to R96, R110). -/
def Ctx.putAll (c : Ctx) (s : State) (lease : Bool) (xs : List (Translated × List Byte)) : State :=
  let as := xs.flatMap (fun x => span x.1.pa x.2.length)
  let whole := wholeSectors as
  let s1 := (c.release s).l1Accesses c.r as true c.f.hint (bypassed (xs.map Prod.fst) false) c.wrote lease
  let s2 := xs.foldl (fun t x => c.putStore whole t x.1 x.2) s1
  if c.f.hint == 3 || !c.releases then s2 else s2.adoptSectors c.r.die c.r.core (whole.filter (fun sec => !bypassed (xs.map Prod.fst) false (sec / 4)))

/-- A global store of the lanes' data at their addresses (R90, R96, R226). Which relaxed stores wait, and in which order waiting ones of
different places are performed, is left to the agenda (log 85). -/
def Ctx.store (c : Ctx) (ea : Lane → DWord) (data : Lane → List Byte) : Act :=
  match c.checkGlobal .write c.size ea with
  | .error a => a
  | .ok xs => .done (c.putAll (c.walked ((lanesOf c.m).map ea)) true (xs.map (fun x => (x.2, data x.1)))) .noResult

/-- The data of a store operand in a lane, low bytes first. -/
def Ctx.storeData (c : Ctx) (x : Operand) (i : Lane) : List Byte :=
  leBytes c.size (if c.size ≤ 4 then (c.g.read32 c.f x i).toNat else if c.size = 8 then (c.g.read64 c.f x i).toNat
    else (c.g.read128 x i).toNat)

/-- `ld` (R226). -/
def execLd (f : Fields) (s : State) := issue .ld f s fun c => c.load c.ea
/-- `st` (R226). -/
def execSt (f : Fields) (s : State) := issue .st f s fun c => c.store c.ea (c.storeData c.f.sb)
/-- `ldx` (R226). -/
def execLdx (f : Fields) (s : State) := issue .ldx f s fun c => c.load c.eaIndexed
/-- `stx` (R222, R226): DST carries the data. -/
def execStx (f : Fields) (s : State) := issue .stx f s fun c => c.store c.eaIndexed (c.storeData c.f.dst)

/-! ## Scratchpad (R227) -/

/-- `lds` (R226, R227). -/
def execLds (f : Fields) (s : State) :=
  issue .lds f s fun c =>
    match c.checkSpad c.size c.eaSpad with
    | some a => a
    | none =>
      let k := c.s.core c.r.die c.r.core
      let bad := maskOf (fun i => inMask c.m i && k.spadPoisoned c.t (c.eaSpad i).toNat c.size)
      c.launchFlight c.s (c.flight false c.words bad (lowestAddr bad (fun i => (c.eaSpad i).setWidth 64))
        (lanes (fun i => if inMask c.m i then extendLoad c.f.sub (k.spadRead c.t (c.eaSpad i).toNat c.size) else 0)))

/-- `sts` (R110, R226, R227): a release performs the group's waiting accesses first. -/
def execSts (f : Fields) (s : State) :=
  issue .sts f s fun c =>
    match c.checkSpad c.size c.eaSpad with
    | some a => a
    | none =>
      .done ((lanesOf c.m).foldl (fun s i => s.spadWrite c.r.die c.r.core c.t (c.eaSpad i).toNat (c.storeData c.f.sb i))
        (c.release c.s)) .noResult

/-! ## Constant loads and prefetch (R228, R229) -/

/-- `ldc` (R228). -/
def execLdc (f : Fields) (s : State) :=
  issue .ldc f s fun c =>
    match c.checkGlobal .read c.size c.ea with
    | .error a => a
    | .ok xs =>
      let s1 := xs.foldl (fun s x => s.fillC c.r.die c.r.core x.2.pa c.size (x.2.attrs.cache == 2)) (c.walked ((lanesOf c.m).map c.ea))
      let vals := xs.map (fun x => (x.1, extendLoad c.f.sub ((span x.2.pa c.size).map (s1.cByte c.r.die c.r.core))))
      let bad := maskOf (fun i => xs.any (fun x => x.1 == i && s1.poisonedIn x.2.pa c.size))
      c.launchFlight s1 (c.flight false c.words bad (lowestAddr bad c.ea) (lanes (laneValue vals)))

/-- The physical byte that `pf` fetches for a lane: none when a check fails or a page walk would be needed (R229). -/
def Ctx.pfTarget (c : Ctx) (i : Lane) : Option Translated :=
  if !canonical (c.ea i) then none
  else
    match tlbFind (c.s0.core c.r.die c.r.core).tlb c.t.asid (va57 (c.ea i)), tlbFind c.s0.dies[c.r.die].tlb c.t.asid (va57 (c.ea i)) with
    | none, none => none
    | _, _ =>
      match c.s0.translate c.r.die (some c.r.core) c.t.asid (c.ea i) .read with
      | .ok x => some x
      | .error _ => none

/-- One line that `pf` fetches: into L2, or whole into L1 too, unless its page bypasses them (R229, R332). -/
def State.prefetch (s : State) (r : GRef) (l2 : Bool) (hint : BitVec 2) (x : Translated) : State :=
  if l2 then (if x.attrs.cache == 2 then s else s.l2Take r.die (x.pa / 128))
  else s.l1Access r (x.pa / 128) (span (x.pa / 128 * 128) 128) false (if x.noL1 then 3 else hint) none false false

/-- `pf` (R229). -/
def execPf (f : Fields) (s : State) :=
  issue .pf f s fun c =>
    let xs := (lanesOf c.m).filterMap (fun i => c.pfTarget i)
    .done (xs.foldl (fun s x => s.prefetch c.r (c.f.sub == 1) c.f.hint x) c.s) .noResult

/-! ## Tiles (R82, R230, R231) -/

/-- A tile of a group. -/
def Group.tile (g : Group) (n : BitVec 4) : Vector Byte 1024 := g.tiles.get n.toFin
/-- A tile replaced. -/
def Group.setTile (g : Group) (n : BitVec 4) (x : Vector Byte 1024) : Group := { g with tiles := g.tiles.set n.toNat x n.isLt }

/-- The stride of `ldt` and `stt` (R230). -/
def Ctx.stride (c : Ctx) : Word := c.bLevel

/-- The address of row r of a global tile access. -/
def Ctx.tileRow (c : Ctx) (r : Nat) : DWord :=
  c.g.level64 c.f c.f.sa c.m + c.f.imm.signExtend 64 + BitVec.ofNat 64 r * c.stride.setWidth 64
/-- The address of row r of a scratchpad tile access. -/
def Ctx.tileRowSpad (c : Ctx) (r : Nat) : Word := c.aLevel + c.f.imm + BitVec.ofNat 32 r * c.stride

/-- The rows of a global tile access translated, or the trap (R224, R230, R392). TRADDR is E also when the stride alone is misaligned
(DESIGN CHOICE, log 27). -/
def Ctx.checkTile (c : Ctx) (kind : AccessKind) : Except Act (List Translated) :=
  if (c.tileRow 0).toNat % 32 ≠ 0 ∨ c.stride.toNat % 32 ≠ 0 then .error (c.trap 0x20 0 (c.tileRow 0))
  else
    (List.range 32).foldr (fun r acc =>
      match c.translate (c.tileRow r) kind with
      | .error e => .error (c.trap 0x21 e.code (c.tileRow r))
      | .ok x => acc.map (fun l => x :: l)) (.ok [])

/-- The trap of a scratchpad tile access. -/
def Ctx.checkTileSpad (c : Ctx) : Option Act :=
  if (c.tileRowSpad 0).toNat % 32 ≠ 0 ∨ c.stride.toNat % 32 ≠ 0 then some (c.trap 0x20 0 ((c.tileRowSpad 0).setWidth 64))
  else
    (List.range 32).findSome? (fun r =>
      ((c.s0.core c.r.die c.r.core).spadFault c.t (c.tileRowSpad r).toNat).map (fun e => c.trap e 0 ((c.tileRowSpad r).setWidth 64)))

/-- A scratchpad tile load in flight; a poisoned unit leaves the tile unwritten and is reported for the member lanes. -/
def Ctx.tileFlight (c : Ctx) (s : State) (bad : Option DWord) (bs : List Byte) : Act :=
  c.launchFlight s { c.flight false 256 (if bad.isSome then c.m else 0) (bad.getD 0) (lanes fun _ => 0) with tileBytes := quads 64 bs }

/-- `ldt` (R230). -/
def execLdt (f : Fields) (s : State) :=
  issue .ldt f s fun c =>
    if c.f.sub == 1 then
      match c.checkTileSpad with
      | some a => a
      | none =>
        let k := c.s.core c.r.die c.r.core
        let bad := (List.range 32).find? (fun r => k.spadPoisoned c.t (c.tileRowSpad r).toNat 32)
        c.tileFlight c.s (bad.map (fun r => (c.tileRowSpad r).setWidth 64))
          ((List.range 32).flatMap (fun r => k.spadRead c.t (c.tileRowSpad r).toNat 32))
    else
      match c.checkTile .read with
      | .error a => a
      | .ok xs =>
        c.fly (c.acquire (c.walked ((List.range 32).map c.tileRow))) 256
          (c.loadSpec true 32 (xs.zipIdx.map (fun x => readPlace (Fin.ofNat 32 x.2) (c.tileRow x.2) x.1)))

/-- Row r of a tile. -/
def tileRowBytes (t : Vector Byte 1024) (r : Nat) : List Byte := (List.range 32).map (fun j => t[32 * r + j]?.getD 0)

/-- `stt` (R90, R230): the rows are written in ascending order. -/
def execStt (f : Fields) (s : State) :=
  issue .stt f s fun c =>
    match c.f.sx with
    | .t n =>
      let tile := c.g.tile n
      if c.f.sub == 1 then
        match c.checkTileSpad with
        | some a => a
        | none =>
          .done ((List.range 32).foldl (fun s r =>
            s.spadWrite c.r.die c.r.core c.t (c.tileRowSpad r).toNat (tileRowBytes tile r)) (c.release c.s)) .noResult
      else
        match c.checkTile .write with
        | .error a => a
        | .ok xs =>
          .done (c.putAll (c.walked ((List.range 32).map c.tileRow)) false (xs.zipIdx.map (fun x => (x.1, tileRowBytes tile x.2)))) .noResult
    | _ => c.illegal

/-- n bytes of a tile from an offset, as a word. -/
def tileWord (t : Vector Byte 1024) (off n : Nat) : Word :=
  BitVec.ofNat 32 (leNat ((List.range n).map (fun j => t[off + j]?.getD 0)))

/-- n bytes of a word put into a tile. -/
def tilePut (t : Vector Byte 1024) (off n : Nat) (x : Word) : Vector Byte 1024 :=
  (List.range n).foldl (fun t j => t.setIfInBounds (off + j) (x.extractLsb' (8 * j) 8)) t

/-- A read of the tile SA in every member lane: the element at an offset that the lane's number and the selector give. -/
def Ctx.tileRead (c : Ctx) (x : Vector Byte 1024 → Nat → Nat → Word) : Act :=
  match c.f.sa with
  | .t n => c.result32 (fun i => x (c.g.tile n) i.val c.bLevel.toNat)
  | _ => c.illegal

/-- A write of the tile DST by every member lane in ascending order. -/
def Ctx.tileWrite (c : Ctx) (bytes : Nat) (off : Nat → Nat → Nat) : Act :=
  match c.f.dst with
  | .t n =>
    .done (c.withGroup (fun g =>
      g.setTile n ((lanesOf c.m).foldl (fun t i => tilePut t (off i.val c.bLevel.toNat) bytes (c.a32 i)) (c.g.tile n)))) .noResult
  | _ => c.illegal

/-- `tmov.rd` (Table K-54). -/
def execTmovRd (f : Fields) (s : State) := issue .tmovRd f s fun c => c.tileRead (fun t i b => tileWord t (128 * (b % 8) + 4 * i) 4)
/-- `tmov.wr` (Table K-54). -/
def execTmovWr (f : Fields) (s : State) := issue .tmovWr f s fun c => c.tileWrite 4 (fun i b => 128 * (b % 8) + 4 * i)
/-- `tmov.c8` (Table K-54). -/
def execTmovC8 (f : Fields) (s : State) := issue .tmovC8 f s fun c => c.tileRead (fun t i b => tileWord t (32 * i + b % 32) 1)
/-- `tmov.c16` (Table K-54). -/
def execTmovC16 (f : Fields) (s : State) := issue .tmovC16 f s fun c => c.tileRead (fun t i b => tileWord t (32 * i + 2 * (b % 16)) 2)
/-- `tmov.c32` (Table K-54). -/
def execTmovC32 (f : Fields) (s : State) := issue .tmovC32 f s fun c => c.tileRead (fun t i b => tileWord t (32 * i + 4 * (b % 8)) 4)
/-- `tmov.c4` (R82, Table K-54). -/
def execTmovC4 (f : Fields) (s : State) :=
  issue .tmovC4 f s fun c => c.tileRead (fun t i b => (tileWord t (32 * i + b % 64 / 2) 1 >>> (4 * (b % 2))) &&& 0xF)
/-- `tmov.wc32` (Table K-54). -/
def execTmovWc32 (f : Fields) (s : State) := issue .tmovWc32 f s fun c => c.tileWrite 4 (fun i b => 32 * i + 4 * (b % 8))
/-- `tmov.wc8` (Table K-54). -/
def execTmovWc8 (f : Fields) (s : State) := issue .tmovWc8 f s fun c => c.tileWrite 1 (fun i b => 32 * i + b % 32)

end Sys2Proof.Machine
end

