-- ==== Sys2Proof/Machine/AtomicOps.lean ====
section
/-! DEFINITION. Row 0x9: atomics (spec 04 R113, spec 09 R232, R233, R388). -/

namespace Sys2Proof.Machine

/-- The operation of `atom`, `red` and `atoms` by SUB (Table K-56). -/
def atomOf (sub : BitVec 3) (a b : Word) : Word :=
  match sub.toNat with
  | 0 => a + b
  | 1 => if b.slt a then b else a
  | 2 => if a.slt b then b else a
  | 3 => if b.ult a then b else a
  | 4 => if a.ult b then b else a
  | 5 => a &&& b
  | 6 => a ||| b
  | _ => a ^^^ b

/-- A packed addition of two halves, each rounded once (Table K-56). -/
def halfAdd (f : Fmt) (a b : Word) : Word :=
  let one := fun e => BitVec.ofNat 32 (f.round (Fx.add 0 (f.value (a.extractLsb' (16 * e) 16).toNat) (f.value (b.extractLsb' (16 * e) 16).toNat)) 0 0 32).1
  one 0 ||| (one 1 <<< 16)

/-- The operation of `atomf` by SUB (Table K-56). -/
def atomfOf (sub : BitVec 3) (a b : Word) : Word :=
  match sub.toNat with
  | 0 => fAdd32 a b
  | 1 => (fMinMax true false a b).1
  | 2 => (fMinMax false false a b).1
  | 3 => halfAdd fmtF16 a b
  | _ => halfAdd fmtBF16 a b

/-- The bytes of an atomic made current at its coherence point: the dirty sector of the core reaches L2, and for a wider scope the line that
the die holds reaches the home slice, where every other die's copy is written back and invalidated before the atomic reads (R102, R104,
R107, R113). -/
def State.atPoint (s : State) (d : DieId) (c : CoreId) (lvl : Level) (a n : Nat) : State :=
  match lvl with
  | .core => s
  | .die => s.sectorBack d c a
  | .home => (s.lineHome d c a).recall (some d) a n

/-- Where an atomic of a level acts: a core-scope atomic on a sector that L1 does not hold acts in L2 (R95, R99). -/
def State.atomLevel (s : State) (d : DieId) (c : CoreId) (lvl : Level) (a n : Nat) : Level :=
  if lvl == .core && !(s.core d c).holds a n then .die else lvl

/-- One lane's read-modify-write of n bytes at a level: the old value, and the state after it. -/
def State.rmw (s : State) (d : DieId) (c : CoreId) (lvl : Level) (a n : Nat) (op : Nat → Nat) : Nat × State :=
  let l := s.atomLevel d c lvl a n
  let s1 := s.atPoint d c l a n
  let old := leNat (s1.readAt d c l a n)
  (old, s1.writeAt d c l a (leBytes n (op old)))

/-- What the lanes of an atomic have read so far, with the state. -/
structure AtomRun where
  s : State
  olds : List (Lane × BitVec 128)

/-- The lanes of a global atomic performed in ascending order, at the home slices on a page that bypasses L2 (R332); a poisoned lane performs
nothing (R233, R388). -/
def Ctx.atomLanes (c : Ctx) (s : State) (xs : List (Lane × Translated)) (n : Nat) (lvl : Level) (op : Lane → Nat → Nat) : AtomRun :=
  xs.foldl (fun acc x =>
    if acc.s.poisonedIn x.2.pa n then acc
    else
      let p := acc.s.rmw c.r.die c.r.core (if x.2.attrs.cache == 2 then .home else lvl) x.2.pa n (op x.1)
      ⟨p.2, (x.1, BitVec.ofNat 128 p.1) :: acc.olds⟩) ⟨s, []⟩

/-- A global atomic of n bytes (R233). -/
def Ctx.atomic (c : Ctx) (n : Nat) (op : Lane → Nat → Nat) : Act :=
  match c.checkGlobal .atomic n c.ea with
  | .error a => a
  | .ok xs =>
    let lvl := scopeLevel c.scope
    let s1 := (c.release (c.walked ((lanesOf c.m).map c.ea))).l1Accesses c.r (accessBytes xs n) true c.f.hint (bypassed (xs.map Prod.snd) (lvl != .core))
      (if lvl == .core then some 2 else none) true
    let run := c.atomLanes s1 xs n lvl op
    let bad := maskOf (fun i => xs.any (fun x => x.1 == i && s1.poisonedIn x.2.pa n))
    c.launchFlight (c.acquire run.s) (c.flight true (n / 4) bad (lowestAddr bad c.ea) (lanes (laneValue run.olds)))

/-- The lanes of a scratchpad atomic performed in ascending order, after the release that it may be (R110). -/
def Ctx.atomLanesSpad (c : Ctx) (n : Nat) (op : Lane → Nat → Nat) : AtomRun :=
  (lanesOf c.m).foldl (fun acc i =>
    let k := acc.s.core c.r.die c.r.core
    let a := (c.eaSpad i).toNat
    if k.spadPoisoned c.t a n then acc
    else
      let old := leNat (k.spadRead c.t a n)
      ⟨acc.s.spadWrite c.r.die c.r.core c.t a (leBytes n (op i old)), (i, BitVec.ofNat 128 old) :: acc.olds⟩) ⟨c.release c.s, []⟩

/-- A scratchpad atomic of n bytes (R233). -/
def Ctx.atomicSpad (c : Ctx) (n : Nat) (op : Lane → Nat → Nat) : Act :=
  match c.checkSpad n c.eaSpad with
  | some a => a
  | none =>
    let run := c.atomLanesSpad n op
    let k := c.s.core c.r.die c.r.core
    let bad := maskOf (fun i => inMask c.m i && k.spadPoisoned c.t (c.eaSpad i).toNat n)
    c.launchFlight (c.acquire run.s) (c.flight true (n / 4) bad (lowestAddr bad (fun i => (c.eaSpad i).setWidth 64))
      (lanes (laneValue run.olds)))

/-- A 32-bit operation on numbers. -/
def onWords (op : Word → Word → Word) (b : Word) (old : Nat) : Nat := (op (BitVec.ofNat 32 old) b).toNat

/-- `atom` (R233). -/
def execAtom (f : Fields) (s : State) := issue .atom f s fun c => c.atomic 4 (fun i => onWords (atomOf c.f.sub) (c.b32 i))
/-- `red` (R113, R233). -/
def execRed (f : Fields) (s : State) := issue .red f s fun c => c.atomic 4 (fun i => onWords (atomOf c.f.sub) (c.b32 i))
/-- `atoms` (R233). -/
def execAtoms (f : Fields) (s : State) := issue .atoms f s fun c => c.atomicSpad 4 (fun i => onWords (atomOf c.f.sub) (c.b32 i))
/-- `atomf` (R233). -/
def execAtomf (f : Fields) (s : State) := issue .atomf f s fun c => c.atomic 4 (fun i => onWords (atomfOf c.f.sub) (c.b32 i))

/-- The new value of `atomcas` in a lane (R233). -/
def Ctx.casNew (c : Ctx) (i : Lane) (old : Nat) : Nat :=
  let b := if c.f.sub.getLsbD 0 then (c.b64 i).toNat else (c.b32 i).toNat
  let x := if c.f.sub.getLsbD 0 then (c.c64 i).toNat else (c.c32 i).toNat
  if c.f.sub.getLsbD 1 then b else if old = b then x else old

/-- `atomcas` (R233). -/
def execAtomcas (f : Fields) (s : State) :=
  issue .atomcas f s fun c =>
    let n := if c.f.sub.getLsbD 0 then 8 else 4
    if c.f.sub.getLsbD 2 then c.atomicSpad n c.casNew else c.atomic n c.casNew

end Sys2Proof.Machine
end

