-- ==== Sys2Proof/Machine/Layout.lean ====
section
/-! DEFINITION. Tensor layout records, and the region of a seal with the checks that come before it is sealed (spec 09 R242, R245, R248,
Table K-61, spec 17 R334). -/

namespace Sys2Proof.Machine

/-! ## Layout records (Table K-61) -/

/-- A tensor layout record. -/
structure Layout where
  base : Nat
  fmt : Nat
  rank : Nat
  spad : Bool
  scaleLoc : Nat
  dims : List Nat
  strides : List Nat
  blk0 : Nat
  blk1 : Nat
  tol : Word
  aux : Nat
  rawDims : List Byte
  deriving DecidableEq, Repr

/-- Bits of an element of a non-MX format (Table K-22). -/
def fmtBits (code : Nat) : Option Nat :=
  match code with
  | 0x00 | 0x04 | 0x08 | 0x10 => some 32
  | 0x01 | 0x05 | 0x09 | 0x11 | 0x12 => some 16
  | 0x02 | 0x06 | 0x0A | 0x13 | 0x14 => some 8
  | 0x0B => some 64
  | 0x0C => some 128
  | 0x15 => some 4
  | _ => none

/-- The floating format of a code. -/
def floatFmt (code : Nat) : Option Fmt :=
  match code with
  | 0x10 => some fmtF32 | 0x11 => some fmtF16 | 0x12 => some fmtBF16 | 0x13 => some fmtE4M3 | 0x14 => some fmtE5M2 | 0x15 => some fmtE2M1
  | _ => none

/-- The width and the sign of an integer format. -/
def intFmt (code : Nat) : Option (Nat × Bool) :=
  match code with
  | 0x00 => some (32, true) | 0x01 => some (16, true) | 0x02 => some (8, true)
  | 0x04 => some (32, false) | 0x05 => some (16, false) | 0x06 => some (8, false)
  | _ => none

/-- Whether a code is that of an MX block format. -/
def isMx (code : Nat) : Bool := code == 0x18 || code == 0x19

/-- The record that 64 bytes hold. -/
def parseLayout (bs : List Byte) : Layout :=
  { base := bytesAt bs 0 8, fmt := bytesAt bs 8 1, rank := bytesAt bs 9 1, spad := bytesAt bs 10 1 % 2 == 1
    scaleLoc := bytesAt bs 11 1, dims := (List.range (bytesAt bs 9 1)).map (fun j => bytesAt bs (12 + 4 * j) 4)
    strides := (List.range 4).map (fun j => bytesAt bs (32 + 4 * j) 4), blk0 := bytesAt bs 48 1, blk1 := bytesAt bs 49 1
    tol := BitVec.ofNat 32 (bytesAt bs 52 4), aux := bytesAt bs 56 8, rawDims := (bs.drop 12).take 20 }

/-- Whether TOL is a finite FP32 value of at least 2⁻¹²⁶. -/
def tolUsable (x : Word) : Bool := !x.getLsbD 31 && x.extractLsb' 23 8 != 0 && x.extractLsb' 23 8 != 0xFF

/-- The ranges of Table K-61. TOL of a transform that does not use it should be 0; the table does not say what another usable value does,
and the model accepts it (DESIGN CHOICE, log 93). -/
def layoutOk (bs : List Byte) : Bool :=
  let x := parseLayout bs
  x.base % 16 == 0 && ((fmtBits x.fmt).isSome || isMx x.fmt) && decide (1 ≤ x.rank) && decide (x.rank ≤ 5)
    && decide (bytesAt bs 10 1 ≤ 1) && decide (x.scaleLoc ≤ 2) && x.dims.all (fun d => decide (1 ≤ d))
    && decide (x.blk0 ≤ 10) && decide (x.blk1 ≤ 10) && decide (x.blk0 + x.blk1 ≤ 10) && bytesAt bs 50 2 == 0
    && (x.tol == 0 || tolUsable x.tol) && x.aux % 16 == 0

/-- An extent, 1 beyond RANK. -/
def Layout.dim (x : Layout) (k : Nat) : Nat := x.dims[k]?.getD 1
/-- A stride in bytes. -/
def Layout.stride (x : Layout) (k : Nat) : Nat := (x.strides[k - 1]?.getD 0) * 16

/-- The number of elements. -/
def Layout.count (x : Layout) : Nat := x.dims.foldl (· * ·) 1

/-- The indices of the j-th element, dimension 0 innermost. -/
def Layout.indices (x : Layout) (j : Nat) : List Nat :=
  (x.dims.foldl (fun p d => (p.1 / d, p.2 ++ [p.1 % d])) (j, ([] : List Nat))).2

/-- The byte offset that the indices beyond dimension 0 give. -/
def Layout.rowOffset (x : Layout) (ix : List Nat) : Nat :=
  ((List.range 4).map (fun k => (ix[k + 1]?.getD 0) * x.stride (k + 1))).foldl (· + ·) 0

/-- The bits of an element of the record's format: 4 and 8 for the MX formats. -/
def Layout.bits (x : Layout) : Nat := if x.fmt == 0x19 then 4 else if x.fmt == 0x18 then 8 else (fmtBits x.fmt).getD 8

/-- The place of an element: its byte address, and whether it is the high nibble (R242). -/
def Layout.place (x : Layout) (ix : List Nat) : Nat × Bool :=
  let i0 := ix[0]?.getD 0
  if x.bits = 4 then (x.base + i0 / 2 + x.rowOffset ix, i0 % 2 == 1)
  else (x.base + i0 * (x.bits / 8) + x.rowOffset ix, false)

/-! ## Blocks (R245) -/

/-- Whether a format is one of `.f32`, `.bf16` and `.f16`. -/
def isSourceFmt (code : Nat) : Bool := code == 0x10 || code == 0x11 || code == 0x12

/-- The numbers of blocks along dimensions 0 and 1. -/
def Layout.blocks0 (x : Layout) : Nat := (x.dim 0 + 2 ^ x.blk0 - 1) / 2 ^ x.blk0
def Layout.blocks1 (x : Layout) : Nat := (x.dim 1 + 2 ^ x.blk1 - 1) / 2 ^ x.blk1
/-- The number of blocks. -/
def Layout.blockCount (x : Layout) : Nat := x.blocks0 * x.blocks1 * (x.dim 2 * x.dim 3 * x.dim 4)

/-- Where an element of the destination lies in the buffer: the place in the index of its block, and its number there. -/
def bfpWhere (sh : Layout) (ix : List Nat) : Nat × Nat :=
  let i0 := ix[0]?.getD 0
  let i1 := ix[1]?.getD 0
  let h := ix[2]?.getD 0 + sh.dim 2 * (ix[3]?.getD 0 + sh.dim 3 * (ix[4]?.getD 0))
  (i0 / 2 ^ sh.blk0 + sh.blocks0 * (i1 / 2 ^ sh.blk1 + sh.blocks1 * h), i0 % 2 ^ sh.blk0 + 2 ^ sh.blk0 * (i1 % 2 ^ sh.blk1))

/-! ## The region of a seal (R121, R248, R334) -/

/-- The codes of Table K-58 that the rules below give. -/
def codeAccess : Byte := 0x01
def codeSealRace : Byte := 0x06
def codeNotInSet : Byte := 0x07
def codeLayout : Byte := 0x08
def codeMismatch : Byte := 0x0B

/-- The code of POISON. -/
def codePoison : Byte := 0x02

/-- The 4 KiB pages of a region. -/
def pagesOf (a n : Nat) : List Nat := (List.range (n / 4096)).map (fun j => a + 4096 * j)

/-- The leaves that translate a region, none when a page has none. -/
def State.sealLeaves (s : State) (d : DieId) (asid : BitVec 12) (a n : Nat) : Option (List Leaf) :=
  let xs := (pagesOf a n).map (fun va =>
    if canonical (BitVec.ofNat 64 va) then s.leafOf d asid (va57 (BitVec.ofNat 64 va)) else none)
  if xs.all Option.isSome then some (xs.filterMap id).eraseDups else none

/-- The virtual addresses of the elements of each block, in the order of R245; none for an element outside the tensor. -/
def blockSlots (x : Layout) : List (List (Option Nat)) :=
  let ps := (List.range x.count).map (fun j => let ix := x.indices j; (bfpWhere x ix, (x.place ix).1))
  (List.range x.blockCount).map (fun b =>
    let mine := ps.filter (fun p => p.1.1 == b)
    (List.range (2 ^ x.blk0 * 2 ^ x.blk1)).map (fun n => (mine.find? (fun p => p.1.2 == n)).map Prod.snd))

/-- The virtual addresses of the elements of each block that lie in the tensor. -/
def blockPlaces (x : Layout) : List (List Nat) := (blockSlots x).map (fun b => b.filterMap id)

/-- Whether the elements of a record are of a format that merging takes, lie in a region, and its blocks are whole lines (R247, R248). -/
def sealRecordOk (x : Layout) (a n : Nat) : Bool :=
  isSourceFmt x.fmt && tolUsable x.tol && !x.spad
    && (blockPlaces x).all (fun ps =>
      let size := x.bits / 8
      ps.eraseDups.length == ps.length && ps.length * size == 128 * ((ps.map (· / 128)).eraseDups).length
        && ps.all (fun p => decide (a ≤ p) && decide (p + size ≤ a + n)))

/-- A layout record that an engine reads in global memory (R242). -/
def State.readRecord (s : State) (d : DieId) (asid : BitVec 12) (a : DWord) : Except Byte Layout :=
  match s.translate d none asid a .read with
  | .error _ => .error codeAccess
  | .ok x =>
    if s.poisonedIn x.pa 64 then .error codePoison
    else
      let bs := if x.attrs.cache == 2 then s.readHome x.pa 64 else s.readDie d x.pa 64
      if layoutOk bs then .ok (parseLayout bs) else .error codeLayout

/-- The region of a seal: its leaves, and the record of what it merges. -/
structure SealRegion where
  leaves : List Leaf
  record : Option Layout
  deriving DecidableEq, Repr

/-- The checks of a seal before step 1 of R121 (R248, R334): the record is read, every page of the region translates, every leaf of it lies
within it, and the record suits it. -/
def State.sealCheck (s : State) (d : DieId) (asid : BitVec 12) (a : DWord) (n : Nat) (rec_ : Option DWord) : Except Byte SealRegion :=
  let record : Except Byte (Option Layout) := match rec_ with
    | none => .ok none
    | some x => (s.readRecord d asid x).map some
  match record, s.sealLeaves d asid a.toNat n with
  | .error e, _ => .error e
  | .ok _, none => .error codeAccess
  | .ok x, some ls =>
    let lo := va57 a
    if ls.any (fun l => decide (l.groupVa < lo) || decide (lo + n < l.groupVa + l.groupSize))
        || (match x with | some x => !sealRecordOk x a.toNat n | none => false) then .error codeLayout
    else .ok ⟨ls, x⟩

end Sys2Proof.Machine
end

