-- ==== Sys2Proof/Machine/EngineOps.lean ====
section
/-! DEFINITION. Row 0xA: what the issue of an engine instruction does, its checks and its fork (spec 04 R115, R118, spec 09 R234,
R235, R238 to R242, R248 to R250, spec 12 R290). -/

namespace Sys2Proof.Machine

/-- The class of an engine operation (R234). -/
def Ctx.cls (c : Ctx) : BitVec 2 := c.f.md.extractLsb' 0 2

/-- Which queue of the die an operation takes a place in (R235, R248). -/
inductive EngQueue
  | caravan | sirocco | coll
  deriving DecidableEq, Repr

/-- The queue of a kind of operation. -/
def EngKind.queue (k : EngKind) : EngQueue :=
  match k with
  | .xform _ _ _ | .seal _ _ _ => .sirocco
  | .coll _ _ _ _ _ => .coll
  | _ => .caravan

/-- The places of a queue (R235). -/
def EngQueue.room (q : EngQueue) : Nat := match q with | .caravan => 256 | .sirocco => 64 | .coll => 16

/-- Whether n more operations of a kind and class fit their queue: one queue for each class, one in all for collectives. -/
def Die.engineRoom (x : Die) (q : EngQueue) (cls : BitVec 2) (n : Nat) : Bool :=
  decide ((x.engines.filter (fun e => e.kind.queue == q && (q == .coll || e.cls == cls))).length + n ≤ q.room)

/-- The barrier register that BREG names, when it is enabled and not idle (R206). -/
def Ctx.breg? (c : Ctx) : Option (Fin 16) :=
  let b : Fin 16 := c.f.breg.toFin
  if b.val < c.t.desc.barriers ∧ c.t.barriers[b].expect ≠ 0 then some b else none

/-- An engine operation of the issuing group. -/
def Ctx.engineOp (c : Ctx) (s : State) (kind : EngKind) (compl : Completion) (src dst : DWord) (len : Nat) : EngineOp :=
  { id := s.uid, kind := kind, completion := compl, asid := c.t.asid, core := c.r.core, team := c.t.uid, slot := c.r.slot
    grid := c.t.grid, cls := c.cls, src := src, dst := dst, len := len, sent := 0, code := 0 }

/-- The fork of an operation with a number under a barrier register (R115, R206): the release, one more in PEND, and the operation queued. -/
def Ctx.forkAs (c : Ctx) (id : Nat) (lvl : Level) (b : Fin 16) (kind : EngKind) (src dst : DWord) (len : Nat) : State :=
  let s1 := c.s.releaseBy c.r lvl
  let x := c.t.barriers[b]
  let s2 := s1.putBar c.r.die c.r.core c.t b { x with pend := x.pend + 1 }
  let op := { c.engineOp s2 kind (.bar b) src dst len with id := id }
  { s2 with uid := s2.uid + 1 }.modDie c.r.die (fun d => { d with engines := d.engines ++ [op] })

/-- The fork of an operation that takes the next number. -/
def Ctx.fork (c : Ctx) (lvl : Level) (b : Fin 16) (kind : EngKind) (src dst : DWord) (len : Nat) : State :=
  c.forkAs c.s.uid lvl b kind src dst len

/-- Whether a direction's source, or destination, is global (Table K-57). -/
def dirSrcGlobal (dir : BitVec 3) : Bool := dir == 0 || dir == 2
def dirDstGlobal (dir : BitVec 3) : Bool := dir == 1 || dir == 2

/-- Whether a direction has a scratchpad side. -/
def dirSpad (dir : BitVec 3) : Bool := dir != 2

/-! ## Operations on an octet (R89) -/

/-- The position of an octet of a team (R86). -/
def Team.positionOf (t : Team) (o : Fin 8) : Option (Fin 8) := (List.finRange 8).find? (fun p => t.position[p] == some o)

/-- The scratchpad bytes between which a record's tensor and what AUXBASE names lie: first byte and length (Table K-61). -/
def Layout.spans (x : Layout) : List (Nat × Nat) :=
  let images := ((x.dim 1 + 255) / 256) * ((x.dim 0 + 63) / (if x.fmt == 0x18 then 64 else 128))
  let size := if isMx x.fmt && x.scaleLoc == 2 then 17408 * images else x.rowOffset (x.dims.map (· - 1)) + (x.dim 0 * x.bits + 7) / 8
  (x.base, size) :: (if x.aux = 0 then [] else [(x.aux, if isMx x.fmt then (x.count + 31) / 32 else 8)])

/-- The scratchpad bytes that an engine operation reads or writes: first byte and length. -/
def State.spadRanges (s : State) (d : DieId) (x : EngineOp) : List (Nat × Nat) :=
  match x.kind with
  | .cpy dir | .cpyt dir =>
    (if dirSrcGlobal dir then [] else [(x.src.toNat, x.len)]) ++ (if dirDstGlobal dir then [] else [(x.dst.toNat, max x.len 32)])
  | .xsend true _ _ => [(x.src.toNat, x.len)]
  | .input => [(x.dst.toNat, x.len)]
  | .xform _ _ _ => [x.src, x.dst].flatMap (fun a =>
      match s.readRecord d x.asid a with
      | .ok y => if y.spad then y.spans else []
      | .error _ => [])
  | _ => []

/-- Whether an engine operation works on an octet of its team. -/
def State.onOctet (s : State) (d : DieId) (t : Team) (x : EngineOp) (o : Fin 8) : Bool :=
  (match x.kind with | .wload b => b.val / 8 == o.val | _ => false) ||
    match t.positionOf o with
    | none => false
    | some p => (s.spadRanges d x).any (fun r => decide (r.1 < 131072 * (p.val + 1)) && decide (131072 * p.val < r.1 + r.2))

/-- The octets that groups of a team wait for in `bfree` or `balloc`: no new operation on them is accepted (R89). -/
def State.octetWaits (s : State) (d : DieId) (c : CoreId) (t : Team) : List (Fin 8) :=
  (s.groupsOf d c t).filterMap (fun p => match p.2.hold with | some (.octet o) => some o | _ => none)

/-- The octets of the operations of a team's groups that wait for a `bfree` or a `balloc` and issued before a place among those (R89, R265). -/
def State.octetQueue (s : State) (d : DieId) (c : CoreId) (t : Team) (place : Nat) : List (Fin 8) :=
  (s.groupsOf d c t).flatMap (fun p => match p.2.hold with | some (.busy n os) => if n < place then os else [] | _ => [])

/-- The place of an operation among those: the one that it holds with, or a new one behind every other. -/
def Ctx.busyPlace (c : Ctx) : Nat := match c.g.hold with | some (.busy n _) => n | _ => c.s0.uid

/-- Whether an operation on some octets has to wait: for a `bfree` or a `balloc` of one of them, or behind an earlier one that does (R89, R265;
log 97). -/
def Ctx.blockedOn (c : Ctx) (os : List (Fin 8)) : Bool :=
  os.any (c.s0.octetWaits c.r.die c.r.core c.t ++ c.s0.octetQueue c.r.die c.r.core c.t c.busyPlace).contains

/-- The hold of an operation that has to wait, with its place and its octets. -/
def Ctx.waitOctets (c : Ctx) (os : List (Fin 8)) : Act := .holdWith { c.s0 with uid := c.s0.uid + 1 } (.busy c.busyPlace os)

/-- The octets that an engine operation of the group works on. -/
def Ctx.engineOctets (c : Ctx) (x : EngineOp) : List (Fin 8) := (List.finRange 8).filter (c.s0.onOctet c.r.die c.t x)

/-- The fork when nothing waits for an octet of it and the queue has room, else the hold (R89, R235). -/
def Ctx.start (c : Ctx) (lvl : Level) (b : Fin 16) (kind : EngKind) (src dst : DWord) (len : Nat) : Act :=
  let os := c.engineOctets (c.engineOp c.s0 kind (.bar b) src dst len)
  if c.blockedOn os then c.waitOctets os
  else if c.s0.dies[c.r.die].engineRoom kind.queue c.cls 1 then .done (c.fork lvl b kind src dst len) .noResult
  else .hold .engine

/-- A group-level address of either space. -/
def Ctx.levelAddr (c : Ctx) (global : Bool) (x : Operand) : DWord :=
  if global then c.g.level64 c.f x c.m else (c.g.level32 c.f x c.m).setWidth 64

/-- The misaligned-access trap of an engine instruction, TRADDR the misaligned address, zero when only a length is (R392). -/
def Ctx.misaligned (c : Ctx) (xs : List DWord) (n : Nat) : Act :=
  c.trap 0x20 0 ((xs.find? (fun a => a.toNat % n != 0)).getD 0)

/-- `cpy` (R235, R238): a length of 0 moves nothing and arrives at once. -/
def execCpy (f : Fields) (s : State) :=
  issue .cpy f s fun c =>
    let src := c.levelAddr (dirSrcGlobal c.f.sub) c.f.sa
    let dst := c.levelAddr (dirDstGlobal c.f.sub) c.f.sb
    let len := c.cLevel.toNat
    if src.toNat % 16 ≠ 0 ∨ dst.toNat % 16 ≠ 0 ∨ len % 16 ≠ 0 then c.misaligned [src, dst] 16
    else if dirSpad c.f.sub && c.t.desc.octets == 0 then c.illegal
    else
      match c.breg? with
      | none => c.illegal
      | some b =>
        if len = 0 then
          .done ((c.s.releaseBy c.r .die).putBar c.r.die c.r.core c.t b (c.t.barriers[b].arrive 1)) .noResult
        else c.start .die b (.cpy c.f.sub) src dst len

/-- A lane's address of either space. -/
def Ctx.laneAddr (c : Ctx) (global : Bool) (x : Operand) (i : Lane) : DWord :=
  if global then c.g.read64 c.f x i else (c.g.read32 c.f x i).setWidth 64

/-- The bytes that a lane of `cpyt` copies (R239). -/
def Ctx.cpytLen (c : Ctx) (i : Lane) : Nat := (c.orElse c.f.sx i 32).toNat

/-- The first misaligned address of the lowest lane that has one. -/
def Ctx.cpytMisaligned (c : Ctx) : Option DWord :=
  (lanesOf c.m).findSome? (fun i =>
    [c.laneAddr (dirSrcGlobal c.f.sub) c.f.sa i, c.laneAddr (dirDstGlobal c.f.sub) c.f.sb i].find? (fun a => a.toNat % 16 != 0))

/-- The octets that the copies of `cpyt` work on. -/
def Ctx.cpytOctets (c : Ctx) : List (Fin 8) :=
  ((lanesOf c.m).flatMap (fun i => c.engineOctets (c.engineOp c.s0 (.cpyt c.f.sub) (.tag c.f.ctag.toFin) (c.laneAddr (dirSrcGlobal c.f.sub) c.f.sa i)
    (c.laneAddr (dirDstGlobal c.f.sub) c.f.sb i) (c.cpytLen i)))).eraseDups

/-- `cpyt` (R84, R235, R239): one 32-byte copy for each member lane. -/
def execCpyt (f : Fields) (s : State) :=
  issue .cpyt f s fun c =>
    let n := laneCount c.m
    let tag : Fin 8 := c.f.ctag.toFin
    match c.cpytMisaligned with
    | some a => c.trap 0x20 0 a
    | none =>
      if (lanesOf c.m).any (fun i => decide (32 < c.cpytLen i)) || (dirSpad c.f.sub && c.t.desc.octets == 0) then c.illegal
      else if 1023 < c.g.tags[tag] + n then .hold .tag
      else if c.blockedOn c.cpytOctets then c.waitOctets c.cpytOctets
      else if !c.s0.dies[c.r.die].engineRoom .caravan c.cls n then .hold .engine
      else
        let s1 := (c.s.releaseBy c.r .die).modGroup c.r (fun g => { g with tags := g.tags.set tag (g.tags[tag] + n) })
        .done ((lanesOf c.m).foldl (fun s i =>
          let op := c.engineOp s (.cpyt c.f.sub) (.tag tag) (c.laneAddr (dirSrcGlobal c.f.sub) c.f.sa i)
            (c.laneAddr (dirDstGlobal c.f.sub) c.f.sb i) (c.cpytLen i)
          { s with uid := s.uid + 1 }.modDie c.r.die (fun d => { d with engines := d.engines ++ [op] })) s1) .noResult

/-- The tag of `cwait` and `ctest`. -/
def Ctx.waitTag (c : Ctx) : Fin 8 := c.f.sub.toFin

/-- `cwait` (R240). -/
def execCwait (f : Fields) (s : State) :=
  issue .cwait f s fun c =>
    let k := c.aLevel
    if c.g.tags[c.waitTag] ≤ k.toNat then .done (c.s.acquireAt c.r.die c.r.core .die) .noResult
    else
      .placed (c.withGroup (fun g =>
        let g := g.advance c.run c.next
        { g with status := updLanes g.status c.m (fun _ => .tagHold c.waitTag k) })) .noResult

/-- `ctest` (R240). -/
def execCtest (f : Fields) (s : State) :=
  issue .ctest f s fun c =>
    let hit := decide (c.g.tags[c.waitTag] ≤ c.aLevel.toNat)
    let c1 : Ctx := if hit then { c with s := c.s.acquireAt c.r.die c.r.core .die } else c
    c1.result32 (fun _ => if hit then 1 else 0)

/-- `xform` (R235, R242, R243). -/
def execXform (f : Fields) (s : State) :=
  issue .xform f s fun c =>
    let src := c.g.level64 c.f c.f.sa c.m
    let dst := c.g.level64 c.f c.f.sb c.m
    if src.toNat % 64 ≠ 0 ∨ dst.toNat % 64 ≠ 0 then c.misaligned [src, dst] 64
    else
      match c.breg? with
      | none => c.illegal
      | some b => c.start .die b (.xform c.f.sub (c.f.md.extractLsb' 2 3) (if c.f.sx == .none then 0 else c.cLevel)) src dst 0

/-- `seal` (R121, R235, R248): when nothing keeps it from step 1 of R121, the region is sealed for its own group from the fork on. -/
def execSeal (f : Fields) (s : State) :=
  issue .seal f s fun c =>
    let a := c.g.level64 c.f c.f.sa c.m
    let len := (c.g.level64 c.f c.f.sb c.m).toNat
    let rec_ := if c.f.sx == .none then none else some (c.g.level64 c.f c.f.sx c.m)
    if a.toNat % 4096 ≠ 0 ∨ len % 4096 ≠ 0 then c.misaligned [a] 4096
    else if (rec_.getD 0).toNat % 64 ≠ 0 then c.misaligned [rec_.getD 0] 64
    else if len = 0 then c.illegal
    else
      match c.breg? with
      | none => c.illegal
      | some b =>
        let own := match c.s0.sealCheck c.r.die c.t.asid a len rec_ with | .ok _ => true | .error _ => false
        c.start .home b (.seal rec_ own none) a 0 len

/-- The bytes of an element of a collective (R249). -/
def collSize (md : BitVec 5) : Nat := if md.extractLsb' 2 2 == 1 then 2 else 4

/-- The placements of an expert that merge, in ascending placement number: a departing entry keeps its number (R287, R366). -/
def ReplicaTable.merging (t : ReplicaTable) (e : Nat) : List Placement :=
  (t.departing.filter (fun x => x.1 == e)).foldl (fun ps x => ps.take x.2.2 ++ x.2.1 :: ps.drop x.2.2) (t.places e)

/-- The merge of an expert that the m-th collective of a grid is (R287). -/
def State.mergeOf (s : State) (k : GridKey) (m e : Nat) : Option MergeSet := s.merges.find? (fun x => x.key == k && x.index == m && x.expert == e)

/-- The expert that `n` of a merge names (R287). -/
def expertOf (n : Word) : Nat := n.toNat % 4096

/-- A merge entered at the issue of its first participant: its participants are the placements of the expert at that die's version (R287). -/
def State.enterMerge (s : State) (d : DieId) (k : GridKey) (m : Nat) (kind : BitVec 3) (n : Word) : State :=
  let e := expertOf n
  let ds := ((s.dies[d].replicas.merging e).map Placement.die).eraseDups
  if kind != 3 || (s.mergeOf k m e).isSome || !ds.contains d then s
  else { s with merges := ⟨k, m, e, ds, ds, true⟩ :: s.merges }

/-- `coll` (R235, R249, R287): the operation is the next of its grid on the die. -/
def execColl (f : Fields) (s : State) :=
  issue .coll f s fun c =>
    let src := c.g.level64 c.f c.f.sa c.m
    let dst := c.g.level64 c.f c.f.sb c.m
    let len := c.cLevel.toNat * collSize c.f.md
    if !c.t.inRange || c.t.packed then c.illegal
    else if src.toNat % 16 ≠ 0 ∨ dst.toNat % 16 ≠ 0 ∨ len % 16 ≠ 0 then c.misaligned [src, dst] 16
    else if 268435456 < len then c.illegal
    else
      match c.breg? with
      | none => c.illegal
      | some b =>
        let n := keyGet c.s0.dies[c.r.die].collCount c.t.key 0
        if !c.s0.dies[c.r.die].engineRoom .coll 0 1 then .hold .engine
        else
          .done (((c.fork .home b (.coll c.f.sub c.f.md c.f.imm n none) src dst len).modDie c.r.die
            (fun d => { d with collCount := keySet d.collCount c.t.key (n + 1) })).enterMerge c.r.die c.t.key n c.f.sub c.f.imm) .noResult

/-- `xsend` (R118, R235, R250): it belongs to the interval of the die that its issue falls in. Src must be 16-byte aligned (DESIGN CHOICE,
log 108). -/
def execXsend (f : Fields) (s : State) :=
  issue .xsend f s fun c =>
    let spad := c.f.sub == 1
    let src := c.levelAddr (!spad) c.f.sa
    let t := c.bLevel
    let off := (t.extractLsb' 0 26).toNat
    let len := c.cLevel.toNat
    if src.toNat % 16 ≠ 0 then c.misaligned [src] 16
    else if !c.t.inRange || c.t.packed || t.getLsbD 31 || off % 16 != 0 || len % 16 != 0 || decide (67108864 < off + len)
        || (spad && c.t.desc.octets == 0) then c.illegal
    else
      let s1 := c.s.releaseBy c.r .die
      let op := c.engineOp s1 (.xsend spad (t.extractLsb' 26 5).toFin (keyGet c.s0.dies[c.r.die].intervals c.t.key 0)) .interval src
        (BitVec.ofNat 64 off) len
      if c.blockedOn (c.engineOctets op) then c.waitOctets (c.engineOctets op)
      else if !c.s0.dies[c.r.die].engineRoom .caravan c.cls 1 then .hold .engine
      else
        .done ({ s1 with uid := s1.uid + 1 }.modDie c.r.die (fun d => { d with engines := d.engines ++ [op] })) .noResult

/-- The octet of a bank when the team has allocated it (R83). -/
def Core.ownedOctet (k : Core) (t : Team) (bank : Nat) : Option (Fin 8) :=
  if h : bank < 64 then
    let o : Fin 8 := ⟨bank / 8, by omega⟩
    if k.octets[o].owner == some t.uid then some o else none
  else none

/-- The bytes of a weight image (R91). -/
def imageBytes : Nat := 17408

/-- The access fault of a `wload` source (R241, R290, Table D-12): READ, then NOT-RESIDENT, then IMAGE-CROSS. -/
def Ctx.wloadFault (c : Ctx) (src : DWord) : Option AccessDetail :=
  match c.s0.translate c.r.die (some c.r.core) c.t.asid src .wload with
  | .error e => some e
  | .ok _ => if src.toNat / 2097152 ≠ (src.toNat + 17407) / 2097152 then some .imageCross else none

/-- `wload` (R69, R235, R241, R265, R290): its place in the core's bank order is that of its issue, also while Caravan's queue has no room for
it. -/
def execWload (f : Fields) (s : State) :=
  issue .wload f s fun c =>
    let src := c.g.level64 c.f c.f.sa c.m
    let k := c.bLevel.toNat
    if src.toNat % 64 ≠ 0 then c.misaligned [src] 64
    else
      match (c.s0.core c.r.die c.r.core).ownedOctet c.t k, c.breg? with
      | some o, some b =>
        match c.wloadFault src with
        | some e => c.trap 0x21 e.code src
        | none =>
          let bank : Fin 64 := Fin.ofNat 64 k
          let room := c.s0.dies[c.r.die].engineRoom .caravan c.cls 1
          let enter := fun (s : State) (id : Nat) => s.modCore c.r.die c.r.core (fun k => { k with seq := k.seq ++ [seqItem id (.wload bank)] })
          let fork := fun (id : Nat) => Ctx.forkAs { c with s := c.walked [src] } id .die b (.wload bank) src 0 imageBytes
          match c.g.hold with
          | some (.wload id) => if room then .done (fork id) .noResult else .hold (.wload id)
          | _ =>
            if c.blockedOn [o] then c.waitOctets [o]
            else if room then .done (enter (fork c.s.uid) c.s.uid) .noResult
            else .holdWith (enter { c.s0 with uid := c.s0.uid + 1 } c.s0.uid) (.wload c.s0.uid)
      | _, _ => c.illegal

end Sys2Proof.Machine
end

