-- ==== Sys2Proof/Machine/BankOps.lean ====
section
/-! DEFINITION. Row 0xB: octets, state-table slots, feeds, bank multiplies, drains and queues (spec 03 R83 to R91, spec 10 R251 to
R275). -/

namespace Sys2Proof.Machine

/-! ## Checks (R252) -/

/-- The mode of an octet that a team has allocated, none for another (R83). -/
def Core.octetMode (k : Core) (t : Team) (o : Nat) : Option OctMode :=
  if h : o < 8 then (if k.octets[o].owner == some t.uid then some k.octets[o].mode else none) else none

/-- The trap of an instruction that names an octet for compute (R252). -/
def Ctx.octetFault (c : Ctx) (o : Nat) : Option Act :=
  match (c.s0.core c.r.die c.r.core).octetMode c.t o with
  | none => some c.illegal
  | some .storage => some (c.trap 0x23 0 0)
  | some .compute => none

/-- The bank of IMM32 (R160). -/
def Ctx.accBank (c : Ctx) : Fin 64 := Fin.ofNat 64 (c.f.imm.extractLsb' 0 6).toNat

/-- The row of an accumulator operand. -/
def rowOf (x : Operand) : Fin 8 :=
  match x with
  | .acc r => r.toFin
  | _ => 0

/-! ## Octets (R87, R89, R253, R254) -/

/-- A bank read zero throughout; what the array itself is stays (R87, R360). -/
def Bank.cleared (b : Bank) : Bank :=
  { Bank.zero with quarantined := b.quarantined, failed := b.failed, remap := b.remap, badColumns := b.badColumns }

/-- An octet allocated to a team in a mode, zeroed, its slots invalid and its feed empty (R87, R253). -/
def Core.allocOctet (k : Core) (uid : Nat) (o : Fin 8) (mode : OctMode) : Core :=
  { k with
    octets := k.octets.set o ⟨some uid, mode, []⟩
    banks := (List.finRange 8).foldl (fun b j => b.set (8 * o.val + j.val) (k.banks[8 * o.val + j.val]'(by omega)).cleared (by omega)) k.banks
    table := (List.finRange 4).foldl (fun t j => t.set (4 * o.val + j.val) ⟨none, false⟩ (by omega)) k.table }

/-- The lowest free position (R86). -/
def Team.freePosition (t : Team) : Option (Fin 8) := (List.finRange 8).find? (fun p => t.position[p] == none)

/-- The banks that an item of bank order reads or writes as images. -/
def SeqKind.banks (x : SeqKind) : List (Fin 64) :=
  match x with
  | .mac op => op.entry.chain
  | .wload b => [b]
  | _ => []

/-- The accumulator rows that an item reads or writes. -/
def SeqKind.rows (x : SeqKind) : List (Fin 64 × Fin 8) :=
  match x with
  | .mac op => op.members.map (fun m => (op.entry.accBank, m.row))
  | .drain _ b r => [(b, r)]
  | .clr b rs => rs.map (fun r => (b, r))
  | .mark b r => [(b, r)]
  | .wload _ => []

/-- Whether an item works on an octet. -/
def SeqKind.inOctet (x : SeqKind) (o : Fin 8) : Bool :=
  x.banks.any (fun b => b.val / 8 == o.val) || x.rows.any (fun r => r.1.val / 8 == o.val)

/-- Whether a flight is of a drain of an octet: until its push it is in flight (R89, R271). -/
def Flight.drainsOctet (x : Flight) (o : Fin 8) : Bool := match x.drain with | some y => y.bank.val / 8 == o.val | none => false

/-- Whether an operation is in flight on an octet of a team (R89). -/
def State.octetBusy (s : State) (d : DieId) (c : CoreId) (t : Team) (o : Fin 8) : Bool :=
  (s.core d c).seq.any (fun x => x.kind.inOctet o) || (s.groupsOf d c t).any (fun p => p.2.flights.any (fun x => x.drainsOctet o))
    || s.dies[d].engines.any (fun x => x.core == c && x.team == t.uid && s.onOctet d t x o)

/-- The octets that an item works on. -/
def SeqKind.octets (x : SeqKind) : List (Fin 8) := (List.finRange 8).filter x.inOctet

/-- The octet of a state-table slot. -/
def slotOctet (n : Nat) : Fin 8 := Fin.ofNat 8 (n / 4)

/-- The octet that A names, when it is reserved for the team. -/
def Ctx.reservedOctet (c : Ctx) : Option (Fin 8) :=
  let a := c.aLevel.toNat
  if h : a < 8 then (if c.t.reserved.contains ⟨a, h⟩ then some ⟨a, h⟩ else none) else none

/-- An octet allocated at a position: the position written to D. -/
def Ctx.allocAt (c : Ctx) (o : Fin 8) (p : Fin 8) : Act :=
  let mode : OctMode := if c.f.sub == 1 then .compute else .storage
  let s1 := (c.s.modCore c.r.die c.r.core (fun k => k.allocOctet c.t.uid o mode)).modTeam c.r.die c.r.core c.t.uid
    (fun t => { t with position := t.position.set p (some o) })
  Ctx.result32 { c with s := s1 } (fun _ => BitVec.ofNat 32 p.val)

/-- `balloc` (R253). -/
def execBalloc (f : Fields) (s : State) :=
  issue .balloc f s fun c =>
    match c.reservedOctet with
    | none => c.illegal
    | some o =>
      match c.t.positionOf o with
      | some p => if c.s0.octetBusy c.r.die c.r.core c.t o then .hold (.octet o) else c.allocAt o p
      | none =>
        match c.t.freePosition with
        | some p => c.allocAt o p
        | none => c.illegal

/-- `bfree` (R254). -/
def execBfree (f : Fields) (s : State) :=
  issue .bfree f s fun c =>
    match c.reservedOctet with
    | none => c.illegal
    | some o =>
      match c.t.positionOf o with
      | none => .done c.s .noResult
      | some p =>
        if c.s0.octetBusy c.r.die c.r.core c.t o then .hold (.octet o)
        else
          .done ((c.s.modCore c.r.die c.r.core (fun k => k.freeOctet o)).modTeam c.r.die c.r.core c.t.uid
            (fun t => { t with position := t.position.set p none })) .noResult

/-! ## State-table slots (R255 to R257) -/

/-- The entry that 64 bytes hold, when no field breaks Table K-64. -/
def parseEntry (bs : List Byte) : Option Entry :=
  let byte := fun n => bytesAt bs n 1
  let n := byte 1
  let i8 := byte 0 == 0x18
  let chain := (List.range n).map (fun j => byte (4 + j))
  let maps := (List.range 8).map (fun j => bytesAt bs (16 + 4 * j) 4)
  if (byte 0 == 0x18 || byte 0 == 0x19) && decide (1 ≤ n) && decide (n ≤ 8) && decide (byte 2 ≤ 63) && byte 3 == 0
      && chain.all (fun b => decide (b ≤ 63)) && chain.eraseDups.length == n
      && (List.range 8).all (fun j => decide (j < n) || byte (4 + j) == 0) && bytesAt bs 12 4 == 0
      && (List.range 8).all (fun j => if j < n then !i8 || decide (maps[j]?.getD 0 < 65536) else maps[j]?.getD 0 == 0)
      && bytesAt bs 48 16 == 0 then
    some ⟨i8, Fin.ofNat 64 (byte 2), chain.map (Fin.ofNat 64), (maps.take n).map (BitVec.ofNat 32)⟩
  else none

/-- A slot with its entry and poison bit replaced. -/
def Core.setSlot (k : Core) (n : Fin 32) (x : TableSlot) : Core := { k with table := k.table.set n x }

/-- The address of the entry that `bcfg` loads (R257). -/
def Ctx.entryAddr (c : Ctx) : DWord :=
  if c.f.sub == 1 then ((c.g.level32 c.f c.f.sb c.m) + c.f.imm).setWidth 64
  else c.g.level64 c.f c.f.sb c.m + c.f.imm.signExtend 64

/-- The bytes of the entry with the state after the read, or the trap (R224, R257). -/
def Ctx.readEntry (c : Ctx) : Except Act (State × List Byte) :=
  let a := c.entryAddr
  if a.toNat % 64 ≠ 0 then .error (c.trap 0x20 0 a)
  else if c.f.sub == 1 then
    let k := c.s.core c.r.die c.r.core
    match (span a.toNat 64).findSome? (k.spadFault c.t) with
    | some e => .error (c.trap e 0 a)
    | none => if k.spadPoisoned c.t a.toNat 64 then .error (c.trap 0x30 0x01 a) else .ok (c.s, k.spadRead c.t a.toNat 64)
  else
    match c.translate a .read with
    | .error e => .error (c.trap 0x21 e.code a)
    | .ok x =>
      match c.readBytes a x 64 with
      | (s1, some bs) => .ok (s1, bs)
      | (_, none) => .error (c.trap 0x30 0x01 a)

/-- Whether an instruction that needs no time on an octet has to take its place behind an operation that waits for it (R265). -/
def Ctx.queuedOn (c : Ctx) (os : List (Fin 8)) : Bool := os.any (c.s0.octetQueue c.r.die c.r.core c.t c.busyPlace).contains

/-- `bcfg` (R257, R265). -/
def execBcfg (f : Fields) (s : State) :=
  issue .bcfg f s fun c =>
    let a := c.aLevel.toNat
    if 31 < a then c.illegal
    else
      match c.octetFault (a / 4) with
      | some e => e
      | none =>
        if c.queuedOn [slotOctet a] then c.waitOctets [slotOctet a] else
        match c.readEntry with
        | .error e => e
        | .ok (s1, bs) =>
          match parseEntry bs with
          | none => c.illegal
          | some x => .done (s1.modCore c.r.die c.r.core (fun k => k.setSlot (Fin.ofNat 32 a) ⟨some x, false⟩)) .noResult

/-! ## Feeds (R258, R259) -/

/-- The octets that MCAST names. -/
def mcastOctets (x : Byte) : List (Fin 8) := (List.finRange 8).filter (fun o => x.getLsbD o.val)

/-- The row bytes of `bfeed` (Table K-65). -/
def Ctx.rowBytes (c : Ctx) : List Byte :=
  let n := if c.f.sub.getLsbD 0 then 256 else 128
  match c.f.sa with
  | .t k =>
    let q := (if c.f.sx == .none then 0 else c.cLevel.toNat) % (if c.f.sub.getLsbD 0 then 4 else 8)
    (List.range n).map (fun b => (c.g.tile k)[n * q + b]?.getD 0)
  | .v k =>
    (List.range n).map (fun b =>
      let i : Lane := Fin.ofNat 32 (b % 128 / 4)
      if inMask c.m i then (c.g.vreg (k + BitVec.ofNat 8 (b / 128)) i).extractLsb' (8 * (b % 4)) 8 else 0)
  | _ => List.replicate n 0

/-- The row that `bfeed` pushes (R259). -/
def Ctx.feedRow (c : Ctx) : ActRow := ⟨c.rowBytes, leBytes 8 (c.g.level64 c.f c.f.sb c.m).toNat⟩

/-- A row accepted by the feed of an octet (R258). -/
def Core.pushRow (k : Core) (slot : SlotId) (row : ActRow) (o : Fin 8) : Core :=
  { k with octets := k.octets.set o { k.octets[o] with feed := k.octets[o].feed ++ [⟨slot, row⟩] } }

/-- Whether the feed of an octet takes a row (R259). -/
def Core.feedRoom (k : Core) (o : Fin 8) : Bool := decide (k.octets[o].feed.length < 64)

/-- A row pushed to those of some octets that have room. -/
def Core.pushRows (k : Core) (slot : SlotId) (row : ActRow) (os : List (Fin 8)) : Core :=
  (os.filter k.feedRoom).foldl (fun k o => k.pushRow slot row o) k

/-- `bfeed` (R259): it holds while a named feed is full. -/
def execBfeed (f : Fields) (s : State) :=
  issue .bfeed f s fun c =>
    let os := mcastOctets c.f.mcast
    match os.findSome? (fun o => c.octetFault o.val) with
    | some e => e
    | none =>
      let k := c.s0.core c.r.die c.r.core
      let s1 := c.s.modCore c.r.die c.r.core (fun k => k.pushRows c.r.slot c.feedRow os)
      let rest := os.filter (fun o => !k.feedRoom o)
      if rest.isEmpty then .done s1 .noResult else .holdWith s1 (.feed rest c.feedRow)

/-! ## Bank order (R265, R266) -/

/-- Whether two items meet on an accumulator row. -/
def SeqKind.meetsRows (x y : SeqKind) : Bool := x.rows.any y.rows.contains
/-- Whether two items meet on the image of a bank. -/
def SeqKind.meetsBanks (x y : SeqKind) : Bool := x.banks.any y.banks.contains

/-- The items before one in bank order. -/
def Core.before (k : Core) (id : Nat) : List SeqItem := k.seq.takeWhile (fun x => x.id != id)

/-- Whether an earlier item of bank order holds one back on a row. -/
def Core.rowsBlocked (k : Core) (x : SeqItem) : Bool := (k.before x.id).any (fun y => y.kind.meetsRows x.kind)
/-- Whether an earlier item of bank order holds one back on the image of a bank (R263, R266). -/
def Core.banksBlocked (k : Core) (x : SeqItem) : Bool := (k.before x.id).any (fun y => y.kind.meetsBanks x.kind)

/-- Rows of a bank set to +0 with their poison clear (R272). -/
def Bank.clearRows (b : Bank) (rs : List (Fin 8)) : Bank :=
  { b with
    acc := Vector.ofFn fun r => if rs.contains r then Vector.replicate 128 0 else b.acc[r]
    accPoison := Vector.ofFn fun r => if rs.contains r then none else b.accPoison[r] }

/-- A change of a bank. -/
def Core.modBank (k : Core) (b : Fin 64) (f : Bank → Bank) : Core := { k with banks := k.banks.set b (f k.banks[b]) }

/-- A row of a bank marked poisoned; the first origin stays (R267). -/
def Bank.poisonRow (b : Bank) (r : Fin 8) (origin : Byte) : Bank :=
  { b with accPoison := b.accPoison.set r (match b.accPoison[r] with | some p => some p | none => some origin) }

/-- What an item that needs no time of its own does to its bank: a clear, or the mark of a metadata-poison fault (R268, R272). -/
def SeqKind.atOnce (x : SeqKind) : Option (Fin 64 × (Bank → Bank)) :=
  match x with
  | .clr b rs => some (b, fun y => y.clearRows rs)
  | .mark b r => some (b, fun y => y.poisonRow r 0x05)
  | _ => none

/-- The clears and marks that nothing holds back take effect (R265, R268, R272). -/
def Core.settleClears (k : Core) : Core :=
  k.seq.foldl (fun acc x =>
    match x.kind.atOnce with
    | some (b, f) => if acc.seq.any (fun y => y.kind.meetsRows x.kind) then { acc with seq := acc.seq ++ [x] } else acc.modBank b f
    | none => { acc with seq := acc.seq ++ [x] }) { k with seq := [] }

/-- An item put at the end of bank order. -/
def Core.enqueue (k : Core) (x : SeqItem) : Core := Core.settleClears { k with seq := k.seq ++ [x] }

/-- An item that has taken effect leaves bank order. -/
def Core.finishItem (k : Core) (id : Nat) : Core := Core.settleClears { k with seq := k.seq.filter (fun x => x.id != id) }

/-! ## Multiplying (R260, R264, R268) -/

/-- The entry of a valid slot of the team, with its poison bit (R260, check 2). -/
def Ctx.slotEntry (c : Ctx) (slot : Nat) : Except Act (Entry × Bool) :=
  if h : slot < 32 then
    match c.octetFault (slot / 4) with
    | some e => .error e
    | none =>
      let x := (c.s0.core c.r.die c.r.core).table[slot]
      match x.entry with
      | some e => .ok (e, x.poison)
      | none => .error c.illegal
  else .error c.illegal

/-- The chain banks of an entry that lie in the octet of its j-th one, before it (R260, check 5). -/
def Entry.rowAt (e : Entry) (j : Nat) : Nat :=
  ((e.chain.take j).filter (fun b => some (b.val / 8) == (e.chain[j]?).map (fun x => x.val / 8))).length

/-- The rows of a group's feed queue on an octet. -/
def Core.feedOf (k : Core) (slot : SlotId) (o : Fin 8) : List ActRow :=
  (k.octets[o].feed.filter (fun x => x.slot == slot)).map FeedRow.row

/-- The octet of a bank. -/
def octetOf (b : Fin 64) : Fin 8 := ⟨b.val / 8, by omega⟩

/-- The rows that the chain banks take for a group, none when a feed queue is short. -/
def Core.takeRows (k : Core) (slot : SlotId) (e : Entry) : Option (List ActRow) :=
  let xs := e.chain.zipIdx.map (fun p => (k.feedOf slot (octetOf p.1))[e.rowAt p.2]?)
  if xs.all Option.isSome then some (xs.filterMap id) else none

/-- The first n rows of a group leave a feed. -/
def dropFeed (slot : SlotId) (n : Nat) (xs : List FeedRow) : List FeedRow :=
  match xs with
  | [] => []
  | x :: rest => if x.slot == slot then (if n = 0 then x :: rest else dropFeed slot (n - 1) rest) else x :: dropFeed slot n rest

/-- The rows that a group's operation consumes leave the feed queues (R260). -/
def Core.consumeRows (k : Core) (slot : SlotId) (e : Entry) : Core :=
  { k with octets := Vector.ofFn fun o =>
      { k.octets[o] with feed := dropFeed slot (e.chain.filter (fun b => octetOf b == o)).length k.octets[o].feed } }

/-- The multiplies of bank order that a test accepts. -/
def Core.macs (k : Core) (p : SeqItem → Bool) : Nat := (k.seq.filter (fun x => p x && match x.kind with | .mac _ => true | _ => false)).length

/-- Whether the sequencer accepts an operation as it issues (R260): fewer than 32 are in it, and none issued before waits for it. -/
def Core.macRoom (k : Core) : Bool := k.seq.all SeqItem.accepted && decide (k.macs SeqItem.accepted < 32)

/-- Whether the sequencer accepts the first operation that waits (R260). -/
def Core.acceptRoom (k : Core) : Bool := decide (k.macs SeqItem.accepted < 32)

/-- The first operation of bank order that waits for the sequencer. -/
def Core.nextAccepted (k : Core) : Option SeqItem := k.seq.find? (fun x => !x.accepted)

/-- The format that governs the counters of an operation's chain once it is accepted (R273). -/
def BankOp.noteFormat (op : BankOp) (k : Core) : Core :=
  op.entry.chain.foldl (fun k b => k.modBank b (fun x => { x with lastI8 := op.entry.i8 })) k

/-- An operation accepted as it issues: its place in bank order, and the format of its chain (R260, R265, R273). -/
def State.acceptMac (s : State) (d : DieId) (c : CoreId) (op : BankOp) : State :=
  { s with uid := s.uid + 1 }.modCore d c (fun k => op.noteFormat { k with seq := k.seq ++ [seqItem s.uid (.mac op)] })

/-- An operation that has issued and that the sequencer has yet to accept: its place in bank order (R260, R265). -/
def State.queueMac (s : State) (d : DieId) (c : CoreId) (op : BankOp) : State :=
  { s with uid := s.uid + 1 }.modCore d c (fun k => { k with seq := k.seq ++ [{ seqItem s.uid (.mac op) with accepted := false }] })

/-- An operation that waited accepted (R260). -/
def Core.acceptItem (k : Core) (id : Nat) (op : BankOp) : Core :=
  op.noteFormat { k with seq := k.seq.map (fun x => if x.id == id then { x with accepted := true } else x) }

/-- The target row of an operation with a poisoned slot marked METADATA in its place in bank order, when the team has its octet for compute
(R265, R268). -/
def State.poisonTarget (s : State) (d : DieId) (c : CoreId) (t : Team) (b : Fin 64) (row : Fin 8) : State :=
  match (s.core d c).octetMode t (b.val / 8) with
  | some .compute => { s with uid := s.uid + 1 }.modCore d c (fun k => k.enqueue (seqItem s.uid (.mark b row)))
  | _ => s

/-- Checks 4 and 5 of R260: the chain, ACCBANK, and the rows when the group brings one. -/
def Ctx.chainCheck (c : Ctx) (e : Entry) (bank : Fin 64) (withRow : Bool) : Except Act (List ActRow) :=
  match e.chain.findSome? (fun b => c.octetFault (b.val / 8)) with
  | some x => .error x
  | none =>
    if bank != e.accBank then .error c.illegal
    else if !withRow then .ok []
    else
      match (c.s0.core c.r.die c.r.core).takeRows c.r.slot e with
      | some rows => .ok rows
      | none => .error (c.trap 0x09 0 0)

/-- A multiply of one group (R260). -/
def Ctx.bmacOne (c : Ctx) (sparse : Bool) : Act :=
  let bank := c.accBank
  let row := rowOf c.f.dst
  match c.octetFault (bank.val / 8) with
  | some e => e
  | none =>
    match c.slotEntry c.aLevel.toNat with
    | .error e => e
    | .ok (_, true) =>
      let e := match (c.s0.core c.r.die c.r.core).table[c.aLevel.toNat]? with | some ⟨some e, _⟩ => e.accBank | _ => bank
      .trap (c.s0.poisonTarget c.r.die c.r.core c.t e row) (c.info 0x31 0 0 0)
    | .ok (e, false) =>
      match c.chainCheck e bank true with
      | .error x => x
      | .ok rows =>
        let op : BankOp := ⟨e, sparse, [⟨row, rows⟩], c.t.uid⟩
        let os := slotOctet c.aLevel.toNat :: SeqKind.octets (.mac op)
        if c.blockedOn os then c.waitOctets os
        else if !(c.s0.core c.r.die c.r.core).macRoom then .holdWith (c.s.queueMac c.r.die c.r.core op) (.bank c.s.uid (!c.f.ru))
        else
          let s1 := if c.f.ru then c.s else c.s.modCore c.r.die c.r.core (fun k => k.consumeRows c.r.slot e)
          .done (s1.acceptMac c.r.die c.r.core op) .noResult

/-! ### Gangs (R264) -/

/-- The lanes at the rendezvous latch go on. -/
def Group.passGang (g : Group) (next : DWord) : Group :=
  let m := g.gangMask
  { g with pcs := updLanes g.pcs m (fun _ => next), status := updLanes g.status m (fun _ => .run) }

/-- The members of a gang whose operation has been accepted: the rows of those that do not reuse them are consumed, and every member is
released. -/
def State.releaseGang (s : State) (d : DieId) (c : CoreId) (uid : Nat) (l : Latch) (op : BankOp) : State :=
  let s1 := (s.modCore d c (fun k => l.arrivals.foldl (fun k a => if a.withRow && !a.reuse then k.consumeRows a.slot op.entry else k) k)).modTeam
    d c uid (fun t => { t with latch := none })
  l.arrivals.foldl (fun u a => u.rouse ⟨d, c, a.slot⟩ (fun g => g.passGang a.next)) s1

/-- The arrivals of a latch in ascending GROUPIX. -/
def Latch.members (l : Latch) : List GangArrival := l.arrivals.insertionSort (fun a b => a.gix ≤ b.gix)

/-- The operation of a complete latch. -/
def State.gangOp (s : State) (d : DieId) (c : CoreId) (uid : Nat) (l : Latch) (e : Entry) (sparse : Bool) : BankOp :=
  ⟨e, sparse, (l.members.filter GangArrival.withRow).map (fun a => ⟨a.row, ((s.core d c).takeRows a.slot e).getD []⟩), uid⟩

/-- The lanes of the completing run at the latch: they wait there with the others that arrived before them. -/
def Group.atLatch (g : Group) (w : GroupWide) : Group :=
  let g := g.withoutGw w.pc
  { g with status := updLanes g.status w.arrived (fun _ => .gangHold) }

/-- The completing arrival (R264): the latch with every group there. -/
def Ctx.completeGang (c : Ctx) (w : GroupWide) (l : Latch) (e : Entry) (poison sparse : Bool) (slot : Nat) : Act :=
  let others := { l with arrivals := l.arrivals.filter (fun a => a.slot != c.r.slot) }
  let t : Team := { c.t with latch := some others }
  if l.arrivals.any (fun a => a.table != slot || a.bank != c.accBank.val) then
    .trap (c.s0.breakLatch c.r.die c.r.core t 0x02) (c.info 0x02 0 0 0)
  else if poison then
    let s1 := l.arrivals.foldl (fun s a => s.poisonTarget c.r.die c.r.core c.t e.accBank a.row) c.s0
    .trap (s1.breakLatch c.r.die c.r.core t 0x31) (c.info 0x31 0 0 0)
  else
    let op := c.s0.gangOp c.r.die c.r.core c.t.uid l e sparse
    let s1 := c.withGroup (fun g => g.atLatch w)
    let os := slotOctet slot :: SeqKind.octets (.mac op)
    if c.blockedOn os then c.waitOctets os
    else if (c.s0.core c.r.die c.r.core).macRoom then
      .placed ((s1.acceptMac c.r.die c.r.core op).releaseGang c.r.die c.r.core c.t.uid l op) .noResult
    else
      .placed ((s1.queueMac c.r.die c.r.core op).modTeam c.r.die c.r.core c.t.uid
        (fun t => { t with latch := some { l with pending := some s1.uid } })) .noResult

/-- The groups of a team's gang. -/
def Ctx.gangSlots (c : Ctx) : List SlotId := c.t.slots.zipIdx.filterMap (fun p => if c.t.gang.getLsbD p.2 then some p.1 else none)

/-- Whether a group of the gang has ended. -/
def Ctx.gangEnded (c : Ctx) : Bool :=
  c.gangSlots.any (fun i => match c.s0.group? ⟨c.r.die, c.r.core, i⟩ with | some g => g.ended | none => true)

/-- The slot value of an arriving group: that of its lowest contributor, or of its lowest named lane. -/
def GroupWide.slotValue (w : GroupWide) : Nat :=
  match lowest (if w.contrib == 0 then w.mask else w.contrib) with
  | some i => (w.srcB[i]).toNat
  | none => 0

/-- A group whose named lanes have all arrived, at the rendezvous latch (R264); the exited-member trap is of the lanes that wait there (R289). -/
def Ctx.arriveGang (c : Ctx) (sparse : Bool) (w : GroupWide) : Act :=
  let slot := w.slotValue
  let withRow := w.contrib != 0
  if !c.t.gang.getLsbD c.g.gix.val || (match c.t.latch with | some l => l.pc != c.pc | none => false) then c.illegal
  else
    match c.octetFault (c.accBank.val / 8), c.slotEntry slot with
    | some e, _ => e
    | none, .error e => e
    | none, .ok (e, poison) =>
      match c.chainCheck e c.accBank withRow with
      | .error x => x
      | .ok _ =>
        if c.gangEnded then .trap (c.s0.breakLatch c.r.die c.r.core c.t 0x08) { c.info 0x08 0 0 0 with mask := w.arrived }
        else
          let a : GangArrival := ⟨c.r.slot, c.g.gix.val, withRow, slot, c.accBank.val, rowOf c.f.dst, c.f.ru, c.next⟩
          let l : Latch := ⟨c.pc, (match c.t.latch with | some l => l.arrivals | none => []) ++ [a], none⟩
          if c.gangSlots.all (fun i => l.arrivals.any (fun a => a.slot == i)) then c.completeGang w l e poison sparse slot
          else
            .placed ((c.withGroup (fun g => g.atLatch w)).modTeam c.r.die c.r.core c.t.uid (fun t => { t with latch := some l }))
              .noResult

/-- A multiply of a gang (R264). -/
def Ctx.bmacGang (c : Ctx) (sparse : Bool) : Act :=
  match c.arrive (c.g.read32 c.f c.f.sx 0) (fun _ => 0) c.a32 with
  | .error act => act
  | .ok w => if w.complete then c.arriveGang sparse w else c.waitAt w

/-- `bmac` (R260, R264). -/
def execBmac (f : Fields) (s : State) :=
  issueWith .bmac (f.sub == 1) f s fun c => if c.f.sub == 1 then c.bmacGang false else c.bmacOne false
/-- `bmacs` (R260, R264). -/
def execBmacs (f : Fields) (s : State) :=
  issueWith .bmacs (f.sub == 1) f s fun c => if c.f.sub == 1 then c.bmacGang true else c.bmacOne true

/-! ## Drains and clears (R271, R272) -/

/-- The words that a drain yields to a lane (R271). -/
def Ctx.drainWords (c : Ctx) : Nat := drainW c.f.sub

/-- The quarter of a tile that a drain writes. -/
def Ctx.drainQuarter (c : Ctx) : Nat := if c.f.sx == .none then 0 else c.cLevel.toNat % 8

/-- `bdrain` (R271): in flight until it has read its row in bank order. -/
def execBdrain (f : Fields) (s : State) :=
  issue .bdrain f s fun c =>
    let bank := c.accBank
    let row := rowOf c.f.sa
    let w := c.drainWords
    match c.octetFault (bank.val / 8) with
    | some e => e
    | none =>
      if (match c.f.dst with
          | .q n => decide ((c.g.queue n).depth < w)
          | .t _ => decide (1024 < 128 * w * (c.drainQuarter + 1))
          | _ => false) then c.illegal
      else if c.blockedOn [octetOf bank] then c.waitOctets [octetOf bank]
      else
        let s1 := c.s.modCore c.r.die c.r.core (fun k => { k with seq := k.seq ++ [seqItem c.s0.uid (.drain c.r bank row)] })
        c.launchFlight s1 { c.flight false w 0 0 (lanes fun _ => 0) with drain := some ⟨bank, row, c.f.sub, c.drainQuarter, none⟩ }

/-- `bclr` (R265, R272). -/
def execBclr (f : Fields) (s : State) :=
  issue .bclr f s fun c =>
    let bank := c.accBank
    let row := rowOf c.f.dst
    match c.octetFault (bank.val / 8) with
    | some e => e
    | none =>
      if c.f.sub == 1 && row != 0 then c.illegal
      else
        let rs := if c.f.sub == 1 then List.finRange 8 else [row]
        if c.queuedOn [octetOf bank] then c.waitOctets [octetOf bank]
        else .done ({ c.s with uid := c.s.uid + 1 }.modCore c.r.die c.r.core (fun k => k.enqueue (seqItem c.s.uid (.clr bank rs)))) .noResult

/-! ## Counters (R273) -/

/-- A counter of a bank (Table K-66). -/
def Bank.counter (b : Bank) (n col : Nat) : Word :=
  match n with
  | 0 => (b.idle[col]?).getD 0
  | 1 => b.busy
  | 2 => b.lim
  | _ => b.skip

/-- A counter of a bank set to zero. -/
def Bank.clearCounter (b : Bank) (n col : Nat) : Bank :=
  match n with
  | 0 => { b with idle := b.idle.setIfInBounds col 0 }
  | 1 => { b with busy := 0 }
  | 2 => { b with lim := 0 }
  | _ => { b with skip := 0 }

/-- `bstat` (R273). -/
def execBstat (f : Fields) (s : State) :=
  issue .bstat f s fun c =>
    let a := c.aLevel.toNat
    let n := (c.f.sub.extractLsb' 0 2).toNat
    let col := if n = 0 ∧ c.f.sb ≠ .none then c.bLevel.toNat else 0
    match c.octetFault (a / 8) with
    | some e => e
    | none =>
      let bank : Fin 64 := Fin.ofNat 64 a
      let b := (c.s0.core c.r.die c.r.core).banks[bank]
      if (if b.lastI8 then 1 else 3) < col then c.illegal
      else
        let s1 := if c.f.sub.getLsbD 2 then c.s.modCore c.r.die c.r.core (fun k => k.modBank bank (fun x => x.clearCounter n col)) else c.s
        Ctx.result32 { c with s := s1 } (fun _ => b.counter n col)

/-! ## Queues (R80, R274, R275) -/

/-- The queue that a field names. -/
def queueNo (x : Operand) : BitVec 4 :=
  match x with
  | .q n => n
  | _ => 0

/-- The depths of all queues of a group, with one of them changed. -/
def Group.depthWith (g : Group) (n : BitVec 4) (depth : Nat) : Nat :=
  ((List.finRange 16).map (fun k => if k == n.toFin then depth else (g.queues[k]).depth)).foldl (· + ·) 0

/-- `qcfg` (R274). -/
def execQcfg (f : Fields) (s : State) :=
  issue .qcfg f s fun c =>
    let n := queueNo c.f.sa
    let a := c.bLevel.toNat
    let gran := (c.g.depthWith n a + 7) / 8
    if 16 < a || !(c.g.queue n).items.isEmpty || c.g.drainInto n || c.t.dispatcher || decide (c.g.budget ≤ gran) then c.illegal
    else
      .done (c.withGroup (fun g => (g.setQ n ⟨a, [], none⟩).clearAbove (g.budget - gran))) .noResult

/-- The entries that drains in flight will push into a queue (R275). -/
def Group.pendingInto (g : Group) (n : BitVec 4) : Nat :=
  ((g.flights.filter (fun x => x.drain.isSome && x.dst == .q n)).map Flight.words).foldl (· + ·) 0

/-- The word of `qlen` (R275). -/
def Group.queueWord (g : Group) (n : BitVec 4) : Word :=
  let q := g.queue n
  if q.depth = 0 then 0
  else BitVec.ofNat 32 (q.taken % 32 + 256 * (q.depth % 32) + 65536 * (g.pendingInto n % 32))

/-- `qlen` (R275). -/
def execQlen (f : Fields) (s : State) := issue .qlen f s fun c => c.result32 (fun _ => c.g.queueWord (queueNo c.f.sa))

/-- `qdrain` (R275). -/
def execQdrain (f : Fields) (s : State) :=
  issue .qdrain f s fun c =>
    let n := queueNo c.f.sa
    let q := c.g.queue n
    if q.depth = 0 then c.illegal
    else if c.g.drainInto n then .hold .drains
    else
      let k := if c.f.sb == .none then q.items.length else c.bLevel.toNat
      .done (c.withGroup (fun g => g.setQ n { q with items := (g.queue n).items.drop k })) .noResult

end Sys2Proof.Machine
end

