-- ==== Sys2Proof/Machine/CoreEvents.lean ====
section
/-! DEFINITION. Events of a group: sleep, fences, supersteps, packets sent, loads and atomics that return, trap entry, yield,
dormancy, lease windows and promotion (spec 01 R44, spec 02 R57, R61, spec 04 R112, R119, R120, spec 08 R201, R203, R211, spec 09
R226, R388, spec 18 R347). An event whose conditions do not hold does nothing. -/

namespace Sys2Proof.Machine

/-- What an event gives. -/
abbrev EventResult := Host.Outcome State Fault Refusal

/-- A request to the management controller that minimal mode does not serve gets an error response; otherwise the effect (R376, R379). -/
def State.unlessMinimal (s : State) (x : EventResult) : EventResult :=
  if s.boot.minimal then .next { s with served := s.served ++ [none] } else x

/-- What happens outside minimal mode alone: in it the mailboxes, the Erg dies and their links are unpowered, and firmware does not run (R376). -/
def State.whenAwake (s : State) (x : EventResult) : EventResult := if s.boot.minimal then .next s else x

/-- What holds the group in a slot as a whole. -/
def State.holdOf (s : State) (r : GRef) : Option Hold := (s.group? r).bind Group.hold

/-! ## Sleep and yield (R201, R203) -/

/-- SLEEP_EXPIRY (R203). -/
def execSleepExpiry (r : GRef) (lane : Lane) (s : State) : EventResult :=
  match s.group? r with
  | none => .next s
  | some g =>
    match g.status[lane] with
    | .asleep wake => if wake ≤ s.now then .next (s.rouse r (fun g => { g with status := g.status.set lane .run })) else .next s
    | _ => .next s

/-- The time since which an eligible group has been eligible: its issue or what made it eligible, and the end of a wait that time alone
ends (R44, R66, R201). -/
def Sched.since (x : Sched) : Nat :=
  max (max x.eligibleSince x.notBefore) (match x.yieldAt with | some t => if x.yieldFor.isEmpty then 0 else t + 64 | none => 0)

/-- YIELD_EXPIRY (R201): the wait ended 64 cycles after the `yield`. -/
def execYieldExpiry (r : GRef) (s : State) : EventResult :=
  match s.group? r with
  | none => .next s
  | some g =>
    match g.sched.yieldAt with
    | some t => if t + 64 ≤ s.now then .next (s.setGroup r { g with sched := { g.sched with yieldAt := none, yieldFor := [], eligibleSince := g.sched.since } }) else .next s
    | none => .next s

/-! ## Fences and packets (R112, R210, R389) -/

/-- FENCE_COMPLETE (R112): what the group has written or read is performed at the scope's level, and `fence.sc` acquires there. -/
def execFenceComplete (r : GRef) (s : State) : EventResult :=
  match s.holdOf r with
  | some (.fence scope sc) =>
    let t := s.releaseBy r (scopeLevel scope)
    .next ((if sc then t.acquireAt r.die r.core (scopeLevel scope) else t).finishHold r .noResult)
  | _ => .next s

/-- The address space of the team of a group. -/
def State.asidOf (s : State) (r : GRef) : BitVec 12 :=
  match s.group? r with
  | some g => (match s.team? r.die r.core g.team with | some t => t.asid | none => 0)
  | none => 0

/-- PKSEND_ACCEPTED (R217, R389): the waiting packets are accepted in order while there is room. -/
def execPksendAccepted (r : GRef) (s : State) : EventResult :=
  match s.holdOf r with
  | some (.pksend todo absent members f) =>
    let p := s.sendAll r.die (s.asidOf r) todo
    if p.2.isEmpty then
      .next ((p.1.modGroup r (fun g => g.write32 f.dst members (sentCode absent))).finishHold r (slot32 f members (sentCode absent)))
    else .next (p.1.modGroup r (fun g => { g with hold := some (.pksend p.2 absent members f) }))
  | _ => .next s

/-! ## Supersteps (R119, R120, R211) -/

/-- A group that has arrived at `sstep`: every lane that is not exited is held there. -/
def Group.atStep (g : Group) : Bool := g.ended || g.status.all (fun st => st == .exited || st == .sstepHold)

/-- Whether a team counts for the superstep set of a grid. -/
def Team.inStep (t : Team) (k : GridKey) : Bool := t.key == k && t.inRange && !t.packed

/-- The resident teams of a superstep set on a die, each with whether it has arrived. -/
def State.stepResident (s : State) (d : DieId) (k : GridKey) : List (Nat × Bool) :=
  allCores.flatMap (fun c => ((s.core d c).teams.filter (fun t => t.inStep k)).map (fun t =>
    (t.teamIx.toNat, !t.slots.isEmpty && (s.groupsOf d c t).all (fun p => p.2.atStep))))

/-- All teams of a superstep set on a die: resident, saved and waiting; one saved before its first placement has not arrived. -/
def State.stepTeams (s : State) (d : DieId) (k : GridKey) : List (Nat × Bool) :=
  s.stepResident d k
    ++ ((s.dies[d].saved.filter (fun v => v.team.inStep k)).map (fun v => (v.team.teamIx.toNat, !v.groups.isEmpty && v.groups.all (fun p => p.2.atStep))))
    ++ ((s.dies[d].waitList.filter (fun t => t.inStep k)).map (fun t => (t.teamIx.toNat, false)))

/-- Whether a die has arrived at the next `sstep` of a launch: every team of its range is at `sstep` or has ended (R211). -/
def State.stepArrived (s : State) (k : GridKey) (l : Launch) (x : DieId × Nat × Nat) : Bool :=
  let ts := s.stepTeams x.1 k
  ts.all Prod.snd && (List.range x.2.2).all (fun j =>
    l.ended.contains (x.1, x.2.1 + j) || ts.any (fun t => t.1 == x.2.1 + j))

/-- Whether every `xsend` of a launch's interval on a die has been performed (R119). -/
def Die.stepSent (x : Die) (k : GridKey) (step : Nat) : Bool :=
  x.engines.all (fun e =>
    match e.kind with
    | .xsend _ _ n => e.asid != k.asid || e.grid != k.grid || n != step
    | _ => true)

/-- The lanes that a superstep holds go on. -/
def Group.passStep (g : Group) : Group := g.mapStatus (fun _ st => if st == .sstepHold then .run else st)

/-- The participants of a core released, with the fence that `sstep` is for them (R120). -/
def State.passStepOn (s : State) (d : DieId) (c : CoreId) (k : GridKey) : State :=
  let ts := (s.core d c).teams.filter (fun t => t.inStep k)
  if ts.isEmpty then s
  else
    let s1 := (s.releaseTo d c .home).acquireAt d c .home
    ts.foldl (fun u t => (u.groupsOf d c t).foldl (fun v p => v.rouse p.1 Group.passStep) u) s1

/-- Whether a byte lies in the exchange window of a die (R118, R250). -/
def inWindow (d : DieId) (a : Nat) : Bool := decide (Config.xwinPa d ≤ a) && decide (a < Config.xwinPa d + 67108864)

/-- The participants of a die released, the saved ones too: what those wrote, released to L2 by their save, reaches home (R120). Every group of
the die then sees what the interval put into the die's window (R119). -/
def State.passStepDie (s : State) (d : DieId) (k : GridKey) (step : Nat) : State :=
  let s0 := if s.dies[d].saved.any (fun v => v.team.inStep k) then s.l2WriteBack d (fun _ => true) else s
  let s1 := allCores.foldl (fun u c => u.passStepOn d c k) s0
  s1.modDie d (fun x => { x with
    intervals := keySet x.intervals k step
    cores := x.cores.map (fun k => { k with l1 := cellDrop k.l1 (inWindow d) })
    saved := x.saved.map (fun v => if v.team.inStep k then { v with groups := v.groups.map (fun p => (p.1, p.2.passStep)) } else v) })

/-- SSTEP_COMPLETE (R119, R120, R211). -/
def execSstepComplete (asid : Nat) (grid : DWord) (s : State) : EventResult :=
  let k : GridKey := ⟨BitVec.ofNat 12 asid, grid⟩
  match s.launches.find? (fun l => l.asid == k.asid && l.grid == k.grid) with
  | none => .next s
  | some l =>
    if l.ranges.all (fun x => s.stepArrived k l x && s.dies[x.1].stepSent k l.step) && !l.ranges.isEmpty then
      let s1 := l.ranges.foldl (fun u x => u.passStepDie x.1 k (l.step + 1)) s
      .next { s1 with launches := s1.launches.map (fun y => if y.asid == k.asid && y.grid == k.grid then { y with step := y.step + 1 } else y) }
    else .next s

/-! ## Results that return (R226, R292, R388) -/

/-- The lanes whose destination a flight writes: those that are not poisoned; the one lane of a uniform register only when that
lane is not. -/
def Flight.good (x : Flight) : Mask :=
  match x.dst with
  | .u _ => if (match lowest x.mask with | some i => inMask x.poisoned i | none => true) then 0 else x.mask
  | _ => x.mask &&& ~~~x.poisoned

/-- The value placed in the window slot of a flight's issue (R78, R79). -/
def Flight.slot (x : Flight) : WinSlot :=
  match x.dst, lowest x.mask with
  | .u _, some k => .value (lanes fun _ => if x.good == 0 then 0 else (x.vals[k]).setWidth 64)
  | _, _ => .value (lanes fun i => if inMask x.good i then (x.vals[i]).setWidth 64 else 0)

/-- The window slot of an issue that was pending takes a result. -/
def Group.fillSlot (g : Group) (seq : Nat) (x : WinSlot) : Group :=
  { g with window := g.window.map (fun e => if e.seq == seq && e.slot == .pending then { e with slot := x } else e) }

/-- The bytes of a tile from its 16-byte parts. -/
def tileOf (xs : List (BitVec 128)) : Vector Byte 1024 :=
  Vector.ofFn fun (i : Fin 1024) => ((xs[i.val / 16]?).getD 0).extractLsb' (8 * (i.val % 16)) 8

/-- The destination of a flight written; registers that exist no longer take nothing (R204, R226). -/
def Group.landValue (g : Group) (x : Flight) : Group :=
  let m := x.good &&& g.liveMask
  match x.dst with
  | .v n => (List.range x.words).foldl (fun g j =>
      if n.toNat + j < g.vLimit then g.setV (n + BitVec.ofNat 8 j) m (fun i => (x.vals[i]).extractLsb' (32 * j) 32) else g) g
  | .u _ => g.writeWords x.dst x.words x.good (fun i => x.vals[i])
  | .t n => if x.poisoned == 0 then g.setTile n (tileOf x.tileBytes) else g
  | d => g.writeWords d x.words m (fun i => x.vals[i])

/-- The flight that has landed is no longer in flight. -/
def Group.dropFlight (g : Group) (id : Nat) : Group := { g with flights := g.flights.filter (fun y => y.id != id) }

/-- A load or an atomic returns: destinations, the window slot, and the data-poison trap recorded for the poisoned lanes. -/
def Group.land (g : Group) (x : Flight) : Group :=
  let g1 := ((g.landValue x).fillSlot x.seq x.slot).dropFlight x.id
  let bad := x.poisoned &&& g.liveMask
  if bad == 0 || g.ended then g1
  else g1.recordTrap ⟨0x30, 0x01, x.pc, x.len, bad, x.addr, 0, none⟩ x.seq

/-- The flight of a group with a number and of a kind. -/
def Group.flight? (g : Group) (id : Nat) (atomic : Bool) : Option Flight :=
  g.flights.find? (fun x => x.id == id && x.atomic == atomic && x.drain.isNone)

/-- The return of a flight of a kind: of a load that has yet to read after its reading (R109). -/
def State.landFlight (s : State) (r : GRef) (id : Nat) (atomic : Bool) : State :=
  let t := s.readLate r (fun x => x.id == id)
  match (t.group? r).bind (fun g => g.flight? id atomic) with
  | none => s
  | some x => t.rouse r (fun g => g.land x)

/-- LOAD_DATA_RETURN (R226). -/
def execLoadDataReturn (r : GRef) (id : Nat) (s : State) : EventResult := .next (s.landFlight r id false)
/-- ATOMIC_COMPLETION (R388). -/
def execAtomicCompletion (r : GRef) (id : Nat) (s : State) : EventResult := .next (s.landFlight r id true)

/-! ## Trap entry (R347) -/

/-- TRAP_ENTRY (R347): a trap that waited is taken once nothing that the group issued is outstanding. -/
def execTrapEntry (r : GRef) (s : State) : EventResult :=
  match s.group? r with
  | none => .next s
  | some g =>
    match g.pendingTrap with
    | some x => if !s.owes r g && !g.ended then .next (s.takeTrap r x) else .next s
    | none => .next s

/-! ## Dormancy, leases and promotion (R44, R57, R61) -/

/-- Whether a hold of the whole group counts for dormancy (R61). -/
def Hold.dormant (h : Hold) : Bool :=
  match h with
  | .queue | .pop | .drains | .vgrow _ | .launch _ | .pksend _ _ _ _ | .tag => true
  | _ => false

/-- Whether a thread is held at something that counts for dormancy, a superstep as a group-wide operation (R61, R211). -/
def LaneStatus.dormant (x : LaneStatus) : Bool :=
  match x with
  | .run => false
  | _ => true

/-- Whether every lane of a group that is not exited is held at something that counts for dormancy (R61). -/
def Group.allHeld (g : Group) : Bool :=
  (match g.hold with | some h => h.dormant | none => false) || allLanes.all (fun i => (g.status[i]).dormant)

/-- GROUP_DORMANT (R61): since the group's last issue, at least 256 core cycles ago, nothing but holds. -/
def execGroupDormant (r : GRef) (s : State) : EventResult :=
  match s.group? r with
  | none => .next s
  | some g =>
    if g.allHeld && !g.ended && decide (g.sched.lastIssue + 256 ≤ s.now) then
      .next (s.setGroup r { g with sched := { g.sched with dormant := true } })
    else .next s

/-- LEASE_WINDOW_END (R57). -/
def execLeaseWindowEnd (r : GRef) (s : State) : EventResult :=
  match s.group? r with
  | none => .next s
  | some g => if g.lease.measured && decide (4096 ≤ g.lease.accesses) then .next (s.setGroup r { g with lease := g.lease.closeWindow }) else .next s

/-- PRIORITY_PROMOTION (R44). -/
def execPriorityPromotion (r : GRef) (s : State) : EventResult :=
  match s.group? r with
  | none => .next s
  | some g =>
    if s.eligible r && decide (g.sched.since + 4096 ≤ s.now) then
      .next (s.setGroup r { g with sched := { g.sched with promoted := true } })
    else .next s

end Sys2Proof.Machine
end

