-- ==== Sys2Proof/Machine/BankEvents.lean ====
section
/-! DEFINITION. Events of the banks: operations accepted, started and ended, rows accepted and drains (spec 05 R133 to R138, spec
10 R259 to R273, spec 18 R360, spec 21 R382). -/

namespace Sys2Proof.Machine

/-! ## Acceptance (R259, R260, R264) -/

/-- The group or the gang that waits with an operation goes on (R260, R264). -/
def State.goAccepted (s : State) (r : GRef) (g : Group) (id : Nat) (op : BankOp) : State :=
  let d := r.die
  let c := r.core
  match g.hold with
  | some (.bank n consume) =>
    if n == id then (if consume then s.modCore d c (fun k => k.consumeRows r.slot op.entry) else s).finishHold r .noResult else s
  | _ =>
    match s.team? d c g.team with
    | some t => (match t.latch with | some l => if l.pending == some id then s.releaseGang d c t.uid l op else s | none => s)
    | none => s

/-- Whether a group, or its gang, waits with an operation for the sequencer. -/
def State.waitsWith (s : State) (r : GRef) (g : Group) (id : Nat) : Bool :=
  (match g.hold with | some (.bank n _) => n == id | _ => false) ||
    match s.team? r.die r.core g.team with
    | some t => (match t.latch with | some l => l.pending == some id | none => false)
    | none => false

/-- BMAC_ACCEPTED (R260, R264): the group or the gang whose operation is the first that waits for the sequencer goes on once there is
room. -/
def execBmacAccepted (r : GRef) (s : State) : EventResult :=
  let k := s.core r.die r.core
  match s.group? r, k.nextAccepted with
  | some g, some ⟨id, _, _, _, .mac op⟩ =>
    if k.acceptRoom && s.waitsWith r g id then
      .next ((s.modCore r.die r.core (fun k => k.acceptItem id op)).goAccepted r g id op)
    else .next s
  | _, _ => .next s

/-- Whether an octet can still take a row of a team. -/
def Core.feeds (k : Core) (uid : Nat) (o : Fin 8) : Bool := k.octets[o].owner == some uid && k.octets[o].mode == .compute

/-- FEED_ROW_ACCEPTED (R259): the feeds that now have room take the row; an octet freed meanwhile takes none. -/
def execFeedRowAccepted (r : GRef) (s : State) : EventResult :=
  match s.group? r with
  | none => .next s
  | some g =>
    match g.hold with
    | some (.feed todo row) =>
      let k := s.core r.die r.core
      let live := todo.filter (k.feeds g.team)
      let s1 := s.modCore r.die r.core (fun k => k.pushRows r.slot row live)
      let rest := live.filter (fun o => !k.feedRoom o)
      if rest.isEmpty then .next (s1.finishHold r .noResult)
      else .next (s1.modGroup r (fun g => { g with hold := some (.feed rest row) }))
    | _ => .next s

/-! ## Arithmetic of a block (R133 to R136) -/

/-- Activation element k of a row: its code (R259). -/
def ActRow.elem (x : ActRow) (i8 : Bool) (k : Nat) : Nat :=
  if i8 then (x.bytes[k]?.getD 0).toNat else (x.bytes[k / 2]?.getD 0).toNat / (if k % 2 = 1 then 16 else 1) % 16

/-- Twice the magnitude of an E2M1 code (R133). -/
def twiceMag (code : Nat) : Nat :=
  match code % 8 with
  | 0 => 0 | 1 => 1 | 2 => 2 | 3 => 3 | 4 => 4 | 5 => 6 | 6 => 8 | _ => 12

/-- The integer that an element stands for in a block sum: the signed byte, or twice the E2M1 value (R134). -/
def elemInt (i8 : Bool) (code : Nat) : Int :=
  if i8 then (BitVec.ofNat 8 code).toInt
  else if code / 8 % 2 = 1 then -(twiceMag code : Int) else twiceMag code

/-- The unsigned bits of an element whose planes are broadcast (R133). -/
def planeBits (i8 : Bool) (code : Nat) : Nat := if i8 then code % 256 else twiceMag code

/-- Whether a block is skipped for its zero activations (R136). -/
def ActRow.zeroBlock (x : ActRow) (i8 : Bool) (kb : Nat) : Bool :=
  x.scales[kb]?.getD 0 != 0xFF && (List.range 32).all (fun j => planeBits i8 (x.elem i8 (32 * kb + j)) == 0)

/-- The sums of the set bits of each plane of a block that holds one (R133, R263). -/
def ActRow.planes (x : ActRow) (i8 : Bool) (kb : Nat) : List Nat :=
  ((List.range 8).map (fun p =>
    ((List.range 32).filter (fun j => (planeBits i8 (x.elem i8 (32 * kb + j))).testBit p)).length)).filter (· != 0)

/-- A byte of a weight image. -/
def Bank.imageByte (b : Bank) (a : Nat) : Nat := ((cellGet b.mem a).getD 0).toNat

/-- Element n of weight row k (Table K-13). -/
def Bank.weight (b : Bank) (i8 : Bool) (k n : Nat) : Nat :=
  if i8 then b.imageByte (64 * k + n) else b.imageByte (64 * k + n / 2) / (if n % 2 = 1 then 16 else 1) % 16

/-- The scale of K-block kb, column n (Table K-13). -/
def Bank.weightScale (b : Bank) (i8 : Bool) (kb n : Nat) : Byte :=
  BitVec.ofNat 8 (b.imageByte (if i8 then 16384 + 64 * kb + n else 16384 + 64 * (2 * kb + n / 64) + n % 64))

/-- BlockSum (R134). -/
def blockSum (i8 : Bool) (a w : List Nat) : Int := ((a.zip w).map (fun p => elemInt i8 p.1 * elemInt i8 p.2)).foldl (· + ·) 0

/-- BlockTerm (R134). -/
def blockTerm (i8 : Bool) (x : Int) (sa sw : Byte) : Word :=
  if sa == 0xFF || sw == 0xFF then 0x7FC00000
  else
    let e : Int := sa.toNat + sw.toNat - 254 + (if i8 then -12 else -2)
    BitVec.ofNat 32 (fmtF32.round ((Fx.ofInt x).scale e) 0 0 32).1

/-- The columns of a format. -/
def columnsOf (i8 : Bool) : Nat := if i8 then 64 else 128

/-- Whether `bmacs` leaves out N-block nb of block kb of a chain bank (R256, R261). -/
def BankOp.absent (op : BankOp) (j kb nb : Nat) : Bool :=
  op.sparse && !((op.entry.bitmaps[j]?.getD 0).getLsbD ((if op.entry.i8 then 2 else 4) * kb + nb))

/-- The N-blocks of a format. -/
def nBlocks (i8 : Bool) : Nat := if i8 then 2 else 4

/-- Whether a block takes no array cycle (R136, R262). -/
def BankOp.skipped (op : BankOp) (act : ActRow) (j kb : Nat) : Bool :=
  act.zeroBlock op.entry.i8 kb || (List.range (nBlocks op.entry.i8)).all (op.absent j kb)

/-- The terms of a block that a chain bank computes, for the columns that receive one (R134, R261). -/
def BankOp.terms (op : BankOp) (b : Bank) (act : ActRow) (j kb : Nat) : Vector Word 128 :=
  let i8 := op.entry.i8
  let a := (List.range 32).map (fun k => act.elem i8 (32 * kb + k))
  let sa := act.scales[kb]?.getD 0
  Vector.ofFn fun (n : Fin 128) =>
    if n.val < columnsOf i8 ∧ !op.absent j kb (n.val / 32) then
      let w := (List.range 32).map (fun k => b.weight i8 (32 * kb + k) n.val)
      blockTerm i8 (blockSum i8 a w) sa (b.weightScale i8 kb n.val)
    else 0

/-- The terms of a block added to an accumulator row (R135, R261); the columns beyond a format's read +0 once a term is added (R83). -/
def BankOp.addTerms (op : BankOp) (x : BlockTerms) (acc : Vector Word 128) : Vector Word 128 :=
  Vector.ofFn fun (n : Fin 128) =>
    if columnsOf op.entry.i8 ≤ n.val then 0
    else if op.absent x.chain x.kb (n.val / 32) then acc[n]
    else fAdd32 acc[n] x.cols[n]

/-- The units of an image that a block reads in one N-block. -/
def blockUnits (i8 : Bool) (kb nb : Nat) : List Nat :=
  if i8 then (List.range 32).flatMap (fun k => [4 * (32 * kb + k) + 2 * nb, 4 * (32 * kb + k) + 2 * nb + 1])
      ++ [1024 + 4 * kb + 2 * nb, 1024 + 4 * kb + 2 * nb + 1]
  else (List.range 32).map (fun k => 4 * (32 * kb + k) + nb)
      ++ [1024 + 4 * (2 * kb + nb / 2) + 2 * (nb % 2), 1024 + 4 * (2 * kb + nb / 2) + 2 * (nb % 2) + 1]

/-- The origin of the poison that a block of a bank gives to its row: a poisoned unit that it reads (R261). -/
def BankOp.blockPoison (op : BankOp) (b : Bank) (j kb : Nat) : Option Byte :=
  if (List.range (nBlocks op.entry.i8)).any (fun nb =>
      !op.absent j kb nb && (blockUnits op.entry.i8 kb nb).any b.poison.contains) then some 0x04
  else none

/-! ### The run of an operation (R262, R263, R270) -/

/-- A sum of numbers. -/
def total (xs : List Nat) : Nat := xs.foldl (· + ·) 0

/-- The row that a chain bank takes for a member. -/
def BankOp.act? (op : BankOp) (m j : Nat) : Option ActRow := (op.members[m]?).bind (fun x => x.acts[j]?)

/-- The bank at a place of a chain. -/
def BankOp.chainBank (op : BankOp) (j : Nat) : Fin 64 := op.entry.chain[j]?.getD 0

/-- The planes that a chain bank broadcasts for a block, by the bits that each holds; none for one skipped in time. -/
def BankOp.planes (op : BankOp) (j blk : Nat) : List Nat :=
  match op.act? (blk / 8) j with
  | some act => if op.skipped act j (blk % 8) then [] else act.planes op.entry.i8 (blk % 8)
  | none => []

/-- A counter that saturates (R273). -/
def satAdd (x : Word) (n : Nat) : Word := if 0xFFFFFFFF ≤ x.toNat + n then 0xFFFFFFFF else x + BitVec.ofNat 32 n

/-- A block that a chain bank has finished: its terms, none when it is skipped in time. -/
def BankOp.finishBlock (op : BankOp) (k : Core) (j blk : Nat) : Option BlockTerms :=
  match op.act? (blk / 8) j with
  | none => none
  | some act =>
    if op.skipped act j (blk % 8) then none
    else
      let b := k.banks[op.chainBank j]
      some ⟨blk / 8, j, blk % 8, op.terms b act j (blk % 8), op.blockPoison b j (blk % 8)⟩

/-- A chain bank moved past the blocks that need no further plane: the blocks passed, their terms, and how many were skipped. -/
def BankOp.pass (op : BankOp) (k : Core) (j : Nat) (fuel : Nat) (x : BankRun) (ts : List BlockTerms) (skips : Nat) :
    BankRun × List BlockTerms × Nat :=
  match fuel with
  | 0 => (x, ts, skips)
  | n + 1 =>
    if x.idle || decide (8 * op.members.length ≤ x.block) || decide (x.plane < (op.planes j x.block).length) then (x, ts, skips)
    else
      match op.finishBlock k j x.block with
      | some t => op.pass k j n ⟨x.block + 1, 0, false⟩ (ts ++ [t]) skips
      | none => op.pass k j n ⟨x.block + 1, 0, false⟩ ts (skips + 1)

/-- Whether a chain bank has finished its part of an operation. -/
def BankOp.bankDone (op : BankOp) (x : BankRun) : Bool := !x.idle && decide (8 * op.members.length ≤ x.block)

/-- Whether the occupancy of an operation is over (R263). -/
def SeqItem.over (x : SeqItem) (op : BankOp) : Bool := x.run.setup && x.run.banks.all op.bankDone

/-- The counters of a bank after one block boundary: the blocks skipped (Table K-66). -/
def Bank.addSkips (b : Bank) (n : Nat) : Bank := { b with skip := satAdd b.skip n }

/-- Every chain bank of an operation moved past the blocks that need no further plane. -/
def BankOp.settle (op : BankOp) (k : Core) (run : MacRun) : MacRun × Core :=
  run.banks.zipIdx.foldl (fun (p : MacRun × Core) x =>
    let y := op.pass k x.2 (8 * op.members.length + 1) x.1 [] 0
    ({ p.1 with banks := p.1.banks.set x.2 y.1, terms := p.1.terms ++ y.2.1 },
      p.2.modBank (op.chainBank x.2) (fun b => b.addSkips y.2.2))) (run, k)

/-- The counters of a bank for one array cycle of an operation (Table K-66): an idle cycle of the limiter, or a plane, in which the column
groups whose N-block is absent do nothing. -/
def BankOp.tick (op : BankOp) (j : Nat) (x : BankRun) (b : Bank) : Bank :=
  let b1 := { b with busy := satAdd b.busy 1 }
  if x.idle then { b1 with lim := satAdd b1.lim 1 }
  else if x.plane < (op.planes j x.block).length then
    { b1 with idle := Vector.ofFn fun i =>
        if i.val < nBlocks op.entry.i8 && op.absent j (x.block % 8) i.val then satAdd b1.idle[i] 1 else b1.idle[i] }
  else b1

/-- A chain bank after one array cycle, and the bits that it broadcast. -/
def BankOp.advance (op : BankOp) (j : Nat) (x : BankRun) : BankRun × Nat :=
  if x.idle then ({ x with idle := false }, 0)
  else
    match (op.planes j x.block)[x.plane]? with
    | some n => ({ x with plane := x.plane + 1 }, n)
    | none => (x, 0)

/-- What an array cycle does to an item of a core: the item, the core, the bits broadcast, and how many banks it occupied. The setup cycle
broadcasts none; at a stop a chain bank that is at a block boundary stands still (R270). -/
def SeqItem.cycle (x : SeqItem) (op : BankOp) (stop : Bool) (k : Core) : SeqItem × Core × Nat × Nat :=
  if !x.run.setup then
    let k1 := (List.range op.entry.chain.length).foldl (fun k j => k.modBank (op.chainBank j) (fun b => { b with busy := satAdd b.busy 1 })) k
    let p := op.settle k1 ⟨true, List.replicate op.entry.chain.length ⟨0, 0, false⟩, []⟩
    ({ x with run := p.1 }, p.2, 0, op.entry.chain.length)
  else
    let still := fun (y : BankRun) => stop && !y.idle && y.plane == 0
    let k1 := x.run.banks.zipIdx.foldl (fun k y => if still y.1 then k else k.modBank (op.chainBank y.2) (op.tick y.2 y.1)) k
    let ys := x.run.banks.zipIdx.map (fun y => if still y.1 then (y.1, 0) else op.advance y.2 y.1)
    ({ x with run := { x.run with banks := ys.map Prod.fst } }, k1, total (ys.map Prod.snd),
      (x.run.banks.filter (fun y => !still y)).length)

/-- The limiter's idle cycles after an array cycle in which the window's count has passed the limit: one for each bank that broadcast a plane
(R382); every bank then moves past the blocks that it has finished. -/
def SeqItem.afterCycle (x before : SeqItem) (op : BankOp) (limited : Bool) (k : Core) : SeqItem × Core :=
  let banks := (x.run.banks.zip before.run.banks).map (fun p => { p.1 with idle := limited && decide (p.2.plane < p.1.plane) })
  let p := op.settle k (if before.run.setup then { x.run with banks := banks } else x.run)
  ({ x with run := p.1 }, p.2)

/-- An item of bank order replaced. -/
def Core.setItem (k : Core) (x : SeqItem) : Core := { k with seq := k.seq.map (fun y => if y.id == x.id then x else y) }

/-- The density limit of a die in set bits of a window (R382). -/
def Limiter.threshold (x : Limiter) (manager : Nat) : Nat := min (min x.limit.toNat 4096) manager * 2 ^ (4 + x.win.toNat) * 24

/-- The operations that run on a die and have cycles left, those of one team alone when a save stops them. -/
def State.running (s : State) (d : DieId) (only : Option Nat) : List (CoreId × SeqItem × BankOp) :=
  allCores.flatMap (fun c => (s.core d c).seq.filterMap (fun x =>
    match x.kind with
    | .mac op =>
      if x.running && !x.over op && (match only with | some id => id == x.id | none => true) then some (c, x, op) else none
    | _ => none))

/-- The core cycles of a window of 2^(4+WIN) array cycles (R382). -/
def Limiter.window (x : Limiter) : Nat := 2 * 2 ^ (4 + x.win.toNat)

/-- A new window, with DLIM as last written (R382). -/
def Limiter.roll (x : Limiter) (since : Nat) : Limiter :=
  { x with limit := x.nextLimit, win := x.nextWin, since := since, count := 0, engaged := false }

/-- The limiter in the window that an instant lies in: windows follow one another from reset (R382). -/
def Limiter.windowAt (x : Limiter) (now : Nat) : Limiter :=
  if now < x.since + x.window then x
  else
    let y := x.roll (x.since + x.window)
    { y with since := y.since + (now - y.since) / y.window * y.window }

/-- The array cycle of a die that comes next: two core cycles after the last one at the earliest, in the window of its instant (R263,
R382). -/
def State.arrayEdge (s : State) (d : DieId) : State :=
  let now := max s.now (2 * s.dies[d].dlim.next)
  { s with now := now }.modDie d (fun x => { x with dlim := { x.dlim.windowAt now with next := now / 2 + 1 } })

/-- One array cycle of the operations of a list (R263, R382): every one broadcasts its planes, the limiter counts them, and the banks that
broadcast past its limit idle next. -/
def State.arrayOver (s0 : State) (d : DieId) (stop : Bool) (xs : List (CoreId × SeqItem × BankOp)) : State :=
  let s := s0.arrayEdge d
  let p := xs.foldl (fun (p : State × List (CoreId × SeqItem × SeqItem × BankOp) × Nat × Nat) x =>
    let y := x.2.1.cycle x.2.2 stop (p.1.core d x.1)
    (p.1.modCore d x.1 (fun _ => y.2.1.setItem y.1), p.2.1 ++ [(x.1, x.2.1, y.1, x.2.2)], p.2.2.1 + y.2.2.1, p.2.2.2 + y.2.2.2)) (s, [], 0, 0)
  let dl := s.dies[d].dlim
  let bits := dl.count + p.2.2.1
  let limited := decide (dl.threshold s.mgmt.limit < bits)
  let t := p.2.1.foldl (fun u x =>
    let y := x.2.2.1.afterCycle x.2.1 x.2.2.2 limited (u.core d x.1)
    u.modCore d x.1 (fun _ => y.2.setItem y.1)) p.1
  let idles := total (xs.map (fun x => (x.2.1.run.banks.filter BankRun.idle).length))
  ((t.modDie d (fun y => { y with dlim := { y.dlim with count := bits, engaged := y.dlim.engaged || (limited && decide (0 < p.2.2.1)) } })).count
    d 1 p.2.2.2).count d 2 idles

/-- An array cycle of a die. -/
def State.arrayCycle (s : State) (d : DieId) : State := s.arrayOver d false (s.running d none)

/-- The array cycles that one operation still needs: at most two for a plane, and its setup. -/
def BankOp.cycles (op : BankOp) : Nat := 1 + 16 * (8 * op.members.length)

/-- The array cycles of one operation alone, until it is over. -/
def State.runOut (s : State) (d : DieId) (id : Nat) (fuel : Nat) : State :=
  match fuel with
  | 0 => s
  | n + 1 =>
    match s.running d (some id) with
    | [] => s
    | xs => (s.arrayOver d false xs).runOut d id n

/-- The array cycles up to the next block boundary of an operation that a save stops: at most 16 (R270). -/
def State.stopAtBlock (s : State) (d : DieId) (id : Nat) (fuel : Nat) : State :=
  match fuel with
  | 0 => s
  | n + 1 =>
    let xs := (s.running d (some id)).filter (fun x => x.2.1.run.banks.any (fun y => y.idle || y.plane != 0))
    match xs with
    | [] => s
    | xs => (s.arrayOver d true xs).stopAtBlock d id n

/-! ### The sums (R135, R261) -/

/-- The terms of a member in the accumulation order: bank by bank of the chain, block by block. -/
def MacRun.ordered (x : MacRun) (op : BankOp) (m : Nat) : List BlockTerms :=
  (List.range op.entry.chain.length).flatMap (fun j => x.terms.filter (fun t => t.member == m && t.chain == j))

/-- The effect of an operation on its target rows, member by member (R261); the columns of a poisoned row are free (log 15). -/
def BankOp.apply (op : BankOp) (run : MacRun) (k : Core) (fresh : Nat) : Core :=
  op.members.zipIdx.foldl (fun k p =>
    let row := p.1.row
    k.modBank op.entry.accBank (fun b =>
      let ts := run.ordered op p.2
      let b1 := ts.foldl (fun b t => match t.poison with | some o => b.poisonRow row o | none => b) b
      let acc :=
        if b1.accPoison[row].isSome then Vector.ofFn fun (n : Fin 128) => Config.freeWord (freeAt fresh (128 * row.val + n.val))
        else ts.foldl (fun acc t => op.addTerms t acc) b.acc[row]
      { b1 with acc := b1.acc.set row acc })) k

/-! ## Start and end (R263, R266, R269, R360) -/

/-- The target rows of an operation marked poisoned. -/
def BankOp.poisonRows (op : BankOp) (k : Core) (origin : Byte) : Core :=
  k.modBank op.entry.accBank (fun b => op.members.foldl (fun b m => b.poisonRow m.row origin) b)

/-- A residue mismatch of a bank in an operation (R269, R345): rows poisoned, bank quarantined, die event raised. -/
def State.residueError (s : State) (d : DieId) (c : CoreId) (op : BankOp) (bank : Fin 64) : State :=
  (s.modCore d c (fun k => (op.poisonRows k 0x03).modBank bank (fun b => { b with quarantined := true }))).modDie d
    (fun x => { x with residue := x.residue ++ [(c, bank)], dieEventPending := true })

/-- An operation that starts, or goes on after a restore: it runs, and its target rows are poisoned when a bank of its chain could not be
reloaded (R333). -/
def Core.startItem (k : Core) (id : Nat) (op : BankOp) : Core :=
  let k1 := { k with seq := k.seq.map (fun x => if x.id == id then { x with running := true } else x) }
  if op.entry.chain.any (fun b => k.banks[b].reloadBad) then op.poisonRows k1 0x06 else k1

/-- BANK_OPERATION_START (R263, R266, R269, R360): the sequencer has accepted the operation, nothing earlier in bank order holds it back and
no bank of its chain is quarantined. On an array marked failed it completes without computing. -/
def execBankOperationStart (d : DieId) (c : CoreId) (id : Nat) (residue : Option (Fin 64)) (s : State) : EventResult :=
  let k := s.core d c
  match k.seq.find? (fun x => x.id == id) with
  | some ⟨i, true, false, run, .mac op⟩ =>
    if k.banksBlocked ⟨i, true, false, run, .mac op⟩ || k.rowsBlocked ⟨i, true, false, run, .mac op⟩ then .next s
    else if op.entry.chain.any (fun b => k.banks[b].failed) then
      .next (s.modCore d c (fun k => (op.poisonRows k 0x03).finishItem id))
    else if op.entry.chain.any (fun b => k.banks[b].quarantined) then .next s
    else
      let s1 := s.modCore d c (fun k => k.startItem id op)
      match residue with
      | none => .next s1
      | some b => if op.entry.chain.contains b then .next (s1.residueError d c op b) else .next s
  | _ => .next s

/-- BANK_OPERATION_END (R261, R263): the array cycles that the operation still needs, then its sums. -/
def execBankOperationEnd (d : DieId) (c : CoreId) (id : Nat) (s : State) : EventResult :=
  match (s.core d c).seq.find? (fun x => x.id == id) with
  | some ⟨_, _, true, _, .mac op⟩ =>
    let t := s.runOut d id op.cycles
    match (t.core d c).seq.find? (fun x => x.id == id) with
    | some ⟨_, _, _, run, _⟩ => .next (t.modCore d c (fun k => (op.apply run k t.fresh).finishItem id)).freshened
    | none => .next t
  | _ => .next s

/-! ## Drains (R271) -/

/-- The string of a row (R271): columns as FP32, or rounded to BF16. -/
def drainString (row : Vector Word 128) (sub : BitVec 3) : List Byte :=
  ((row.toList).take (if sub.getLsbD 2 then 64 else 128)).flatMap (fun x =>
    if sub.getLsbD 0 then leBytes 2 (fmtBF16.round (fmtF32.value x.toNat) 0 0 32).1 else leBytes 4 x.toNat)

/-- Word w of lane i of a string. -/
def drainWord (bs : List Byte) (w : Nat) (i : Lane) : Word := BitVec.ofNat 32 (bytesAt bs (128 * w + 4 * i.val) 4)

/-- The value of a drain's window slot. -/
def drainSlot (x : Flight) (bs : List Byte) : WinSlot :=
  .value (lanes fun i => if inMask x.mask i then (if x.words = 2 then drainWord bs 1 i ++ drainWord bs 0 i else (drainWord bs 0 i).setWidth 64) else 0)

/-- An entry that a drain pushes, as the newest (R271, R296). -/
def Group.drainPush (g : Group) (n : BitVec 4) (x : Lanes Word) : Group :=
  g.setQ n { g.queue n with items := (g.queue n).items ++ [x] }

/-- The destination of a drain written (R271). -/
def Group.landDrain (g : Group) (x : Flight) (quarter : Nat) (bs : List Byte) : Group :=
  let m := x.mask &&& g.liveMask
  match x.dst with
  | .v n => (List.range x.words).foldl (fun g w =>
      if n.toNat + w < g.vLimit then g.setV (n + BitVec.ofNat 8 w) m (drainWord bs w) else g) g
  | .q n => (List.range x.words).foldl (fun g w => g.drainPush n (lanes fun i => if inMask x.mask i then drainWord bs w i else 0)) g
  | .t n =>
    let t := g.tile n
    g.setTile n (Vector.ofFn fun (j : Fin 1024) =>
      let o := 128 * x.words * quarter
      if o ≤ j.val ∧ j.val < o + 128 * x.words then bs[j.val - o]?.getD 0 else t[j])
  | _ => g

/-- Whether the queue of a drain has room for its entries. -/
def Group.drainRoom (g : Group) (x : Flight) : Bool :=
  match x.dst with
  | .q n => decide ((g.queue n).taken + x.words ≤ (g.queue n).depth)
  | _ => true

/-- A drain reads its row in its place in bank order, which it then leaves: the string is kept, and the row cleared when asked; of a
poisoned row there is only the trap (R271). -/
def State.drainRead (s : State) (r : GRef) (g : Group) (x : Flight) (y : DrainSpec) : State :=
  let b := (s.core r.die r.core).banks[y.bank]
  match b.accPoison[y.row] with
  | some origin =>
    let g1 := (g.fillSlot x.seq .noResult).dropFlight x.id
    let m := x.mask &&& g.liveMask
    let g2 := if m == 0 || g.ended then g1 else g1.recordTrap ⟨0x30, origin, x.pc, x.len, m, 0, 0, none⟩ x.seq
    (s.modCore r.die r.core (fun k => k.finishItem x.id)).setGroup r g2
  | none =>
    (s.modCore r.die r.core (fun k =>
      (if y.sub.getLsbD 1 then k.modBank y.bank (fun b => { b with acc := b.acc.set y.row (Vector.replicate 128 0) }) else k).finishItem x.id)).setGroup
      r (g.setFlight { x with drain := some { y with read := some (drainString b.acc[y.row] y.sub) } })

/-- A drain that has read its row writes its destination; a push waits for room (R271). -/
def State.drainLand (s : State) (r : GRef) (g : Group) (x : Flight) (y : DrainSpec) (bs : List Byte) : State :=
  if g.drainRoom x then s.rouse r (fun g => ((g.landDrain x y.quarter bs).fillSlot x.seq (drainSlot x bs)).dropFlight x.id) else s

/-- The drain of a group that has a number. -/
def Group.drain? (g : Group) (id : Nat) : Option (Flight × DrainSpec) :=
  match g.flights.find? (fun x => x.id == id) with
  | some x => x.drain.map (fun y => (x, y))
  | none => none

/-- The landing of a drain that has read its row. -/
def State.landRead (s : State) (r : GRef) (id : Nat) : State :=
  match s.group? r with
  | none => s
  | some g =>
    match g.drain? id with
    | some (x, y) => (match y.read with | some bs => s.drainLand r g x y bs | none => s)
    | none => s

/-- BDRAIN_COMPLETE (R271): the row is read after every earlier operation on it in bank order, and then the destination is written. -/
def execBdrainComplete (r : GRef) (id : Nat) (s : State) : EventResult :=
  match s.group? r with
  | none => .next s
  | some g =>
    match g.drain? id with
    | some (x, y) =>
      if y.read.isSome then .next (s.landRead r id)
      else if (s.core r.die r.core).rowsBlocked (seqItem id (.drain r y.bank y.row)) then .next s
      else .next ((s.drainRead r g x y).landRead r id)
    | none => .next s

end Sys2Proof.Machine
end

