-- ==== Sys2Proof/Machine/IntegerOps.lean ====
section
/-! DEFINITION. Row 0x0: integer arithmetic (spec 07 R169 to R171). -/

namespace Sys2Proof.Machine

/-- Whether the type is `.i32` (R169). -/
def Ctx.signed (c : Ctx) : Bool := c.f.md == 0

/-- The limits of a type (Table K-22). -/
def saturate (signed : Bool) (x : Int) : Int :=
  let lo : Int := if signed then -2147483648 else 0
  let hi : Int := if signed then 2147483647 else 4294967295
  if x < lo then lo else if hi < x then hi else x

/-- An exact integer result reduced to 32 bits, saturated when `.sat` is given (R169). -/
def Ctx.int32 (c : Ctx) (sat : Bool) (x : Lane → Int) : Act :=
  c.result32 (fun i => BitVec.ofInt 32 (if sat && c.f.sub.getLsbD 0 then saturate c.signed (x i) else x i))

/-- An exact integer result reduced to 64 bits (R169). -/
def Ctx.int64 (c : Ctx) (x : Lane → Int) : Act := c.result64 (fun i => BitVec.ofInt 64 (x i))

/-- A source of a lane as the integer the type gives. -/
def Ctx.aInt (c : Ctx) (i : Lane) : Int := extOf c.signed (c.a32 i)
def Ctx.bInt (c : Ctx) (i : Lane) : Int := extOf c.signed (c.b32 i)
def Ctx.cInt (c : Ctx) (i : Lane) : Int := extOf c.signed (c.c32 i)

/-- `iadd[.sat]` (R169, Table K-39). -/
def execIadd (f : Fields) (s : State) := issue .iadd f s fun c => c.int32 true (fun i => c.aInt i + c.bInt i)
/-- `isub[.sat]` (R169, Table K-39). -/
def execIsub (f : Fields) (s : State) := issue .isub f s fun c => c.int32 true (fun i => c.aInt i - c.bInt i)
/-- `imul` (R169, Table K-39). -/
def execImul (f : Fields) (s : State) := issue .imul f s fun c => c.int32 false (fun i => c.aInt i * c.bInt i)
/-- `imulh`: bits [63:32] of the product (R169, Table K-39). -/
def execImulh (f : Fields) (s : State) :=
  issue .imulh f s fun c => c.int32 false (fun i => (c.aInt i * c.bInt i) / 4294967296)
/-- `imad` (R169, Table K-39). -/
def execImad (f : Fields) (s : State) := issue .imad f s fun c => c.int32 false (fun i => c.aInt i * c.bInt i + c.cInt i)
/-- `imadw`: the product of the extended sources added to a 64-bit C (R169, Table K-39). -/
def execImadw (f : Fields) (s : State) :=
  issue .imadw f s fun c => c.int64 (fun i => c.aInt i * c.bInt i + (c.c64 i).toInt)
/-- `imin` (R169, Table K-39). -/
def execImin (f : Fields) (s : State) := issue .imin f s fun c => c.int32 false (fun i => min (c.aInt i) (c.bInt i))
/-- `imax` (R169, Table K-39). -/
def execImax (f : Fields) (s : State) := issue .imax f s fun c => c.int32 false (fun i => max (c.aInt i) (c.bInt i))
/-- `iabs[.sat]` (R169, Table K-39). -/
def execIabs (f : Fields) (s : State) := issue .iabs f s fun c => c.int32 true (fun i => ((c.aInt i).natAbs : Int))
/-- `iaddx[.sub]`: 64-bit sum or difference with an extended C (R169, Table K-39). -/
def execIaddx (f : Fields) (s : State) :=
  issue .iaddx f s fun c => c.int64 (fun i =>
    let x := extOf c.signed (c.orElse c.f.sx i 0)
    if c.f.sub.getLsbD 0 then (c.a64 i).toInt - (c.b64 i).toInt - x else (c.a64 i).toInt + (c.b64 i).toInt + x)
/-- `lea`: A + Ext(B) × 2^C[5:0] (R169, Table K-39). -/
def execLea (f : Fields) (s : State) :=
  issue .lea f s fun c => c.int64 (fun i =>
    (c.a64 i).toInt + c.bInt i * 2 ^ ((c.orElse c.f.sx i 0).extractLsb' 0 6).toNat)
/-- `iclamp`: min(max(A, B), C) (R169, Table K-39). -/
def execIclamp (f : Fields) (s : State) :=
  issue .iclamp f s fun c => c.int32 false (fun i => min (max (c.aInt i) (c.bInt i)) (c.cInt i))
/-- `icmp.cc` (R171). -/
def execIcmp (f : Fields) (s : State) :=
  issue .icmp f s fun c => c.result32 (fun i => if intCond c.f.sub (c.aInt i) (c.bInt i) then 1 else 0)

/-- A source by MOD: 64 bits under `.b64`, else 32 bits (R171, R172). -/
def Ctx.wideOf (c : Ctx) (x : Operand) (i : Lane) : DWord :=
  if isB64 c.f.md then c.g.read64 c.f x i else (c.g.read32 c.f x i).setWidth 64

/-- `isel`: A when C is non-zero, else B (R171). -/
def execIsel (f : Fields) (s : State) :=
  issue .isel f s fun c => c.resultMod (fun i => if c.c32 i != 0 then c.wideOf c.f.sa i else c.wideOf c.f.sb i)

/-- Element k of a packed word of n-bit elements, signed unless the unsigned suffix is given (R170). -/
def packedElem (n k : Nat) (unsignedElem : Bool) (x : Word) : Int :=
  let e := x.extractLsb' (n * k) n
  if unsignedElem then e.toNat else e.toInt

/-- The dot product of packed elements added to C (R170). -/
def dotOf (n count : Nat) (ua ub : Bool) (a b c : Word) : Int :=
  (List.range count).foldl (fun acc k => acc + packedElem n k ua a * packedElem n k ub b) (extOf (!(ua && ub)) c)

/-- The result of a dot product: saturated to the range of its type under `.sat` (R170). -/
def Ctx.dot (c : Ctx) (n count : Nat) : Act :=
  let ua := c.f.md.getLsbD 0
  let ub := c.f.md.getLsbD 1
  c.result32 (fun i =>
    let x := dotOf n count ua ub (c.a32 i) (c.b32 i) (c.c32 i)
    BitVec.ofInt 32 (if c.f.sub.getLsbD 0 then saturate (!(ua && ub)) x else x))

/-- `idot4` (R170). -/
def execIdot4 (f : Fields) (s : State) := issue .idot4 f s fun c => c.dot 8 4
/-- `idot2` (R170). -/
def execIdot2 (f : Fields) (s : State) := issue .idot2 f s fun c => c.dot 16 2

end Sys2Proof.Machine
end

