-- ==== Sys2Proof/Machine/BitOps.lean ====
section
/-! DEFINITION. Row 0x1: bit operations (spec 07 R172 to R174). -/

namespace Sys2Proof.Machine

/-- The width that MOD selects (R172). -/
def Ctx.width (c : Ctx) : Nat := if isB64 c.f.md then 64 else 32

/-- A bitwise operation of A and B (Table K-40). -/
def Ctx.bitwise (c : Ctx) (op : DWord → DWord → DWord) : Act :=
  c.resultMod (fun i => op (c.wideOf c.f.sa i) (c.wideOf c.f.sb i))

/-- `and` (R172). -/
def execAnd (f : Fields) (s : State) := issue .and f s fun c => c.bitwise (fun a b => a &&& b)
/-- `or` (R172). -/
def execOr (f : Fields) (s : State) := issue .or f s fun c => c.bitwise (fun a b => a ||| b)
/-- `xor` (R172). -/
def execXor (f : Fields) (s : State) := issue .xor f s fun c => c.bitwise (fun a b => a ^^^ b)
/-- `andn` (R172). -/
def execAndn (f : Fields) (s : State) := issue .andn f s fun c => c.bitwise (fun a b => a &&& ~~~b)
/-- `not` (R172). -/
def execNot (f : Fields) (s : State) := issue .not f s fun c => c.resultMod (fun i => ~~~(c.wideOf c.f.sa i))

/-- A shift by n of a value of the selected width: 0 or copies of the top bit when n reaches the width (R172). -/
def Ctx.shift (c : Ctx) (op : (w : Nat) → BitVec w → Nat → BitVec w) : Act :=
  c.resultMod (fun i =>
    let n := (c.b32 i).toNat
    if isB64 c.f.md then op 64 (c.a64 i) (min n 64) else (op 32 (c.a32 i) (min n 32)).setWidth 64)

/-- `shl` (R172). -/
def execShl (f : Fields) (s : State) := issue .shl f s fun c => c.shift (fun _ x n => x <<< n)
/-- `shr` (R172). -/
def execShr (f : Fields) (s : State) := issue .shr f s fun c => c.shift (fun _ x n => x >>> n)
/-- `sar` (R172). -/
def execSar (f : Fields) (s : State) := issue .sar f s fun c => c.shift (fun _ x n => x.sshiftRight n)

/-- `shf[.l]`: a funnel shift of B:A by C[5:0] (R173). -/
def funnel (left : Bool) (a b c : Word) : Word :=
  let x : DWord := b ++ a
  let n := (c.extractLsb' 0 6).toNat
  if left then (x <<< n).extractLsb' 32 32 else (x >>> n).extractLsb' 0 32

def execShf (f : Fields) (s : State) :=
  issue .shf f s fun c => c.result32 (fun i => funnel (c.f.sub.getLsbD 0) (c.a32 i) (c.b32 i) (c.c32 i))

/-- `bfext`: l bits of A from p up, sign-extended under `.i32` (R173). -/
def extractField (signed : Bool) (a p l : Word) : Word :=
  let len := min l.toNat 32
  if len = 0 then 0
  else
    let wide : BitVec 64 := if signed then a.signExtend 64 else a.setWidth 64
    let x := (if signed then wide.sshiftRight (min p.toNat 64) else wide >>> (min p.toNat 64)).setWidth 32
    if signed then (x <<< (32 - len)).sshiftRight (32 - len) else (x <<< (32 - len)) >>> (32 - len)

def execBfext (f : Fields) (s : State) :=
  issue .bfext f s fun c => c.result32 (fun i => extractField c.signed (c.a32 i) (c.b32 i) (c.c32 i))

/-- `bfins`: the field of A at C[7:0] of length C[15:8] replaced by the low bits of B (R173). -/
def insertField (a b c : Word) : Word :=
  let p := (c.extractLsb' 0 8).toNat
  let len := min (c.extractLsb' 8 8).toNat 32
  let mask : Word := (BitVec.ofNat 32 (2 ^ len - 1)) <<< p
  (a &&& ~~~mask) ||| ((b <<< p) &&& mask)

def execBfins (f : Fields) (s : State) :=
  issue .bfins f s fun c => c.result32 (fun i => insertField (c.a32 i) (c.b32 i) (c.c32 i))

/-- The number of 1 bits among the low n. -/
def popCount (x : DWord) (n : Nat) : Nat := ((List.range n).filter x.getLsbD).length

/-- `popc` (R172). -/
def execPopc (f : Fields) (s : State) :=
  issue .popc f s fun c => c.result32 (fun i => BitVec.ofNat 32 (popCount (c.wideOf c.f.sa i) c.width))
/-- `clz`: the width when A is 0 (R172). -/
def execClz (f : Fields) (s : State) :=
  issue .clz f s fun c => c.result32 (fun i =>
    let x := c.wideOf c.f.sa i
    BitVec.ofNat 32 (if x = 0 then c.width else c.width - 1 - Nat.log2 x.toNat))
/-- `ctz`: the width when A is 0 (R172). -/
def execCtz (f : Fields) (s : State) :=
  issue .ctz f s fun c => c.result32 (fun i =>
    BitVec.ofNat 32 (((List.range c.width).find? (fun j => (c.wideOf c.f.sa i).getLsbD j)).getD c.width))
/-- `brev`: bit j is bit w−1−j of A (R172). -/
def execBrev (f : Fields) (s : State) :=
  issue .brev f s fun c => c.resultMod (fun i =>
    if isB64 c.f.md then (c.a64 i).reverse else ((c.a32 i).reverse).setWidth 64)

/-- `prmt`: bytes of B:A chosen by the nibbles of C, or copies of their top bit (R174). -/
def permute (a b c : Word) : Word :=
  let x : DWord := b ++ a
  let byteOf := fun (k : Nat) =>
    let sel := c.extractLsb' (4 * k) 4
    let v := x.extractLsb' (8 * (sel.extractLsb' 0 3).toNat) 8
    if sel.getLsbD 3 then (if v.getLsbD 7 then 0xFF#8 else 0#8) else v
  byteOf 3 ++ byteOf 2 ++ byteOf 1 ++ byteOf 0

def execPrmt (f : Fields) (s : State) :=
  issue .prmt f s fun c => c.result32 (fun i => permute (c.a32 i) (c.b32 i) (c.c32 i))

end Sys2Proof.Machine
end

