-- ==== Sys2Proof/Machine/FloatOps.lean ====
section
/-! DEFINITION. Rows 0x2 and 0x3: floating point and special functions (spec 07 R175 to R179). -/

namespace Sys2Proof.Machine

/-- The rounding mode and `.ftz` of the rounding layout (R162). -/
def Ctx.mode (c : Ctx) : Nat := (c.f.md.extractLsb' 0 3).toNat
def Ctx.ftz (c : Ctx) : Bool := c.f.md.getLsbD 3

/-- The FP32 sources of a lane. -/
def Ctx.aF (c : Ctx) (i : Lane) : Fx := f32In c.ftz (c.a32 i)
def Ctx.bF (c : Ctx) (i : Lane) : Fx := f32In c.ftz (c.b32 i)
def Ctx.cF (c : Ctx) (i : Lane) : Fx := f32In c.ftz (c.c32 i)

/-- An exact FP32 result rounded once (R175). -/
def Ctx.fp32 (c : Ctx) (x : Lane → Fx) : Act := c.fpResult (fun i => f32Out c.mode c.ftz (x i))

/-- `fadd` (R175, Table K-41). -/
def execFadd (f : Fields) (s : State) := issue .fadd f s fun c => c.fp32 (fun i => Fx.add c.mode (c.aF i) (c.bF i))
/-- `fsub` (R175, Table K-41). -/
def execFsub (f : Fields) (s : State) := issue .fsub f s fun c => c.fp32 (fun i => Fx.add c.mode (c.aF i) (c.bF i).neg)
/-- `fmul` (R175, Table K-41). -/
def execFmul (f : Fields) (s : State) := issue .fmul f s fun c => c.fp32 (fun i => (c.aF i).mul (c.bF i))
/-- `ffma` (R175, Table K-41). -/
def execFfma (f : Fields) (s : State) :=
  issue .ffma f s fun c => c.fp32 (fun i => Fx.fma c.mode (c.aF i) (c.bF i) (c.cF i))
/-- `fmin` (R126, R176). -/
def execFmin (f : Fields) (s : State) := issue .fmin f s fun c => c.fpResult (fun i => fMinMax true c.ftz (c.a32 i) (c.b32 i))
/-- `fmax` (R126, R176). -/
def execFmax (f : Fields) (s : State) := issue .fmax f s fun c => c.fpResult (fun i => fMinMax false c.ftz (c.a32 i) (c.b32 i))
/-- `fcmp.cc` (R176). -/
def execFcmp (f : Fields) (s : State) :=
  issue .fcmp f s fun c => c.fpResult (fun i =>
    let r := floatCond c.f.sub (c.aF i) (c.bF i)
    (if r.1 then 1 else 0, r.2))

/-- The class mask of a pattern as stored (R176). -/
def classOf (w : Word) : Word :=
  let neg := w.getLsbD 31
  let ex := w.extractLsb' 23 8
  let m := w.extractLsb' 0 23
  if ex == 0xFF && m != 0 then (if m.getLsbD 22 then 0x200 else 0x100)
  else if ex == 0xFF then (if neg then 0x001 else 0x080)
  else if ex == 0 && m == 0 then (if neg then 0x008 else 0x010)
  else if ex == 0 then (if neg then 0x004 else 0x020)
  else (if neg then 0x002 else 0x040)

/-- `fclass` (R176). -/
def execFclass (f : Fields) (s : State) := issue .fclass f s fun c => c.result32 (fun i => classOf (c.a32 i))

/-- Rounding to an integral value, NX never set (R176). -/
def roundIntegral (mode : Nat) (ftz : Bool) (w : Word) : Word × Flags :=
  match f32In ftz w with
  | .nan sig => (0x7FC00000, if sig then flNV else 0)
  | .inf _ => (w, 0)
  | .num neg m e _ =>
    if m = 0 then (ftzBits ftz w, 0)
    else ((f32Out 0 false (.num neg (roundMag mode neg m e 0 false 0 32).1 0 false)).1, 0)

/-- `frnd` (R176). -/
def execFrnd (f : Fields) (s : State) := issue .frnd f s fun c => c.fpResult (fun i => roundIntegral c.mode c.ftz (c.a32 i))
/-- `fscale`: A × 2^B with B an integer (R175). -/
def execFscale (f : Fields) (s : State) :=
  issue .fscale f s fun c => c.fp32 (fun i => (c.aF i).scale (c.b32 i).toInt)

/-- The element format of the packed halves (R177). -/
def Ctx.half (c : Ctx) : Fmt := if c.f.md.getLsbD 4 then fmtBF16 else fmtF16

/-- Element e of a packed operand. -/
def Ctx.elem (c : Ctx) (x : Word) (e : Nat) : Fx := c.half.value (x.extractLsb' (16 * e) 16).toNat

/-- An exact result of each element, rounded once to the element format; the flags ORed (R177). -/
def Ctx.packed (c : Ctx) (x : Lane → Nat → Fx) : Act :=
  c.fpResult (fun i =>
    let r0 := c.half.round (x i 0) c.mode 0 16
    let r1 := c.half.round (x i 1) c.mode 0 16
    (BitVec.ofNat 16 r1.1 ++ BitVec.ofNat 16 r0.1, r0.2 ||| r1.2))

/-- `hfma2` (R177). -/
def execHfma2 (f : Fields) (s : State) :=
  issue .hfma2 f s fun c => c.packed (fun i e => Fx.fma c.mode (c.elem (c.a32 i) e) (c.elem (c.b32 i) e) (c.elem (c.c32 i) e))
/-- `hadd2` (R177). -/
def execHadd2 (f : Fields) (s : State) :=
  issue .hadd2 f s fun c => c.packed (fun i e => Fx.add c.mode (c.elem (c.a32 i) e) (c.elem (c.b32 i) e))
/-- `hmul2` (R177). -/
def execHmul2 (f : Fields) (s : State) :=
  issue .hmul2 f s fun c => c.packed (fun i e => (c.elem (c.a32 i) e).mul (c.elem (c.b32 i) e))
/-- `fdot2`: three terms summed exactly, the sign of a zero sum decided over all three (R177). -/
def execFdot2 (f : Fields) (s : State) :=
  issue .fdot2 f s fun c => c.fp32 (fun i => sumFx c.mode false
    [(c.elem (c.a32 i) 0).mul (c.elem (c.b32 i) 0), (c.elem (c.a32 i) 1).mul (c.elem (c.b32 i) 1), c.cF i])

/-! ## Special functions -/

/-- A special function: rounded with RNE, with only the flags of Table K-43, NV of a signalling NaN, and those of `.ftz` (R178). -/
def special (ftz : Bool) (r : Fx × Flags) : Word × Flags :=
  let nv : Flags := if r.1.isSig then flNV else 0
  ftzOut ftz ((fmtF32.round r.1 0 0 32).1, r.2 ||| nv)

/-- `frcp` (R178, R179). -/
def execFrcp (f : Fields) (s : State) :=
  issue .frcp f s fun c => c.fpResult (fun i => special c.ftz (Fx.div (.num false 1 0 false) (c.aF i)))
/-- `frsq` (R178, R179). -/
def execFrsq (f : Fields) (s : State) := issue .frsq f s fun c => c.fpResult (fun i => special c.ftz (c.aF i).rsqrt)
/-- `fsqrt` (R178, R179). -/
def execFsqrt (f : Fields) (s : State) := issue .fsqrt f s fun c => c.fp32 (fun i => (c.aF i).sqrt)
/-- `fexp2` (R178, R179). -/
def execFexp2 (f : Fields) (s : State) := issue .fexp2 f s fun c => c.fpResult (fun i => special c.ftz (c.aF i).exp2)
/-- `flog2` (R178, R179). -/
def execFlog2 (f : Fields) (s : State) := issue .flog2 f s fun c => c.fpResult (fun i => special c.ftz (c.aF i).log2)
/-- `fsin` (R178, R179). -/
def execFsin (f : Fields) (s : State) := issue .fsin f s fun c => c.fpResult (fun i => special c.ftz ((c.aF i).sincos false))
/-- `fcos` (R178, R179). -/
def execFcos (f : Fields) (s : State) := issue .fcos f s fun c => c.fpResult (fun i => special c.ftz ((c.aF i).sincos true))
/-- `ftanh` (R178, R179). -/
def execFtanh (f : Fields) (s : State) := issue .ftanh f s fun c => c.fpResult (fun i => special c.ftz (c.aF i).tanh)
/-- `fdiv` (R178, R179). -/
def execFdiv (f : Fields) (s : State) :=
  issue .fdiv f s fun c => c.fpResult (fun i =>
    let q := Fx.div (c.aF i) (c.bF i)
    let r := f32Out c.mode c.ftz q.1
    (r.1, r.2 ||| q.2))

end Sys2Proof.Machine
end

