-- ==== Sys2Proof/Machine/MoveOps.lean ====
section
/-! DEFINITION. Row 0x4: moves, conversions, quantisation (spec 05 R129, R132, spec 07 R180 to R185). -/

namespace Sys2Proof.Machine

/-- `mov` (R180). -/
def execMov (f : Fields) (s : State) := issue .mov f s fun c => c.resultMod (fun i => c.wideOf c.f.sa i)
/-- `movi`: the IMM32 field, sign-extended into a pair under `.b64` (R180). -/
def execMovi (f : Fields) (s : State) := issue .movi f s fun c => c.resultMod (fun _ => c.f.imm.signExtend 64)

/-- The lane that `movs` reads: B[4:0], or the lowest member lane when B is omitted (R180). -/
def Ctx.laneOf (c : Ctx) (i : Lane) : Lane :=
  if c.f.sb == .none then (lowest c.m).getD i else Fin.ofNat 32 ((c.b32 i).extractLsb' 0 5).toNat

/-- `movs` (R38, R180). -/
def execMovs (f : Fields) (s : State) := issue .movs f s fun c => c.resultMod (fun i => c.wideOf c.f.sa (c.laneOf i))

/-! ## cvt (R181) -/

/-- The value kinds of a conversion. -/
inductive CvtType
  | int (bits : Nat) (signed : Bool)
  | float (f : Fmt)
  deriving DecidableEq, Repr

/-- The destination and the source of a conversion code (Table K-44). -/
def cvtTypes (md : BitVec 5) : CvtType × CvtType :=
  match md.toNat with
  | 0x00 => (.float fmtF32, .int 32 true)
  | 0x01 => (.float fmtF32, .int 32 false)
  | 0x02 => (.int 32 true, .float fmtF32)
  | 0x03 => (.int 32 false, .float fmtF32)
  | 0x04 => (.float fmtF16, .float fmtF32)
  | 0x05 => (.float fmtBF16, .float fmtF32)
  | 0x06 => (.float fmtE4M3, .float fmtF32)
  | 0x07 => (.float fmtE5M2, .float fmtF32)
  | 0x08 => (.float fmtE2M1, .float fmtF32)
  | 0x09 => (.float fmtF32, .float fmtF16)
  | 0x0A => (.float fmtF32, .float fmtBF16)
  | 0x0B => (.float fmtF32, .float fmtE4M3)
  | 0x0C => (.float fmtF32, .float fmtE5M2)
  | 0x0D => (.float fmtF32, .float fmtE2M1)
  | 0x0E => (.int 16 true, .float fmtF32)
  | 0x0F => (.int 16 false, .float fmtF32)
  | 0x10 => (.int 8 true, .float fmtF32)
  | 0x11 => (.int 8 false, .float fmtF32)
  | 0x12 => (.int 8 true, .int 32 true)
  | 0x13 => (.int 8 false, .int 32 true)
  | 0x14 => (.int 16 true, .int 32 true)
  | _ => (.int 16 false, .int 32 true)

/-- The exact value of a source. -/
def CvtType.value (t : CvtType) (w : Word) : Fx :=
  match t with
  | .int bits signed => Fx.ofInt (if signed then (BitVec.setWidth bits w).toInt else ((BitVec.setWidth bits w).toNat : Int))
  | .float f => f.value w.toNat

/-- The result of a conversion, placed in 32 bits. -/
def CvtType.encode (t : CvtType) (x : Fx) (mode rnd k : Nat) : Word × Flags :=
  match t with
  | .int bits signed =>
    let lo : Int := if signed then -(2 ^ (bits - 1) : Nat) else 0
    let hi : Int := if signed then (2 ^ (bits - 1) : Nat) - 1 else (2 ^ bits : Nat) - 1
    let r := roundInt lo hi x mode rnd k
    (BitVec.ofInt 32 r.1, r.2)
  | .float f =>
    let r := f.round x mode rnd k
    (BitVec.ofNat 32 r.1, r.2)

/-- One conversion (R181). -/
def cvtOf (md : BitVec 5) (mode : Nat) (a rnd : Word) : Word × Flags :=
  (cvtTypes md).1.encode ((cvtTypes md).2.value a) mode rnd.toNat 32

/-- `cvt` (R181). -/
def execCvt (f : Fields) (s : State) :=
  issue .cvt f s fun c => c.fpResult (fun i => cvtOf c.f.md c.f.sub.toNat (c.a32 i) (if c.f.sub == 4 then c.b32 i else 0))

/-! ## cvtq, pack and unpack (R182, R183) -/

/-- The destination format of `cvtq` (R182). -/
def cvtqFmt (sub : BitVec 3) : Fmt :=
  match sub.toNat with
  | 0 => fmtF16 | 1 => fmtBF16 | 2 => fmtE4M3 | 3 => fmtE5M2 | _ => fmtE2M1

/-- The elements of a source of `cvtq`: one, two or four words (R182). -/
def Ctx.cvtqWords (c : Ctx) (x : Operand) (i : Lane) : List Word :=
  match c.f.sub.toNat with
  | 0 | 1 => [c.g.read32 c.f x i]
  | 2 | 3 => let y := c.g.read64 c.f x i; [y.setWidth 32, y.extractLsb' 32 32]
  | _ => (List.range 4).map (fun j => (c.g.read128 x i).extractLsb' (32 * j) 32)

/-- The packed conversion of a list of FP32 values, element j with its random bits (R182). -/
def cvtqPack (fmt : Fmt) (mode : Nat) (ftz : Bool) (rnd : Word) (xs : List Word) : Word × Flags :=
  let n := xs.length
  xs.zipIdx.foldl (fun acc p =>
    let j := p.2
    let r := fmt.round (f32In ftz p.1) mode ((rnd.rotateRight (32 * j / n)).extractLsb' 0 16).toNat 16
    (acc.1 ||| (BitVec.ofNat 32 r.1 <<< (32 / n * j)), acc.2 ||| r.2)) (0, 0)

/-- `cvtq` (R182). -/
def execCvtq (f : Fields) (s : State) :=
  issue .cvtq f s fun c => c.fpResult (fun i =>
    cvtqPack (cvtqFmt c.f.sub) c.mode c.ftz (c.orElse c.f.sx i 0) (c.cvtqWords c.f.sa i ++ c.cvtqWords c.f.sb i))

/-- A word saturated to an element type: 16 or 8 bits, signed or not (R183). -/
def satElem (md : BitVec 5) (w : Word) : Word :=
  let bits := if md.getLsbD 1 then 8 else 16
  let signed := !md.getLsbD 0
  let x := extOf signed w
  let lo : Int := if signed then -(2 ^ (bits - 1) : Nat) else 0
  let hi : Int := if signed then (2 ^ (bits - 1) : Nat) - 1 else (2 ^ bits : Nat) - 1
  BitVec.ofInt 32 (if x < lo then lo else if hi < x then hi else x) &&& BitVec.ofNat 32 (2 ^ bits - 1)

/-- `pack` (R183). -/
def execPack (f : Fields) (s : State) :=
  issue .pack f s fun c => c.result32 (fun i =>
    let a := satElem c.f.md (c.a32 i)
    let b := satElem c.f.md (c.b32 i)
    if c.f.md.getLsbD 1 then a ||| (b <<< 8) ||| (c.orElse c.f.sx i 0 <<< 16) else a ||| (b <<< 16))

/-- `unpack` (R183). -/
def execUnpack (f : Fields) (s : State) :=
  issue .unpack f s fun c => c.result32 (fun i =>
    let e := c.orElse c.f.sb i 0
    if c.f.md.getLsbD 1 then
      let x := (c.a32 i).extractLsb' (8 * (e.extractLsb' 0 2).toNat) 8
      if c.f.md.getLsbD 0 then x.setWidth 32 else x.signExtend 32
    else
      let x := (c.a32 i).extractLsb' (16 * (e.extractLsb' 0 1).toNat) 16
      if c.f.md.getLsbD 0 then x.setWidth 32 else x.signExtend 32)

/-! ## MX blocks (R132, R184, R185) -/

/-- The rounding of one element of an MX block at scale 2^x: the code and whether it is inexact (R132). -/
def mxElem (i8 : Bool) (v : Fx) (x : Int) (mode rnd : Nat) : Nat × Bool :=
  if i8 then
    let r := roundInt (-128) 127 (v.scale (6 - x)) mode rnd 16
    ((BitVec.ofInt 8 r.1).toNat, r.2 != 0)
  else
    let r := fmtE2M1.round (v.scale (-x)) mode rnd 16
    (r.1, r.2 != 0)

/-- Whether a value is a NaN or infinite. -/
def Fx.special (x : Fx) : Bool := x.isNan || x.isInf

/-- ⌊log2⌋ of the largest magnitude of a list, none when every value is zero (R132). -/
def maxLog2 (xs : List Fx) : Option Int :=
  xs.foldl (fun acc x =>
    match x with
    | .num _ m e _ =>
      if m = 0 then acc
      else
        let k : Int := Nat.log2 m + e
        match acc with
        | some a => some (max a k)
        | none => some k
    | _ => acc) none

/-- The codes, the scale byte and the flags of a block whose scale exponent is given (R132, R184). -/
def mxAt (i8 : Bool) (xs : List Fx) (x : Int) (mode : Nat) (rnd : List Nat) : List Nat × Byte × Flags :=
  let rs := (xs.zip rnd).map (fun p => mxElem i8 p.1 x mode p.2)
  (rs.map Prod.fst, BitVec.ofInt 8 (x + 127), if rs.any Prod.snd then flNX else 0)

/-- MXQuantise (R132). -/
def mxQuantise (i8 : Bool) (xs : List Fx) (mode : Nat) (rnd : List Nat) : List Nat × Byte × Flags :=
  if xs.any Fx.special then (xs.map (fun _ => 0), 0xFF, flNV)
  else
    let x : Int := match maxLog2 xs with
      | none => 0
      | some k => max (-127) (min 127 (k - (if i8 then 0 else 2)))
    mxAt i8 xs x mode rnd

/-- A block with a fixed scale byte (R184). -/
def mxFixed (i8 : Bool) (xs : List Fx) (scale : Byte) (mode : Nat) (rnd : List Nat) : List Nat × Byte × Flags :=
  if scale == 0xFF || xs.any Fx.special then (xs.map (fun _ => 0), 0xFF, flNV)
  else mxAt i8 xs ((scale.toNat : Int) - 127) mode rnd

/-- Block e of `mxq`: its values and random bits over the 32 lanes, those of non-members +0 and 0 (R184). -/
def Ctx.mxBlock (c : Ctx) (e : Nat) : List Nat × Byte × Flags :=
  let val := fun (i : Lane) =>
    if !inMask c.m i then Fx.num false 0 0 false
    else if c.f.sub == 0 then f32In c.ftz (c.a32 i)
    else (if c.f.sub == 1 then fmtBF16 else fmtF16).value ((c.a32 i).extractLsb' (16 * e) 16).toNat
  let rnd := fun (i : Lane) => if inMask c.m i then ((c.orElse c.f.sb i 0).extractLsb' (16 * e) 16).toNat else 0
  let xs := allLanes.map val
  let rs := allLanes.map rnd
  let mode := (c.f.md.extractLsb' 0 3).toNat
  if c.f.sx == .none then mxQuantise (c.f.md.getLsbD 4) xs mode rs
  else mxFixed (c.f.md.getLsbD 4) xs (c.cLevel.extractLsb' (8 * e) 8) mode rs

/-- `mxq` (R184). -/
def execMxq (f : Fields) (s : State) :=
  issue .mxq f s fun c =>
    let n := if c.f.sub == 0 then 1 else 2
    let b0 := c.mxBlock 0
    let b1 := if n = 2 then c.mxBlock 1 else ([], 0, 0)
    let w := if c.f.md.getLsbD 4 then 8 else 4
    c.fpResult (fun i =>
      (BitVec.ofNat 32 (b0.1[i.val]?.getD 0) ||| (BitVec.ofNat 32 (b1.1[i.val]?.getD 0) <<< w)
        ||| (b0.2.1.setWidth 32 <<< 16) ||| (b1.2.1.setWidth 32 <<< 24), b0.2.2 ||| b1.2.2))

/-- `mxdq`: one element of a word of `mxq`'s layout (R185). -/
def mxDecode (i8 : Bool) (e : Nat) (a : Word) (scale : Byte) : Word × Flags :=
  if scale == 0xFF then (0x7FC00000, 0)
  else
    let x : Int := (scale.toNat : Int) - 127
    let v := if i8 then (Fx.ofInt (a.extractLsb' (8 * e) 8).toInt).scale (x - 6)
      else (fmtE2M1.value (a.extractLsb' (4 * e) 4).toNat).scale x
    f32Out 0 false v

/-- `mxdq` (R185). -/
def execMxdq (f : Fields) (s : State) :=
  issue .mxdq f s fun c => c.fpResult (fun i =>
    let e := if c.f.sub.getLsbD 0 then 1 else 0
    let scale := if c.f.sb == .none then (c.a32 i).extractLsb' (8 * e + 16) 8 else (c.b32 i).setWidth 8
    mxDecode (c.f.md.getLsbD 4) e (c.a32 i) scale)

end Sys2Proof.Machine
end

