-- ==== Sys2Proof/Machine/TransformOps.lean ====
section
/-! DEFINITION. Sirocco's transforms on layout records: what each one writes (spec 09 R242 to R247, Tables K-61 and K-62). -/

namespace Sys2Proof.Machine

/-! ## Reads and writes of a transform -/

/-- What an engine reads at a place: a byte and whether it is poisoned, or the code that ends the operation. -/
abbrev EngByte := Except Byte (Byte × Bool)

/-- One byte that a transform writes: the bits of a mask take a value, none a free one (log 15). -/
structure EngWrite where
  spad : Bool
  addr : Nat
  byte : Option Byte
  mask : Byte
  poison : Bool
  deriving DecidableEq, Repr

/-- The outcome of an engine operation before its destination is tried: its code, and its writes. -/
structure Plan where
  code : Byte
  writes : List EngWrite
  deriving DecidableEq, Repr

/-- n bytes read from a place on: their value and whether any is poisoned. -/
def readBytes (rd : Bool → Nat → EngByte) (spad : Bool) (a n : Nat) : Except Byte (Nat × Bool) :=
  (List.range n).foldr (fun j acc =>
    match rd spad (a + j), acc with
    | .error e, _ => .error e
    | .ok _, .error e => .error e
    | .ok (b, p), .ok (v, q) => .ok (b.toNat + 256 * v, p || q)) (.ok (0, false))

/-- An element read. -/
def Layout.read (x : Layout) (rd : Bool → Nat → EngByte) (ix : List Nat) : Except Byte (Nat × Bool) :=
  let p := x.place ix
  (readBytes rd x.spad p.1 ((x.bits + 7) / 8)).map (fun r => (if x.bits = 4 then r.1 / (if p.2 then 16 else 1) % 16 else r.1, r.2))

/-- An element written. -/
def Layout.write (x : Layout) (ix : List Nat) (v : Option Nat) (poison : Bool) : List EngWrite :=
  let p := x.place ix
  if x.bits = 4 then
    [⟨x.spad, p.1, v.map (fun n => BitVec.ofNat 8 (if p.2 then 16 * n else n)), if p.2 then 0xF0 else 0x0F, poison⟩]
  else (List.range (x.bits / 8)).map (fun j => ⟨x.spad, p.1 + j, v.map (fun n => BitVec.ofNat 8 (n / 256 ^ j)), 0xFF, poison⟩)

/-- Bytes written from a place on. -/
def writeBytes (spad : Bool) (a : Nat) (bs : List Byte) : List EngWrite := bs.zipIdx.map (fun p => ⟨spad, a + p.2, some p.1, 0xFF, false⟩)

/-- The code of a list of reads: the first failure or poison. -/
def firstCode (xs : List (Except Byte (Nat × Bool))) : Byte :=
  (xs.findSome? (fun r => match r with | .error e => some e | .ok (_, p) => if p then some codePoison else none)).getD 0

/-- A part of a result: the reads that it comes from, as ranges of their numbers, and its writes. -/
structure Part where
  reads : List (Nat × Nat)
  writes : List EngWrite
  deriving DecidableEq, Repr

/-- Whether one of the reads of a part is one that a test holds of. -/
def Part.meets (x : Part) (bad : List Nat) : Bool := bad.any (fun j => x.reads.any (fun r => decide (r.1 ≤ j) && decide (j < r.1 + r.2)))

/-- The plan of parts computed from reads: a part that comes from a read that failed is not written, and one that poison reached carries
it (R117, Table K-58). -/
def planFrom (xs : List (Except Byte (Nat × Bool))) (k : List Nat → Byte × List Part) : Plan :=
  let c := firstCode xs
  let failed := xs.zipIdx.filterMap (fun p => match p.1 with | .error _ => some p.2 | .ok _ => none)
  let poisoned := xs.zipIdx.filterMap (fun p => match p.1 with | .ok (_, true) => some p.2 | _ => none)
  let r := k (xs.map (fun r => match r with | .ok (v, _) => v | .error _ => 0))
  ⟨if c != 0 then c else r.1,
    (r.2.filter (fun x => !x.meets failed)).flatMap (fun x =>
      if x.meets poisoned then x.writes.map (fun w => { w with poison := true }) else x.writes)⟩

/-! ## Values of elements -/

/-- The exact value of an element of a numeric format. -/
def fmtValue (code v : Nat) : Option Fx :=
  match floatFmt code with
  | some f => some (f.value v)
  | none => (intFmt code).map (fun p => Fx.ofInt (if p.2 then (BitVec.ofNat p.1 v).toInt else ((v % 2 ^ p.1 : Nat) : Int)))

/-- A value rounded to a numeric format (R129). -/
def fmtEncode (code : Nat) (x : Fx) (mode : Nat) : Nat :=
  match floatFmt code with
  | some f => (f.round x mode 0 32).1
  | none =>
    match intFmt code with
    | some (n, signed) =>
      let lo : Int := if signed then -(2 ^ (n - 1) : Nat) else 0
      let hi : Int := if signed then (2 ^ (n - 1) : Nat) - 1 else (2 ^ n : Nat) - 1
      (BitVec.ofInt n (roundInt lo hi x mode 0 32).1).toNat
    | none => 0

/-- Whether a format can be converted to another: the same, or both numeric. -/
def convertible (a b : Nat) : Bool := a == b || ((fmtValue a 0).isSome && (fmtValue b 0).isSome)

/-- An element converted; equal formats copy bits (Table K-62). -/
def convertElem (a b v mode : Nat) : Nat :=
  if a == b then v
  else
    match fmtValue a v with
    | some x => fmtEncode b x mode
    | none => v

/-! ## Elementwise transforms -/

/-- A transform that maps source elements to destination elements one to one. -/
def planElements (src dst : Layout) (rd : Bool → Nat → EngByte) (mode : Nat) (place : List Nat → List Nat) : Plan :=
  let xs := (List.range src.count).map (fun j => let ix := src.indices j; (ix, src.read rd ix))
  ⟨firstCode (xs.map Prod.snd), xs.flatMap (fun p =>
    match p.2 with
    | .ok (v, bad) => dst.write (place p.1) (some (convertElem src.fmt dst.fmt v mode)) bad
    | .error _ => [])⟩

/-- The error plan of a record that does not suit its transform. -/
def planLayout : Plan := ⟨0x08, []⟩

/-- RELAYOUT (Table K-62). -/
def planRelayout (src dst : Layout) (rd : Bool → Nat → EngByte) (mode : Nat) : Plan :=
  if isMx src.fmt || isMx dst.fmt || src.dims != dst.dims || !convertible src.fmt dst.fmt then planLayout
  else planElements src dst rd mode id

/-- The first two indices exchanged. -/
def swap01 (ix : List Nat) : List Nat :=
  match ix with
  | a :: b :: rest => b :: a :: rest
  | xs => xs

/-- TRANSPOSE (Table K-62): of an MX format the element codes, since the scales are no elements. -/
def planTranspose (src dst : Layout) (rd : Bool → Nat → EngByte) : Plan :=
  if src.fmt != dst.fmt || decide (src.rank < 2) || swap01 src.dims != dst.dims then planLayout
  else planElements src dst rd 0 swap01

/-! ## MXQUANT (R244) -/

/-- The block of 32 consecutive K of a column: its values, zeros outside the source, and its code. -/
def mxSource (src : Layout) (rd : Bool → Nat → EngByte) (kb n : Nat) : List Fx × Byte :=
  let rs := (List.range 32).map (fun j =>
    let k := 32 * kb + j
    if k < src.dim 1 ∧ n < src.dim 0 then src.read rd [n, k] else .ok (0, false))
  (rs.zipIdx.map (fun p =>
    match p.1 with
    | .ok (v, _) => if 32 * kb + p.2 < src.dim 1 ∧ n < src.dim 0 then (fmtValue src.fmt v).getD (.num false 0 0 false) else .num false 0 0 false
    | .error _ => .num false 0 0 false), firstCode rs)

/-- The quantised block: codes, scale, and the code of its source. -/
def mxBlockOf (src : Layout) (rd : Bool → Nat → EngByte) (i8 : Bool) (mode kb n : Nat) : List Nat × Byte × Byte :=
  let s := mxSource src rd kb n
  let q := mxQuantise i8 s.1 mode ((List.range 32).map (fun _ => 0))
  (q.1, q.2.1, s.2)

/-- A value of a block whose source may have failed. -/
def mxByte (code : Byte) (v : Nat) : Option Nat := if code != 0 && code != codePoison then none else some v

/-- The codes at the destination's element addresses with a scale array (R244, SCALELOC 1). -/
def mxFlat (src dst : Layout) (rd : Bool → Nat → EngByte) (mode kb n : Nat) : Byte × List EngWrite :=
  let q := mxBlockOf src rd (dst.fmt == 0x18) mode kb n
  let bad := q.2.2 == codePoison
  (q.2.2,
    ((List.range 32).filter (fun j => decide (32 * kb + j < dst.dim 1))).flatMap (fun j =>
      dst.write [n, 32 * kb + j] (mxByte q.2.2 (q.1[j]?.getD 0)) bad)
    ++ [⟨dst.spad, dst.aux + kb * dst.dim 0 + n, (mxByte q.2.2 q.2.1.toNat).map (BitVec.ofNat 8), 0xFF, bad⟩])

/-- One block of a bank image at its place (Table K-13). -/
def mxImage (src dst : Layout) (rd : Bool → Nat → EngByte) (mode origin kt nt kb n : Nat) : Byte × List EngWrite :=
  let i8 := dst.fmt == 0x18
  let cols := if i8 then 64 else 128
  let q := mxBlockOf src rd i8 mode (8 * kt + kb) (cols * nt + n)
  let bad := q.2.2 == codePoison
  let val := fun j => mxByte q.2.2 (q.1[j]?.getD 0)
  let scale := if i8 then 16384 + 64 * kb + n else 16384 + 64 * (2 * kb + n / 64) + n % 64
  (q.2.2,
    (List.range 32).map (fun j =>
      let row := origin + 64 * (32 * kb + j)
      if i8 then ⟨dst.spad, row + n, (val j).map (BitVec.ofNat 8), 0xFF, bad⟩
      else ⟨dst.spad, row + n / 2, (val j).map (fun v => BitVec.ofNat 8 (if n % 2 = 1 then 16 * v else v)), if n % 2 = 1 then 0xF0 else 0x0F, bad⟩)
    ++ [⟨dst.spad, origin + scale, (mxByte q.2.2 q.2.1.toNat).map (BitVec.ofNat 8), 0xFF, bad⟩])

/-- The parts of a plan joined, the first code standing; what a failed read leaves without a value is not written. -/
def joinParts (xs : List (Byte × List EngWrite)) : Plan :=
  ⟨(xs.findSome? (fun p => if p.1 != 0 then some p.1 else none)).getD 0, (xs.flatMap Prod.snd).filter (fun w => w.byte.isSome)⟩

/-- MXQUANT (R244). -/
def planMxquant (src dst : Layout) (rd : Bool → Nat → EngByte) (mode : Nat) : Plan :=
  if !isSourceFmt src.fmt || src.rank != 2 || !isMx dst.fmt || (dst.scaleLoc == 1 && dst.rank != 2) then planLayout
  else if dst.scaleLoc == 1 then
    joinParts ((List.range ((dst.dim 1 + 31) / 32)).flatMap (fun kb => (List.range (dst.dim 0)).map (fun n => mxFlat src dst rd mode kb n)))
  else if dst.scaleLoc == 2 && decide (imageBytes ≤ dst.stride 1) then
    let cols := if dst.fmt == 0x18 then 64 else 128
    let nt := (src.dim 0 + cols - 1) / cols
    let kt := (src.dim 1 + 255) / 256
    joinParts ((List.range kt).flatMap (fun a => (List.range nt).flatMap (fun b =>
      let origin := dst.base + (a * nt + b) * dst.stride 1
      (0, if dst.fmt == 0x18 then (List.range 512).map (fun j => ⟨dst.spad, origin + 16384 + 512 + j, some 0, 0xFF, false⟩) else [])
        :: (List.range 8).flatMap (fun kb => (List.range cols).map (fun n => mxImage src dst rd mode origin a b kb n)))))
  else planLayout

/-! ## Blocks of a tensor (R245) -/

/-- The indices of element e of block j, and whether the tensor has it. -/
def Layout.blockIndex (x : Layout) (j e : Nat) : List Nat × Bool :=
  let i0 := 2 ^ x.blk0 * (j % x.blocks0) + e % 2 ^ x.blk0
  let i1 := 2 ^ x.blk1 * (j / x.blocks0 % x.blocks1) + e / 2 ^ x.blk0
  let h := j / (x.blocks0 * x.blocks1)
  ([i0, i1, h % x.dim 2, h / x.dim 2 % x.dim 3, h / (x.dim 2 * x.dim 3)], decide (i0 < x.dim 0) && decide (i1 < x.dim 1))

/-- The elements of a block. -/
def Layout.blockSize (x : Layout) : Nat := 2 ^ (x.blk0 + x.blk1)

/-- The reads of every block, zeros outside the tensor. -/
def Layout.blockReads (x : Layout) (rd : Bool → Nat → EngByte) : List (Except Byte (Nat × Bool)) :=
  (List.range x.blockCount).flatMap (fun j => (List.range x.blockSize).map (fun e =>
    let p := x.blockIndex j e
    if p.2 then x.read rd p.1 else .ok (0, false)))

/-- The values of block j among those of all blocks. -/
def Layout.blockOf (x : Layout) (vs : List Nat) (j : Nat) : List Fx :=
  ((vs.drop (j * x.blockSize)).take x.blockSize).map (fun v => (fmtValue x.fmt v).getD (.num false 0 0 false))

/-! ## BFPCOMP and BFPEXP (R245) -/

/-- ⌊log2 TOL⌋ + 1. -/
def bfpStep (tol : Word) : Int := ((tol.extractLsb' 23 8).toNat : Int) - 126

/-- The bits that a signed number needs. -/
def signedBits (q : Int) : Nat := if 0 ≤ q then Nat.log2 (2 * q.toNat + 1) + 1 else Nat.log2 (2 * (-q - 1).toNat + 1) + 1

/-- Bits packed little-endian into bytes. -/
def packBits (xs : List Bool) : List Byte :=
  (List.range ((xs.length + 7) / 8)).map (fun j => (BitVec.ofFnLE fun (i : Fin 8) => (xs[8 * j + i.val]?.getD false)))

/-- Zeros up to a multiple of 16 bytes. -/
def pad16 (bs : List Byte) : List Byte := bs ++ List.replicate ((16 - bs.length % 16) % 16) 0

/-- One encoded block (R245). -/
def bfpBlock (s : Int) (xs : List Fx) : List Byte :=
  let qs := xs.map (fun x => (roundInt (-2147483648) 2147483647 (x.scale (-s)) 0 0 32).1)
  let w := if qs.all (· == 0) then 0 else (qs.map signedBits).foldl max 1
  if xs.any Fx.special || 24 < w then
    pad16 ((0xFF : Byte) :: xs.flatMap (fun x => leBytes 4 (fmtF32.round x 0 0 32).1))
  else
    pad16 (BitVec.ofNat 8 w :: packBits (qs.flatMap (fun q => (List.range w).map (fun i => (BitVec.ofInt 32 q).getLsbD i))))

/-- The parts of the buffer of BFPCOMP (R245), each with its offset and the reads that it comes from: the words that the blocks' sizes
give, the rest of the header, the index, and the blocks. -/
def bfpParts (src : Layout) (vs : List Nat) : Nat × List (List (Nat × Nat) × Nat × List Byte) :=
  let s := bfpStep src.tol
  let n := src.blockSize
  let blocks := (List.range src.blockCount).map (fun j => bfpBlock s (src.blockOf vs j))
  let start := 64 + ((4 * src.blockCount + 15) / 16) * 16
  let offs := (blocks.foldl (fun p b => (p.1 + b.length, p.2 ++ [p.1])) (start, ([] : List Nat))).2
  let total := start + (blocks.map List.length).foldl (· + ·) 0
  let fixed := leBytes 4 src.blockCount
    ++ [BitVec.ofInt 8 (s + 127), BitVec.ofNat 8 src.fmt, BitVec.ofNat 8 src.blk0, BitVec.ofNat 8 src.blk1, BitVec.ofNat 8 src.rank, 0, 0, 0]
    ++ src.rawDims ++ List.replicate 28 0
  (total,
    [([(0, n * src.blockCount)], 0, leBytes 4 (total / 16)), ([], 4, fixed)]
    ++ offs.zipIdx.map (fun p => ([(0, n * p.2)], 64 + 4 * p.2, leBytes 4 (p.1 / 16)))
    ++ [([], 64 + 4 * src.blockCount, List.replicate (start - 64 - 4 * src.blockCount) 0)]
    ++ (blocks.zip offs).zipIdx.map (fun p => ([(0, n * (p.2 + 1))], p.1.2, p.1.1)))

/-- BFPCOMP (R245, Table K-62): what lies beyond a capacity that is too small is not written. -/
def planBfpcomp (src dst : Layout) (rd : Bool → Nat → EngByte) : Plan :=
  if !isSourceFmt src.fmt || !tolUsable src.tol || dst.fmt != 0x0A || dst.rank != 1 then planLayout
  else
    planFrom (src.blockReads rd) (fun vs =>
      let p := bfpParts src vs
      (if dst.dim 0 < p.1 then 0x09 else 0,
        p.2.map (fun x => ⟨x.1, writeBytes dst.spad (dst.base + x.2.1) (x.2.2.take (dst.dim 0 - x.2.1))⟩)))

/-- n bits of a list of bytes from a bit on, as a signed number. -/
def signedField (bs : List Byte) (bit n : Nat) : Int :=
  let v := (List.range n).foldl (fun acc i => if (bs[(bit + i) / 8]?.getD 0).getLsbD ((bit + i) % 8) then acc + 2 ^ i else acc) 0
  (BitVec.ofNat n v).toInt

/-- Element e of the block at an offset with the bytes of the block that it comes from, none when the buffer does not hold it. -/
def bfpElem (bs : List Byte) (s : Int) (off e : Nat) : Option (Fx × List (Nat × Nat)) :=
  match bs[off]? with
  | none => none
  | some w =>
    if w == 0xFF then
      (if off + 5 + 4 * e ≤ bs.length then some (fmtF32.value (bytesAt bs (off + 1 + 4 * e) 4), [(off, 1), (off + 1 + 4 * e, 4)]) else none)
    else if 24 < w.toNat then none
    else if w.toNat = 0 then some (.num false 0 0 false, [(off, 1)])
    else if off + 1 + (w.toNat * (e + 1) + 7) / 8 ≤ bs.length then
      some ((Fx.ofInt (signedField (bs.drop (off + 1)) (w.toNat * e) w.toNat)).scale s,
        [(off, 1), (off + 1 + w.toNat * e / 8, (w.toNat * (e + 1) + 7) / 8 - w.toNat * e / 8)])
    else none

/-- The shape of a buffer's header over the destination's record. -/
def bfpShape (bs : List Byte) (dst : Layout) : Layout := { dst with blk0 := bytesAt bs 10 1, blk1 := bytesAt bs 11 1 }

/-- Whether a buffer's header fits the destination (Table K-62). -/
def bfpHeaderOk (bs : List Byte) (dst : Layout) : Bool :=
  decide (64 ≤ bs.length) && bytesAt bs 12 1 == dst.rank && (List.range dst.rank).all (fun k => bytesAt bs (16 + 4 * k) 4 == dst.dim k)
    && decide (bytesAt bs 10 1 + bytesAt bs 11 1 ≤ 10) && bytesAt bs 4 4 == (bfpShape bs dst).blockCount

/-- BFPEXP (R245, Table K-62): an element comes from the header, its block's word of the index and its part of the block. -/
def planBfpexp (src dst : Layout) (rd : Bool → Nat → EngByte) (mode : Nat) : Plan :=
  if src.fmt != 0x0A || src.rank != 1 || !isSourceFmt dst.fmt then planLayout
  else
    planFrom ((List.range (src.dim 0)).map (fun j => readBytes rd src.spad (src.base + j) 1)) (fun vs =>
      let bs := vs.map (BitVec.ofNat 8)
      if !bfpHeaderOk bs dst then (0x08, [])
      else
        let sh := bfpShape bs dst
        let s : Int := (bytesAt bs 8 1 : Int) - 127
        let xs := (List.range dst.count).map (fun j =>
          let p := bfpWhere sh (dst.indices j)
          (bfpElem bs s (16 * bytesAt bs (64 + 4 * p.1) 4) p.2).map (fun x => (x.1, (0, 64) :: (64 + 4 * p.1, 4) :: x.2)))
        if xs.any Option.isNone then (0x08, [])
        else (0, xs.zipIdx.filterMap (fun p => p.1.map (fun x =>
          (⟨x.2, dst.write (dst.indices p.2) (some (fmtEncode dst.fmt x.1 mode)) false⟩ : Part)))))

/-! ## LZDEC (R246) -/

/-- A byte of the output with the number of stream bytes that it comes from. -/
abbrev LzByte := Byte × Nat

/-- A copy of n bytes, one at a time, from d bytes back in the output, by the stream's first m bytes. -/
def lzCopy (out : List LzByte) (d n m : Nat) : List LzByte :=
  match n with
  | 0 => out
  | k + 1 => lzCopy (out ++ [((out[out.length - d]?.getD (0, 0)).1, m)]) d k m

/-- The output of a stream with the code that ends it; the fuel is the number of its bytes, and m of them are behind. -/
def lzDecode (fuel cap m : Nat) (bs : List Byte) (out : List LzByte) : Byte × List LzByte :=
  match fuel with
  | 0 => (0, out)
  | k + 1 =>
    match bs with
    | [] => (0, out)
    | t :: rest =>
      if !t.getLsbD 7 then
        let n := t.toNat + 1
        if rest.length < n then (0x0A, out)
        else
          let out1 := out ++ (rest.take n).zipIdx.map (fun p => (p.1, m + 2 + p.2))
          if cap < out1.length then (0x09, out1.take cap) else lzDecode k cap (m + 1 + n) (rest.drop n) out1
      else
        match rest with
        | a :: b :: rest2 =>
          let d := a.toNat + 256 * b.toNat
          if d = 0 then (if rest2.isEmpty then (0, out) else (0x0A, out))
          else if out.length < d then (0x0A, out)
          else
            let out1 := lzCopy out d (t.toNat % 128 + 3) (m + 3)
            if cap < out1.length then (0x09, out1.take cap) else lzDecode k cap (m + 3) rest2 out1
        | _ => (0x0A, out)

/-- LZDEC (R246, Table K-62): a byte comes from the stream up to it, and the length that AUXBASE receives from the whole stream. -/
def planLzdec (src dst : Layout) (rd : Bool → Nat → EngByte) : Plan :=
  if src.fmt != 0x0A || dst.fmt != 0x0A then planLayout
  else
    planFrom ((List.range (src.dim 0)).map (fun j => readBytes rd src.spad (src.base + j) 1)) (fun vs =>
      let r := lzDecode (vs.length + 1) (dst.dim 0) 0 (vs.map (BitVec.ofNat 8)) []
      let aux : List Part := if dst.aux ≠ 0 ∧ r.1 = 0 then [⟨[(0, vs.length)], writeBytes dst.spad dst.aux (leBytes 8 r.2.length)⟩] else []
      (r.1, r.2.zipIdx.map (fun p => (⟨[(0, p.1.2)], writeBytes dst.spad (dst.base + p.2) [p.1.1]⟩ : Part)) ++ aux))

/-! ## MERGE (R247) -/

/-- Whether two values differ by at most TOL. -/
def withinTol (tol x y : Fx) : Bool :=
  match x, y with
  | .inf a, .inf b => a == b
  | .num _ _ _ _, .num _ _ _ _ =>
    let d := Fx.add 0 x y.neg
    let m := if d.isNeg then d.neg else d
    !tol.lt m
  | _, _ => false

/-- Whether two blocks match. -/
def blocksMatch (tol : Fx) (xs ys : List Fx) : Bool := (xs.zip ys).all (fun p => withinTol tol p.1 p.2)

/-- The representatives of blocks in order: each block's, from those found so far (R247). -/
def representatives (tol : Fx) (blocks : List (List Fx)) : List Nat :=
  (blocks.zipIdx.foldl (fun (p : List (Nat × List Fx) × List Nat) b =>
    let recent := p.1.drop (p.1.length - 256)
    match recent.find? (fun r => blocksMatch tol r.2 b.1) with
    | some r => (p.1, p.2 ++ [r.1])
    | none => (p.1 ++ [(b.2, b.1)], p.2 ++ [b.2])) ([], [])).2

/-- MERGE (R247, Table K-62): the entry of a block comes from the blocks up to it. -/
def planMerge (src dst : Layout) (rd : Bool → Nat → EngByte) : Plan :=
  if !isSourceFmt src.fmt || !tolUsable src.tol || dst.fmt != 0x04 || dst.rank != 1 then planLayout
  else
    planFrom (src.blockReads rd) (fun vs =>
      let reps := representatives (fmtF32.value src.tol.toNat) ((List.range src.blockCount).map (src.blockOf vs))
      (if dst.dim 0 < src.blockCount then 0x09 else 0,
        (reps.take (dst.dim 0)).zipIdx.map (fun p =>
          ⟨[(0, src.blockSize * (p.2 + 1))], writeBytes dst.spad (dst.base + 4 * p.2) (leBytes 4 p.1)⟩)))

/-! ## CRC32C (Table K-62) -/

/-- One byte of the reflected CRC. -/
def crcByte (crc : Word) (b : Byte) : Word :=
  (List.range 8).foldl (fun c _ => if c.getLsbD 0 then (c >>> 1) ^^^ 0x82F63B78 else c >>> 1) (crc ^^^ b.setWidth 32)

/-- CRC-32C of bytes from an initial P. -/
def crc32c (p : Word) (bs : List Byte) : Word := ~~~(bs.foldl crcByte (~~~p))

/-- CRC32C (Table K-62). -/
def planCrc (src dst : Layout) (rd : Bool → Nat → EngByte) (p : Word) : Plan :=
  if src.fmt != 0x0A || src.rank != 1 then planLayout
  else
    planFrom ((List.range (src.dim 0)).map (fun j => readBytes rd src.spad (src.base + j) 1))
      (fun vs => (0, [⟨[(0, vs.length)], writeBytes dst.spad dst.base (leBytes 4 (crc32c p (vs.map (BitVec.ofNat 8))).toNat)⟩]))

/-- The plan of a transform (Table K-62). -/
def planXform (op rnd : BitVec 3) (p : Word) (src dst : Layout) (rd : Bool → Nat → EngByte) : Plan :=
  match op.toNat with
  | 0 => planRelayout src dst rd rnd.toNat
  | 1 => planTranspose src dst rd
  | 2 => planMxquant src dst rd rnd.toNat
  | 3 => planBfpcomp src dst rd
  | 4 => planBfpexp src dst rd rnd.toNat
  | 5 => planLzdec src dst rd
  | 6 => planMerge src dst rd
  | _ => planCrc src dst rd p

end Sys2Proof.Machine
end

