-- ==== Sys2Proof/Machine/EngineEvents.lean ====
section
/-! DEFINITION. What the engines do between the fork and the completion of an operation, and the arrival (spec 01 R23, spec 04 R115
to R122, spec 09 R234 to R250, spec 10 R266). Caravan moves its bytes chunk by chunk, Sirocco part by part (log 2). -/

namespace Sys2Proof.Machine

/-! ## Places that an engine reaches -/

/-- A byte that an engine reaches: in global memory, at its home slice or in the die's L2, or in the scratchpad of a team. -/
inductive Spot
  | global (pa : Nat) (home : Bool)
  | spad (a : Nat)
  deriving DecidableEq, Repr

/-- The code that cuts an operation short. -/
def abortCode (x : Abort) : Byte := match x with | .cancelled => 0x0C | .timeout => 0x0D

/-- The resident team of an engine operation. -/
def State.opTeam? (s : State) (d : DieId) (op : EngineOp) : Option Team := s.team? d op.core op.team

/-- The place of an address of an operation (R86, R88, R344). -/
def State.spot (s : State) (d : DieId) (op : EngineOp) (spad : Bool) (a : Nat) (kind : AccessKind) : Except Byte Spot :=
  if spad then
    match s.opTeam? d op with
    | none => .error 0x04
    | some t =>
      match (s.core d op.core).spadPlace t a with
      | .ok _ => .ok (.spad a)
      | .error e => .error (if e == 0x23 then 0x03 else 0x04)
  else
    match s.translate d none op.asid (BitVec.ofNat 64 a) kind with
    | .ok x => .ok (.global x.pa (x.attrs.cache == 2))
    | .error _ => .error codeAccess

/-- A byte at a place, and whether it is poisoned. -/
def State.spotByte (s : State) (d : DieId) (op : EngineOp) (x : Spot) : Byte × Bool :=
  match x with
  | .global pa home => (if home then s.homeByte pa else s.dieByte d pa, s.poisonedAt pa)
  | .spad a =>
    match s.opTeam? d op with
    | some t => ((s.core d op.core).spadByte t a, (s.core d op.core).spadPoisoned t a 1)
    | none => (0, false)

/-- What an engine reads at an address. -/
def State.engRead (s : State) (d : DieId) (op : EngineOp) (spad : Bool) (a : Nat) : EngByte :=
  (s.spot d op spad a .read).map (s.spotByte d op)

/-- A byte put at a place, its unit's poison untouched. -/
def State.spotPut (s : State) (d : DieId) (op : EngineOp) (x : Spot) (home : Bool) (b : Byte) : State :=
  match x with
  | .global pa uncached => if home || uncached then s.writeHome (some d) pa [b] else s.writeDie d pa [b]
  | .spad a =>
    match s.opTeam? d op with
    | some t => s.modCore d op.core (fun k => k.spadPut t a b)
    | none => s

/-- The poison of the unit at a place set or cleared. -/
def State.spotMark (s : State) (d : DieId) (op : EngineOp) (x : Spot) (bad : Bool) : State :=
  match x with
  | .global pa _ => if bad then s.addPoison [s.homeAddr (pa / 16 * 16) / 16] else s.clearPoison (pa / 16 * 16) 16
  | .spad a =>
    match s.opTeam? d op with
    | some t => s.modCore d op.core (fun k => k.spadMark t a bad)
    | none => s

/-! ## Plans performed (R116, R117, Table K-58) -/

/-- The byte that a write leaves: a free one where the plan leaves it open (log 15). -/
def EngWrite.value (w : EngWrite) (old : Byte) (fresh : Nat) : Byte :=
  let b := w.byte.getD (Config.freeByte (freeAt fresh (2 * w.addr + (if w.spad then 1 else 0))))
  (old &&& ~~~w.mask) ||| (b &&& w.mask)

/-- One write of a plan performed; one whose place cannot be reached is left out. -/
def State.performWrite (s : State) (d : DieId) (op : EngineOp) (home : Bool) (w : EngWrite) : State :=
  match s.spot d op w.spad w.addr .write with
  | .ok x => s.spotPut d op x home (w.value (s.spotByte d op x).1 s.fresh)
  | .error _ => s

/-- The 16-byte unit of a write. -/
def EngWrite.unit (w : EngWrite) : Bool × Nat := (w.spad, w.addr / 16)

/-- The bits of a byte that writes take. -/
def maskAt (ws : List EngWrite) (a : Nat) : Byte := ws.foldl (fun m w => if w.addr = a then m ||| w.mask else m) 0

/-- The writes of one unit performed, and its poison: set where poison reached it, cleared where the unit is written whole. -/
def State.performUnit (s : State) (d : DieId) (op : EngineOp) (home : Bool) (u : Bool × Nat) (ws : List EngWrite) : State :=
  let s1 := ws.foldl (fun t w => t.performWrite d op home w) s
  match s1.spot d op u.1 (16 * u.2) .write with
  | .error _ => s1
  | .ok x =>
    if ws.any EngWrite.poison then s1.spotMark d op x true
    else if (span (16 * u.2) 16).all (fun a => maskAt ws a == 0xFF) then s1.spotMark d op x false
    else s1

/-- The code of a plan with its destination tried: the first place that cannot be reached. -/
def State.planCode (s : State) (d : DieId) (op : EngineOp) (p : Plan) : Byte :=
  if p.code != 0 then p.code
  else
    (p.writes.findSome? (fun w =>
      match s.spot d op w.spad w.addr .write with
      | .error e => some e
      | .ok _ => none)).getD 0

/-- The choice that leaves a unit of a failed operation old or new (R117): free (log 15). -/
def freeChoice (fresh unit : Nat) : Bool := (Config.freeWord (freeAt fresh unit)).getLsbD 0

/-- A plan performed: every unit when it ends well; with an error each unit is written or not, but one that poison reached is
(R117, Table K-58). -/
def State.perform (s : State) (d : DieId) (op : EngineOp) (home : Bool) (p : Plan) : State :=
  let us := (p.writes.map EngWrite.unit).eraseDups
  (us.foldl (fun t u =>
    let ws := p.writes.filter (fun w => w.unit == u)
    if p.code == 0 || ws.any EngWrite.poison || freeChoice s.fresh u.2 then t.performUnit d op home u ws else t) s).freshened

/-! ## The arrival (R115, R206, R236, R237) -/

/-- An error register that receives a code (Table K-60): the first stays, later ones are counted. -/
def noteError (w : Word) (code : Byte) (phase : BitVec 16) : Word :=
  if code == 0 then w
  else if w.getLsbD 31 then (if w.extractLsb' 24 7 == 127 then w else w + 0x01000000)
  else 0x80000000 ||| (phase.setWidth 32 <<< 8) ||| code.setWidth 32

/-- An engine arrival at a barrier register of a team: PEND falls, the arrival is counted, and an error is recorded with the phase
before it. -/
def State.arriveEngine (s : State) (d : DieId) (c : CoreId) (uid : Nat) (b : Fin 16) (code : Byte) : State :=
  match s.teamAnywhere? d c uid with
  | none => s
  | some t =>
    let x := t.barriers[b]
    let s1 := s.modTeam d c uid (fun t => { t with berr := t.berr.set b (noteError t.berr[b] code x.phase) })
    s1.putBar d c t b { x.arrive 1 with pend := x.pend - 1 }

/-- One copy of a tag completed in a group (R239, R240). -/
def Group.tagDone (g : Group) (n : Fin 8) (code : Byte) : Group :=
  Group.releaseTag { g with tags := g.tags.set n (g.tags[n] - 1), cterr := g.cterr.set n (noteError g.cterr[n] code 0) } n

/-- A copy of a tag completed, in the group where it stands or in its saved context (R356). -/
def State.tagDone (s : State) (d : DieId) (op : EngineOp) (n : Fin 8) (code : Byte) : State :=
  let r : GRef := ⟨d, op.core, op.slot⟩
  if (match s.group? r with | some g => g.team == op.team | none => false) then s.rouse r (fun g => g.tagDone n code)
  else
    s.modDie d (fun x => { x with saved := x.saved.map (fun v =>
      if v.team.uid == op.team then
        { v with groups := v.groups.map (fun p => if p.1 == op.slot then (p.1, p.2.tagDone n code) else p) }
      else v) })

/-- A team whose inputs have landed: its groups' waits for a pick start (R23, R44). -/
def State.landTeam (s : State) (d : DieId) (c : CoreId) (t : Team) : State :=
  (s.groupsOf d c t).foldl (fun u p => u.modGroup p.1 (fun g => { g with sched := { g.sched with eligibleSince := s.now } }))
    (s.modTeam d c t.uid (fun t => { t with landed := true }))

/-- A declared input that has landed, or the end of the team (R23). -/
def State.inputDone (s : State) (d : DieId) (op : EngineOp) (code : Byte) : State :=
  match s.team? d op.core op.team with
  | none => s
  | some t =>
    if code != 0 then s.endTeam d op.core t (some (0x03, (t.teamIx.setWidth 24 : BitVec 24) ++ code))
    else
      let b := t.barriers[(0 : Fin 16)]
      let x := b.arrive 1
      let s1 := s.putBar d op.core t 0 { x with pend := b.pend - 1 }
      if x.phase != 0 && !t.landed then s1.landTeam d op.core t else s1

/-- An operation that leaves the queues of its die. -/
def State.dropEngine (s : State) (d : DieId) (id : Nat) : State := s.modDie d (fun x => { x with engines := x.engines.filter (fun e => e.id != id) })

/-- The end of an operation with a code: it leaves its queue, its core acquires at the level of the join, and its completion object
changes. -/
def State.complete (s : State) (d : DieId) (op : EngineOp) (lvl : Level) (code : Byte) : State :=
  let s1 := (s.dropEngine d op.id).acquireAt d op.core lvl
  match op.completion with
  | .nomad => s1
  | .bar b => s1.arriveEngine d op.core op.team b code
  | .tag n => s1.tagDone d op n code
  | .input => s1.inputDone d op code
  | .interval =>
    let n := match op.kind with | .xsend _ _ n => n | _ => 0
    s1.modDie d (fun x => { x with
      xerr := keySet x.xerr ⟨op.asid, op.grid⟩ (noteError (keyGet x.xerr ⟨op.asid, op.grid⟩ 0) code (BitVec.ofNat 16 n)) })

/-- An engine operation of a die by its number. -/
def State.engine? (s : State) (d : DieId) (id : Nat) : Option EngineOp := s.dies[d].engines.find? (fun e => e.id == id)

/-- Whether an operation with a scratchpad side stands still: its team is saved (R356). -/
def State.stopped (s : State) (d : DieId) (op : EngineOp) : Bool := s.dies[d].saved.any (fun v => v.team.uid == op.team)

/-! ## The parts of an operation (R72, R236, R238, R239, R356) -/

/-- The bytes that Caravan moves for an operation. -/
def EngineOp.work (x : EngineOp) : Nat := match x.kind with | .cpyt _ => 32 | _ => x.len

/-- Whether every chunk of an operation has been sent; only Caravan's operations are sent in chunks. -/
def EngineOp.moved (x : EngineOp) : Bool := x.kind.queue != .caravan || decide (x.work ≤ x.sent)

/-- The size of an operation's next chunk: 2 KiB, less at the end (R72). -/
def EngineOp.chunk (x : EngineOp) : Nat := min 2048 (x.work - x.sent)

/-- Whether an operation has a scratchpad or bank side, at which a save stops it (R356). -/
def EngineOp.bankSide (x : EngineOp) : Bool :=
  match x.kind with
  | .cpy dir | .cpyt dir => dirSpad dir
  | .wload _ | .input => true
  | .xsend spad _ _ => spad
  | _ => false

/-- The 16-byte units of a length. -/
def unitsOf (n : Nat) : List Nat := List.range ((n + 15) / 16)

/-- Whether two ranges of n bytes overlap. -/
def overlaps (a b n : Nat) : Bool := decide (a < b + n) && decide (b < a + n)

/-- The first failure of a scratchpad side, in ascending address (R238). -/
def State.sideFault (s : State) (d : DieId) (op : EngineOp) (a n : Nat) : Option Byte :=
  (unitsOf n).findSome? (fun j =>
    match s.spot d op true (a + 16 * j) .read with
    | .error e => some e
    | .ok _ => none)

/-- The checks of a copy that come before anything moves (R238). -/
def State.copyRefused (s : State) (d : DieId) (op : EngineOp) (dir : BitVec 3) : Option Byte :=
  let srcSpad := !dirSrcGlobal dir
  let dstSpad := !dirDstGlobal dir
  if srcSpad == dstSpad && overlaps op.src.toNat op.dst.toNat op.len then some 0x05
  else
    match (if srcSpad then s.sideFault d op op.src.toNat op.len else none) with
    | some e => some e
    | none => if dstSpad then s.sideFault d op op.dst.toNat op.len else none

/-- The dies of the superstep set of a grid (R211). -/
def State.stepSet (s : State) (k : GridKey) : List DieId :=
  match s.launches.find? (fun l => l.asid == k.asid && l.grid == k.grid) with
  | some l => l.ranges.map (fun x => x.1)
  | none => []

/-- The code of an operation of Caravan that ends before it moves anything (R119, R238). -/
def State.refusedOp (s : State) (d : DieId) (op : EngineOp) : Option Byte :=
  match op.kind with
  | .cpy dir => s.copyRefused d op dir
  | .input => s.copyRefused d op 0
  | .xsend _ target _ => if (s.stepSet ⟨op.asid, op.grid⟩).contains target then none else some codeNotInSet
  | _ => none

/-- The writes of n bytes of a copy from one on, whose first m bytes come from the source, and whose others are zero; the code of its
source. -/
def State.copyPlan (s : State) (d : DieId) (op : EngineOp) (srcSpad dstSpad : Bool) (m from_ n : Nat) : Plan :=
  let xs := (List.range' from_ n).map (fun j => (j, if j < m then s.engRead d op srcSpad (op.src.toNat + j) else .ok (0, false)))
  ⟨firstCode (xs.map (fun p => p.2.map (fun x => (x.1.toNat, x.2)))),
    xs.filterMap (fun p =>
      match p.2 with
      | .ok (b, bad) => some ⟨dstSpad, op.dst.toNat + p.1, some b, 0xFF, bad⟩
      | .error _ => none)⟩

/-- The plan of n bytes of an operation of Caravan that copies (R238, R239, R23). -/
def State.partPlan (s : State) (d : DieId) (op : EngineOp) (from_ n : Nat) : Plan :=
  match op.kind with
  | .cpy dir | .cpyt dir => s.copyPlan d op (!dirSrcGlobal dir) (!dirDstGlobal dir) op.len from_ n
  | _ => s.copyPlan d op false true op.len from_ n

/-- A code that joins the one that an operation has: the first stands. -/
def EngineOp.joined (op : EngineOp) (code : Byte) : Byte := if op.code != 0 then op.code else code

/-- The bytes of an `xsend` put into the window of its target, unit by unit; poison travels with its unit. -/
def State.windowWrite (s : State) (target : DieId) (off : Nat) (xs : List (Nat × EngByte)) (code : Byte) : State :=
  ((unitsOf xs.length).foldl (fun t u =>
    let ws := xs.filterMap (fun p => match p.2 with | .ok x => if p.1 / 16 = u then some x else none | .error _ => none)
    let bad := ws.any Prod.snd
    if ws.length < 16 || !(code == 0 || bad || freeChoice s.fresh u) then t
    else
      let a := Config.xwinPa target + off + 16 * u
      let t1 := t.writeDie target a (ws.map Prod.fst)
      if bad then t1.addPoison [t1.homeAddr a / 16] else t1) s).freshened

/-- The global ranges that an operation translates for n bytes from one on: first byte and length (R338). -/
def EngineOp.ranges (x : EngineOp) (from_ n : Nat) : List (DWord × Nat) :=
  let at_ := fun (a : DWord) => (a + BitVec.ofNat 64 from_, n)
  match x.kind with
  | .cpy dir | .cpyt dir => (if dirSrcGlobal dir then [at_ x.src] else []) ++ (if dirDstGlobal dir then [at_ x.dst] else [])
  | .xsend spad _ _ => if spad then [] else [at_ x.src]
  | .wload _ | .input => [at_ x.src]
  | .coll _ _ _ _ _ => [at_ x.src, at_ x.dst]
  | _ => []

/-- What the translations of a part of an operation leave in the die's TLB. -/
def State.noteEngine (s : State) (d : DieId) (op : EngineOp) (from_ n : Nat) : State :=
  (op.ranges from_ n).foldl (fun t x => t.noteRange d op.asid x.1 x.2) s

/-- n bytes of an operation of Caravan moved from one on, and the code after that: after an error each unit is written or not (R116, R117).
A `wload` writes its bank at its completion, in its place in bank order (R266); Nomad's copy writes at the home slices (R278). -/
def State.movePart (s0 : State) (d : DieId) (op : EngineOp) (from_ n : Nat) : State × Byte :=
  let s := s0.noteEngine d op from_ n
  match op.kind with
  | .cpy _ | .cpyt _ | .input =>
    let p := s.partPlan d op from_ n
    let code := op.joined (s.planCode d op p)
    (s.perform d op (op.completion == .nomad) { p with code := code }, code)
  | .xsend spad target _ =>
    let xs := (List.range n).map (fun j => (j, s.engRead d op spad (op.src.toNat + from_ + j)))
    let code := op.joined (firstCode (xs.map (fun p => p.2.map (fun x => (x.1.toNat, x.2)))))
    (s.windowWrite target (op.dst.toNat + from_) xs code, code)
  | _ => (s, op.code)

/-- The operations of a class that have a chunk to send: those of a saved team stand still (R356), and one that ends before it moves anything
sends none (R119, R238). -/
def State.chunkOps (s : State) (d : DieId) (cls : Fin 4) : List EngineOp :=
  s.dies[d].engines.filter (fun e =>
    e.kind.queue == .caravan && e.cls.toFin == cls && !e.moved && !(e.bankSide && s.stopped d e) && (s.refusedOp d e).isNone)

/-- The operation of a class that sends next: the one that has sent least, then the oldest (log 86). -/
def State.nextChunk (s : State) (d : DieId) (cls : Fin 4) : Option EngineOp :=
  (s.chunkOps d cls).foldl (fun acc e =>
    match acc with
    | some x => if e.sent < x.sent then some e else acc
    | none => some e) none

/-- The quantum of a class in bytes (Table K-9). -/
def Die.quantum (x : Die) (cls : Fin 4) : Nat := ((x.cvquant.extractLsb' (4 * cls.val) 4).toNat + 1) * 2048

/-- The first class from a visit on that can send, with its operation (R72). -/
def State.sender (s : State) (d : DieId) (from_ : Fin 4) : Option (Fin 4 × EngineOp) :=
  ((List.finRange 4).map (fun (j : Fin 4) => from_ + j)).findSome? (fun c =>
    match s.nextChunk d c with
    | some e => if e.chunk ≤ s.dies[d].caravan.deficit[c] then some (c, e) else none
    | none => none)

/-- The start of a round: a class with work adds its quantum to its deficit, one without has none (R72). -/
def State.startRound (s : State) (d : DieId) : State :=
  s.modDie d (fun x => { x with caravan :=
    { deficit := Vector.ofFn fun c => if (s.nextChunk d c).isSome then x.caravan.deficit[c] + x.quantum c else 0
      visit := 0, opened := true } })

/-- One chunk of Caravan sent (R72): the next class of the pass that can send does; when none can, the round ends and another begins. -/
def State.sendChunk (s : State) (d : DieId) : State :=
  match (if s.dies[d].caravan.opened then s.sender d s.dies[d].caravan.visit else none) with
  | none => s.startRound d
  | some (c, e) =>
    let p := s.movePart d e e.sent e.chunk
    (p.1.count d 6 e.chunk).modDie d (fun x => { x with
      engines := x.engines.map (fun y => if y.id == e.id then { y with sent := y.sent + y.chunk, code := p.2 } else y)
      caravan := { x.caravan with deficit := x.caravan.deficit.set c (x.caravan.deficit[c] - e.chunk), visit := c + 1 } })

/-! ## Copies (R23, R238, R239) and `xsend` (R118, R119, R250) -/

/-- What is left of an operation of Caravan, moved as it ends, and the code of its end. -/
def State.moveRest (s : State) (d : DieId) (op : EngineOp) (abort : Option Abort) : State × Byte :=
  s.movePart d (match abort with | some a => { op with code := op.joined (abortCode a) } | none => op) op.sent (op.work - op.sent)

/-- An operation of Caravan that ends: before it moves anything, or once its chunks have been sent, one of them has met an error, or it is cut
short. -/
def State.endMove (s : State) (d : DieId) (op : EngineOp) (abort : Option Abort) : State :=
  match s.refusedOp d op with
  | some e => s.complete d op .die e
  | none =>
    if abort.isNone && op.code == 0 && !op.moved then s
    else
      let p := s.moveRest d op abort
      p.1.complete d op .die p.2

/-- CPY_COMPLETE (R238). -/
def execCpyComplete (d : DieId) (id : Nat) (abort : Option Abort) (s : State) : EventResult :=
  match s.engine? d id with
  | some op =>
    match op.kind with
    | .cpy dir => if dirSpad dir && s.stopped d op || op.completion == .nomad then .next s else .next (s.endMove d op abort)
    | _ => .next s
  | none => .next s

/-- CPYT_COPY_COMPLETE (R239). -/
def execCpytCopyComplete (d : DieId) (id : Nat) (abort : Option Abort) (s : State) : EventResult :=
  match s.engine? d id with
  | some op =>
    match op.kind with
    | .cpyt dir => if dirSpad dir && s.stopped d op then .next s else .next (s.endMove d op abort)
    | _ => .next s
  | none => .next s

/-- DECLARED_INPUT_COMPLETE (R23). -/
def execDeclaredInputComplete (d : DieId) (id : Nat) (abort : Option Abort) (s : State) : EventResult :=
  match s.engine? d id with
  | some op =>
    match op.kind with
    | .input => if s.stopped d op then .next s else .next (s.endMove d op abort)
    | _ => .next s
  | none => .next s

/-- XSEND_COMPLETE (R119, R250). -/
def execXsendComplete (d : DieId) (id : Nat) (abort : Option Abort) (s : State) : EventResult :=
  match s.engine? d id with
  | some op =>
    match op.kind with
    | .xsend spad _ _ => if spad && s.stopped d op then .next s else .next (s.endMove d op abort)
    | _ => .next s
  | none => .next s

/-- A plan that is cut short. -/
def Plan.abort (p : Plan) (x : Option Abort) : Plan :=
  match x with
  | some a => { p with code := abortCode a }
  | none => p

/-! ## Transforms (R242, R243) -/

/-- What the translations of a transform leave in the die's TLB: its records, its tensors and what AUXBASE names (R338). -/
def State.noteXform (s : State) (d : DieId) (op : EngineOp) (x y : Layout) : State :=
  let places := (op.src, 64) :: (op.dst, 64) :: [x, y].flatMap (fun l => if l.spad then [] else l.spans.map (fun p => (BitVec.ofNat 64 p.1, p.2)))
  places.foldl (fun t p => t.noteRange d op.asid p.1 p.2) s

/-- The units of a plan, in its order. -/
def Plan.units (p : Plan) : List (Bool × Nat) := (p.writes.map EngWrite.unit).eraseDups

/-- A plan cut to a list of its units. -/
def Plan.only (p : Plan) (us : List (Bool × Nat)) : Plan := { p with writes := p.writes.filter (fun w => us.contains w.unit) }

/-- The layout records of a transform and its plan, or the code of a record that cannot be used (R242, R243). -/
def State.xformPlan (s : State) (d : DieId) (op : EngineOp) (sub rnd : BitVec 3) (p : Word) : Except Byte (Layout × Layout × Plan) :=
  match s.readRecord d op.asid op.src, s.readRecord d op.asid op.dst with
  | .error e, _ => .error e
  | .ok _, .error e => .error e
  | .ok x, .ok y => .ok (x, y, planXform sub rnd p x y (s.engRead d op))

/-- Whether a transform with these records stands still: one has the scratchpad of a saved team (R356). -/
def State.xformStopped (s : State) (d : DieId) (op : EngineOp) (x y : Layout) : Bool := (x.spad || y.spad) && s.stopped d op

/-- Sirocco performs the next part of a transform, up to 128 units of its destination, and counts them (R356); of one that ends with an error
none before its end. -/
def State.siroccoPart (s : State) (d : DieId) (id : Nat) : State :=
  match s.engine? d id with
  | some op =>
    match op.kind with
    | .xform sub rnd p =>
      match s.xformPlan d op sub rnd p with
      | .error _ => s
      | .ok (x, y, plan) =>
        if s.xformStopped d op x y || s.planCode d op plan != 0 then s
        else
          let us := (plan.units.drop op.sent).take 128
          ((s.noteXform d op x y).perform d op false (plan.only us)).modDie d (fun z => { z with engines := z.engines.map (fun e =>
            if e.id == op.id then { e with sent := e.sent + us.length } else e) })
    | _ => s
  | none => s

/-- XFORM_COMPLETE (R242, R243): both records are read first. -/
def execXformComplete (d : DieId) (id : Nat) (abort : Option Abort) (s : State) : EventResult :=
  match s.engine? d id with
  | some op =>
    match op.kind with
    | .xform sub rnd p =>
      match s.xformPlan d op sub rnd p with
      | .error e => .next (s.complete d op .die e)
      | .ok (x, y, plan) =>
        if s.xformStopped d op x y then .next s
        else
          let code := s.planCode d op (plan.abort abort)
          .next (((s.noteXform d op x y).perform d op false { plan.only (plan.units.drop op.sent) with code := code }).complete d op .die code)
    | _ => .next s
  | none => .next s

/-! ## wload (R241, R266) -/

/-- Whether bank order, a quarantine or a saved team keeps a `wload` from writing its bank (R266, R269, R356). -/
def State.wloadWaits (s : State) (d : DieId) (op : EngineOp) (bank : Fin 64) : Bool :=
  let k := s.core d op.core
  s.stopped d op || (k.banks[bank].quarantined && !k.banks[bank].failed)
    || match k.seq.find? (fun x => x.id == op.id) with
       | some x => k.banksBlocked x
       | none => false

/-- One byte of an image put into a bank. -/
def Bank.load (b : Bank) (bytes : List (Nat × Byte × Bool)) : Bank :=
  let us := (bytes.map (fun x => x.1 / 16)).eraseDups
  let bad := ((bytes.filter (fun x => x.2.2)).map (fun x => x.1 / 16)).eraseDups
  { b with
    mem := bytes.foldl (fun m x => cellPut m x.1 x.2.1) b.mem
    poison := bad ++ b.poison.filter (fun u => !us.contains u) }

/-- The image of a `wload` as its source gives it: the bytes that can be read, and the first failure. -/
def State.imageOf (s : State) (d : DieId) (op : EngineOp) : List (Nat × Byte × Bool) × Byte :=
  let xs := (List.range imageBytes).map (fun j => (j, s.engRead d op false (op.src.toNat + j)))
  (xs.filterMap (fun p => match p.2 with | .ok x => some (p.1, x) | .error _ => none),
    firstCode (xs.map (fun p => p.2.map (fun x => (x.1.toNat, x.2)))))

/-- The bytes of an image that reach the bank: all when it ends well; with an error each unit or not, but a poisoned one does. -/
def imageReached (xs : List (Nat × Byte × Bool)) (code : Byte) (fresh : Nat) : List (Nat × Byte × Bool) :=
  if code == 0 then xs
  else xs.filter (fun x => freeChoice fresh (x.1 / 16) || xs.any (fun y => y.1 / 16 == x.1 / 16 && y.2.2))

/-- WLOAD_COMPLETE (R241, R266): the bank is written in its place in bank order, and its source recorded. -/
def execWloadComplete (d : DieId) (id : Nat) (abort : Option Abort) (s : State) : EventResult :=
  match s.engine? d id with
  | some op =>
    match op.kind with
    | .wload bank =>
      if s.wloadWaits d op bank || abort.isNone && !op.moved then .next s
      else
        let s1 := s.modCore d op.core (fun k => k.finishItem op.id)
        let mode := match s.opTeam? d op with
          | some t => (s.core d op.core).octetMode t (bank.val / 8)
          | none => none
        if mode != some .compute then .next (s1.complete d op .die 0x03)
        else
          let im := s.imageOf d op
          let code := match abort with | some a => abortCode a | none => im.2
          let s2 := ((s1.noteEngine d op 0 op.len).modCore d op.core (fun k => k.modBank bank (fun b =>
            { b.load (imageReached im.1 code s.fresh) with source := some (op.asid, op.src), reloadBad := false }))).freshened
          .next (s2.complete d op .die code)
    | _ => .next s
  | none => .next s

/-! ## Collectives (R249) -/

/-- The value of an element as FP32 or as an integer, from its bits. -/
def collIn (md : BitVec 5) (v : Nat) : Word := if md.extractLsb' 2 2 == 1 then BitVec.ofNat 32 (v * 65536) else BitVec.ofNat 32 v

/-- Two elements combined (R126, R249). -/
def collJoin (md : BitVec 5) (a b : Word) : Word :=
  let int := md.extractLsb' 2 2 == 2
  match (md.extractLsb' 0 2).toNat with
  | 0 => if int then a + b else fAdd32 a b
  | 1 => if int then (if a.slt b then a else b) else (fMinMax true false a b).1
  | _ => if int then (if a.slt b then b else a) else (fMinMax false false a b).1

/-- The bits of a combined element; BF16 rounds once, at the end. -/
def collOut (md : BitVec 5) (x : Word) : Nat := if md.extractLsb' 2 2 == 1 then (fmtBF16.round (fmtF32.value x.toNat) 0 0 32).1 else x.toNat

/-- The combination over a list by halves (R249); the fuel is its length. -/
def collTree (md : BitVec 5) (fuel : Nat) (xs : List Word) : Word :=
  match fuel, xs with
  | _, [] => 0
  | _, [x] => x
  | 0, x :: _ => x
  | k + 1, xs =>
    let h := (xs.length + 1) / 2
    collJoin md (collTree md k (xs.take h)) (collTree md k (xs.drop h))

/-- The combination as a left fold (R249). -/
def collFold (md : BitVec 5) (xs : List Word) : Word :=
  match xs with
  | [] => 0
  | x :: rest => rest.foldl (collJoin md) x

/-- The participants of a collective, in the order in which it combines them: of a merge, those that its first participant found. -/
def State.participants (s : State) (k : GridKey) (kind : BitVec 3) (m : Nat) (n : Word) : List DieId :=
  if kind == 3 then (match s.mergeOf k m (expertOf n) with | some x => x.dies | none => [])
  else (s.stepSet k).insertionSort (fun a b => a ≤ b)

/-- Whether a die that has issued a part of a collective is no participant of it: for a merge that no participant has issued yet, when no die's
table makes it one (R287). -/
def State.outsider (s : State) (d : DieId) (k : GridKey) (kind : BitVec 3) (m : Nat) (n : Word) : Bool :=
  if kind == 3 && (s.mergeOf k m (expertOf n)).isNone then
    !allDies.any (fun e => (s.dies[e].replicas.merging (expertOf n)).any (fun p => p.die == d))
  else !(s.participants k kind m n).contains d

/-- The operation of a grid's m-th collective on a die, not yet performed. -/
def State.collOf (s : State) (d : DieId) (k : GridKey) (m : Nat) : Option EngineOp :=
  s.dies[d].engines.find? (fun e =>
    match e.kind with
    | .coll _ _ _ i none => e.asid == k.asid && e.grid == k.grid && i == m
    | _ => false)

/-- Whether two operations agree in kind, MOD, C and n. -/
def collAgrees (x y : EngineOp) : Bool :=
  match x.kind, y.kind with
  | .coll k m n _ _, .coll k' m' n' _ _ => k == k' && m == m' && n == n' && x.len == y.len
  | _, _ => false

/-- The bytes that an operation's source holds. -/
def State.collSource (s : State) (d : DieId) (op : EngineOp) : List EngByte :=
  (List.range op.len).map (fun j =>
    match s.spot d op false (op.src.toNat + j) .read with
    | .error e => .error e
    | .ok (.global pa _) => .ok (s.homeByte pa, s.poisonedAt pa)
    | .ok (.spad _) => .error codeAccess)

/-- n bytes of a source from one on, as a number. -/
def engNat (xs : List EngByte) (at_ n : Nat) : Nat :=
  leNat (((xs.drop at_).take n).map (fun x => match x with | .ok (b, _) => b | .error _ => 0))

/-- The bytes of a collective's result, with the poison that reached them. -/
def collResult (kind : BitVec 3) (md : BitVec 5) (root : Nat) (len : Nat) (srcs : List (DieId × List EngByte)) : List (Byte × Bool) :=
  let bad := fun (xs : List EngByte) (j : Nat) => match xs[j / 16 * 16]? with | some (Except.ok (_, p)) => p | _ => false
  let copyOf := fun (xs : List EngByte) => xs.zipIdx.map (fun p => (match p.1 with | Except.ok (b, _) => b | Except.error _ => 0, bad xs p.2))
  match kind.toNat with
  | 1 => srcs.flatMap (fun x => copyOf x.2)
  | 2 => (match srcs.find? (fun x => x.1.val == root) with | some x => copyOf x.2 | none => [])
  | _ =>
    let w := collSize md
    (List.range (len / w)).flatMap (fun e =>
      let xs := srcs.map (fun x => collIn md (engNat x.2 (e * w) w))
      let v := collOut md (if kind == 3 then collFold md xs else collTree md 32 xs)
      (leBytes w v).map (fun b => (b, srcs.any (fun x => bad x.2 (e * w)))))

/-- One die's part of a collective performed: its destination written at the home slices, and the code kept for its arrival. -/
def State.collWrite (s : State) (d : DieId) (op : EngineOp) (bytes : List (Byte × Bool)) (code : Byte) : State :=
  let p : Plan := ⟨code, bytes.zipIdx.map (fun x => ⟨false, op.dst.toNat + x.2, some x.1.1, 0xFF, x.1.2⟩)⟩
  let c := s.planCode d op p
  ((s.noteEngine d op 0 op.len).perform d op true { p with code := c }).modDie d (fun x => { x with engines := x.engines.map (fun e =>
    if e.id == op.id then
      { e with kind := match e.kind with | .coll k m n i _ => .coll k m n i (some c) | y => y }
    else e) })

/-- The sources that a collective reads: the root's alone for `.bcast` (R249). -/
def collSources (kind : BitVec 3) (n : Word) (ops : List (DieId × EngineOp)) : List (DieId × EngineOp) :=
  if kind == 2 then ops.filter (fun x => x.1.val == n.toNat % 32) else ops

/-- A collective performed on all its participants (R249). -/
def State.collPerform (s : State) (kind : BitVec 3) (md : BitVec 5) (n : Word) (ops : List (DieId × EngineOp)) (agree : Bool) : State :=
  if !agree then ops.foldl (fun t x => t.collWrite x.1 x.2 [] codeMismatch) s
  else
    let srcs := (collSources kind n ops).map (fun x => (x.1, s.collSource x.1 x.2))
    let code := firstCode (srcs.flatMap (fun x => x.2.map (fun b => b.map (fun y => (y.1.toNat, y.2)))))
    let len := match ops with | x :: _ => x.2.len | [] => 0
    let out := if code == 0 || code == codePoison then collResult kind md (n.toNat % 32) len srcs else []
    ops.foldl (fun t x => t.collWrite x.1 x.2 out code) s

/-- Whether a merge of an expert has been issued and has not completed on every participant (R288). -/
def State.mergeOpen (s : State) (e : Nat) : Bool := s.merges.any (fun x => x.expert == e && !x.waiting.isEmpty)

/-- A part of a merge that has completed. -/
def MergeSet.arrived (x : MergeSet) (d : DieId) (code : Byte) : MergeSet :=
  { x with waiting := x.waiting.filter (· != d), good := x.good && code == 0 }

/-- A part of a collective that has completed on a die, noted in the merges that wait for it; one that has completed on every participant is
noted by the operation of Nomad that waits for it (R288, R366), when it ended well: one that ended with an error does not count there as the
completed merge of a departing replica, yet holds no commit back (DESIGN CHOICE, log 112). -/
def State.noteMerge (s : State) (d : DieId) (k : GridKey) (m : Nat) (code : Byte) : State :=
  let mine := fun (x : MergeSet) => x.key == k && x.index == m && x.waiting.contains d
  let s1 : State := { s with merges := s.merges.map (fun x => if mine x then x.arrived d code else x) }
  match s.nomad.op with
  | some o =>
    if o.phase == .waitMerge && s.merges.any (fun x => mine x && x.expert == o.expert && (x.arrived d code).waiting.isEmpty && (x.arrived d code).good) then
      { s1 with nomad := { s1.nomad with op := some { o with merged := true } } }
    else s1
  | none => s1

/-- One die's part of a collective arrives. -/
def State.collArrive (s : State) (d : DieId) (op : EngineOp) (m : Nat) (code : Byte) : State :=
  (s.complete d op .home code).noteMerge d ⟨op.asid, op.grid⟩ m code

/-- COLL_COMPLETE (R236, R249, R287): once every participant has issued its part the collective is performed, and the named die's part
arrives; a die that is no participant ends with COLL-MISMATCH, and a part that is cut short with its code. A `.bcast` whose root is no participant
ends so on every one (DESIGN CHOICE, log 107). -/
def execCollComplete (id : Nat) (part : CollPart) (s : State) : EventResult :=
  let d := part.die
  match s.engine? d id with
  | some op =>
    match op.kind with
    | .coll _ _ _ m (some code) => .next (s.collArrive d op m code)
    | .coll kind md n m none =>
      let k : GridKey := ⟨op.asid, op.grid⟩
      let ds := s.participants k kind m n
      let ops := ds.filterMap (fun x => (s.collOf x k m).map (fun o => (x, o)))
      match part.abort with
      | some a => .next (s.collArrive d op m (abortCode a))
      | none =>
        if s.outsider d k kind m n then .next (s.complete d op .home codeMismatch)
        else if ds.isEmpty || ops.length < ds.length then .next s
        else
          let root := kind != 2 || ds.any (fun x => x.val == n.toNat % 32)
          let s1 := s.collPerform kind md n ops (root && ops.all (fun x => collAgrees op x.2))
          match s1.engine? d id with
          | some o => (match o.kind with | .coll _ _ _ _ (some code) => .next (s1.collArrive d o m code) | _ => .next s1)
          | none => .next s1
    | _ => .next s
  | none => .next s

/-! ## Seals (R121, R122, R247, R248, R334) -/

/-- The physical address of a byte of the region by its leaves. -/
def leafPa (ls : List Leaf) (va : Nat) : Nat :=
  match ls.find? (fun l => decide (l.va ≤ va57 (BitVec.ofNat 64 va)) && decide (va57 (BitVec.ofNat 64 va) < l.va + l.size)) with
  | some l => l.pa + (va57 (BitVec.ofNat 64 va) - l.va)
  | none => 0

/-- Whether a byte of the region lies in a tolerant page. -/
def tolerantAt (ls : List Leaf) (va : Nat) : Bool :=
  ls.any (fun l => l.attrs.tol && decide (l.va ≤ va57 (BitVec.ofNat 64 va)) && decide (va57 (BitVec.ofNat 64 va) < l.va + l.size))

/-- The aliases that merging the blocks of a record makes (R247, R248): each line of a block whose representative is another one stands for the
line of the representative's corresponding elements; an element outside the tensor counts as +0 and has no line (R245). -/
def State.sealAliases (s : State) (x : Layout) (ls : List Leaf) : List Alias :=
  let blocks := (blockSlots x).filter (fun b => (b.filterMap id).all (tolerantAt ls))
  let valueOf := fun (a : Option Nat) =>
    (fmtValue x.fmt (match a with | some a => leNat (s.readHome (leafPa ls a) (x.bits / 8)) | none => 0)).getD (.num false 0 0 false)
  let reps := representatives (fmtF32.value x.tol.toNat) (blocks.map (fun b => b.map valueOf))
  ((blocks.zip reps).zipIdx.flatMap (fun p =>
    if p.1.2 = p.2 then []
    else
      ((p.1.1.zip (blocks[p.1.2]?.getD [])).filterMap (fun q =>
        match q.1, q.2 with
        | some a, some b => some (⟨leafPa ls a / 128, s.homeAddr (leafPa ls b) / 128⟩ : Alias)
        | _, _ => none)).eraseDups)).filter (fun (a : Alias) => a.line != a.rep)

/-- SEAL set or cleared in the leaves of a region, each as one write at package scope (R334). -/
def State.setSeal (s : State) (d : DieId) (ls : List Leaf) (on : Bool) : State :=
  ls.foldl (fun t l =>
    let e := t.entryAt d l.entry
    t.writeHome (some d) l.entry (leBytes 8 (if on then e ||| 0x400 else e &&& ~~~0x400).toNat)) s

/-- The translations of a region discarded in every TLB (R340). -/
def State.discardRegion (s : State) (asid : BitVec 12) (a n : Nat) : State :=
  let lo := va57 (BitVec.ofNat 64 a)
  s.discardTlb (fun e => e.asid == asid && decide (e.va < lo + n) && decide (lo < e.va + e.size))

/-- Whether a physical byte lies in the leaves of a region. -/
def inLeaves (ls : List Leaf) (pa : Nat) : Bool := ls.any (fun l => decide (l.pa ≤ pa) && decide (pa < l.pa + l.size))

/-- An operation of a die replaced. -/
def State.setEngine (s : State) (d : DieId) (op : EngineOp) : State :=
  s.modDie d (fun x => { x with engines := x.engines.map (fun e => if e.id == op.id then op else e) })

/-- Steps 1 to 4 of R121 up to the read: SEAL in every leaf of the region, no translation under the old attribute, every store performed
and every dirty byte at its home slice; the engine reads, and the writes at home from now on are watched (R122, R334). -/
def State.readSealed (s : State) (d : DieId) (op : EngineOp) (rec_ : Option DWord) (own : Bool) (x : SealRegion) : State :=
  let s1 := ((s.setSeal d x.leaves true).settleAll.discardRegion op.asid op.src.toNat op.len).flushEverywhere (inLeaves x.leaves)
  let ls := s1.sealWatch.getD []
  { s1 with sealWatch := some ls }.setEngine d { op with kind := .seal rec_ own (some ⟨ls.length, x.leaves⟩) }

/-- Whether a watched write after a mark is of a line of the region: the race of R122. -/
def State.raced (s : State) (ls : List Leaf) (mark : Nat) : Bool :=
  let w := s.sealWatch.getD []
  (w.take (w.length - mark)).any (fun line => ls.any (fun l => (List.range (l.size / 128)).any (fun j => s.homeAddr (l.pa + 128 * j) / 128 == line)))

/-- No write is watched once no seal has read its region. -/
def State.endWatch (s : State) : State :=
  if allDies.any (fun d => s.dies[d].engines.any (fun e => match e.kind with | .seal _ _ (some _) => true | _ => false)) then s
  else { s with sealWatch := none }

/-- The end of a seal whose region its engine has read: with the merging when it ends well; with an error after step 1 SEAL is cleared as it
was set, and nothing is merged (R122, R248, R334). -/
def State.endSeal (s : State) (d : DieId) (op : EngineOp) (x : SealRegion) (code : Byte) : State :=
  let t :=
    if code == 0 then
      let new : List Alias := match x.record with | some y => s.sealAliases y x.leaves | none => []
      { s with aliases := new ++ s.aliases.filter (fun (a : Alias) => !new.any (fun (b : Alias) => b.line == a.line)) }
    else (s.setSeal d x.leaves false).discardRegion op.asid op.src.toNat op.len
  (t.complete d op .home code).endWatch

/-- The code of a seal that has read its region: cut short, a race, or poison in the region. -/
def State.sealCode (s : State) (x : SealRegion) (mark : Nat) (abort : Option Abort) : Byte :=
  match abort with
  | some a => abortCode a
  | none =>
    if s.raced x.leaves mark then codeSealRace
    else if x.leaves.any (fun l => (List.range (l.size / 16)).any (fun j => s.poisonedAt (l.pa + 16 * j))) then codePoison
    else 0

/-- The seal engine's reading of a region (R121). -/
def State.sealRead (s : State) (d : DieId) (id : Nat) : State :=
  match s.engine? d id with
  | some op =>
    match op.kind with
    | .seal rec_ own none =>
      match s.sealCheck d op.asid op.src op.len rec_ with
      | .ok x => s.readSealed d op rec_ own x
      | .error _ => s
    | _ => s
  | none => s

/-- SEAL_COMPLETE (R121, R122, R236, R248, R334): the checks before step 1 and the reading when they have not come before. -/
def execSealComplete (d : DieId) (id : Nat) (abort : Option Abort) (s : State) : EventResult :=
  match s.engine? d id with
  | some op =>
    match op.kind with
    | .seal rec_ own read =>
      match s.sealCheck d op.asid op.src op.len rec_, read, abort with
      | .error e, none, _ => .next (s.complete d op .home (match abort with | some a => abortCode a | none => e))
      | .error e, some y, _ => .next (s.endSeal d op ⟨y.leaves, none⟩ e)
      | .ok _, none, some a => .next (s.complete d op .home (abortCode a))
      | .ok x, none, none =>
        let t := s.readSealed d op rec_ own x
        .next (t.endSeal d op x (t.sealCode x (t.sealWatch.getD []).length none))
      | .ok x, some y, abort => .next (s.endSeal d op ⟨y.leaves, x.record⟩ (s.sealCode ⟨y.leaves, x.record⟩ y.mark abort))
    | _ => .next s
  | none => .next s

end Sys2Proof.Machine
end

