-- ==== Sys2Proof/Machine/Placement.lean ====
section
/-! DEFINITION. New groups, the resources of a core, and the placement of teams and halo chains (spec 01 R13, R14, R22, R23, R25,
R42, spec 02 R51 to R55). -/

namespace Sys2Proof.Machine

/-! ## Entry state (R22) -/

/-- The uniform registers at entry: ARGS and the team index, when the group has any (R22). -/
def entryUniform (has : Bool) (args : DWord) (teamIx : Word) : Vector Word 1024 :=
  if has then
    (((Vector.replicate 1024 (0 : Word)).set 0 (args.setWidth 32)).set 1 (args.extractLsb' 32 32)).set 2 teamIx
  else Vector.replicate 1024 0

/-- The lease of a new group (R57, Table K-4): declared units, or measured from 4. -/
def freshLease (units : Nat) : Lease := ⟨units == 0, if units = 0 then 4 else units, 0, 0, [], 0⟩

/-- What the gate and issue selection know of a new group. -/
def freshSched (now : Nat) : Sched := ⟨false, 0, false, now, now, 0, false, none, []⟩

/-- A group as it enters (R22). -/
def freshGroup (team : Nat) (gix : Fin 32) (role : Role) (budget : Nat) (code : DWord) (u : Vector Word 1024) (lease : Lease)
    (base : Mode) (now : Nat) : Group :=
  { team := team, gix := gix, role := role, ended := false, pcs := Vector.replicate 32 code, status := Vector.replicate 32 .run
    v := Vector.replicate 256 (Vector.replicate 32 0), o := Vector.replicate 8 (Vector.replicate 32 0), p := Vector.replicate 32 0
    fpstat := Vector.replicate 32 0, u := u, window := [], issues := 0, queues := Vector.replicate 16 Queue.empty
    tiles := Vector.replicate 16 (Vector.replicate 1024 0), tokens := Vector.replicate 8 none, tokenSeq := 0
    tags := Vector.replicate 8 0, cterr := Vector.replicate 8 0, budget := budget, lease := lease, sched := freshSched now
    hold := none, heldRun := 0, heldNext := 0, gw := [], base := base, traps := [], pendingTrap := none, pendingSeq := 0
    flights := [] }

/-- A group of packed items: lane i takes item i with its payload from v0 up, and a lane without one starts exited (R25, R28). -/
def Group.pack (g : Group) (items : List (List Word)) : Group :=
  { g with
    status := Vector.ofFn fun i => if i.val < items.length then .run else .exited
    v := Vector.ofFn fun n => Vector.ofFn fun i => ((items[i.val]?.getD [])[n.val]?).getD 0 }

/-- The budget of group k of a descriptor (R13). -/
def Descriptor.budgetOf (x : Descriptor) (k : Nat) : Nat := if k < x.nprod then x.vgranP else x.vgranC

/-- The entry state of group k of a team (R12, R22, R25). -/
def Team.entryGroup (t : Team) (k : Nat) (now : Nat) : Group :=
  let g := freshGroup t.uid (Fin.ofNat 32 k) (if k < t.desc.nprod then .producer else .consumer) (t.desc.budgetOf k) t.desc.code
    (entryUniform (decide (1 ≤ t.desc.sgran)) t.desc.args t.teamIx) (freshLease t.desc.lease) .user now
  if t.packed then g.pack ((t.items.drop (32 * k)).take 32 |>.map Prod.snd) else g

/-! ## Resources of a core (Table K-6) -/

/-- The teams of a core that the allocator accounts. -/
def Core.accounted (k : Core) : List Team := k.teams.filter (fun t => !t.dispatcher)

/-- The groups of a team that its core holds. -/
def Core.teamGroups (k : Core) (t : Team) : List Group :=
  t.slots.filterMap (fun i => (k.slots[i]).bind (fun g => if g.team == t.uid then some g else none))

/-- The lease claim of a team of a descriptor, 4 units in measured mode (R53); `lease` leaves it as it is (R221). -/
def Descriptor.claim (x : Descriptor) : Nat := if x.lease = 0 then 4 else x.lease

/-- The tiles of a team of a descriptor, two for each pair of each group (Table K-6); a team that is regrouped keeps them (R28). -/
def Descriptor.tiles (x : Descriptor) : Nat := x.groups * 2 * x.tilePairs

/-- The vector granules that the teams of a list leave free. -/
def Core.freeVector (k : Core) (c : CoreId) (ts : List Team) : Nat :=
  coreGranules c - total (ts.map (fun t => total ((k.teamGroups t).map Group.budget)))

/-- Whether an octet can be reserved: no team of a list has it and none of its arrays is marked failed (R54, R360, R386). -/
def Core.octetFree (k : Core) (ts : List Team) (o : Fin 8) : Bool :=
  !ts.any (fun t => t.reserved.contains o) && (List.finRange 8).all (fun j => !(k.banks[8 * o.val + j.val]'(by omega)).failed)

/-- The free octets of a core, ascending. -/
def Core.freeOctets (k : Core) (ts : List Team) : List (Fin 8) := (List.finRange 8).filter (k.octetFree ts)

/-- The slots that teams may take: slot 31 of core 0 is the dispatcher's (R14). -/
def Core.freeSlots (k : Core) (c : CoreId) (ts : List Team) : List SlotId :=
  allSlots.filter (fun i => !(c == 0 && i == 31) && !ts.any (fun t => t.slots.contains i)
    && (match k.slots[i] with | some g => !ts.any (fun t => t.uid == g.team) | none => true))

/-- Whether a core with the teams of a list resident has what a team of a descriptor needs (R52, R53, Table K-6). -/
def Core.fits (k : Core) (c : CoreId) (ts : List Team) (x : Descriptor) : Bool :=
  let less := if c = 0 then 1 else 0
  decide (x.groups ≤ (k.freeSlots c ts).length)
    && decide (x.vneed ≤ k.freeVector c ts)
    && decide (total (ts.map (fun t => t.slots.length * t.desc.sgran)) + x.groups * x.sgran ≤ 128 - less)
    && decide (total (ts.map (fun t => t.desc.tiles)) + x.tiles ≤ 64)
    && decide (x.octets ≤ (k.freeOctets ts).length)
    && decide (total (ts.map (fun t => t.desc.barriers)) + x.barriers ≤ 256 - 2 * less)
    && (ts.isEmpty || decide (total (ts.map (fun t => t.desc.claim)) + x.claim ≤ 64 + 8 * k.adm.feff))

/-! ## Placement (R23, R54, R55) -/

/-- The copies of a team's declared inputs, in class 0 (R23). -/
def Team.inputOps (t : Team) (c : CoreId) (uid : Nat) : List EngineOp :=
  t.desc.inputs.zipIdx.map (fun p =>
    { id := uid + p.2, kind := .input, completion := .input, asid := t.asid, core := c, team := t.uid, slot := t.slots.headD 0
      grid := t.grid, cls := 0, src := p.1.1, dst := BitVec.ofNat 64 p.1.2.2, len := p.1.2.1, sent := 0, code := 0 })

/-- A team as it becomes resident in slots with its octets (R22, R23, R54). -/
def Team.resident (t : Team) (slots : List SlotId) (octets : List (Fin 8)) : Team :=
  { t with
    slots := slots
    reserved := octets
    position := Vector.ofFn fun (p : Fin 8) => if p.val < t.desc.storOct then octets[p.val]? else none
    landed := t.desc.inputs.isEmpty
    barriers := (Vector.replicate 16 Barrier.idle).set 0 ⟨t.desc.inputs.length, 0, 0, t.desc.inputs.length⟩ }

/-- The groups of a team put into their slots. -/
def Core.enterGroups (k : Core) (t : Team) (now : Nat) : Core :=
  t.slots.zipIdx.foldl (fun k p => { k with slots := k.slots.set p.1 (some (t.entryGroup p.2 now)) }) k

/-- A team placed on a core: its slots and octets are the lowest free ones (R54). -/
def State.placeTeam (s : State) (d : DieId) (c : CoreId) (t : Team) : State :=
  let k := s.core d c
  let slots := (k.freeSlots c k.accounted).take t.desc.groups
  let octets := (k.freeOctets k.accounted).take t.desc.octets
  let t1 := t.resident slots octets
  let s1 := s.modCore d c (fun k =>
    let k1 := (octets.take t.desc.storOct).foldl (fun k o => k.allocOctet t.uid o .storage) k
    ({ k1 with teams := k1.teams ++ [t1] }).enterGroups t1 s.now)
  let ops := t1.inputOps c s.uid
  { s1 with uid := s1.uid + ops.length }.modDie d (fun x => { x with
    engines := x.engines ++ ops
    waitList := x.waitList.filter (fun y => y.uid != t.uid) })

/-! ### Choosing cores (R42, R54) -/

/-- The core that the allocator chooses for a descriptor: the most free vector granules, then the lowest index (R54). -/
def State.chooseCore (s : State) (d : DieId) (keep : CoreId → Team → Bool) (open_ : CoreId → Bool) (x : Descriptor) : Option CoreId :=
  allCores.foldl (fun acc c =>
    let k := s.core d c
    let ts := k.accounted.filter (keep c)
    if !open_ c || !k.fits c ts x then acc
    else
      match acc with
      | none => some c
      | some b => if (s.core d b).freeVector b ((s.core d b).accounted.filter (keep b)) < k.freeVector c ts then some c else some b) none

/-- Core c + j of the ring (R42, R54). -/
def ringCore (c : CoreId) (j : Nat) : CoreId := Fin.ofNat 48 (c.val + j)

/-- The lowest core from which a run of consecutive cores takes the teams of a chain (R54): none of a chain of more teams than the die has
cores, whose teams no run of cores takes (R42; log 98). -/
def State.chooseRun (s : State) (d : DieId) (keep : CoreId → Team → Bool) (open_ : CoreId → Bool) (ts : List Team) : Option CoreId :=
  allCores.find? (fun c =>
    decide (ts.length ≤ 48) && ts.zipIdx.all (fun p =>
      let b := ringCore c p.2
      let k := s.core d b
      open_ b && k.fits b (k.accounted.filter (keep b)) p.1.desc))

/-! ### Allocation order (R51, R55) -/

/-- Whether one team comes before another in allocation order (R51). -/
def allocBefore (a b : Team) : Bool :=
  decide (b.desc.prio < a.desc.prio) || (a.desc.prio == b.desc.prio && decide (a.age ≤ b.age))

/-- The waiting teams of a die in allocation order, the saved ones that are to be restored among them (R45, R358); a team that a
pre-emption has selected is not placed (R355). -/
def State.waiting_ (s : State) (d : DieId) : List Team :=
  (((s.dies[d].waitList ++ (s.dies[d].saved.filter Saved.resume).map Saved.team).filter (fun t =>
    !s.pctl.todo.contains (d, t.uid)))).insertionSort (fun a b => allocBefore a b = true)

/-- The members of the chain of a waiting team, in team-index order. -/
def State.chainWaiting (s : State) (d : DieId) (t : Team) : List Team :=
  (s.dies[d].waitList.filter (fun x => x.desc.halo && x.key == t.key)).insertionSort (fun a b => a.teamIx.toNat ≤ b.teamIx.toNat)

/-- Where a team is bound: the cores of a saved one, or those a placement would choose if each core were empty of every team
younger or of lower priority (R55, R358). -/
def State.bindTo (s : State) (d : DieId) (t : Team) : List CoreId :=
  match s.dies[d].saved.find? (fun v => v.team.uid == t.uid) with
  | some v => [v.core]
  | none =>
    let keep := fun (_ : CoreId) (x : Team) => !(decide (t.age < x.age) || decide (x.desc.prio < t.desc.prio))
    if t.desc.halo then
      match s.chooseRun d keep (fun _ => true) (s.chainWaiting d t) with
      | some c => (s.chainWaiting d t).zipIdx.map (fun p => ringCore c p.2)
      | none => []
    else (s.chooseCore d keep (fun _ => true) t.desc).toList

/-- A walk of the wait list: the state, the bound teams with their cores, in allocation order, and whether a team has been skipped. -/
structure AllocWalk where
  s : State
  bound : List (Team × List CoreId)
  skipped : Bool

/-- Whether the bound teams leave a core open. -/
def AllocWalk.open_ (w : AllocWalk) (c : CoreId) : Bool := w.bound.all (fun b => !b.2.contains c)

/-- A team skipped: the first one is bound (R55), and a saved team is bound to its home core in any case (R358). -/
def AllocWalk.skip (w : AllocWalk) (d : DieId) (t : Team) (saved : Bool) : AllocWalk :=
  { w with bound := if saved || !w.skipped then w.bound ++ [(t, w.s.bindTo d t)] else w.bound, skipped := true }

/-- One step of the walk: the team placed where it fits, else skipped. A chain is placed at its first member, once every team of it
waits; a saved team is placed by its restore. -/
def AllocWalk.step (d : DieId) (w : AllocWalk) (t : Team) : AllocWalk :=
  if !w.s.dies[d].waitList.any (fun x => x.uid == t.uid) then
    (if w.s.dies[d].saved.any (fun v => v.team.uid == t.uid && v.resume) then w.skip d t true else w)
  else if t.desc.halo then
    let ts := w.s.chainWaiting d t
    if ts.length < t.chainLen then w
    else
      match w.s.chooseRun d (fun _ _ => true) w.open_ ts with
      | some c => { w with s := ts.zipIdx.foldl (fun s p => s.placeTeam d (ringCore c p.2) p.1) w.s }
      | none => w.skip d t false
  else
    match w.s.chooseCore d (fun _ _ => true) w.open_ t.desc with
    | some c => { w with s := w.s.placeTeam d c t }
    | none => w.skip d t false

/-- The walk of a die's wait list in allocation order (R55). Which team is bound, and to which cores, is chosen anew at each walk
(DESIGN CHOICE, log 87). -/
def State.allocWalk (s : State) (d : DieId) : AllocWalk := (s.waiting_ d).foldl (AllocWalk.step d) ⟨s, [], false⟩

/-- ALLOCATOR_PLACEMENT (R51 to R55). -/
def execAllocatorPlacement (d : DieId) (s : State) : EventResult := .next (s.allocWalk d).s

end Sys2Proof.Machine
end

