-- ==== Sys2Proof/Machine/Saving.lean ====
section
/-! DEFINITION. Save records: the liveness filter, saving and restoring teams, and the reload of images (spec 02 R59, spec 10 R270,
spec 14 R301, spec 15 R307, R308, spec 17 R333, spec 18 R350, R354 to R358). -/

namespace Sys2Proof.Machine

/-! ## Liveness (R307, R308, R350) -/

/-- n bytes at a virtual address as the save engine reads them; none when one does not translate or is poisoned. -/
def State.virtBytes (s : State) (d : DieId) (asid : BitVec 12) (va : DWord) (n : Nat) : Option (List Byte) :=
  match s.translateRange d asid va n .read with
  | .error _ => none
  | .ok xs => if xs.any (fun x => s.poisonedIn x.1 x.2) then none else some (xs.flatMap (fun x => s.readDie d x.1 x.2))

/-- The registers of a set record (Table C-7): vector, uniform, predicate and tile bits. -/
structure LiveSet where
  v : BitVec 256
  u : BitVec 1024
  p : BitVec 7
  t : BitVec 16
  deriving DecidableEq, Repr

/-- Every register. -/
def LiveSet.every : LiveSet := ⟨BitVec.allOnes 256, BitVec.allOnes 1024, BitVec.allOnes 7, BitVec.allOnes 16⟩
/-- No register. -/
def LiveSet.nothing : LiveSet := ⟨0, 0, 0, 0⟩
/-- The registers of either set. -/
def LiveSet.join (x y : LiveSet) : LiveSet := ⟨x.v ||| y.v, x.u ||| y.u, x.p ||| y.p, x.t ||| y.t⟩

/-- The set that 176 bytes hold (Table C-7). -/
def parseLiveSet (bs : List Byte) : LiveSet :=
  ⟨BitVec.ofNat 256 (bytesAt bs 0 32), BitVec.ofNat 1024 (bytesAt bs 32 128), BitVec.ofNat 7 (bytesAt bs 160 1),
    BitVec.ofNat 16 (bytesAt bs 162 2)⟩

/-- A registered liveness table: its address and its header (Table C-7). -/
structure LiveTable where
  addr : DWord
  head : List Byte
  deriving DecidableEq, Repr

def LiveTable.nent (x : LiveTable) : Nat := bytesAt x.head 8 4
def LiveTable.nset (x : LiveTable) : Nat := bytesAt x.head 12 4
def LiveTable.base (x : LiveTable) : Nat := bytesAt x.head 16 8
def LiveTable.textLen (x : LiveTable) : Nat := bytesAt x.head 24 4
def LiveTable.setOff (x : LiveTable) : Nat := bytesAt x.head 28 4
/-- MAGIC and VERSION of a table. -/
def LiveTable.known (x : LiveTable) : Bool := bytesAt x.head 0 4 == 0x4556494C && bytesAt x.head 4 2 == 1
/-- Whether the range of a table holds a PC. -/
def LiveTable.holds (x : LiveTable) (pc : DWord) : Bool := decide (x.base ≤ pc.toNat) && decide (pc.toNat < x.base + x.textLen)

/-- Whether tables stand in ascending order of TEXTBASE without overlap (R350). -/
def tablesOrdered (xs : List LiveTable) : Bool :=
  match xs with
  | [] => true
  | x :: rest => (match rest with | y :: _ => decide (x.base < y.base) && decide (x.base + x.textLen ≤ y.base) | [] => true) && tablesOrdered rest

/-- The tables of an address space; none when the directory breaks its rules or something does not translate (R350). -/
def State.liveTables (s : State) (d : DieId) (asid : BitVec 12) : List LiveTable :=
  match s.spaces.find? (fun x => x.asid == asid) with
  | none => []
  | some r =>
    let rows := (List.range r.ndir).map (fun j => s.virtBytes d asid (r.livedir + BitVec.ofNat 64 (16 * j)) 16)
    let tabs := rows.map (fun b => b.bind (fun bs =>
      let a : DWord := BitVec.ofNat 64 (bytesAt bs 0 8)
      if bytesAt bs 8 8 != 0 || a.toNat % 16 != 0 then none
      else (s.virtBytes d asid a 32).map (fun h => (⟨a, h⟩ : LiveTable))))
    if r.livedir == 0 || tabs.any Option.isNone then []
    else
      let xs := tabs.filterMap id
      if tablesOrdered xs then xs else []

/-- The entries of a table: PCOFF and SETIX. -/
def LiveTable.entries (x : LiveTable) (bs : List Byte) : List (Nat × Nat) :=
  (List.range x.nent).map (fun j => (bytesAt bs (8 * j) 4, bytesAt bs (8 * j + 4) 4))

/-- Whether entries begin at 0, rise strictly, and name sets that exist (R307). -/
def entriesOk (nset : Nat) (xs : List (Nat × Nat)) : Bool :=
  (match xs with | x :: _ => x.1 == 0 | [] => false) && xs.all (fun x => decide (x.2 < nset))
    && (xs.zip (xs.drop 1)).all (fun p => decide (p.1.1 < p.2.1))

/-- The set that a table gives for a PC in its range; none when the table fails R307. -/
def State.tableSet (s : State) (d : DieId) (asid : BitVec 12) (x : LiveTable) (pc : DWord) : Option LiveSet :=
  if !x.known then none
  else
    match s.virtBytes d asid (x.addr + 32) (8 * x.nent) with
    | none => none
    | some bs =>
      let es := x.entries bs
      if !entriesOk x.nset es then none
      else
        match (es.filter (fun e => decide (x.base + e.1 ≤ pc.toNat))).getLast? with
        | none => none
        | some e => (s.virtBytes d asid (x.addr + BitVec.ofNat 64 (x.setOff + 176 * e.2)) 176).map parseLiveSet

/-- The registers to save at a PC (R308). -/
def State.liveAt (s : State) (d : DieId) (asid : BitVec 12) (ts : List LiveTable) (pc : DWord) : LiveSet :=
  match ts.find? (fun x => x.holds pc) with
  | none => LiveSet.every
  | some x => (s.tableSet d asid x pc).getD LiveSet.every

/-- The registers of a lane alone: what `shfl` and `nbr` may still read of a lane that has exited (R38, R47, R196). -/
def LiveSet.ofLane : LiveSet := { LiveSet.every with u := 0, t := 0 }

/-- The registers to save for a lane (R308): those at its PC, past the pads it has reached, and in a trap that has not returned, beneath a
firmware entry too, those at TRPC; of the lanes that a firmware entry took, which run firmware code and so have no table, every register. -/
def State.laneLive (s : State) (r : GRef) (t : Team) (ts : List LiveTable) (g : Group) (i : Lane) : LiveSet :=
  if g.status[i] == .exited then LiveSet.ofLane
  else if g.base != .user then LiveSet.every
  else
    g.traps.foldl (fun x e =>
      if e.mode == .trap then x.join (s.liveAt r.die t.asid ts e.info.pc)
      else if inMask e.info.mask i then LiveSet.every
      else x) (s.liveAt r.die t.asid ts (s.tablePc r { g with traps := [] } t padRun g.pcs[i]))

/-- The registers of a group that its sets name; the others read zero after the restore. -/
def Group.keepLive (g : Group) (live : Lanes LiveSet) : Group :=
  let all := live.toList.foldl LiveSet.join LiveSet.nothing
  { g with
    v := Vector.ofFn fun n => Vector.ofFn fun i => if (live[i]).v.getLsbD n.val then (g.v[n])[i] else 0
    p := Vector.ofFn fun i => (g.p[i]) &&& (live[i]).p.setWidth 8
    u := Vector.ofFn fun n => if all.u.getLsbD n.val then g.u[n] else 0
    tiles := Vector.ofFn fun n => if all.t.getLsbD n.val then g.tiles[n] else Vector.replicate 1024 0 }

/-- A group as its record holds it (R59, R308): a fresh measurement window, and no place in the active set. -/
def State.savedGroup (s : State) (r : GRef) (t : Team) (ts : List LiveTable) (g : Group) : Group :=
  let g1 := g.keepLive (Vector.ofFn fun i => s.laneLive r t ts g i)
  { g1 with lease := { g1.lease with accesses := 0, lines := [], windowLost := 0 }, sched := freshSched s.now }

/-! ## Room (Table D-16) -/

/-- The KiB that a record takes of the save area. -/
def Saved.size (v : Saved) : Nat := (v.bytes + 1023) / 1024

/-- The KiB that the records of a die hold. -/
def Die.savedKiB (x : Die) : Nat := total (x.saved.map Saved.size)

/-- The largest record, 2.25 MiB (R354). -/
def recordMax : Nat := 2359296

/-- Where n more records of the largest size find room in the save area of a die (R354): its beginning, or the end of a record
(DESIGN CHOICE, log 16). -/
def Die.saveAt (x : Die) (n : Nat) : Option Nat :=
  let base := x.saveBase.toNat
  (base :: x.saved.map (fun v => v.addr + 1024 * v.size)).find? (fun a =>
    decide (base ≤ a) && decide (a + n * recordMax ≤ base + 1048576 * x.saveSize.toNat)
      && x.saved.all (fun v => decide (v.addr + 1024 * v.size ≤ a) || decide (a + n * recordMax ≤ v.addr)))

/-- Whether the save area of a die takes n more records: at least 112 MiB, with 2.25 MiB free for each (R354, R358). -/
def Die.saveRoom (x : Die) (n : Nat) : Bool := decide (112 ≤ x.saveSize.toNat) && (x.saveAt n).isSome

/-! ## Saving (R301, R355 to R357) -/

/-- The teams that are saved with a team: its halo chain, with their cores (R42). -/
def State.unit (s : State) (d : DieId) (c : CoreId) (t : Team) : List (CoreId × Team) :=
  if t.desc.halo then
    allCores.flatMap (fun b => ((s.core d b).teams.filter (fun x => x.desc.halo && x.key == t.key)).map (fun x => (b, x)))
  else [(c, t)]

/-- Whether a hold is of an instruction that completes before its group halts (R301). -/
def Hold.finishes (h : Hold) : Bool :=
  match h with
  | .fence _ _ | .xinv => true
  | _ => false

/-- Whether everything that a group has issued has completed (R301). -/
def Group.quiet (g : Group) : Bool := g.flights.isEmpty && (match g.hold with | some h => !h.finishes | none => true)

/-- Whether everything that a team has issued has completed. -/
def State.teamQuiet (s : State) (d : DieId) (c : CoreId) (t : Team) : Bool := (s.groupsOf d c t).all (fun p => p.2.quiet)

/-- A bank as a record holds it: a weight image is not saved (R357). -/
def Bank.saved (b : Bank) (mode : OctMode) : Bank := if mode == .compute then { b with mem := [], poison := [] } else b

/-- The banks of an octet. -/
def banksOf (o : Fin 8) : List (Fin 64) := (List.finRange 8).map (fun j => ⟨8 * o.val + j.val, by omega⟩)
/-- The state-table slots of an octet. -/
def tableOf (o : Fin 8) : List (Fin 32) := (List.finRange 4).map (fun j => ⟨4 * o.val + j.val, by omega⟩)

/-- The bytes of a record: at most 2.25 MiB, of a body whose encoding is the device's own (R357, log 16). -/
def recordBytes (fresh : Nat) : Nat := 576 + (Config.freeWord (freeAt fresh 0)).toNat % (recordMax - 575)

/-- The record of a team (R357), at a place of the save area. -/
def State.recordOf (s : State) (d : DieId) (c : CoreId) (t : Team) (swap : Bool) (addr : Nat) : Saved :=
  let k := s.core d c
  let os := k.octetsOf t.uid
  let ts := s.liveTables d t.asid
  { team := t
    groups := (s.groupsOf d c t).map (fun p => (p.1.slot, s.savedGroup p.1 t ts p.2))
    banks := os.flatMap (fun o => (banksOf o).map (fun b => (b, (k.banks[b]).saved (k.octets[o]).mode)))
    octets := os.map (fun o => (o, k.octets[o]))
    table := os.flatMap (fun o => (tableOf o).map (fun n => (n, k.table[n])))
    seq := (k.seq.filter (k.itemOf t)).map (fun x => { x with running := false })
    core := c, swap := swap, addr := addr, bytes := recordBytes s.fresh, corrupt := false, resume := swap }

/-- SRC0 to SRC63 of a record (Table D-17): the image source of each bank that the team has, with bit 0 set while a `wload` is in flight. -/
def State.recordSources (s : State) (d : DieId) (v : Saved) : List Byte :=
  (List.finRange 64).flatMap (fun (b : Fin 64) =>
    match s.dies[d].engines.find? (fun e => e.team == v.team.uid && e.kind == .wload b) with
    | some e => leBytes 8 (e.src.toNat / 2 * 2 + 1)
    | none =>
      match v.banks.find? (fun p => p.1 == b) with
      | some p => leBytes 8 (match p.2.source with | some x => x.2.toNat | none => 0)
      | none => leBytes 8 0)

/-- The bytes of a record (Table D-17); the body is in the device's own encoding, free here (log 16). -/
def State.recordImage (s : State) (d : DieId) (v : Saved) : List Byte :=
  let n := v.bytes - 576
  let rest := s.recordSources d v ++ (List.range n).map (fun j => Config.freeByte (freeAt s.fresh (j + 1)))
  leBytes 4 0x45564153 ++ leBytes 2 1 ++ leBytes 2 v.team.asid.toNat ++ leBytes 8 v.team.age ++ leBytes 1 v.core.val
    ++ leBytes 1 (if v.groups.isEmpty then v.team.desc.groups else v.groups.length) ++ leBytes 1 (if v.swap then 1 else 0) ++ leBytes 1 0
    ++ leBytes 4 n ++ leBytes 4 (crc32c 0 rest).toNat ++ leBytes 4 0 ++ leBytes 8 v.team.grid.toNat ++ leBytes 4 v.team.teamIx.toNat
    ++ List.replicate 20 0 ++ rest

/-- A record written in the save area, and kept (R355, R357). -/
def State.keepRecord (s : State) (d : DieId) (v : Saved) : State :=
  ((s.writeHome none v.addr (s.recordImage d v)).modDie d (fun x => { x with saved := x.saved ++ [v] })).freshened

/-- The operations of a team's sequencer stopped at their next block boundary, with the blocks done and their terms recorded (R270). -/
def State.stopMacs (s : State) (d : DieId) (c : CoreId) (t : Team) : State :=
  (((s.core d c).seq.filter (fun x => x.running && (s.core d c).itemOf t x)).map SeqItem.id).foldl (fun u id => u.stopAtBlock d id 16) s

/-- One team saved (Table K-20): its sequencer stopped, its writes released at die scope, its record made at a place of the save area, and
its resources returned. -/
def State.saveTeam (s : State) (d : DieId) (c : CoreId) (t : Team) (swap : Bool) : State :=
  let s1 := (s.stopMacs d c t).releaseTo d c .die
  let addr := (s1.dies[d].saveAt 1).getD s1.dies[d].saveBase.toNat
  (s1.keepRecord d (s1.recordOf d c t swap addr)).modCore d c (fun k => k.dropTeam t)

/-- A team and its chain saved. -/
def State.saveUnit (s : State) (d : DieId) (xs : List (CoreId × Team)) (swap : Bool) : State :=
  xs.foldl (fun s x => s.saveTeam d x.1 x.2 swap) s

/-- Whether a swap-out of a team is made: everything that it and its chain issued has completed, and there is room for their records (R301,
R358). -/
def State.swaps (s : State) (d : DieId) (c : CoreId) (t : Team) : Bool :=
  let xs := s.unit d c t
  xs.all (fun x => s.teamQuiet d x.1 x.2) && s.dies[d].saveRoom xs.length

/-- A swap-out (R45, R46, R358): once everything that the teams issued has completed. Without room it is not made, and it is counted
and logged. -/
def State.swapOut (s : State) (d : DieId) (c : CoreId) (t : Team) : State :=
  let xs := s.unit d c t
  if !xs.all (fun x => s.teamQuiet d x.1 x.2) then s
  else if !s.dies[d].saveRoom xs.length then (s.count d 8 1).log 0x0A (dieSource d) 1 c.val (BitVec.ofNat 64 t.age)
  else (s.saveUnit d xs true).count d 7 xs.length

/-! ## Reloading an image (R333, R358, R360) -/

/-- The read of an image that a bank has recorded, as an operation of Caravan. -/
def reloadOp (asid : BitVec 12) (c : CoreId) (bank : Fin 64) (src : DWord) : EngineOp :=
  { id := 0, kind := .wload bank, completion := .input, asid := asid, core := c, team := 0, slot := 0, grid := 0, cls := 0, src := src
    dst := 0, len := imageBytes, sent := 0, code := 0 }

/-- A bank whose image could not be read (R333): the target rows of the operations that have it in their chains are poisoned, and those of
later ones are when they start. -/
def Core.reloadFailed (k : Core) (bank : Fin 64) : Core :=
  k.seq.foldl (fun k x =>
    match x.kind with
    | .mac op => if op.entry.chain.contains bank then op.poisonRows k 0x06 else k
    | _ => k) (k.modBank bank (fun b => { b with reloadBad := true }))

/-- An image put into a bank, with its source, or the failure of its reading (R333). -/
def Core.reload (k : Core) (bank : Fin 64) (im : List (Nat × Byte × Bool) × Byte) (src : Option (BitVec 12 × DWord)) : Core :=
  if im.2 != 0 && im.2 != codePoison then k.reloadFailed bank
  else k.modBank bank (fun b => { b.load im.1 with source := src, reloadBad := false })

/-- A bank reloaded from its recorded source (R270, R333). -/
def State.reloadBank (s : State) (d : DieId) (c : CoreId) (bank : Fin 64) : State :=
  match ((s.core d c).banks[bank]).source with
  | none => s
  | some (asid, src) => s.modCore d c (fun k => k.reload bank (s.imageOf d (reloadOp asid c bank src)) (some (asid, src)))

/-! ## Restoring (R358) -/

/-- Whether a core has what a saved team needs (R52, R53, R358): the octets it had, the budgets its groups hold. -/
def Core.fitsSaved (k : Core) (c : CoreId) (v : Saved) : Bool :=
  let ts := k.accounted
  let less := if c = 0 then 1 else 0
  let n := v.groups.length
  let x := v.team.desc
  decide (n ≤ (k.freeSlots c ts).length)
    && decide (total (v.groups.map (fun p => p.2.budget)) ≤ k.freeVector c ts)
    && decide (total (ts.map (fun t => t.slots.length * t.desc.sgran)) + n * x.sgran ≤ 128 - less)
    && decide (total (ts.map (fun t => t.desc.tiles)) + x.tiles ≤ 64)
    && v.team.reserved.all (k.octetFree ts)
    && decide (total (ts.map (fun t => t.desc.barriers)) + x.barriers ≤ 256 - 2 * less)
    && (ts.isEmpty || decide (total (ts.map (fun t => t.desc.claim)) + x.claim ≤ 64 + 8 * k.adm.feff))

/-- Where a slot of the record goes. -/
def moved (xs : List (SlotId × SlotId)) (i : SlotId) : SlotId :=
  match xs.find? (fun p => p.1 == i) with
  | some p => p.2
  | none => i

/-- A team in its new slots. -/
def Team.rehome (t : Team) (xs : List (SlotId × SlotId)) : Team :=
  { t with
    slots := t.slots.map (moved xs)
    latch := t.latch.map (fun l => { l with arrivals := l.arrivals.map (fun a => { a with slot := moved xs a.slot }) }) }

/-- A bank restored: what the array itself is stays (R360). -/
def Bank.restored (b old : Bank) : Bank :=
  { b with quarantined := old.quarantined, failed := old.failed, remap := old.remap, badColumns := old.badColumns }

/-- The body of a record put back into its core (R357, R358). -/
def Core.unpack (k : Core) (v : Saved) (xs : List (SlotId × SlotId)) : Core :=
  { k with
    slots := v.groups.foldl (fun t p => t.set (moved xs p.1) (some p.2)) k.slots
    teams := k.teams ++ [v.team.rehome xs]
    banks := v.banks.foldl (fun t p => t.set p.1 (p.2.restored k.banks[p.1])) k.banks
    octets := v.octets.foldl (fun t p => t.set p.1 { p.2 with feed := p.2.feed.map (fun x => { x with slot := moved xs x.slot }) }) k.octets
    table := v.table.foldl (fun t p => t.set p.1 p.2) k.table
    seq := k.seq ++ v.seq }

/-- The lanes that a phase or a count released while the team was saved go on (R356). -/
def State.releaseSaved (s : State) (d : DieId) (c : CoreId) (t : Team) : State :=
  (s.groupsOf d c t).foldl (fun u p => u.rouse p.1 (fun g =>
    (List.finRange 8).foldl (fun g n => g.releaseTag n) (g.releaseBar t.barriers))) s

/-- The `wload` operations of a team that the reload completes: those that bank order does not hold back (R356). -/
def State.inFlightLoads (s : State) (d : DieId) (c : CoreId) (t : Team) : List (EngineOp × Fin 64) :=
  s.dies[d].engines.filterMap (fun e =>
    match e.kind with
    | .wload b =>
      if e.core == c && e.team == t.uid && (match (s.core d c).seq.find? (fun x => x.id == e.id) with
          | some x => !(s.core d c).banksBlocked x
          | none => false) then some (e, b)
      else none
    | _ => none)

/-- A `wload` in flight completed by the reload: the bank holds its image, and it arrives (R356, R358). -/
def State.reloadFlight (s : State) (d : DieId) (x : EngineOp × Fin 64) : State :=
  let im := s.imageOf d x.1
  let s1 := s.modCore d x.1.core (fun k => (k.reload x.2 im (some (x.1.asid, x.1.src))).finishItem x.1.id)
  s1.complete d x.1 .die im.2

/-- The images of a team's compute-mode banks reloaded. -/
def State.reloadAll (s : State) (d : DieId) (c : CoreId) (v : Saved) : State :=
  let s1 := (v.octets.filter (fun p => p.2.mode == .compute)).foldl (fun s p => (banksOf p.1).foldl (fun s b => s.reloadBank d c b) s) s
  (s1.inFlightLoads d c v.team).foldl (fun s x => s.reloadFlight d x) s1

/-- The record of a team given back. -/
def State.dropRecord (s : State) (d : DieId) (uid : Nat) : State :=
  s.modDie d (fun x => { x with saved := x.saved.filter (fun v => v.team.uid != uid) })

/-- Whether a record reads back whole: MAGIC, VERSION and CRC, and no unit of it poisoned (R358, R359). -/
def State.recordGood (s : State) (v : Saved) : Bool :=
  let h := s.readHome v.addr 64
  let rest := s.readHome (v.addr + 64) (512 + bytesAt h 20 4)
  !v.corrupt && !s.poisonedIn v.addr v.bytes && bytesAt h 0 4 == 0x45564153 && bytesAt h 4 2 == 1 && bytesAt h 24 4 == (crc32c 0 rest).toNat

/-- A restore that fails: the team ends with status 0x07, with no detail, and RESULT reads RESTORE-FAIL (R358, R390). -/
def State.restoreFailed (s : State) (d : DieId) (v : Saved) : State :=
  let s1 := s.noteEnd d v.team (some (0x07, 0))
  { s1 with pctl := { s1.pctl with result := 2 } }

/-- One team restored on its core (R358), with the acquire of Table K-20, or ended when its record is bad, with no detail (R390). -/
def State.restoreOne (s : State) (d : DieId) (v : Saved) : State :=
  let s0 := s.dropRecord d v.team.uid
  if !s.recordGood v then
    s0.restoreFailed d v
  else
    let k := s0.core d v.core
    let xs := (v.groups.map Prod.fst).zip (k.freeSlots v.core k.accounted)
    let s1 := s0.modDie d (fun x => { x with engines := x.engines.map (fun e => if e.team == v.team.uid then { e with slot := moved xs e.slot } else e) })
    let s2 := (s1.modCore d v.core (fun k => k.unpack v xs)).reloadAll d v.core v
    let s3 := s2.acquireAt d v.core .die
    match s3.team? d v.core v.team.uid with
    | some t => s3.releaseSaved d v.core t
    | none => s3

/-- The records that are restored with one: those of its chain (R42). -/
def State.restoreUnit (s : State) (d : DieId) (v : Saved) : List Saved :=
  if v.team.desc.halo then s.dies[d].saved.filter (fun x => x.team.desc.halo && x.team.key == v.team.key) else [v]

/-- Whether allocation order lets a saved team onto its core (R55). -/
def State.restoreTurn (s : State) (d : DieId) (v : Saved) : Bool :=
  (s.allocWalk d).bound.all (fun b => b.1.uid == v.team.uid || !b.2.contains v.core || allocBefore v.team b.1)

/-- Whether saved teams can be restored together: they have re-entered the wait list, no pre-emption has selected one of them (R355), and
each core takes its own, or the record is bad and its team ends (R358). -/
def State.restorable (s : State) (d : DieId) (xs : List Saved) : Bool :=
  xs.all (fun x => x.resume && !s.pctl.todo.contains (d, x.team.uid) && (!s.recordGood x || (s.core d x.core).fitsSaved x.core x))

end Sys2Proof.Machine
end

