-- ==== Sys2Proof/Machine/SchedulerEvents.lean ====
section
/-! DEFINITION. Events of the scheduler of a die: grants of `vgrow`, swap-outs for progress, the gate, admission epochs, packing,
regrouping, restarts of the dispatcher and die events (spec 01 R14, R16, R25, R28, R45, R46, spec 02 R60, R62, spec 18 R345, R360,
spec 21 R385, R386). -/

namespace Sys2Proof.Machine

/-! ## Order of groups (R45, R46, R62) -/

/-- The groups of a core's teams, the dispatcher's aside, that have not ended. -/
def State.workGroups (s : State) (d : DieId) (c : CoreId) : List (Team × GRef × Group) :=
  ((s.core d c).accounted.flatMap (fun t => (s.groupsOf d c t).map (fun p => (t, p.1, p.2)))).filter (fun x => !x.2.2.ended)

/-- Whether one group is older than another: team age, then GROUPIX. -/
def olderGroup (x y : Team × GRef × Group) : Bool :=
  decide (x.1.age < y.1.age) || (x.1.age == y.1.age && decide (x.2.2.gix ≤ y.2.2.gix))

/-- Whether one group comes before another in gate order (R62). -/
def gateBefore (x y : Team × GRef × Group) : Bool :=
  decide (y.1.desc.prio < x.1.desc.prio) || (x.1.desc.prio == y.1.desc.prio && olderGroup x y)

/-! ## vgrow (R46, R204) -/

/-- The granules that a group waits for. -/
def Group.wants (g : Group) : Nat := match g.hold with | some (.vgrow n) => n | _ => 0

/-- The groups of a core that wait in `vgrow`, the oldest first. -/
def State.growers (s : State) (d : DieId) (c : CoreId) : List (Team × GRef × Group) :=
  ((s.workGroups d c).filter (fun x => x.2.2.growing)).insertionSort (fun x y => olderGroup x y = true)

/-- The granules given to a group that waits for them. -/
def State.grow (s : State) (r : GRef) (n : Nat) : State := (s.modGroup r (fun g => { g with budget := g.budget + n })).finishHold r .noResult

/-- The swap-out of a team that is not the one that waits; one that is not made ends there (R46, R358). -/
def State.swapOutOther (s : State) (d : DieId) (c : CoreId) (x y : Team) : State := if y.uid == x.uid then s else s.swapOut d c y

/-- While every group of the core is held in `vgrow` and the oldest one's granules are not free, the team of the youngest is swapped out,
at most k times; then the oldest takes its granules when they are free (R46). -/
def State.growOldest (s : State) (d : DieId) (c : CoreId) (k : Nat) : State :=
  match s.growers d c with
  | [] => s
  | x :: rest =>
    if x.2.2.wants ≤ s.freeGranules d c then s.grow x.2.1 x.2.2.wants
    else
      match k, (s.workGroups d c).all (fun y => y.2.2.growing), rest.getLast? with
      | n + 1, true, some y =>
        if y.1.uid == x.1.uid || !s.swaps d c y.1 then s.swapOutOther d c x.1 y.1 else (s.swapOut d c y.1).growOldest d c n
      | _, _, _ => s

/-- VGROW_GRANT (R46): the oldest held group takes its granules, after the swap-outs that this needs. A request that no swap-out could meet is
issued again, and traps. -/
def execVgrowGrant (d : DieId) (c : CoreId) (s : State) : EventResult :=
  match s.growers d c with
  | [] => .next s
  | x :: _ =>
    if coreGranules c < s.teamGranules d c x.1 + x.2.2.wants then .next (s.rouse x.2.1 (fun g => { g with hold := none }))
    else .next (s.growOldest d c (s.core d c).accounted.length)

/-! ## Swap-out for progress (R45) -/

/-- Whether one team is swapped out before another: the lower priority, then the younger. -/
def swapBefore (a b : Team) : Bool := decide (a.desc.prio < b.desc.prio) || (a.desc.prio == b.desc.prio && decide (b.age ≤ a.age))

/-- The team at the head of those bound for a core admitted to the cores it is bound to, when they have room (R45). -/
def State.admitHead (s : State) (d : DieId) (x : Team × List CoreId) : State :=
  match s.dies[d].saved.find? (fun v => v.team.uid == x.1.uid) with
  | some v =>
    let xs := s.restoreUnit d v
    if v.resume && s.restorable d xs then xs.foldl (fun s y => s.restoreOne d y) s else s
  | none =>
    let ts := (if x.1.desc.halo then s.chainWaiting d x.1 else [x.1]).zip x.2
    if ts.all (fun p => (s.core d p.2).fits p.2 (s.core d p.2).accounted p.1.desc) then
      ts.foldl (fun s p => s.placeTeam d p.2 p.1) s
    else s

/-- SWAP_OUT_FOR_PROGRESS (R45): no group of the core has issued for 65,536 cycles, and a team is bound for it. The team at the head of those
is the one that is admitted, whatever the age of the team swapped out. -/
def execSwapOutForProgress (d : DieId) (c : CoreId) (s : State) : EventResult :=
  let gs := (s.core d c).accounted.flatMap (fun t => (s.groupsOf d c t).map Prod.snd)
  if gs.all (fun g => decide (g.sched.lastIssue + 65536 ≤ s.now)) then
    match (s.allocWalk d).bound.find? (fun b => b.2.contains c), (s.core d c).accounted.insertionSort (fun a b => swapBefore a b = true) with
    | some b, t :: _ => .next ((s.swapOut d c t).admitHead d b)
    | _, _ => .next s
  else .next s

/-! ## The gate (R61, R62) -/

/-- The walk of the gate: the sum of leases, whether a group that is not dormant is active yet, and whether it is open. -/
structure Gate where
  s : State
  sum : Nat
  any : Bool
  opened : Bool

/-- A group made active or inactive. -/
def Group.setActive (g : Group) (on : Bool) (now : Nat) : Group :=
  if on then (if g.sched.active then g else { g with sched := { g.sched with active := true, activeSince := now, eligibleSince := now } })
  else { g with sched := { g.sched with active := false } }

/-- One group of the walk (R62). -/
def Gate.visit (cap : Nat) (w : Gate) (x : Team × GRef × Group) : Gate :=
  let now := w.s.now
  let put := fun (on : Bool) => w.s.modGroup x.2.1 (fun g => g.setActive on now)
  let l := x.2.2.lease.units
  if x.2.2.sched.dormant then { w with s := put true }
  else if w.opened && (decide (w.sum + l ≤ cap) || !w.any) then { s := put true, sum := w.sum + l, any := true, opened := true }
  else if x.2.2.sched.active && decide (now < x.2.2.sched.activeSince + 1024) then { w with sum := w.sum + l, opened := false }
  else { w with s := put false, opened := false }

/-- GATE_TICK (R62): every 64 core cycles. -/
def execGateTick (d : DieId) (c : CoreId) (s : State) : EventResult :=
  if s.now < (s.core d c).gateAt + 64 then .next s
  else
  let s := s.modCore d c (fun k => { k with gateAt := k.gateAt + 64 })
  let xs := ((s.workGroups d c).filter (fun x => x.1.landed)).insertionSort (fun x y => gateBefore x y = true)
  .next (xs.foldl (Gate.visit (64 + 8 * (s.core d c).adm.feff)) ⟨s, 0, false, true⟩).s

/-! ## Admission epochs (R60) -/

/-- The programmed factor in sixteenths above 0.5 (Table K-8). -/
def Admission.programmed (x : Admission) : Nat := min x.admitf.toNat 24

/-- The end of an epoch (R60). -/
def Admission.epoch (x : Admission) : Admission :=
  let f := x.programmed
  { x with
    feff := if !x.adapt then f
      else if x.misses < 8 * x.contentions then x.feff - 2
      else if 32 * x.contentions < x.misses then min f (x.feff + 2)
      else x.feff
    misses := 0, contentions := 0, epochAt := x.epochAt + 16384 }

/-- ADMISSION_EPOCH_END (R60): every 16,384 core cycles. -/
def execAdmissionEpochEnd (d : DieId) (c : CoreId) (s : State) : EventResult :=
  if s.now < (s.core d c).adm.epochAt + 16384 then .next s
  else .next (s.modCore d c (fun k => { k with adm := k.adm.epoch }))

/-! ## Packing (R25) -/

/-- The team that the packing unit forms of items for a label, the oldest one first. Its budget is VGRAN_C of the parent's descriptor, which
R21 leaves unchecked where NCONS is 0: that byte as it stands (DESIGN CHOICE, log 87). -/
def packedTeam (uid : Nat) (x : Child) (label : DWord) (items : List Child) : Team :=
  let p := x.desc
  let n := (items.length + 31) / 32
  let desc : Descriptor :=
    { code := label, args := p.args, nprod := 0, ncons := n, vgranP := 0, vgranC := p.vgranC, sgran := p.sgran, tilePairs := 0
      octets := 0, storOct := 0, barriers := 1, prio := p.prio, halo := false, fptrap := p.fptrap, lease := p.lease, inputs := [] }
  { freshTeam uid x.asid desc 0 x.grid x.teamIx x.nteam false 0 with
    packed := true, items := items.map (fun y => (y.label, y.payload)), homeCore := none, originAge := x.age }

/-- PACKING_UNIT_FORM (R25): 256 items for the label, or the oldest has waited 1,024 cycles. What the depositing lanes released (R26) is
performed for every core on which the team may be placed. -/
def execPackingUnitForm (d : DieId) (c : CoreId) (label : DWord) (s : State) : EventResult :=
  match (s.core d c).children.find? (fun x => x.label == label) with
  | none => .next s
  | some x =>
    let same := fun (y : Child) => y.label == label && y.asid == x.asid
    let xs := (s.core d c).children.filter same
    if !(decide (256 ≤ xs.length) || decide (x.since + 1024 ≤ s.now)) || 256 ≤ s.dies[d].waitCount then .next s
    else
      let take := xs.take 256
      let s1 := (s.releaseTo d c .die).modCore d c (fun k => { k with children := (k.children.filter (fun y => !same y)) ++ xs.drop 256 })
      .next (s1.enterTeam d (packedTeam s.uid x label take))

/-! ## Regrouping (R28) -/

/-- The team of sorted deposits: its slots are the first of those it had. -/
def Team.regrouped (t : Team) (n : Nat) : Team :=
  { t with slots := t.slots.take ((n + 31) / 32), label := none, deposits := [] }

/-- Group k of the regrouped team, in the place of the group that had its slot, whose tiles the team keeps (R25, R28). -/
def Team.regroup (t : Team) (label : DWord) (payloads : List (List Word)) (k now : Nat) (old : Option Group) : Group :=
  let g := (freshGroup t.uid (Fin.ofNat 32 k) .consumer t.desc.vgranC label
    (entryUniform (decide (1 ≤ t.desc.sgran)) t.desc.args t.teamIx) (freshLease t.desc.lease) .user now).pack ((payloads.drop (32 * k)).take 32)
  match old with
  | some x => { g with tiles := x.tiles }
  | none => g

/-- The groups of a team replaced (R28). -/
def State.regroup (s : State) (d : DieId) (c : CoreId) (t : Team) (label : DWord) : State :=
  let xs := (t.deposits.insertionSort (fun a b => a.key.toNat ≤ b.key.toNat)).map Deposit.payload
  let t1 := t.regrouped xs.length
  let s1 := s.modCore d c (fun k => t.slots.foldl Core.clearSlot k)
  let s2 := t1.slots.zipIdx.foldl (fun u p => u.setGroup ⟨d, c, p.1⟩ (t1.regroup label xs p.2 s.now (s.group? ⟨d, c, p.1⟩))) s1
  s2.modTeam d c t.uid (fun _ => t1)

/-- REORDER_REGROUP (R28, R216): every thread of the team has exited or deposited, every copy tag of its groups is zero and every load has
completed. -/
def execReorderRegroup (d : DieId) (c : CoreId) (uid : Nat) (s : State) : EventResult :=
  match s.team? d c uid with
  | none => .next s
  | some t =>
    match t.label with
    | none => .next s
    | some label =>
      if t.deposits.isEmpty || !(s.groupsOf d c t).all (fun p => p.2.ended && p.2.flights.isEmpty && p.2.tags.all (· == 0)) then .next s
      else .next (s.regroup d c t label)

/-! ## The dispatcher (R14, R16, R323) -/

/-- The team of a dispatcher (R14); its age, which R14 and R51 leave open, is the oldest of all (DESIGN CHOICE, log 87). -/
def dispatcherTeam (uid : Nat) (asid : BitVec 12) (desc : Descriptor) : Team :=
  { freshTeam uid asid { desc with prio := 3, barriers := 2, vgranC := 8, sgran := 1 } 0 0 0 1 false 0 with
    dispatcher := true, slots := [31], landed := true, age := 0, homeCore := some 0, originAge := 0 }

/-- The group of a dispatcher at its start (R14, R22). -/
def dispatcherGroup (t : Team) (base : Mode) (now : Nat) : Group :=
  { freshGroup t.uid 0 .dispatcher 8 t.desc.code (entryUniform true t.desc.args 0) (freshLease 0) base now with
    sched := { freshSched now with active := true } }

/-- A dispatcher group put into slot 31 of core 0 in the place of whatever dispatcher was there. -/
def State.enterDispatcher (s : State) (d : DieId) (t : Team) (g : Group) : State :=
  ({ s with uid := s.uid + 1 }.modCore d 0 (fun k =>
    { (k.clearSlot 31) with teams := (k.teams.filter (fun (x : Team) => !x.dispatcher)) ++ [t] })).setGroup (dispatcherRef d) g

/-- The dispatcher of a die started: a user's, or the default one, whose program is firmware's own (R14, R16, R323). The first change that
waits, if any, is the one made. -/
def State.startDispatcher (s : State) (d : DieId) (x : Option (BitVec 12 × Descriptor)) : State :=
  let s1 := s.modDie d (fun y => { y with disp := { y.disp with
    user := x, pending := y.disp.pending.drop 1, gridLo := 0, gridHi := 0, nteam := 0, dieCnt := 0, spasid := none, inHand := [] } })
  match x with
  | some (asid, desc) =>
    let t := dispatcherTeam s.uid asid desc
    s1.enterDispatcher d t (dispatcherGroup t .user s.now)
  | none => { s1 with uid := s1.uid + 1 }.modCore d 0 (fun k => (k.clearSlot 31).withBuiltin s1.uid s1.now)

/-- DISPATCHER_RESTART (R16): the dispatcher has exited, or took a trap that its handler did not return from. -/
def execDispatcherRestart (d : DieId) (s : State) : EventResult :=
  match s.group? (dispatcherRef d) with
  | none => .next s
  | some g =>
    if g.ended && s.dies[d].disp.pending.isEmpty then
      let detail : DWord := match g.pendingTrap with | some x => x.trcause.setWidth 64 | none => 0
      .next ((s.log 0x0B (dieSource d) 1 0 detail).startDispatcher d s.dies[d].disp.user)
    else .next s

/-! ## Die events: bank residue errors (R345, R360, R386) -/

/-- The columns of an array that fail a test, ascending (R360). -/
def Bank.failing (b : Bank) : List Nat := (List.range 521).filter b.badColumns.contains

/-- The result of `btest` (R360). -/
def btestWord (failing : List Nat) : Word :=
  match failing with
  | [] => BitVec.ofNat 32 (1 + 2 * 0x3FF)
  | n :: _ => BitVec.ofNat 32 (2 * n + 2048 * failing.length)

/-- A bank after a test: its weight and scale rows are zero. -/
def Bank.tested (b : Bank) : Bank := { b with mem := [], poison := [] }

/-- The failing data columns that no good spare carries yet. -/
def Bank.toRemap (b : Bank) : List Nat :=
  b.failing.filter (fun n => decide (n < 512)
    && !b.remap.any (fun r => r.column.toNat == n && !b.badColumns.contains (512 + r.spare.toNat)))

/-- The spares of an array that are good and carry nothing. -/
def Bank.freeSpares (b : Bank) : List Nat :=
  (List.range 8).filter (fun n => !b.badColumns.contains (512 + n) && !b.remap.any (fun r => r.spare.toNat == n))

/-- Operand B of the `bremap` that gives a column a spare. -/
def remapWord (column spare : Nat) : Word := BitVec.ofNat 32 (column + 512 * spare + 4096)

/-- The spare-column record of an array (R386). -/
def Bank.spareRecord (b : Bank) : BitVec 256 :=
  let used := b.remap.foldl (fun n r => n ||| 2 ^ r.spare.toNat) 0
  let cols := (List.range 8).map (fun n =>
    match b.remap.find? (fun r => r.spare.toNat == n) with
    | some r => r.column.toNat
    | none => 0xFFFF)
  BitVec.ofNat 256 (used + 256 * (if b.failed then 1 else 0) + 65536 * cols.foldr (fun x acc => x + 65536 * acc) 0)

/-- The record of an array written in the inventory. -/
def State.writeSpares (s : State) (d : DieId) (c : CoreId) (bank : Fin 64) : State :=
  let n := 3072 * d.val + 64 * c.val + bank.val
  { s with mgmt := { s.mgmt with spares := (n, ((s.core d c).banks[bank]).spareRecord) :: s.mgmt.spares.filter (fun x => x.1 != n) } }

/-- The remap register of an array with an entry written (R360): V = 0 removes it. -/
def Bank.writeRemap (b : Bank) (column : BitVec 9) (spare : BitVec 3) (v : Bool) : Bank :=
  let rest := b.remap.filter (fun r => r.spare != spare)
  { b with remap := if v then rest ++ [⟨column, spare⟩] else rest }

/-- What a `bremap` with operand B does to an array of die d, and what firmware does after it: the REMAP record of the log, and the array's
record in the inventory (R360, R385, R386; DEDUCED, log 100). -/
def State.bremap (s : State) (d : DieId) (c : CoreId) (bank : Fin 64) (b : Word) : State :=
  ((s.modCore d c (fun k => k.modBank bank (fun x => x.writeRemap (b.extractLsb' 0 9) (b.extractLsb' 9 3) (b.getLsbD 12)))).log
    0x04 (dieSource d) 1 (64 * c.val + bank.val) (b.setWidth 64)).writeSpares d c bank

/-- What a `btest` does to an array, with the RESIDUE record of its result (R360, R385; DEDUCED, log 100). -/
def State.btest (s : State) (d : DieId) (c : CoreId) (bank : Fin 64) : State :=
  (s.modCore d c (fun k => k.modBank bank Bank.tested)).log 0x03 (dieSource d) 1 (64 * c.val + bank.val)
    ((btestWord ((s.core d c).banks[bank]).failing).setWidth 64)

/-- One failing column given a spare (R360). -/
def State.remapColumn (s : State) (d : DieId) (c : CoreId) (bank : Fin 64) (p : Nat × Nat) : State := s.bremap d c bank (remapWord p.1 p.2)

/-- A column of an array that begins to fail (R269, R360). -/
def State.columnFails (s : State) (d : DieId) (c : CoreId) (bank : Fin 64) (column : Fin 521) : State :=
  s.modCore d c (fun k => k.modBank bank (fun b =>
    { b with badColumns := if b.badColumns.contains column.val then b.badColumns else column.val :: b.badColumns }))

/-- What firmware does with a bank residue error (R360): the test, the remapping, the reload, and the end of the quarantine; or the
array marked failed. -/
def State.repairBank (s : State) (d : DieId) (x : CoreId × Fin 64) : State :=
  let c := x.1
  let bank := x.2
  let b := (s.core d c).banks[bank]
  let unit := 64 * c.val + bank.val
  let s1 := s.btest d c bank
  let todo := b.toRemap
  let free := b.freeSpares
  if free.length < todo.length || b.failing.contains 520 then
    (((todo.zip free).foldl (fun s p => s.remapColumn d c bank p) s1).modCore d c (fun k => k.modBank bank (fun b =>
      { b with failed := true, quarantined := false }))).log 0x05 (dieSource d) 2 unit 0 |>.writeSpares d c bank
  else
    let s2 := (todo.zip free).foldl (fun s p => s.remapColumn d c bank p) s1
    let s3 := if ((s2.core d c).octets[octetOf bank]).owner.isSome then s2.reloadBank d c bank else s2
    s3.modCore d c (fun k => k.modBank bank (fun b => { b with quarantined := false }))

/-- The groups of a die that `idle` holds go on (R353). -/
def State.endIdle (s : State) (d : DieId) : State :=
  allCores.foldl (fun s c => allSlots.foldl (fun s i =>
    match s.holdOf ⟨d, c, i⟩ with
    | some .idle => s.finishHold ⟨d, c, i⟩ .noResult
    | _ => s) s) s

/-- DIE_EVENT (R345, R360): the bank residue errors of a die taken by its dispatcher's firmware. -/
def execDieEvent (d : DieId) (s : State) : EventResult :=
  let x := s.dies[d]
  if !x.dieEventPending then .next s
  else
    let s1 := s.modDie d (fun y => { y with residue := [], dieEventPending := false })
    .next ((x.residue.foldl (fun s p => s.repairBank d p) s1).endIdle d)

end Sys2Proof.Machine
end

