-- ==== Sys2Proof/Machine/PreemptEvents.lean ====
section
/-! DEFINITION. Pre-emption: PCTL requests, the save of selected teams and their restore (spec 18 R354 to R358, Tables D-15 to D-17). -/

namespace Sys2Proof.Machine

/-- OP of a PCTL value (Table D-15). -/
def pctlOp (v : DWord) : Nat := (v.extractLsb' 0 2).toNat
/-- SEL of a PCTL value. -/
def pctlSel (v : DWord) : Nat := (v.extractLsb' 2 2).toNat
/-- Whether a PCTL value names a die. -/
def pctlDie (v : DWord) (d : DieId) : Bool := v.getLsbD (32 + d.val)

/-- The writable fields of PCTL. -/
def pctlFields (v : DWord) : DWord := v &&& 0xFFFFFFFF0000FFFF

/-- Whether a request selects a team; never the dispatcher. -/
def pctlSelects (v pgrid : DWord) (t : Team) : Bool :=
  !t.dispatcher &&
    match pctlSel v with
    | 0 => true
    | 1 => t.asid == v.extractLsb' 4 12
    | 2 => t.grid == pgrid
    | _ => false

/-- The teams of a die that are resident or wait for their first placement. -/
def State.liveTeams (s : State) (d : DieId) : List Team :=
  allCores.flatMap (fun c => (s.core d c).accounted) ++ s.dies[d].waitList

/-- The teams that a request selects on a die; a halo chain is taken whole when any of its teams is (R355). -/
def State.selected (s : State) (d : DieId) (v : DWord) : List Nat :=
  let ts := s.liveTeams d
  let hit := ts.filter (pctlSelects v s.pctl.pgrid)
  (ts.filter (fun t => pctlSelects v s.pctl.pgrid t || (t.desc.halo && hit.any (fun x => x.desc.halo && x.key == t.key)))).map Team.uid

/-- PCTL with a request taken. -/
def Pctl.start (p : Pctl) (v : DWord) (result : Byte) (todo : List (DieId × Nat)) : Pctl :=
  { p with value := pctlFields v, busy := !todo.isEmpty, result := result, todo := todo }

/-- HALT_SAVE (R354, R355): the teams are selected; a die without a save area keeps its teams, and RESULT reads SAVE-FULL. A saved team
that waits to be restored is not placed either. -/
def execHaltSave (value : DWord) (s : State) : EventResult :=
  s.unlessMinimal <|
  if s.pctl.busy || pctlOp value != 1 || pctlSel value == 3 then .next s
  else
    let ds := allDies.filter (pctlDie value)
    let able := ds.filter (fun d => decide (112 ≤ s.dies[d].saveSize.toNat))
    let todo := able.flatMap (fun d => (s.selected d value).map (fun u => (d, u)))
    let s1 := able.foldl (fun s d => s.modDie d (fun x => { x with saved := x.saved.map (fun v =>
      if pctlSelects value s.pctl.pgrid v.team then { v with resume := false } else v) })) s
    .next { s1 with pctl := s.pctl.start value (if able.length < ds.length then 1 else 0) todo }

/-- A saved team re-enters the wait list (R358). One that was waiting for its first placement has no context: its record is checked as the
first step of a restore is, and it waits again, or ends with status 0x07. -/
def State.reenter (s : State) (d : DieId) (v : Saved) : State :=
  if !v.groups.isEmpty then
    s.modDie d (fun x => { x with saved := x.saved.map (fun y => if y.team.uid == v.team.uid then { y with resume := true } else y) })
  else if s.recordGood v then
    (s.dropRecord d v.team.uid).modDie d (fun x => { x with waitList := x.waitList ++ [v.team] })
  else (s.dropRecord d v.team.uid).restoreFailed d v

/-- RESUME (R354, R358). -/
def execResume (value : DWord) (s : State) : EventResult :=
  s.unlessMinimal <|
  if s.pctl.busy || pctlOp value != 2 || pctlSel value == 3 then .next s
  else
    let s0 := { s with pctl := s.pctl.start value 0 [] }
    .next ((allDies.filter (pctlDie value)).foldl (fun u d =>
      let hit := u.dies[d].saved.filter (fun v => pctlSelects value u.pctl.pgrid v.team)
      (u.dies[d].saved.filter (fun v => hit.any (fun y => y.team.uid == v.team.uid
        || (v.team.desc.halo && y.team.desc.halo && y.team.key == v.team.key)))).foldl (fun u v => u.reenter d v) u) s0)

/-- A PCTL write that asks for nothing (R354): OP 00 or 11, or SEL 11. -/
def execPctlNoop (value : DWord) (s : State) : EventResult :=
  s.unlessMinimal <|
  if s.pctl.busy || !(pctlOp value == 0 || pctlOp value == 3 || pctlSel value == 3) then .next s
  else .next { s with pctl := s.pctl.start value (if pctlOp value == 0 then s.pctl.result else 0) [] }

/-- Teams taken off the list of a request; BUSY clears with the last. -/
def State.pctlDone (s : State) (p : DieId × Nat → Bool) (result : Option Byte) : State :=
  let todo := s.pctl.todo.filter (fun x => !p x)
  { s with pctl := { s.pctl with todo := todo, busy := !todo.isEmpty, result := result.getD s.pctl.result } }

/-- The record of a team that waits for its first placement: it has no context. -/
def waitingRecord (t : Team) (fresh addr : Nat) : Saved :=
  { team := t, groups := [], banks := [], octets := [], table := [], seq := [], core := 0, swap := false
    addr := addr, bytes := recordBytes fresh, corrupt := false, resume := false }

/-- The core on which a team is resident. -/
def State.homeOf (s : State) (d : DieId) (uid : Nat) : Option (CoreId × Team) :=
  allCores.findSome? (fun c => (s.team? d c uid).map (fun t => (c, t)))

/-- TEAM_SAVE (R355): a selected team, with its chain, saved once everything that it issued has completed; without room the die's other
teams run on. A team that was swapped out meanwhile stays saved until RESUME; one that has ended leaves the list. -/
def execTeamSave (d : DieId) (uid : Nat) (s : State) : EventResult :=
  if !s.pctl.todo.contains (d, uid) then .next s
  else
    match s.homeOf d uid, s.dies[d].waitList.find? (fun t => t.uid == uid) with
    | some (c, t), _ =>
      let xs := s.unit d c t
      if !xs.all (fun x => s.teamQuiet d x.1 x.2) then .next s
      else if !s.dies[d].saveRoom xs.length then .next (s.pctlDone (fun x => x.1 == d) (some 1))
      else .next ((s.saveUnit d xs false).pctlDone (fun x => x.1 == d && xs.any (fun y => y.2.uid == x.2)) none)
    | none, some t =>
      match s.dies[d].saveRoom 1, s.dies[d].saveAt 1 with
      | true, some addr =>
        let s1 := s.modDie d (fun x => { x with waitList := x.waitList.filter (fun y => y.uid != uid) })
        .next ((s1.keepRecord d (waitingRecord t s.fresh addr)).pctlDone (fun x => x == (d, uid)) none)
      | _, _ => .next (s.pctlDone (fun x => x.1 == d) (some 1))
    | none, none =>
      .next ((s.modDie d (fun x => { x with saved := x.saved.map (fun v => if v.team.uid == uid then { v with resume := false } else v) })).pctlDone
        (fun x => x == (d, uid)) none)

/-- TEAM_RESTORE (R358): a saved team that has re-entered the wait list, with its chain, restored where its core has room. -/
def execTeamRestore (d : DieId) (uid : Nat) (s : State) : EventResult :=
  match s.dies[d].saved.find? (fun v => v.team.uid == uid) with
  | none => .next s
  | some v =>
    let xs := s.restoreUnit d v
    if s.restorable d xs && s.restoreTurn d v then
      .next (xs.foldl (fun s x => s.restoreOne d x) s)
    else .next s

end Sys2Proof.Machine
end

