-- ==== Sys2Proof/Machine/SystemOps.lean ====
section
/-! DEFINITION. Row 0xC: returns from traps, services, cache and translation maintenance, `idle`, `bremap` and `btest` (spec 12
R291, spec 16 R324, R325, spec 17 R340, spec 18 R348 to R353, R360). -/

namespace Sys2Proof.Machine

/-! ## Returning from a trap (R348) -/

/-- The lanes of TRMASK that are not exited are candidates again; what they waited for as members of a group-wide operation of the
handler is given up. -/
def Group.resumeLanes (g : Group) (m : Mask) : Group :=
  { g with
    status := Vector.ofFn fun i => if inMask m i && g.status[i] != .exited then .run else g.status[i]
    gw := (g.gw.map (fun w => { w with arrived := w.arrived &&& ~~~m })).filter (fun w => w.arrived != 0) }

/-- A return with the lanes of TRMASK at an address: unhandled after a final cause (R349). Without an entry to return from it only
advances (log 21). -/
def Ctx.returnTo (c : Ctx) (pc : TrapInfo → DWord) : Act :=
  match c.g.traps with
  | [] => .done c.s .noResult
  | t :: _ =>
    if t.info.final && t.mode == .trap then .left (c.s0.unhandled c.r c.g c.t t.info)
    else .left (c.s.modGroup c.r (fun g => (Group.leave g (some (pc t.info))).resumeLanes t.info.mask))

/-- `tret` (R348). -/
def execTret (f : Fields) (s : State) := issue .tret f s fun c => c.returnTo TrapInfo.resumePc

/-- `tret.skip` (R348). -/
def execTretSkip (f : Fields) (s : State) :=
  issue .tretSkip f s fun c => c.returnTo (fun x => x.pc + BitVec.ofNat 64 x.len)

/-! ## Services (R324, R325, R352) -/

/-- A TRANSFER request block (Table D-7). -/
structure TransferBlock where
  op : Nat
  breg : Nat
  target : BitVec 16
  remote : DWord
  loc : DWord
  len : Nat
  rkey : Word
  deriving DecidableEq, Repr

/-- The block that 64 bytes hold. -/
def parseTransfer (bs : List Byte) : TransferBlock :=
  ⟨bytesAt bs 0 1, bytesAt bs 1 1, BitVec.ofNat 16 (bytesAt bs 2 2), BitVec.ofNat 64 (bytesAt bs 8 8), BitVec.ofNat 64 (bytesAt bs 16 8),
    bytesAt bs 24 4, BitVec.ofNat 32 (bytesAt bs 28 4)⟩

/-- Whether a block asks for an NVM transfer. -/
def TransferBlock.nvm (x : TransferBlock) : Bool := x.op == 1 || x.op == 2
/-- Whether a block's transfer writes device memory. -/
def TransferBlock.writes (x : TransferBlock) : Bool := x.op == 1 || x.op == 4

/-- The LBA size of a namespace handle, none for an unknown one (R325, R326). -/
def namespaceLba (handle : BitVec 16) : Option Nat :=
  (List.finRange 256).findSome? (fun n => (Config.namespaces n).bind (fun x => if x.1 == handle then some x.2 else none))

/-- The unit of a block's LENGTH: the LBA size of its namespace, or 16 bytes for a peer; none for an unknown handle. -/
def TransferBlock.granule (x : TransferBlock) : Option Nat :=
  if x.nvm then namespaceLba x.target else (Config.peerQp x.target).map (fun _ => 16)

/-- The field checks of R325 on a block. -/
def transferOk (bs : List Byte) : Bool :=
  let x := parseTransfer bs
  decide (1 ≤ x.op) && decide (x.op ≤ 4) && decide (x.breg ≤ 15) && bytesAt bs 4 4 == 0 && x.loc.toNat % 16 == 0
    && decide (16 ≤ x.len) && decide (x.len ≤ 2147483648) && (!x.nvm || x.rkey == 0) && bytesAt bs 32 32 == 0
    && (match x.granule with | some n => x.len % n == 0 | none => false)

/-- The first fault of a block's LOCAL pages (R325): none, a failed translation, or a page that lacks RDMA visibility or the right
to be written or read, whose detail the manual leaves open. -/
def State.localFault (s : State) (d : DieId) (asid : BitVec 12) (x : TransferBlock) : Option (Byte × DWord) :=
  (pageChunks (x.len / 4096 + 2) x.loc.toNat x.len).findSome? (fun p =>
    let va : DWord := BitVec.ofNat 64 p.1
    if !canonical va then some (AccessDetail.nonCanonical.code, va)
    else
      match s.lookup d none asid (va57 va) with
      | .error e => some (e.code, va)
      | .ok e =>
        if x.writes && !e.attrs.w then some (AccessDetail.write.code, va)
        else if !x.writes && !e.attrs.r then some (AccessDetail.read.code, va)
        else if x.writes && e.attrs.sealed then some (AccessDetail.sealed.code, va)
        else if !e.attrs.rv then some (Config.freeByte (freeAt s.fresh 0), va)
        else none)

/-- The request accepted (R115, R206, R325): a fork at package scope, PEND, and the request in the queue. -/
def Ctx.startTransfer (c : Ctx) (x : TransferBlock) (b : Fin 16) : State :=
  let s1 := c.s.releaseBy c.r .home
  let y := c.t.barriers[b]
  let s2 := s1.putBar c.r.die c.r.core c.t b { y with pend := y.pend + 1 }
  { s2 with
    uid := s2.uid + 1
    transfers := s2.transfers ++ [⟨s2.uid, BitVec.ofNat 8 x.op, c.t.asid, c.r.die, c.r.core, c.t.uid, b, x.target, x.remote, x.loc, x.len, x.rkey, c.t.grid, 0, none⟩] }

/-- TRANSFER with its block read (R325). -/
def Ctx.transferBlock (c : Ctx) (bs : List Byte) : Act :=
  let x := parseTransfer bs
  let b : Fin 16 := Fin.ofNat 16 x.breg
  if !transferOk bs || !(decide (b.val < c.t.desc.barriers) && c.t.barriers[b].expect != 0) then c.illegal
  else
    match c.s0.localFault c.r.die c.t.asid x with
    | some (detail, va) => .trap c.s0.freshened (c.info 0x21 detail va 0)
    | none =>
      if 4096 ≤ c.s0.transfers.length then .hold .service
      else Ctx.result32 { c with s := c.startTransfer x b } (fun _ => 0)

/-- `svc` TRANSFER (R324, R325, R352); any other service number is an illegal operand. -/
def execSvcTransfer (f : Fields) (s : State) :=
  issue .svcTransfer f s fun c =>
    let a := c.g.level64 c.f c.f.sb c.m
    if f.svcNumber ≠ 0x10 then c.illegal
    else if a.toNat % 64 ≠ 0 then c.trap 0x20 0 a
    else
      match c.translate a .read with
      | .error e => c.trap 0x21 e.code a
      | .ok x =>
        match c.readBytes a x 64 with
        | (s1, some bs) => Ctx.transferBlock { c with s := s1 } bs
        | (_, none) => c.trap 0x30 0x01 a

/-- `svc` ICFLUSH (R352): the group's stores reach the die's L2, then the instruction and constant caches of the die are empty. -/
def execSvcIcflush (f : Fields) (s : State) :=
  issue .svcIcflush f s fun c =>
    Ctx.result32 { c with s := (c.s.releaseBy c.r .die).flushCode c.r.die true true } (fun _ => 0)

/-! ## Translation and cache maintenance (R340, R353) -/

/-- The XINV value that `tlbinv` places (Table D-11). -/
def xinvWord (op : BitVec 2) (wb : Bool) (asid : BitVec 12) (va : DWord) (count : Word) : BitVec 128 :=
  count ++ (0#7 ++ va.extractLsb' 32 25 : BitVec 32) ++ (va.extractLsb' 12 20 ++ 0#12 : BitVec 32)
    ++ (0#16 ++ asid ++ 0#1 ++ BitVec.ofBool wb ++ op : BitVec 32)

/-- `tlbinv` (R353): it holds while another request is busy, and then until its own completes. -/
def execTlbinv (f : Fields) (s : State) :=
  issue .tlbinv f s fun c =>
    if c.s0.xlat.busy then .hold .service
    else
      let v := xinvWord (c.f.sub.extractLsb' 0 2) (c.f.sub.getLsbD 2) (c.f.imm.extractLsb' 0 12) (c.g.level64 c.f c.f.sa c.m) c.bLevel
      let op3 := c.f.sub.extractLsb' 0 2 == 3
      let s1 : State := { c.s with xlat := { c.s.xlat with xinv := v, busy := !op3, waiter := if op3 then none else some c.r } }
      if op3 then .done s1 .noResult else .holdWith s1 .xinv

/-- `cflush.i` (R152, R353). -/
def execCflushI (f : Fields) (s : State) := issue .cflushI f s fun c => .done (c.s.flushCode c.r.die true false) .noResult

/-- `cflush.c` (R228, R353). -/
def execCflushC (f : Fields) (s : State) := issue .cflushC f s fun c => .done (c.s.flushCode c.r.die false true) .noResult

/-- The physical bytes of a range of an address space: first byte and length of each piece; a page without a translation has none. -/
def State.framesOf (s : State) (d : DieId) (asid : BitVec 12) (va : DWord) (n : Nat) : List (Nat × Nat) :=
  (pageChunks (n / 4096 + 2) va.toNat n).filterMap (fun p =>
    match s.lookup d none asid (va57 (BitVec.ofNat 64 p.1)) with
    | .ok e => some (e.pa + (va57 (BitVec.ofNat 64 p.1) - e.va), p.2)
    | .error _ => none)

/-- `cflush.wb` (R353). -/
def execCflushWb (f : Fields) (s : State) :=
  issue .cflushWb f s fun c =>
    let a := c.g.level64 c.f c.f.sa c.m
    let n := c.bLevel.toNat
    if a.toNat % 128 ≠ 0 then c.trap 0x20 0 a
    else if n % 128 ≠ 0 then c.trap 0x20 0 0
    else
      let xs := c.s0.framesOf c.r.die c.t.asid a n
      .done (c.s.flushEverywhere (fun pa => xs.any (fun x => decide (x.1 ≤ pa) && decide (pa < x.1 + x.2)))) .noResult

/-- `idle` (R353): until a die event or a mailbox arrival. -/
def execIdle (f : Fields) (s : State) := issue .idle f s fun c => .holdWith c.s .idle

/-! ## Arrays (R360) -/

/-- The array that A names, when `bremap` and `btest` may act on it: quarantined, or in a free octet. -/
def Ctx.array? (c : Ctx) : Option (CoreId × Fin 64) :=
  let a := c.aLevel.toNat
  if h : a < 3072 then
    let core : CoreId := ⟨a / 64, by omega⟩
    let bank : Fin 64 := ⟨a % 64, by omega⟩
    let k := c.s0.core c.r.die core
    if (k.banks[bank]).quarantined || (k.octets[octetOf bank]).owner.isNone then some (core, bank) else none
  else none

/-- `bremap` (R360). -/
def execBremap (f : Fields) (s : State) :=
  issue .bremap f s fun c =>
    let b := c.bLevel
    let column := b.extractLsb' 0 9
    let spare := b.extractLsb' 9 3
    match c.array? with
    | none => c.illegal
    | some (core, bank) =>
      if b.extractLsb' 13 19 != 0 || ((c.s0.core c.r.die core).banks[bank]).remap.any (fun r => r.spare == spare && r.column != column) then c.illegal
      else .done (c.s.bremap c.r.die core bank b) .noResult

/-- `btest` (R360). -/
def execBtest (f : Fields) (s : State) :=
  issue .btest f s fun c =>
    match c.array? with
    | none => c.illegal
    | some (core, bank) =>
      let w := btestWord ((c.s0.core c.r.die core).banks[bank]).failing
      Ctx.result32 { c with s := c.s.btest c.r.die core bank } (fun _ => w)

end Sys2Proof.Machine
end

