-- ==== Sys2Proof/Machine/TranslationEvents.lean ====
section
/-! DEFINITION. Translation events: XINV requests, their completion, and page walks that fill a TLB (spec 17 R338 to R341, Table
D-11). -/

namespace Sys2Proof.Machine

/-- OP of an XINV value (Table D-11). -/
def xinvOp (v : BitVec 128) : Nat := (v.extractLsb' 0 2).toNat
/-- The fields of XINV that a write sets: BUSY and the reserved bits are not among them. -/
def xinvFields (v : BitVec 128) : BitVec 128 := v &&& 0xFFFFFFFF01FFFFFFFFFFF0000000FFF7

/-- A write of word 3 of XINV (R340): a request starts; while BUSY is 1 the write is ignored. -/
def State.startXinv (s : State) (v : BitVec 128) (busy : Bool) : State :=
  if s.xlat.busy then s else { s with xlat := { s.xlat with xinv := xinvFields v, busy := busy, waiter := none } }

/-- XINV, page range (R340). -/
def execPageRange (value : BitVec 128) (s : State) : EventResult :=
  s.unlessMinimal <| if xinvOp value = 0 then .next (s.startXinv value true) else .next s
/-- XINV, whole ASID (R340). -/
def execWholeAsid (value : BitVec 128) (s : State) : EventResult :=
  s.unlessMinimal <| if xinvOp value = 1 then .next (s.startXinv value true) else .next s
/-- XINV, all ASIDs (R340). -/
def execAllAsids (value : BitVec 128) (s : State) : EventResult :=
  s.unlessMinimal <| if xinvOp value = 2 then .next (s.startXinv value true) else .next s
/-- XINV that completes at once (Table D-11). -/
def execXinvNoop (value : BitVec 128) (s : State) : EventResult :=
  s.unlessMinimal <| if xinvOp value = 3 then .next (s.startXinv value false) else .next s

/-- The entries that a request matches (R340). -/
def xinvMatches (v : BitVec 128) (e : TlbEntry) : Bool :=
  let asid := v.extractLsb' 4 12
  let lo := ((v.extractLsb' 64 25) ++ (v.extractLsb' 44 20) : BitVec 45).toNat * 4096
  let n := (v.extractLsb' 96 32).toNat * 4096
  match xinvOp v with
  | 0 => e.asid == asid && decide (0 < n) && decide (e.va < lo + n) && decide (lo < e.va + e.size)
  | 1 => e.asid == asid
  | 2 => true
  | _ => false

/-- The frames that the matching entries of every TLB map, and those of the entries that have left one unasked: first byte and length (R340). -/
def State.xinvFrames (s : State) (v : BitVec 128) : List (Nat × Nat) :=
  (s.dies.toList.flatMap (fun x => x.gone ++ x.tlb ++ x.cores.toList.flatMap (fun k => k.tlb))).filterMap (fun e =>
    if xinvMatches v e then some (e.pa, e.size) else none)

/-- XINV_COMPLETE (R340): every access of a group translated before it is performed, and no TLB holds a matching entry; with WB no copy of the
frames that those entries mapped is cached, and their dirty bytes are at the home slices. -/
def execXinvComplete (s : State) : EventResult :=
  if !s.xlat.busy then .next s
  else
    let v := s.xlat.xinv
    let frames := s.xinvFrames v
    let s1 := s.settleAll.discardTlb (xinvMatches v)
    let s2 := if v.getLsbD 2 && !frames.isEmpty then
        { s1.flushEverywhere (fun pa => frames.any (fun x => decide (x.1 ≤ pa) && decide (pa < x.1 + x.2))) with
          dies := (s1.flushEverywhere (fun pa => frames.any (fun x => decide (x.1 ≤ pa) && decide (pa < x.1 + x.2)))).dies.map
            (fun x => { x with gone := x.gone.filter (fun e => !xinvMatches v e) }) }
      else s1
    let s3 : State := { s2 with xlat := { s2.xlat with busy := false, waiter := none } }
    match s.xlat.waiter with
    | none => .next s3
    | some r =>
      match s3.holdOf r with
      | some .xinv => .next (s3.finishHold r .noResult)
      | _ => .next s3

/-- PAGE_WALK_COMPLETE (R338, R339): a walk that ends well is cached in the die's TLB and in that of the core that asked. -/
def execPageWalkComplete (d : DieId) (c : Option CoreId) (asid : Nat) (va : DWord) (s : State) : EventResult :=
  if !canonical va then .next s
  else
    match s.walk d (BitVec.ofNat 12 asid) (va57 va) with
    | .error _ => .next s
    | .ok e => .next (s.cacheEntry d c e)

end Sys2Proof.Machine
end

