-- ==== Sys2Proof/Machine/MailboxEvents.lean ====
section
/-! DEFINITION. The mailbox unit of a die, packets that arrive, host slots, and the default dispatcher (spec 01 R17 to R20, R389, R390,
spec 11 R280 to R285, spec 16 R318 to R320). -/

namespace Sys2Proof.Machine

/-! ## Arrival (R281, R283, R284) -/

/-- A list without the entry at a place. -/
def dropAt {α : Type} (xs : List α) (n : Nat) : List α := xs.take n ++ xs.drop (n + 1)

/-- Whether a later version: one ahead modulo 2^16 (R283). -/
def laterVersion (u v : BitVec 16) : Bool := u - v == 1

/-- What the mailbox unit does with a packet that has arrived. -/
inductive Routing
  | waits
  | discard
  | deliver
  | redirect (die : DieId) (bits : BitVec 512)
  deriving DecidableEq, Repr

/-- A packet readdressed to placement k (R283). -/
def redirected (x : BitVec 512) (v : BitVec 16) (p : Placement) (k : Nat) : BitVec 512 :=
  pktPut (pktPut (pktPut (pktPut x 1 1 (pktHops x + 1)) 2 2 v.toNat) 18 1 p.slot) 19 1 k

/-- The decision of R283 for a packet at a die. -/
def routingOf (t : ReplicaTable) (d : DieId) (x : BitVec 512) : Routing :=
  if pktKind x != 2 then .deliver
  else if laterVersion (BitVec.ofNat 16 (pktVersion x)) t.version then .waits
  else
    let ps := t.places (pktExpert x)
    if ps.isEmpty then .discard
    else if pktHops x == 2 || ps.any (fun p => p.die == d && p.slot == pktSlot x) then .deliver
    else
      let k := if pktHops x == 0 then pktPlace x % ps.length else 0
      match ps[k]? with
      | some p => .redirect p.die (redirected x t.version p k)
      | none => .discard

/-- The host slot of a packet that leaves a mailbox unit is free (R318). -/
def Die.freeHostSlot (x : Die) (p : Packet) : Die :=
  match p.slot with
  | some n => { x with hostSlots := x.hostSlots.filter (· != n) }
  | none => x

/-- A counter register that saturates (Table K-67). -/
def satOne (x : Word) : Word := if x = 0xFFFFFFFF then x else x + 1

/-- A key's count raised by n. -/
def countUp (xs : List (Nat × Nat)) (k n : Nat) : List (Nat × Nat) :=
  match xs with
  | [] => [(k, n)]
  | x :: rest => if x.1 = k then (k, x.2 + n) :: rest else x :: countUp rest k n

/-- A delivered ROUTED packet counted by Nomad when it is enabled (R362, Table D-18). -/
def State.countDelivery (s : State) (d : DieId) (x : BitVec 512) : State :=
  if s.nomad.en && pktKind x == 2 then
    { s with nomad := { s.nomad with
        counts := countUp s.nomad.counts (pktExpert x) 1, dieCounts := s.nomad.dieCounts.set d (s.nomad.dieCounts[d] + 1) } }
  else s

/-- A packet delivered to the dispatcher's queue (R283); a LAUNCH packet, also one that a program has sent, first empties the instruction and
constant caches of the die (R152, R228; DEDUCED, log 106). The groups that `idle` holds go on (R353). -/
def State.deliverPacket (s : State) (d : DieId) (p : Packet) : State :=
  let s1 := if pktKind p.bits == 1 then s.flushCode d true true else s
  ((s1.modDie d (fun x => { x with box := x.box ++ [p] })).countDelivery d p.bits).endIdle d

/-- The earliest packet of a source in transit to a die is at a place (R18). -/
def firstOfSource (xs : List Packet) (n : Nat) (p : Packet) : Bool := !(xs.take n).any (fun y => y.src == p.src)

/-- PACKET_ARRIVAL (R18, R283, R284, R389); a packet may still be redirected to a die that has left service (DESIGN CHOICE, log 111). -/
def execPacketArrival (d : DieId) (index : Nat) (s : State) : EventResult :=
  s.whenAwake <|
  let x := s.dies[d]
  match x.transit[index]? with
  | none => .next s
  | some p =>
    if !firstOfSource x.transit index p then .next s
    else
      let gone := s.modDie d (fun x => { x with transit := dropAt x.transit index })
      match routingOf x.replicas d p.bits with
      | .waits => .next s
      | .discard => .next (gone.modDie d (fun x => { x.freeHostSlot p with dropped := satOne x.dropped }))
      | .deliver => if p.src == .distributor && !x.packetRoom then .next s else .next (gone.deliverPacket d p)
      | .redirect d' bits =>
        let left := gone.modDie d (fun x => x.freeHostSlot p)
        if !left.dies[d'].packetRoom then .next s
        else
          .next ((left.modDie d (fun x => { x with redir := satOne x.redir })).modDie d'
            (fun y => { y with transit := y.transit ++ [⟨bits, p.asid, .die d, none⟩] }))

/-! ## Queue pairs and host slots (R315, R316, R318, R319) -/

/-- The roles of a queue pair (R315), numbered as the model numbers them in a creation. -/
inductive QpRole
  | command | mailbox | data | storage | peer
  deriving DecidableEq, Repr

/-- The role of a queue pair. -/
def QueuePair.role (q : QueuePair) : Option QpRole :=
  match q.spec.role.toNat with
  | 0 => some .command
  | 1 => some .mailbox
  | 2 => some .data
  | 3 => some .storage
  | 4 => some .peer
  | _ => none

/-- A queue pair of the package. -/
def State.qp? (s : State) (n : Nat) : Option QueuePair := s.qps.find? (fun q => q.spec.qp == n)

/-- A change of a queue pair. -/
def State.modQp (s : State) (n : Nat) (f : QueuePair → QueuePair) : State :=
  { s with qps := s.qps.map (fun q => if q.spec.qp == n then f q else q) }

/-- An answer to a requester. -/
def State.reply (s : State) (x : RdmaReply) : State := { s with replies := s.replies ++ [x] }

/-- A TRANSFER's end (R115, R326): it leaves the queue, its core acquires at package scope, and it arrives at its barrier register. -/
def State.endTransfer (s : State) (x : Transfer) (code : Byte) (status : Option (BitVec 16)) : State :=
  let s1 := ({ s with transfers := s.transfers.filter (fun y => y.id != x.id), nvm := s.nvm.filter (fun y => y.transfer != x.id) }).acquireAt
    x.die x.core .home
  match status with
  | none => s1.arriveEngine x.die x.core x.team x.breg code
  | some st =>
    match s1.teamAnywhere? x.die x.core x.team with
    | none => s1
    | some t =>
      let s2 := s1.modTeam x.die x.core x.team (fun t => { t with berr := t.berr.set x.breg (noteError t.berr[x.breg] code st) })
      let b := t.barriers[x.breg]
      s2.putBar x.die x.core t x.breg { b.arrive 1 with pend := b.pend - 1 }

/-- Whether a transfer is one of a peer. -/
def Transfer.peer (x : Transfer) : Bool := x.op == 3 || x.op == 4

/-- Whether a queue pair carries a transfer: that of its peer handle (R327), or one on which a command of it is outstanding (R326). -/
def State.carries (s : State) (qp : Nat) (x : Transfer) : Bool :=
  if x.peer then Config.peerQp x.target == some qp else s.nvm.any (fun y => y.transfer == x.id && y.qp == qp && !y.done)

/-- Whether a command is a Flush, which belongs to no transfer (R326). -/
def NvmCommand.flush (x : NvmCommand) : Bool := x.transfer == x.id

/-- A queue pair enters the error state (R316): what it had not sent is dropped, and a TRANSFER that it carries ends with PEER-FAIL. -/
def State.failQp (s : State) (n : Nat) : State :=
  let s1 := s.modQp n (fun q => { q with error := true, reads := [] })
  let s2 : State := { s1 with held := s1.held.filter (fun r => r.qp != n), nvm := s1.nvm.filter (fun y => !(y.qp == n && y.flush)) }
  (s2.transfers.filter (fun x => s2.carries n x)).foldl (fun s x => s.endTransfer x 0x0F none) s2

/-- A request refused as invalid (R316). -/
def State.nakInvalid (s : State) (n : Nat) : State := (s.failQp n).reply (.nakInvalid n)

/-- A request refused for its pages or key, or beyond a limit of Table D-2 (R314, R316). -/
def State.nakAccess (s : State) (n : Nat) : State := (s.failQp n).reply (.nakAccess n)

/-- Whether a key names a memory region of an address space (R316). -/
def State.regionOk (s : State) (rkey : Word) (asid : BitVec 12) : Bool := s.regions.contains ⟨rkey, asid⟩

/-- The driver makes a key name a region of an address space, or of none (R316, log 88). -/
def State.setRegion (s : State) (rkey : Word) (asid : Option (BitVec 12)) : State :=
  let rest := s.regions.filter (fun x => x.rkey != rkey)
  { s with regions := match asid with | some a => ⟨rkey, a⟩ :: rest | none => rest }

/-- A packet of a queue pair arrives marked by ECN (Table D-2): a CNP is returned, at most one in 50 us; none in the error state (R316). -/
def State.ecnMarked (s : State) (n : Nat) : State :=
  match s.qp? n with
  | none => s
  | some q =>
    if q.error || (match q.cnpAt with | some t => decide (s.now < t + 94000) | none => false) then s
    else (s.modQp n (fun q => { q with cnpAt := some s.now })).reply (.cnp n)

/-- A packet as the mailbox unit places it from a host (R319). -/
def hostPacket (data : List Byte) (v : BitVec 16) (seq : Nat) : BitVec 512 :=
  let x : BitVec 512 := BitVec.ofNat 512 (leNat data)
  sentVersion (pktPut (pktPut (pktPut (pktPut x 4 1 33) 1 1 0) 5 3 0) 8 8 seq) v

/-- The packets that a queue pair has placed on a die (R319). -/
def QueuePair.placedOn (q : QueuePair) (d : DieId) : Nat :=
  match q.placed.find? (fun x => x.1 == d) with
  | some x => x.2
  | none => 0

/-- Whether an arrival breaks the form of a write to a slot of a window (Table D-3, first row). -/
def slotFormBad (q : QueuePair) (offset : Nat) (imm : Option Word) (data : List Byte) : Bool :=
  match imm with
  | none => true
  | some w =>
    data.length != 64 || offset % 64 != 0 || w.toNat != offset / 64 || decide (4096 ≤ w.toNat)
      || decide (w.toNat < q.spec.slotLo.toNat) || decide (q.spec.slotHi.toNat < w.toNat)

/-- The same of a mailbox slot, which takes no packet of KIND 0x01 or 0x03. -/
def slotWriteBad (q : QueuePair) (d : DieId) (offset : Nat) (imm : Option Word) (data : List Byte) : Bool :=
  slotFormBad q offset imm data || q.spec.die != d || data.headD 0 == 0x01 || data.headD 0 == 0x03

/-- Whether a die is reserved for the user dispatcher of another address space (R323). -/
def State.reservedAgainst (s : State) (d : DieId) (asid : BitVec 12) : Bool := s.reserved.any (fun x => x.1 == d && x.2 != asid)

/-- A packet placed in its slot (R318, R319): the slot is pending, and the packet goes on as an arrival. -/
def State.placeSlot (s : State) (q : QueuePair) (d : DieId) (slot : Nat) (data : List Byte) : State :=
  let n := q.placedOn d
  let p : Packet := ⟨hostPacket data s.dies[d].replicas.version n, q.spec.asid, .host q.spec.qp, some slot⟩
  (s.modDie d (fun x => { x with hostSlots := slot :: x.hostSlots, transit := x.transit ++ [p] })).modQp q.spec.qp
    (fun q => { q with placed := (d, n + 1) :: q.placed.filter (fun x => x.1 != d) })

/-- A write to a slot of the command window (R318, R321): the command is pending there until a command processor takes it. -/
def State.writeCommand (s : State) (q : QueuePair) (offset : Nat) (imm : Option Word) (data : List Byte) : State :=
  if slotFormBad q offset imm data then s.nakInvalid q.spec.qp
  else if s.commands.any (fun x => x.slot == offset / 64) then s.reply (.rnr q.spec.qp)
  else
    State.reply { s with commands := s.commands ++ [⟨q.spec.qp, offset / 64, BitVec.ofNat 512 (leNat data)⟩] } (.ack q.spec.qp)

/-- A write to a mailbox slot of a die (R318, Table D-3). -/
def State.writeSlot (s : State) (q : QueuePair) (d : DieId) (offset : Nat) (imm : Option Word) (data : List Byte) : State :=
  if slotWriteBad q d offset imm data then s.nakInvalid q.spec.qp
  else if !s.inPlay d then s.reply (.nakOperational q.spec.qp)
  else if s.reservedAgainst d q.spec.asid then s.reply (.nakAccess q.spec.qp)
  else if s.dies[d].hostSlots.contains (offset / 64) then s.reply (.rnr q.spec.qp)
  else (s.placeSlot q d (offset / 64) data).reply (.ack q.spec.qp)

/-- MAILBOX_SLOT_WRITE (R316, R318, R321): a write to a window of slots, the command window for a COMMAND queue pair. -/
def execMailboxSlotWrite (qp : Nat) (window : SlotWindow) (offset : Nat) (imm : Option Word) (data : List Byte) (s : State) : EventResult :=
  match s.qp? qp with
  | none => .next s
  | some q =>
    if q.error then .next s
    else
      match q.role with
      | some .command => if s.regionOk window.rkey q.spec.asid then .next (s.writeCommand q offset imm data) else .next (s.nakAccess qp)
      | some .mailbox | some .peer =>
        s.whenAwake (if s.regionOk window.rkey q.spec.asid then .next (s.writeSlot q window.die offset imm data) else .next (s.nakAccess qp))
      | _ => .next (s.nakInvalid qp)

/-! ## The default dispatcher (R17, R390) -/

/-- Teams of a LAUNCH range that end without running, with the status of the first (R390). -/
def State.noteUnspawned (s : State) (d : DieId) (asid : BitVec 12) (grid : DWord) (first n : Nat) (status : Byte × Word) : State :=
  { s with launches := s.launches.map (fun l =>
      if l.asid == asid && l.grid == grid then
        { l with
          ended := (List.range n).map (fun j => (d, first + j)) ++ l.ended
          status := match l.status with | some x => some x | none => some status }
      else l) }

/-- A packet that the default dispatcher has in hand with its next team and the number still to spawn changed. -/
def launchRest (p : Packet) (next left : Nat) : Packet := { p with bits := pktPut (pktPut p.bits 32 4 next) 36 4 left }

/-- The spawn context that a LAUNCH packet gives (Table K-3, Table K-51). -/
def Dispatcher.context (x : Dispatcher) (p : Packet) : Dispatcher :=
  { x with
    gridLo := BitVec.ofNat 32 (pktField p.bits 24 4), gridHi := BitVec.ofNat 32 (pktField p.bits 28 4)
    nteam := BitVec.ofNat 32 (pktField p.bits 40 4), dieCnt := BitVec.ofNat 32 (pktField p.bits 36 4) }

/-- Whether a packet in hand has teams to spawn. -/
def launchOpen (p : Packet) : Bool := pktKind p.bits == 1 && pktField p.bits 36 4 != 0

/-- One team of the LAUNCH packet in hand spawned, while the wait list has room (R17, R19, R390). -/
def State.dispatchTeam (s : State) (d : DieId) (p : Packet) : State :=
  let first := pktField p.bits 32 4
  let n := pktField p.bits 36 4
  let addr : DWord := BitVec.ofNat 64 (pktField p.bits 16 8)
  let put := fun (s : State) (left : Nat) => s.modDie d (fun x => { x with disp := { x.disp with inHand := [launchRest p (first + 1) left] } })
  match s.readDescriptor d p.asid addr with
  | .error e =>
    put (s.noteUnspawned d p.asid (BitVec.ofNat 64 (pktField p.bits 24 8)) first n
      (0x06, (BitVec.ofNat 16 first ++ e.detail ++ e.cause : BitVec 32))) 0
  | .ok desc =>
    if 256 ≤ s.dies[d].waitCount then s
    else put ((s.releaseTo d 0 .die).spawnOne d p.asid desc addr (BitVec.ofNat 32 first)) (n - 1)

/-- A step of the default dispatcher (R17, R390): the next team of the LAUNCH packet in hand, or the next packet of the mailbox. It does
nothing while a user dispatcher is installed or waits to be. -/
def State.defaultDispatch (s : State) (d : DieId) : State :=
  let x := s.dies[d]
  if x.disp.user.isSome then s
  else
    match x.disp.inHand.find? launchOpen with
    | some p => s.dispatchTeam d p
    | none =>
      match x.box with
      | [] => s.modDie d Die.handDone
      | p :: _ =>
        if !x.disp.pending.isEmpty then s
        else
          let s1 := (s.modDie d (fun x => x.take 1)).acquireAt d 0 .home
          if pktKind p.bits == 1 then s1.modDie d (fun x => { x with disp := x.disp.context p }) else s1

end Sys2Proof.Machine
end

