-- ==== Sys2Proof/Machine/RdmaEvents.lean ====
section
/-! DEFINITION. Inbound RDMA, queue pairs, and the end of storage and peer transfers (spec 16 R314 to R317, R324 to R327, spec 18
R359). -/

namespace Sys2Proof.Machine

/-! ## Pages that the RDMA engine reaches (R316, R335) -/

/-- A walk of the package's own engines, which read the tables at their home slices. -/
def State.homeWalk (s : State) (asid : BitVec 12) (va : Nat) : WalkResult :=
  State.walk { s with dies := s.dies.map (fun x => { x with l2 := [] }) } 0 asid va

/-- The physical pieces of a virtual range whose pages all pass a test; none when one fails (R316). -/
def State.rdmaPieces (s : State) (asid : BitVec 12) (va : DWord) (n : Nat) (ok : Attrs → Bool) : Option (List (Nat × Nat)) :=
  (pageChunks (n / 4096 + 2) va.toNat n).foldr (fun p acc =>
    let a : DWord := BitVec.ofNat 64 p.1
    if !canonical a then none
    else
      match s.homeWalk asid (va57 a) with
      | .error _ => none
      | .ok e => if ok e.attrs then acc.map (fun l => (e.pa + (va57 a - e.va), p.2) :: l) else none) (some [])

/-- Whether a page takes an inbound write, or a read (R316). -/
def Attrs.rdmaWritable (x : Attrs) : Bool := x.rv && x.w && !x.sealed
def Attrs.rdmaReadable (x : Attrs) : Bool := x.rv && x.r && !x.sealed
/-- Whether a page may be the source of what the package sends to a peer (R325). -/
def Attrs.peerReadable (x : Attrs) : Bool := x.rv && x.r

/-- Bytes put at the home slices of physical pieces, from outside the dies (R317). -/
def State.placePieces (s : State) (ps : List (Nat × Nat)) (data : List Byte) : State :=
  match ps with
  | [] => s
  | p :: rest => (s.writeHome none p.1 (data.take p.2)).placePieces rest (data.drop p.2)

/-! ## Inbound requests (R314, R316, R317) -/

/-- Whether a role admits plain WRITEs and READs. -/
def QpRole.dataPath (x : QpRole) : Bool :=
  match x with
  | .data | .storage | .peer => true
  | _ => false

/-- The path MTU of a queue pair (Table D-2). -/
def QueuePair.pathMtu (q : QueuePair) : Nat := 1024 * 2 ^ q.spec.mtu.toNat

/-- What is left of ranges when the bytes of one are there. -/
def cutRange (xs : List (Nat × Nat)) (a n : Nat) : List (Nat × Nat) :=
  xs.flatMap (fun x =>
    [(x.1, min (x.1 + x.2) a - x.1), (max x.1 (a + n), x.1 + x.2 - max x.1 (a + n))].filter (fun y => y.2 != 0))

/-- The reads of a STORAGE queue pair that wait for bytes which a write on it has placed (R326). -/
def State.noteStorage (s : State) (qp : Nat) (va n : Nat) : State :=
  { s with nvm := s.nvm.map (fun y => if y.qp == qp then { y with todo := cutRange y.todo va n } else y) }

/-- RDMA_WRITE (R314, R316, R317, R326): one packet of a message of some length. -/
def execRdmaWrite (qp : Nat) (head : WriteHead) (va : DWord) (data : List Byte) (s : State) : EventResult :=
  s.whenAwake <|
  match s.qp? qp with
  | none => .next s
  | some q =>
    if q.error then .next s
    else if !(match q.role with | some x => x.dataPath | none => false) then .next (s.nakInvalid qp)
    else if !s.regionOk head.rkey q.spec.asid || q.pathMtu < data.length || 2 ^ 31 < head.message then .next (s.nakAccess qp)
    else
      match s.rdmaPieces q.spec.asid va data.length Attrs.rdmaWritable with
      | none => .next (s.nakAccess qp)
      | some ps => .next (((s.placePieces ps data).noteStorage qp va.toNat data.length).reply (.ack qp))

/-- RDMA_READ (R314, R316): the request is checked and waits for its response, at most 16 of a queue pair. -/
def execRdmaRead (qp : Nat) (rkey : Word) (va : DWord) (len : Nat) (s : State) : EventResult :=
  s.whenAwake <|
  match s.qp? qp with
  | none => .next s
  | some q =>
    if q.error then .next s
    else if !(match q.role with | some x => x.dataPath | none => false) then .next (s.nakInvalid qp)
    else if !s.regionOk rkey q.spec.asid || 2 ^ 31 < len || 16 ≤ q.reads.length then .next (s.nakAccess qp)
    else
      match s.rdmaPieces q.spec.asid va len Attrs.rdmaReadable with
      | none => .next (s.nakAccess qp)
      | some ps => .next (s.modQp qp (fun q => { q with reads := q.reads ++ [ps] }))

/-- The response of the oldest READ that waits is formed (R317, R359). -/
def State.respondRead (s : State) (qp : Nat) : State :=
  match s.qp? qp with
  | none => s
  | some q =>
    match q.reads with
    | [] => s
    | ps :: _ =>
      if ps.any (fun p => s.poisonedIn p.1 p.2) then (s.failQp qp).reply (.nakOperational qp)
      else (s.modQp qp (fun q => { q with reads := q.reads.drop 1 })).reply (.readData qp (ps.flatMap (fun p => s.readHome p.1 p.2)))

/-- A command of a transfer has been answered with a status of the NVMe standard, 0 when it went well (R326): the first that failed
gives the status of the transfer. A Flush that is answered is over. -/
def State.answerCommand (s : State) (x : NvmCommand) (status : BitVec 16) : State :=
  { s with
    nvm := (s.nvm.filter (fun y => !(y.id == x.id && y.flush))).map (fun y =>
      if y.id == x.id then { y with done := true, todo := if status == 0 then y.todo else [] } else y)
    transfers := s.transfers.map (fun t =>
      if t.id == x.transfer && t.failed.isNone && status != 0 then { t with failed := some status } else t) }

/-- INBOUND_SEND (R314, R326): only a STORAGE queue pair takes one, the response of an NVMe-oF command. -/
def execInboundSend (qp : Nat) (response : NvmResponse) (s : State) : EventResult :=
  s.whenAwake <|
  match s.qp? qp with
  | none => .next s
  | some q =>
    if q.error then .next s
    else if q.role != some .storage then .next (s.nakInvalid qp)
    else
      match s.nvm.find? (fun x => x.id == response.command && x.qp == qp && !x.done) with
      | some x => .next ((s.answerCommand x response.status).reply (.ack qp))
      | none => .next (s.reply (.ack qp))

/-- INBOUND_ATOMIC (R314): refused. -/
def execInboundAtomic (qp : Nat) (s : State) : EventResult :=
  s.whenAwake <|
  match s.qp? qp with
  | none => .next s
  | some q => if q.error then .next s else .next (s.nakInvalid qp)

/-- CNP_RECEIVED (R314): the send rate of the queue pair is reduced once more. -/
def execCnpReceived (qp : Nat) (s : State) : EventResult := .next (s.modQp qp (fun q => { q with rate := q.rate + 1 }))

/-! ## Transfers (R326, R327) -/

/-- A transfer of the package by its number. -/
def State.transfer? (s : State) (id : Nat) : Option Transfer := s.transfers.find? (fun x => x.id == id)

/-- A transfer with more of its bytes asked for. -/
def State.asked (s : State) (id n : Nat) : State :=
  { s with transfers := s.transfers.map (fun t => if t.id == id then { t with sent := t.sent + n } else t) }

/-- An I/O queue pair that takes one more command in an address space (R326): of the STORAGE role and not the admin queue, bound to the space,
with fewer than 128 outstanding. -/
def State.ioPair (s : State) (qp : Nat) (asid : BitVec 12) : Bool :=
  match s.qp? qp with
  | some q =>
    !q.error && q.role == some .storage && !q.admin && q.spec.asid == asid
      && decide ((s.nvm.filter (fun y => y.qp == qp && !y.done)).length < 128)
  | none => false

/-- The key by which a target reaches an address space: that of a memory region of it (R316, R326; which one is a DESIGN CHOICE, log 102). -/
def State.sglKey (s : State) (asid : BitVec 12) : Word :=
  match s.regions.find? (fun x => x.asid == asid) with
  | some x => x.rkey
  | none => Config.regionKey asid

/-- The next command of an NVM transfer (R326): as much of the rest as the target takes, on an I/O queue pair; none after a failure. -/
def State.sendNvm (s : State) (x : Transfer) (qp : Nat) : State :=
  match namespaceLba x.target with
  | some lba =>
    if !s.ioPair qp x.asid || x.failed.isSome || x.len ≤ x.sent then s
    else
      let rest := x.len - x.sent
      let most := Config.maxTransfer x.target
      let n := if most = 0 then rest else min most rest
      let va := x.loc.toNat + x.sent
      let c : NvmCommand := ⟨s.uid, x.id, qp, if x.op == 1 then [(va, n)] else [], false⟩
      State.asked { s with
        uid := s.uid + 1
        nvm := s.nvm ++ [c]
        outbound := s.outbound ++ [.capsule qp s.uid (if x.op == 2 then .write else .read) x.target (x.remote.toNat + x.sent / lba) (n / lba)
          ⟨BitVec.ofNat 64 va, n, s.sglKey x.asid⟩] } x.id n
  | none => s

/-- A Flush command of a namespace on an I/O queue pair (R326; when firmware sends one is a DESIGN CHOICE, log 102). -/
def State.sendFlush (s : State) (qp : Nat) (space : BitVec 16) : State :=
  match s.qp? qp with
  | none => s
  | some q =>
    if !s.ioPair qp q.spec.asid || (namespaceLba space).isNone then s
    else
      { s with
        uid := s.uid + 1
        nvm := s.nvm ++ [⟨s.uid, s.uid, qp, [], false⟩]
        outbound := s.outbound ++ [.capsule qp s.uid .flush space 0 0 ⟨0, 0, s.sglKey q.spec.asid⟩] }

/-- Whether the commands of an NVM transfer are complete (R326): all of it asked for, or one failed; each answered; for a read, every byte
that came well performed. -/
def State.nvmOver (s : State) (x : Transfer) : Bool :=
  (x.failed.isSome || decide (x.len ≤ x.sent)) && s.nvm.all (fun y => y.transfer != x.id || (y.done && y.todo.isEmpty))

/-- TRANSFER_COMPLETE (R326): an NVM request of a die arrives once its commands have completed. -/
def execTransferComplete (d : DieId) (id : Nat) (s : State) : EventResult :=
  match s.transfer? id with
  | none => .next s
  | some x =>
    if x.die != d || x.peer || !s.nvmOver x then .next s
    else
      match x.failed with
      | none => .next (s.endTransfer x 0 none)
      | some st => .next (s.endTransfer x 0x0E (some st))

/-- The 16-byte pieces of the data that a peer sent which reach the destination: all when it ends well, each one or not otherwise
(R117). -/
def peerData (data : List Byte) (ok : Bool) (fresh : Nat) : List (Nat × List Byte) :=
  ((unitsOf data.length).filter (fun u => ok || freeChoice fresh u)).map (fun u => (16 * u, (data.drop (16 * u)).take 16))

/-- The data of a PEER-READ placed in its LOCAL buffer; the code of a page that cannot be written. -/
def State.placePeer (s : State) (x : Transfer) (xs : List (Nat × List Byte)) : State × Byte :=
  xs.foldl (fun acc p =>
    match acc.1.rdmaPieces x.asid (x.loc + BitVec.ofNat 64 p.1) p.2.length Attrs.rdmaWritable with
    | some ps => (acc.1.placePieces ps p.2, acc.2)
    | none => (acc.1, codeAccess)) (s, 0)

/-- The data of a PEER-WRITE in its LOCAL buffer, or the code of a page that cannot be read, or of poison. -/
def State.peerSource (s : State) (x : Transfer) : Except Byte (List Byte) :=
  match s.rdmaPieces x.asid x.loc x.len Attrs.peerReadable with
  | none => .error codeAccess
  | some ps => if ps.any (fun p => s.poisonedIn p.1 p.2) then .error codePoison else .ok (ps.flatMap (fun p => s.readHome p.1 p.2))

/-- The queue pair of a peer transfer, when it has the role PEER and is not in error (R327). -/
def State.peerPair (s : State) (x : Transfer) : Option Nat :=
  match Config.peerQp x.target with
  | none => none
  | some n =>
    match s.qp? n with
    | some q => if q.role == some .peer && !q.error then some n else none
    | none => none

/-- Whether a transfer is the next that its queue pair sends: those posted before it on the pair have been sent (R317). -/
def State.nextOnPair (s : State) (x : Transfer) : Bool :=
  match s.transfers.find? (fun y => y.peer && Config.peerQp y.target == Config.peerQp x.target && y.sent == 0) with
  | some y => y.id == x.id
  | none => false

/-- The request of a peer transfer sent on its queue pair (R317, R327): the data of a WRITE as its home slices hold it, or a READ while
fewer than 16 are outstanding. -/
def State.sendPeer (s : State) (x : Transfer) : State :=
  if !s.nextOnPair x then s
  else
    match s.peerPair x with
    | none => s.endTransfer x 0x0F none
    | some qp =>
      if x.op == 3 then
        match s.peerSource x with
        | .error code => s.endTransfer x code none
        | .ok data => State.asked { s with outbound := s.outbound ++ [.write qp x.remote x.rkey data] } x.id x.len
      else if 16 ≤ (s.transfers.filter (fun y => y.op == 4 && s.carries qp y && y.sent != 0)).length then s
      else State.asked { s with outbound := s.outbound ++ [.read qp x.remote x.rkey x.len] } x.id x.len

/-- What the package sends for a transfer: a command on a queue pair, or the request to its peer. -/
def State.sendTransfer (s : State) (id qp : Nat) : State :=
  match s.transfer? id with
  | none => s
  | some x => if x.peer then s.sendPeer x else s.sendNvm x qp

/-- RDMA_RESPONSE (R326, R327): the peer answers a request that has been sent. -/
def execRdmaResponse (id : Nat) (nak : Bool) (data : List Byte) (s : State) : EventResult :=
  match s.transfer? id with
  | none => .next s
  | some x =>
    let ok := !nak && (s.peerPair x).isSome
    if !x.peer || x.sent == 0 then .next s
    else if x.op == 3 then .next (s.endTransfer x (if ok then 0 else 0x0F) none)
    else if ok && data.length != x.len then .next s
    else
      let p := s.placePeer x (peerData (data.take x.len) ok s.fresh)
      .next ((p.1.freshened).endTransfer x (if ok then p.2 else 0x0F) none)

/-- PEER_TIMEOUT (R326): a peer or a storage target does not answer in time. -/
def execPeerTimeout (id : Nat) (s : State) : EventResult :=
  match s.transfer? id with
  | none => .next s
  | some x => if x.sent == 0 then .next s else .next (s.endTransfer x 0x0F none)

/-! ## Creation and destruction (R315, R318, R322) -/

/-- Whether the slot ranges of two queue pairs lie in one window and meet (R318, R321). -/
def slotsMeet (x y : QueuePairSpec) : Bool :=
  (x.role == 0) == (y.role == 0) && (x.role == 0 || x.die == y.die) && decide (x.slotLo.toNat ≤ x.slotHi.toNat)
    && decide (y.slotLo.toNat ≤ y.slotHi.toNat) && decide (x.slotLo.toNat ≤ y.slotHi.toNat) && decide (y.slotLo.toNat ≤ x.slotHi.toNat)

/-- Whether a queue pair may be given slots of a window: of the command window, or of the mailbox window of its die (R318, R319, R321). -/
def takesSlots (x : QueuePairSpec) : Bool := x.role == 0 || x.role == 1 || x.role == 4

/-- QUEUE_PAIR_CREATE (R314, R315, R318, R322, R326): one of 16,384, of one of the five roles and of a path MTU that is supported, its slots
disjoint from those of others; of the STORAGE role, the first is the admin queue and 64 others are for I/O (log 102). In minimal mode firmware
does not run, and the ROM answers on COMMAND queue pairs alone (R376; DEDUCED, log 103). -/
def execQueuePairCreate (x : QueuePairSpec) (s : State) : EventResult :=
  let storage := s.qps.filter (fun q => q.spec.role == 3)
  if (s.boot.minimal && x.role != 0) || (s.qp? x.qp).isSome || 16384 ≤ s.qps.length || 4 < x.role.toNat || x.mtu == 3
      || (x.role == 3 && storage.any QueuePair.admin && decide (64 ≤ (storage.filter (fun q => !q.admin)).length))
      || (takesSlots x && s.qps.any (fun q => takesSlots q.spec && slotsMeet x q.spec))
      || ((x.role == 0 || x.role == 3) && (x.ringLog.toNat < 4 || 16 < x.ringLog.toNat)) then .next s
  else .next { s with qps := s.qps ++ [⟨x, false, [], 0, 0, [], none, x.role == 3 && !storage.any QueuePair.admin⟩] }

/-- QUEUE_PAIR_DESTROY (R316). -/
def execQueuePairDestroy (qp : Nat) (s : State) : EventResult :=
  match s.qp? qp with
  | none => .next s
  | some _ =>
    let s1 := s.failQp qp
    .next { s1 with qps := s1.qps.filter (fun q => q.spec.qp != qp), commands := s1.commands.filter (fun x => x.qp != qp) }

end Sys2Proof.Machine
end

