-- ==== Sys2Proof/Machine/CommandEvents.lean ====
section
/-! DEFINITION. Commands of the host, completion records and the replacement of dispatchers (spec 02 R48 to R50, spec 16 R321 to R323,
R390, spec 18 R350). -/

namespace Sys2Proof.Machine

/-! ## Fields of a command (Table D-5) -/

/-- n bytes of a command from a place on. -/
def cmdField (x : BitVec 512) (at_ n : Nat) : Nat := x.toNat / 256 ^ at_ % 256 ^ n
def cmdOp (x : BitVec 512) : Nat := cmdField x 0 1
def cmdTag (x : BitVec 512) : DWord := BitVec.ofNat 64 (cmdField x 32 8)

/-- Whether the reserved bytes of a command are zero. -/
def cmdReserved (x : BitVec 512) : Bool :=
  cmdField x 1 7 == 0 && cmdField x 40 24 == 0 &&
    match cmdOp x with
    | 1 => true
    | 2 => cmdField x 16 12 == 0
    | 3 => cmdField x 8 20 == 0
    | 4 => cmdField x 8 24 == 0
    | 5 => cmdField x 28 4 == 0
    | _ => false

/-- A command taken by a command processor (R321): the oldest of its queue pair in the window, whose slot is free then; the queue pair and
the state without it. -/
def State.taken? (s : State) (qp : Nat) (cmd : BitVec 512) : Option (QueuePair × State) :=
  match s.qp? qp, s.commands.find? (fun x => x.qp == qp) with
  | some q, some x =>
    if q.role == some .command && x.bits == cmd then some (q, { s with commands := s.commands.filter (fun y => y.slot != x.slot) }) else none
  | _, _ => none

/-- The same for a command of an operation whose reserved bytes are zero; none in minimal mode (R376). -/
def State.command? (s : State) (qp : Nat) (cmd : BitVec 512) (op : Nat) : Option (QueuePair × State) :=
  if cmdOp cmd == op && cmdReserved cmd && !s.boot.minimal then s.taken? qp cmd else none

/-! ## Completion (R321, R322) -/

/-- A completion in the order of its ring; a queue pair that is gone or in error posts none (R316). -/
def State.addRecord (s : State) (qp : Nat) (tag : DWord) (status : Byte) (detail : Word) : State :=
  match s.qp? qp with
  | none => s
  | some q =>
    if q.error then s
    else { s.modQp qp (fun q => { q with seq := q.seq + 1 }) with held := s.held ++ [⟨qp, tag, status, detail, q.seq⟩] }

/-- Whether a command of a queue pair taken before another has not completed. -/
def State.earlierOpen (s : State) (qp id : Nat) : Bool :=
  s.launches.any (fun l => l.qp == qp && decide (l.id < id)) || s.waiting.any (fun w => w.qp == qp && decide (w.id < id))

/-- The FENCE commands of a list that no earlier command holds back complete, in order (Table D-5). -/
def State.settleFences (s : State) (ws : List Waiting) : State :=
  match ws with
  | [] => s
  | w :: rest =>
    if w.dies.isEmpty && !s.earlierOpen w.qp w.id then
      (State.addRecord { s with waiting := s.waiting.filter (fun x => x.id != w.id) } w.qp w.tag 0 0).settleFences rest
    else s.settleFences rest

/-- A command completes. -/
def State.completeCmd (s : State) (qp : Nat) (tag : DWord) (status : Byte) (detail : Word) : State :=
  let s1 := s.addRecord qp tag status detail
  s1.settleFences s1.waiting

/-- The consumer index of a ring (R322); none when its word cannot be reached. -/
def State.consumerIndex (s : State) (q : QueuePair) : Option Nat :=
  (s.rdmaPieces q.spec.asid q.spec.consumed 4 (fun _ => true)).map (fun ps => leNat (ps.flatMap (fun p => s.readHome p.1 p.2)))

/-- Whether the ring of a queue pair takes its record n. -/
def State.ringRoom (s : State) (q : QueuePair) (n : Nat) : Bool :=
  match s.consumerIndex q with
  | some ci => decide ((n + 2 ^ 32 - ci % 2 ^ 32) % 2 ^ 32 < 2 ^ q.spec.ringLog.toNat)
  | none => false

/-- PHASE of a record on a ring of 2^k records (Table D-6). -/
def Record.phase (r : Record) (k : Nat) : Bool := r.seq / 2 ^ k % 2 == 0

/-- The 32 bytes of a record on a ring of 2^k records (Table D-6). -/
def Record.image (r : Record) (k : Nat) : List Byte :=
  leBytes 8 r.tag.toNat ++ [r.status, if r.phase k then 1 else 0, 0, 0] ++ leBytes 4 r.detail.toNat ++ leBytes 8 r.seq ++ leBytes 8 0

/-- A record sent to its place on the ring in host memory (R317, R322). -/
def State.sendRecord (s : State) (q : QueuePair) (r : Record) : State :=
  let k := q.spec.ringLog.toNat
  { s with
    posted := s.posted ++ [r]
    outbound := s.outbound ++ [.write q.spec.qp (q.spec.ringBase + BitVec.ofNat 64 (32 * (r.seq % 2 ^ k))) 0 (r.image k)] }

/-- COMPLETION_RECORD_POST (R322): the oldest record of a ring is posted when the ring has room. -/
def execCompletionRecordPost (qp : Nat) (s : State) : EventResult :=
  match s.qp? qp, s.held.find? (fun r => r.qp == qp) with
  | some q, some r =>
    if s.ringRoom q r.seq then
      .next (State.sendRecord { s with held := s.held.filter (fun x => !(x.qp == qp && x.seq == r.seq)) } q r)
    else .next s
  | _, _ => .next s

/-! ## LAUNCH (R48 to R50, R321, R390) -/

/-- A descriptor as the command processor reads it at its home slices (R390). -/
def State.homeDescriptor (s : State) (asid : BitVec 12) (va : DWord) : Option Descriptor :=
  if va.toNat % 128 ≠ 0 then none
  else
    match s.rdmaPieces asid va 128 (fun x => x.r) with
    | none => none
    | some ps =>
      let bs := ps.flatMap (fun p => s.readHome p.1 p.2)
      if ps.any (fun p => s.poisonedIn p.1 p.2) || !descriptorOk bs then none else some (parseDescriptor bs)

/-- The dies that a mask names and that are eligible (R48). -/
def State.eligibleDies (s : State) (mask : Word) : List DieId := allDies.filter (fun d => mask.getLsbD d.val && s.inPlay d)

/-- The share of each of e dies of n teams, as (die, first, count) (R49). -/
def shares (ds : List DieId) (n : Nat) : List (DieId × Nat × Nat) :=
  let e := ds.length
  (ds.zipIdx.map (fun p => (p.1, p.2 * (n / e) + min p.2 (n % e), n / e + if p.2 < n % e then 1 else 0))).filter (fun x => x.2.2 != 0)

/-- The LAUNCH packet of a share (Table K-3). -/
def launchPacket (desc grid : DWord) (first n total : Nat) (mask : Word) (seq : Nat) : BitVec 512 :=
  let f := fun (x : BitVec 512) (p : Nat × Nat × Nat) => pktPut x p.1 p.2.1 p.2.2
  [(0, 1, 1), (4, 1, 32), (8, 8, seq), (16, 8, desc.toNat), (24, 8, grid.toNat), (32, 4, first), (36, 4, n), (40, 4, total), (44, 4, mask.toNat)].foldl f 0

/-- A share sent to its die by the work distributor. SEQ counts the LAUNCH packets sent to the die (R20); whether that count includes this
packet is left open, and the model puts the count before it, so the first carries 0 (DESIGN CHOICE, log 90). -/
def State.sendLaunch (s : State) (asid : BitVec 12) (desc grid : DWord) (total : Nat) (mask : Word) (x : DieId × Nat × Nat) : State :=
  s.modDie x.1 (fun y => { y with
    launchSent := y.launchSent + 1
    transit := y.transit ++ [⟨launchPacket desc grid x.2.1 x.2.2 total mask y.launchSent, asid, .distributor, none⟩] })

/-- The counts that a die keeps for a grid start anew with a launch of it. -/
def Die.freshGrid (x : Die) (k : GridKey) : Die :=
  { x with
    xerr := x.xerr.filter (fun y => y.1 != k), collCount := x.collCount.filter (fun y => y.1 != k)
    intervals := x.intervals.filter (fun y => y.1 != k) }

/-- The checks of R390 on a LAUNCH: the status of the first that fails, or its descriptor and shares. -/
def State.checkLaunch (s : State) (asid : BitVec 12) (desc grid : DWord) (n : Nat) (mask : Word) : Except Byte (List (DieId × Nat × Nat)) :=
  if n = 0 || s.launches.any (fun l => l.asid == asid && l.grid == grid) then .error 0x04
  else
    match s.homeDescriptor asid desc with
    | none => .error 0x04
    | some x =>
      let ds := s.eligibleDies mask
      let xs := shares ds n
      if ds.isEmpty then .error 0x01
      else if x.halo && xs.any (fun y => decide (48 < y.2.2)) then .error 0x02
      else if allDies.any (fun d => mask.getLsbD d.val && s.reservedAgainst d asid) then .error 0x05
      else .ok xs

/-- LAUNCH_CMD (R390): rejected with a status, or its packets sent. -/
def execLaunchCmd (qp : Nat) (cmd : BitVec 512) (s : State) : EventResult :=
  match s.command? qp cmd 1 with
  | none => .next s
  | some (q, s) =>
    let asid := q.spec.asid
    let desc : DWord := BitVec.ofNat 64 (cmdField cmd 8 8)
    let grid : DWord := BitVec.ofNat 64 (cmdField cmd 16 8)
    let n := cmdField cmd 24 4
    let mask : Word := BitVec.ofNat 32 (cmdField cmd 28 4)
    match s.checkLaunch asid desc grid n mask with
    | .error st => .next ({ s with uid := s.uid + 1 }.completeCmd qp (cmdTag cmd) st 0)
    | .ok xs =>
      let l : Launch :=
        { id := s.uid, qp := qp, tag := cmdTag cmd, asid := asid, grid := grid, desc := desc, ranges := xs, ended := [], status := none, step := 0 }
      let s1 : State :=
        { s with
          uid := s.uid + 1
          launches := s.launches ++ [l]
          dies := s.dies.map (fun x => x.freshGrid ⟨asid, grid⟩)
          merges := s.merges.filter (fun x => x.key != ⟨asid, grid⟩) }
      .next (xs.foldl (fun s x => s.sendLaunch asid desc grid n mask x) s1)

/-- Whether every team of a launch has ended. -/
def Launch.over (l : Launch) : Bool := l.ranges.all (fun x => (List.range x.2.2).all (fun j => l.ended.contains (x.1, x.2.1 + j)))

/-- The writes of a die's cores performed at their home slices. -/
def State.releaseDie (s : State) (d : DieId) : State :=
  (allCores.foldl (fun s c => (s.performStores d c (fun _ => true)).l1WriteBack d c (fun _ => true)) s).l2WriteBack d (fun _ => true)

/-- Whether an engine operation or a transfer of a launch's teams is in flight, whose writes are yet to be performed (R321). -/
def State.engineOpen (s : State) (l : Launch) : Bool :=
  s.transfers.any (fun x => x.asid == l.asid && x.grid == l.grid)
    || allDies.any (fun d => s.dies[d].engines.any (fun x => x.completion != .nomad && x.asid == l.asid && x.grid == l.grid))

/-- LAUNCH_COMPLETE (R321, R390): every team has ended, and what the grid wrote is at its home slices. -/
def execLaunchComplete (asid : Nat) (grid : DWord) (s : State) : EventResult :=
  match s.launches.find? (fun l => l.asid == BitVec.ofNat 12 asid && l.grid == grid) with
  | none => .next s
  | some l =>
    if !l.over || s.engineOpen l then .next s
    else
      let s1 := l.ranges.foldl (fun s x => s.releaseDie x.1) s
      let r := l.status.getD (0, 0)
      .next (State.completeCmd { s1 with launches := s1.launches.filter (fun y => y.id != l.id) } l.qp l.tag r.1 r.2)

/-! ## INSTALL and UNINSTALL (R323) -/

/-- The checks of R323 on a dispatcher's descriptor. -/
def dispatcherOk (x : Descriptor) : Bool :=
  x.nprod == 0 && x.ncons == 1 && decide (x.vgranC ≤ 8) && decide (x.sgran ≤ 1) && x.tilePairs == 0 && x.octets == 0 && x.storOct == 0
    && decide (x.barriers ≤ 2) && !x.halo && x.inputs.isEmpty

/-- A change of dispatcher asked of dies, after those that they already wait for; it completes at once when none is in service. -/
def State.askDispatcher (s : State) (qp : Nat) (tag : DWord) (ds : List DieId) (x : Option (BitVec 12 × Descriptor)) : State :=
  let s1 := ds.foldl (fun s d => s.modDie d (fun y => { y with disp := { y.disp with pending := y.disp.pending ++ [x] } })) { s with uid := s.uid + 1 }
  if ds.isEmpty then s1.completeCmd qp tag 0 0
  else { s1 with waiting := s1.waiting ++ [⟨s.uid, qp, tag, ds⟩] }

/-- INSTALL (R323): the reservation of the named dies takes effect at once. -/
def execInstall (qp : Nat) (cmd : BitVec 512) (s : State) : EventResult :=
  match s.command? qp cmd 2 with
  | none => .next s
  | some (q, s) =>
    let asid := q.spec.asid
    match s.homeDescriptor asid (BitVec.ofNat 64 (cmdField cmd 8 8)) with
    | none => .next ({ s with uid := s.uid + 1 }.completeCmd qp (cmdTag cmd) 0x04 0)
    | some x =>
      if !dispatcherOk x then .next ({ s with uid := s.uid + 1 }.completeCmd qp (cmdTag cmd) 0x04 0)
      else
        let ds := s.eligibleDies (BitVec.ofNat 32 (cmdField cmd 28 4))
        let s1 : State := { s with reserved := ds.map (fun d => (d, asid)) ++ s.reserved.filter (fun r => !ds.contains r.1) }
        .next (s1.askDispatcher qp (cmdTag cmd) ds (some (asid, x)))

/-- UNINSTALL (R323). -/
def execUninstall (qp : Nat) (cmd : BitVec 512) (s : State) : EventResult :=
  match s.command? qp cmd 3 with
  | none => .next s
  | some (_, s) => .next (s.askDispatcher qp (cmdTag cmd) (s.eligibleDies (BitVec.ofNat 32 (cmdField cmd 28 4))) none)

/-- Whether the dispatcher of a die has no packet in hand (R323). -/
def State.dispatcherFree (s : State) (d : DieId) : Bool :=
  let x := s.dies[d].disp
  if x.user.isNone then !x.inHand.any launchOpen
  else
    match s.group? (dispatcherRef d) with
    | some g => g.ended || g.hold == some .packet
    | none => true

/-- A die taken off commands that wait for it; those that wait for no other complete. -/
def State.dieDone (s : State) (d : DieId) (mine : List Waiting) : State :=
  let here := fun (w : Waiting) => mine.any (fun x => x.id == w.id)
  let done := mine.filter (fun w => (w.dies.filter (· != d)).isEmpty)
  let left := (s.waiting.filter (fun w => !done.any (fun x => x.id == w.id))).map (fun w =>
    if here w then { w with dies := w.dies.filter (· != d) } else w)
  done.foldl (fun s w => s.completeCmd w.qp w.tag 0 0) { s with waiting := left }

/-- A die has made the oldest change that it was asked for (R323). -/
def State.dieChanged (s : State) (d : DieId) : State := s.dieDone d (s.waiting.find? (fun w => w.dies.contains d)).toList

/-- A die out of service makes no change, and no command waits for it (R323). -/
def State.dieGone (s : State) (d : DieId) : State := s.dieDone d (s.waiting.filter (fun w => w.dies.contains d))

/-- DISPATCHER_REPLACE (R323): UNINSTALL lifts the reservation once the default dispatcher has taken over, unless an INSTALL waits. -/
def execDispatcherReplace (d : DieId) (s : State) : EventResult :=
  match s.dies[d].disp.pending with
  | [] => .next s
  | x :: rest =>
    if !s.dispatcherFree d then .next s
    else
      let s1 := s.startDispatcher d x
      let s2 : State := if x.isNone && !rest.any Option.isSome then { s1 with reserved := s1.reserved.filter (fun r => r.1 != d) } else s1
      .next (s2.dieChanged d)

/-! ## FENCE, SPACE and commands that are refused (Table D-5, R350) -/

/-- FENCE (Table D-5). -/
def execFence (qp : Nat) (cmd : BitVec 512) (s : State) : EventResult :=
  match s.command? qp cmd 4 with
  | none => .next s
  | some (_, s) =>
    let s1 : State := { s with uid := s.uid + 1, waiting := s.waiting ++ [⟨s.uid, qp, cmdTag cmd, []⟩] }
    .next (s1.settleFences s1.waiting)

/-- SPACE (R350). -/
def execSpace (qp : Nat) (cmd : BitVec 512) (s : State) : EventResult :=
  match s.command? qp cmd 5 with
  | none => .next s
  | some (q, s) =>
    let h := cmdField cmd 8 8
    let l := cmdField cmd 16 8
    let n := cmdField cmd 24 4
    let s1 : State := { s with uid := s.uid + 1 }
    if h % 4 ≠ 0 || l % 16 ≠ 0 || 65536 < n then .next (s1.completeCmd qp (cmdTag cmd) 0x04 0)
    else
      let r : SpaceRecord := ⟨q.spec.asid, BitVec.ofNat 64 h, BitVec.ofNat 64 l, n⟩
      .next (State.completeCmd { s1 with spaces := r :: s1.spaces.filter (fun x => x.asid != r.asid) } qp (cmdTag cmd) 0 0)

/-- A command that Table D-5 does not give, or with a non-zero reserved byte; in minimal mode every command (R376). -/
def execBadCommand (qp : Nat) (cmd : BitVec 512) (s : State) : EventResult :=
  match s.taken? qp cmd with
  | none => .next s
  | some (_, t) =>
    if cmdReserved cmd && !s.boot.minimal then .next s else .next ({ t with uid := t.uid + 1 }.completeCmd qp (cmdTag cmd) 0x04 0)

end Sys2Proof.Machine
end

