-- ==== Sys2Proof/Machine/NomadEvents.lean ====
section
/-! DEFINITION. Nomad, the placement engine: commands, windows, and the phases of an operation (spec 11 R281, R282, R288, spec 19 R361
to R367). -/

namespace Sys2Proof.Machine

/-! ## Expert records (Table D-21) -/

/-- An expert record. -/
structure ExpertRecord where
  asid : BitVec 12
  auto : Bool
  merge : Bool
  wcrc : Word
  wbase : DWord
  wlen : Nat
  rbase : DWord
  rstride : Nat
  deriving DecidableEq, Repr

/-- The physical address of the record of an expert (Table D-20). -/
def Nomad.recordPa (x : Nomad) (e : Nat) : Nat := (x.nxtab.extractLsb' 12 40).toNat * 4096 + 64 * e

/-- The record of an expert as Nomad reads it at its home slice; none when it breaks Table D-21. -/
def State.expertRecord (s : State) (e : Nat) : Option ExpertRecord :=
  let pa := s.nomad.recordPa e
  let bs := s.readHome pa 64
  let flags := bytesAt bs 2 1
  if s.poisonedIn pa 64 || decide (4096 ≤ bytesAt bs 0 2) || decide (4 ≤ flags) || bytesAt bs 3 1 != 0 || bytesAt bs 16 8 % 16 != 0
      || decide (bytesAt bs 32 8 < bytesAt bs 16 8) || bytesAt bs 40 24 != 0 then none
  else some ⟨BitVec.ofNat 12 (bytesAt bs 0 2), flags % 2 == 1, flags / 2 % 2 == 1, BitVec.ofNat 32 (bytesAt bs 4 4),
    BitVec.ofNat 64 (bytesAt bs 8 8), bytesAt bs 16 8, BitVec.ofNat 64 (bytesAt bs 24 8), bytesAt bs 32 8⟩

/-- Where a replica lands on a die. -/
def ExpertRecord.region (x : ExpertRecord) (d : DieId) : DWord := x.rbase + BitVec.ofNat 64 (d.val * x.rstride)

/-- The replica region of a die. -/
def ExpertRecord.replica (x : ExpertRecord) (d : DieId) : ReplicaRegion := ⟨x.asid, x.region d, x.wlen⟩

/-! ## Operations and rollbacks (R364, R367) -/

/-- A rollback (R367). -/
def State.rollback (s : State) (code : Byte) : State :=
  let r := s.nomad.rollbacks
  State.log { s with nomad := { s.nomad with op := none, reason := code, rollbacks := if r = 0xFFFF then r else r + 1 } }
    0x0C oasisSource 1 0 (code.setWidth 64)

/-- The table of an expert with its placements replaced. -/
def ReplicaTable.setPlaces (t : ReplicaTable) (e : Nat) (ps : List Placement) : ReplicaTable :=
  { t with experts := t.experts.map (fun x => if x.1 == e then (e, ps) else x) }

/-- The next version with a replica appended (R364). -/
def ReplicaTable.add (t : ReplicaTable) (e : Nat) (p : Placement) : ReplicaTable :=
  { t.setPlaces e (t.places e ++ [p]) with version := t.version + 1 }

/-- The next version without placement k, or with it departing (R364, R366). -/
def ReplicaTable.remove (t : ReplicaTable) (e k : Nat) (depart : Bool) : ReplicaTable :=
  let ps := t.places e
  { t.setPlaces e (ps.take k ++ ps.drop (k + 1)) with
    version := t.version + 1
    departing := match ps[k]? with
      | some p => if depart then t.departing ++ [(e, p, k)] else t.departing
      | none => t.departing }

/-- The next version without the departing entries of an expert (R366). -/
def ReplicaTable.forget (t : ReplicaTable) (e : Nat) : ReplicaTable :=
  { t with version := t.version + 1, departing := t.departing.filter (fun x => x.1 != e) }

/-- The in-service dies. -/
def State.diesInPlay (s : State) : List DieId := allDies.filter s.inPlay

/-- An operation entered, with its expert (Table D-19). -/
def State.enterOp (s : State) (op : NomadOp) : State :=
  { s with nomad := { s.nomad with op := some op, expert := BitVec.ofNat 12 op.expert } }

/-- The operation in progress in a phase. -/
def State.nomadIn (s : State) (ph : NomadPhase) : Option NomadOp :=
  match s.nomad.op with
  | some op => if op.phase == ph then some op else none
  | none => none

/-- The operation in progress changed. -/
def State.setOp (s : State) (op : NomadOp) : State := { s with nomad := { s.nomad with op := some op } }

/-- The copy of a new replica, as an operation of the target die's Caravan in class 0 (R364). -/
def prepareOp (id : Nat) (src : DWord) (x : ReplicaRegion) : EngineOp :=
  { id := id, kind := .cpy 2, completion := .nomad, asid := x.asid, core := 0, team := id, slot := 0, grid := 0, cls := 0, src := src
    dst := x.va, len := x.len, sent := 0, code := 0 }

/-- The copy of an ADD enters the queue of its die's Caravan, once there is room (R235, R364). -/
def State.queueCopy (s : State) : State :=
  match s.nomadIn .prepare with
  | none => s
  | some op =>
    match op.copy, s.expertRecord op.expert with
    | none, some x =>
      if !s.dies[op.die].engineRoom .caravan 0 1 then s
      else
        ({ s with uid := s.uid + 1 }.modDie op.die (fun y => { y with engines := y.engines ++ [prepareOp s.uid x.wbase op.region] })).setOp
          { op with copy := some s.uid }
    | _, _ => s

/-- An ADD begun (R364, Table D-22). -/
def State.startAdd (s : State) (e : Nat) (d : DieId) (slot : Nat) : State :=
  let s0 : State := { s with nomad := { s.nomad with expert := BitVec.ofNat 12 e } }
  let ps := s.nomad.table.places e
  match s.expertRecord e with
  | none => s0.rollback 0x07
  | some x =>
    if !s.inPlay d then s0.rollback 0x03
    else if ps.isEmpty || decide (8 ≤ ps.length) || ps.any (fun p => p.die == d) then s0.rollback 0x06
    else
      (State.enterOp { s0 with nomad := { s0.nomad with released := s0.nomad.released.filter (fun y => !(y.1 == e && y.2.1 == d)) } }
        ⟨true, e, d, slot, ps.length, .prepare, s.nomad.table, [], 0, false, false, x.replica d, none⟩).queueCopy

/-- A DROP begun: its commit is next (R364); NO-PLACEMENT comes before the record. -/
def State.startDrop (s : State) (e k : Nat) : State :=
  let s0 : State := { s with nomad := { s.nomad with expert := BitVec.ofNat 12 e } }
  match (if k = 0 then none else (s.nomad.table.places e)[k]?) with
  | none => s0.rollback 0x08
  | some p =>
    match s.expertRecord e with
    | none => s0.rollback 0x07
    | some r =>
      s0.enterOp ⟨false, e, p.die, p.slot, k, .commit, s.nomad.table.remove e k r.merge, s.diesInPlay, 0, false, false, r.replica p.die, none⟩

/-- The next operations that Nomad has decided on begin, until one is in progress (R363). -/
def State.serveTodo (s : State) (xs : List NomadChoice) : State :=
  match xs with
  | [] => { s with nomad := { s.nomad with todo := [] } }
  | x :: rest =>
    if s.nomad.op.isSome || !s.nomad.en then { s with nomad := { s.nomad with todo := x :: rest } }
    else State.serveTodo (match x with | .add e d slot => s.startAdd e d slot | .drop e k => s.startDrop e k) rest

/-- The end of an operation, or what leaves none in progress: the next that is decided on begins (R363). -/
def State.nextOp (s : State) : State := s.serveTodo s.nomad.todo

/-- OP of an NCMD value (Table D-20). -/
def ncmdOp (v : DWord) : Nat := (v.extractLsb' 0 2).toNat

/-- NCMD written: ignored while BUSY is 1 or EN is 0 (R361). -/
def State.takeNcmd (s : State) (v : DWord) : Option State :=
  if s.nomad.op.isSome || !s.nomad.en then none else some { s with nomad := { s.nomad with ncmd := v &&& 0x0FFFFFFF } }

/-- The core slot that SLOT of NCMD gives: 0 to 47 (R276, Table D-20). What a value above 47 gives is open: a free slot (log 76). -/
def ncmdSlot (n fresh : Nat) : Nat := if n < 48 then n else (Config.freeWord (freeAt fresh 0)).toNat % 48

/-- ADD (R361, R364). -/
def execAdd (value : DWord) (s : State) : EventResult :=
  s.unlessMinimal <|
  if ncmdOp value ≠ 1 then .next s
  else
    match s.takeNcmd value with
    | none => .next s
    | some s1 => .next (s1.startAdd (value.extractLsb' 2 12).toNat (value.extractLsb' 14 5).toFin (ncmdSlot (value.extractLsb' 19 6).toNat s.fresh)).freshened.nextOp

/-- DROP (R361, R364). -/
def execDrop (value : DWord) (s : State) : EventResult :=
  s.unlessMinimal <|
  if ncmdOp value ≠ 2 then .next s
  else
    match s.takeNcmd value with
    | none => .next s
    | some s1 => .next (s1.startDrop (value.extractLsb' 2 12).toNat (value.extractLsb' 25 3).toNat).nextOp

/-- An NCMD that asks for nothing (Table D-20). -/
def execNcmdNoop (value : DWord) (s : State) : EventResult :=
  s.unlessMinimal <|
  if ncmdOp value = 1 ∨ ncmdOp value = 2 then .next s else .next ((s.takeNcmd value).getD s)

/-! ## Prepare and verify (R364, R367) -/

/-- The rollback code of a copy that ended with an engine code (Table D-22). -/
def copyRollback (code : Byte) : Byte := if code == codePoison then 0x01 else if code == abortCode .timeout then 0x02 else 0x05

/-- What is left of an ADD's copy, moved as it ends, with the code of its end; it leaves Caravan's queue. -/
def State.endCopy (s : State) (op : NomadOp) (e : EngineOp) (abort : Option Abort) : State × Byte :=
  let p := match s.refusedOp op.die e with
    | some code => (s, code)
    | none => s.moveRest op.die e abort
  (p.1.dropEngine op.die e.id, p.2)

/-- The copy of an ADD, while it stands in Caravan's queue. -/
def State.copyOf (s : State) (op : NomadOp) : Option EngineOp := op.copy.bind (s.engine? op.die)

/-- A rollback in prepare or verify (R367): of the copy's destination each unit holds what it held or what the copy wrote (R117), and the next
operation decided on begins. -/
def State.rollCopy (s : State) (op : NomadOp) (code : Byte) : State :=
  ((match s.copyOf op with
    | some e => (s.endCopy op e (some .cancelled)).1
    | none => s).rollback code).nextOp

/-- PREPARE_COMPLETE (R278, R364, R367): the copy ends once its chunks have been sent, or with an error; its writes are performed at the home
slices, so that they happen before every `route` that returns the version. -/
def execPrepareComplete (abort : Option Abort) (s0 : State) : EventResult :=
  let s := s0.queueCopy
  match s.nomadIn .prepare with
  | none => .next s
  | some op =>
    if !s.inPlay op.die then .next (s.rollCopy op 0x03)
    else if (s.expertRecord op.expert).isNone then .next (s.rollCopy op 0x07)
    else
      match s.copyOf op with
      | none => .next s
      | some e =>
        if abort.isNone && e.code == 0 && !e.moved && (s.refusedOp op.die e).isNone then .next s
        else
          let p := s.endCopy op e abort
          if p.2 == 0 then .next (p.1.setOp { op with phase := .verify, copy := none })
          else .next (p.1.rollCopy { op with copy := none } (copyRollback p.2))

/-- The bytes of a replica as Sirocco of its die reads them; none when one cannot be read or is poisoned. -/
def State.replicaBytes (s : State) (x : ExpertRecord) (d : DieId) : Option (List Byte) := s.virtBytes d x.asid (x.region d) x.wlen

/-- VERIFY_COMPLETE (R364, R367): the CRC of the copy is compared; the commit is next. -/
def execVerifyComplete (s : State) : EventResult :=
  match s.nomadIn .verify with
  | none => .next s
  | some op =>
    if !s.inPlay op.die then .next (s.rollCopy op 0x03)
    else
      match s.expertRecord op.expert with
      | none => .next (s.rollCopy op 0x07)
      | some x =>
        if (s.replicaBytes x op.die).map (crc32c 0) == some x.wcrc then
          .next (s.setOp { op with phase := .commit, next := s.nomad.table.add op.expert ⟨op.die, op.slot⟩, waiting := s.diesInPlay })
        else .next (s.rollCopy op 0x04)

/-! ## Commit, drain and retirement (R282, R288, R365, R366) -/

/-- A commit ends once no in-service die is waited for: the version is the latest committed one, and its drain is next. -/
def State.settleCommit (s : State) : State :=
  match s.nomadIn .commit with
  | some op =>
    if op.waiting.any s.inPlay then s
    else
      { s with nomad := { s.nomad with
          table := op.next, version := op.next.version, op := some { op with phase := .drain, waiting := [] } } }
  | none => s

/-- COMMIT (R277, R288, R365): one die takes the next version between two issues. None does while a merge of the expert is open. -/
def execCommit (d : DieId) (s : State) : EventResult :=
  match s.nomadIn .commit with
  | none => .next s
  | some op =>
    if !op.waiting.contains d || !s.inPlay d || (!op.begun && s.mergeOpen op.expert) then .next s
    else
      .next (((s.modDie d (fun x => { x with replicas := op.next })).setOp
        { op with waiting := op.waiting.filter (· != d), begun := true }).settleCommit)

/-- Whether a packet counts for a version's parity (R281, R365). -/
def countsFor (v : BitVec 16) (p : Packet) : Bool := pktKind p.bits == 2 && pktVersion p.bits % 2 == v.toNat % 2

/-- Whether any packet is in flight under a version. -/
def State.inFlight (s : State) (v : BitVec 16) : Bool :=
  allDies.any (fun d => let x := s.dies[d]; (x.transit ++ x.box ++ x.disp.inHand).any (countsFor v))

/-- DRAIN_LATCH (R365, R366): the counters latched; at zero the drain ends, and the retirement of a dropped placement begins. -/
def execDrainLatch (s : State) : EventResult :=
  let s1 := s.settleCommit
  match s1.nomadIn .drain with
  | none => .next s1
  | some op =>
    if s1.inFlight (op.next.version - 1) then .next s1
    else if op.isAdd then .next (State.nextOp { s1 with nomad := { s1.nomad with op := none } })
    else if op.next.departing.any (fun x => x.1 == op.expert) then .next (s1.setOp { op with phase := .waitMerge, merged := false })
    else .next (s1.setOp { op with phase := .retire, age := s1.uid })

/-- DEPARTING_ENTRY_REMOVAL (R366): after the merge, a further version is committed without the entry. -/
def execDepartingEntryRemoval (s : State) : EventResult :=
  match s.nomadIn .waitMerge with
  | none => .next s
  | some op =>
    if !op.merged then .next s
    else .next (s.setOp { op with phase := .commit, next := s.nomad.table.forget op.expert, waiting := s.diesInPlay, begun := false })

/-- The age of a team for a retirement: that of the depositor of its oldest item when it is packed (R282). -/
def Team.retireAge (t : Team) : Nat := if t.packed then t.originAge else t.age

/-- RETIRE (R282, R364): the region is released once no team of its die whose age precedes the retirement remains, and so none whose age
precedes the commit (log 76). -/
def execRetire (s : State) : EventResult :=
  match s.nomadIn .retire with
  | none => .next s
  | some op =>
    let ts := s.liveTeams op.die ++ s.dies[op.die].saved.map Saved.team
    if ts.any (fun t => decide (t.retireAge < op.age)) then .next s
    else .next (State.nextOp { s with nomad := { s.nomad with op := none, released := (op.expert, op.die, op.region) :: s.nomad.released } })

/-! ## Windows (R362, R363) -/

/-- An expert's count in a list. -/
def countOf (xs : List (Nat × Nat)) (e : Nat) : Nat :=
  match xs.find? (fun x => x.1 == e) with
  | some x => x.2
  | none => 0

/-- The windows in a row in which an expert was hot, and cold (R363). -/
def Nomad.streak (x : Nomad) (e n : Nat) : Nat × Nat × Nat :=
  let c := countOf x.counts e
  let old := match x.streaks.find? (fun y => y.1 == e) with | some y => y.2 | none => (0, 0)
  (e, if x.hot.toNat * n < c then old.1 + 1 else 0, if c < x.cold.toNat * n then old.2 + 1 else 0)

/-- The core cycles of a window of 1 ms (R362). -/
def windowCycles : Nat := 1880000

/-- The window's end (R361, R362): the counts move to the readout, whose words saturate. -/
def Nomad.endWindow (x : Nomad) : Nomad :=
  { x with
    streaks := x.table.experts.filterMap (fun y => if y.2.isEmpty then none else some (x.streak y.1 y.2.length))
    readout := x.counts.map (fun y => (y.1, min y.2 0xFFFFFFFF)), counts := [], dieCounts := Vector.replicate 32 0
    windowAt := x.windowAt + windowCycles }

/-- HYST, at least 1 (Table D-18). -/
def Nomad.windows (x : Nomad) : Nat := max 1 x.hyst.toNat

/-- The die of an automatic ADD: in service, without a placement of the expert, the fewest delivered tokens, then the lowest index. -/
def State.addDie (s : State) (ps : List Placement) : Option DieId :=
  (s.diesInPlay.filter (fun d => !ps.any (fun p => p.die == d))).foldl (fun acc d =>
    match acc with
    | none => some d
    | some b => if s.nomad.dieCounts[d] < s.nomad.dieCounts[b] then some d else some b) none

/-- The choice for one expert of a list of streaks (R363). -/
def State.hotChoice (s : State) (x : Nat × Nat × Nat) : Option NomadChoice :=
  let ps := s.nomad.table.places x.1
  if decide (s.nomad.windows ≤ x.2.1) && decide (ps.length < 8) then
    match s.addDie ps, ps with
    | some d, p :: _ => some (.add x.1 d p.slot)
    | _, _ => none
  else none

/-- The choice of a DROP (R363). -/
def State.coldChoice (s : State) (x : Nat × Nat × Nat) : Option NomadChoice :=
  let n := (s.nomad.table.places x.1).length
  if decide (s.nomad.windows ≤ x.2.2) && decide (1 < n) then some (.drop x.1 (n - 1)) else none

/-- What Nomad decides at a window's end: hot experts before cold ones, lower numbers first (R363). -/
def State.choose (s : State) (streaks : List (Nat × Nat × Nat)) : List NomadChoice :=
  let xs := (streaks.filter (fun x => match s.expertRecord x.1 with | some r => r.auto | none => false)).insertionSort (fun a b => a.1 ≤ b.1)
  xs.filterMap s.hotChoice ++ xs.filterMap s.coldChoice

/-- NOMAD_WINDOW_END (R362, R363): 1 ms after the window's beginning. Decisions not yet begun give way to those of the latest window
(log 76). -/
def execNomadWindowEnd (s : State) : EventResult :=
  if s.now < s.nomad.windowAt + windowCycles then .next s
  else
    let x := s.nomad.endWindow
    let todo := if s.nomad.auto && s.nomad.en then s.choose x.streaks else []
    .next (State.serveTodo { s with nomad := x } todo)

/-- The code of a phase (Table D-19); the table gives none to the wait for a merge, whose code is free (log 76). -/
def NomadPhase.code (x : NomadPhase) (fresh : Nat) : Nat :=
  match x with
  | .prepare => 1 | .verify => 2 | .commit => 3 | .drain => 4 | .retire => 5
  | .waitMerge => (Config.freeWord (freeAt fresh 0)).toNat % 6

/-- NSTAT (Table D-19). -/
def State.nstat (s : State) : DWord :=
  let x := s.nomad
  let phase := match x.op with | some op => op.phase.code s.fresh | none => 0
  x.rollbacks ++ (0#8 ++ x.reason : BitVec 16) ++ (x.expert ++ 0#1 ++ BitVec.ofNat 3 phase : BitVec 16) ++ x.version

/-- NCMD (Table D-20): BUSY while an operation runs. -/
def Nomad.ncmdWord (x : Nomad) : DWord := if x.op.isSome then x.ncmd ||| (1 <<< 28) else x.ncmd

/-- The readout word of an expert (R361). -/
def Nomad.readoutWord (x : Nomad) (e : Nat) : Word := BitVec.ofNat 32 (countOf x.readout e)

end Sys2Proof.Machine
end

