-- ==== Sys2Proof/Machine/StartEvents.lean ====
section
/-! DEFINITION. Images, measurement, the choice of a slot, and the device reset with its start begun (spec 20 R372 to R376, spec 21 R387). -/

namespace Sys2Proof.Machine

/-! ## Images and measurement (R372, R375) -/

/-- The n bytes of a number, the most significant first. -/
def beBytes (n v : Nat) : List Byte := (leBytes n v).reverse

/-- The digest of an image: header bytes 0 to 111 and the body (R372). -/
def imageDigest (x : Image) : BitVec 384 := Config.sha384 (x.take 112 ++ x.drop 208)

/-- Whether an image's header has the layout of R372. -/
def headerOk (x : Image) : Bool :=
  decide (208 ≤ x.length) && bytesAt x 0 4 == 0x54525941 && bytesAt x 8 8 == x.length - 208 && bytesAt x 16 96 == 0

/-- SVN of an image (R372). -/
def svnOf (x : Image) : Word := BitVec.ofNat 32 (bytesAt x 4 4)

/-- The loader and the runtime image of a slot. -/
def Boot.images (b : Boot) (slot : Bool) : Image × Image := if slot then (b.loaderB, b.runtimeB) else (b.loaderA, b.runtimeA)

/-- What the verification of an image finds (R372). -/
inductive Verdict
  | good | badSignature | oldVersion
  deriving DecidableEq, Repr

/-- The verification of an image (R372), by the minimum SVN that this start applies (R387). -/
def Boot.verify (b : Boot) (x : Image) : Verdict :=
  if !headerOk x || !Config.ecdsaOk b.fusedKey (imageDigest x) ((x.drop 112).take 96) then .badSignature
  else if (svnOf x).toNat < b.svnUse.toNat then .oldVersion
  else .good

/-- A digest extended into a measurement register, with its log entry, in one step (R375). -/
def Boot.extend (b : Boot) (k : Fin 3) (digest : BitVec 384) : Boot :=
  { b with
    m := b.m.set k (Config.sha384 (beBytes 48 (b.m[k]).toNat ++ beBytes 48 digest.toNat))
    log := b.log ++ [(BitVec.ofNat 32 b.log.length, BitVec.ofNat 8 k.val, digest)] }

/-! ## Starts (R373, R374) -/

/-- A start that has failed with a reason (Table D-28). -/
def Boot.fail (b : Boot) (reason : Byte) : Boot := { b with halted := true, reason := reason }

/-- A stage of the chosen slot failed its verification: the chain starts again from stage 1 in the other slot, or the start fails. -/
def Boot.slotFailed (b : Boot) (v : Verdict) : Boot :=
  let old := b.rollbackSeen || v == .oldVersion
  if b.firstSlotFailed then { b.fail (if old then 0x02 else 0x01) with rollbackSeen := old }
  else { b with rollbackSeen := old, firstSlotFailed := true, slot := !b.slot, stage := 0 }

/-- What is kept across a reset, and what a start begins with (Table D-27): the minimum SVN of that moment applies to it (R387). -/
def Boot.restart (b : Boot) : Boot :=
  { b with bootok := false, stage := 0, minimal := false, m := Vector.replicate 3 0, log := [], rollbackSeen := false, firstSlotFailed := false
           halted := false, svnUse := b.svnMin, serviceSet := false }

/-- Stage 0 extends its own digest into M0, once in a start (R375). -/
def Boot.measureRom (b : Boot) : Boot := if b.log.isEmpty then b.extend 0 (Config.romDigest b.fusedKey b.svnMin) else b

/-- The ROM's part of a start (R373 to R375): FAILCNT is read and counted; the fourth start after three failed ones, and a forced one,
enter minimal mode. -/
def Boot.release (b : Boot) (forced : Bool) : Boot :=
  let n := b.failcnt
  let b1 := ({ b.restart with failcnt := if n = 15 then 15 else n + 1 } : Boot).measureRom
  if forced then { b1 with minimal := true, stage := 3, reason := 0x06 }
  else if 3 ≤ n.toNat then { b1 with minimal := true, stage := 3 }
  else { b1 with slot := if b.try_ then !b.active else b.active, try_ := false }

/-- A die after a reset: the columns of its arrays that fail are what they were. -/
def Die.renewed (x : Die) : Die :=
  { Die.reset with cores := Vector.ofFn fun c =>
      { Die.reset.cores[c] with banks := Vector.ofFn fun b => { Bank.zero with badColumns := (x.cores[c].banks[b]).badColumns } } }

/-- The device reset, and its start begun. -/
def State.restarted (s : State) (forced : Bool) : State :=
  { State.reset with
    agenda := s.agenda, fresh := s.fresh, present := s.present, dies := s.dies.map Die.renewed, boot := s.boot.release forced
    mgmt := { Mgmt.reset with nvhead := s.mgmt.nvhead, nvlog := s.mgmt.nvlog, spares := s.mgmt.spares } }

/-- BOOTOK written by the runtime firmware of a start that has not failed (R372, R374; DEDUCED, log 104): FAILCNT clears, and ACTIVE names the slot
that runs. -/
def Boot.markOk (b : Boot) : Boot :=
  if b.stage == 2 && !b.minimal && !b.halted then { b with bootok := true, failcnt := 0, active := b.slot } else b

/-- BOOTCFG written (Table D-27): ACTIVE and TRY, then BOOTOK, then FORCEMIN, which resets the device into minimal mode (the order within one
write is a DESIGN CHOICE, log 104). -/
def State.writeBootcfg (s : State) (v : DWord) : State :=
  let b : Boot := { s.boot with active := v.getLsbD 0, try_ := v.getLsbD 1 }
  let s1 : State := { s with boot := if v.getLsbD 2 then b.markOk else b }
  if v.getLsbD 3 then s1.restarted true else s1

end Sys2Proof.Machine
end

