-- ==== Sys2Proof/Machine/RegisterEvents.lean ====
section
/-! DEFINITION. Writes of control registers, the density limiter, telemetry, the power manager, and ECC errors (spec 00 R3, spec 02
R60, R64, spec 17 R336, R340, spec 18 R354, R359, spec 19 R361, R370, spec 20 R374, spec 21 R379 to R385, R387). -/

namespace Sys2Proof.Machine

/-! ## Registers without a behaviour of their own (R3) -/

/-- NCTL written (Table D-18). -/
def Nomad.writeCtl (x : Nomad) (v : DWord) : Nomad :=
  { x with en := v.getLsbD 0, auto := v.getLsbD 1, hot := v.extractLsb' 16 16, cold := v.extractLsb' 32 16, hyst := v.extractLsb' 48 4 }

/-- A word of XINV written (Table D-11); ignored while BUSY is 1 (R340). -/
def Xlat.writeWord (x : Xlat) (i : Fin 3) (w : Word) : Xlat :=
  if x.busy then x
  else
    let low := x.xinv.toNat % 2 ^ (32 * i.val)
    let high := x.xinv.toNat / 2 ^ (32 * i.val + 32) * 2 ^ (32 * i.val + 32)
    { x with xinv := xinvFields (BitVec.ofNat 128 (high + w.toNat * 2 ^ (32 * i.val) + low)) }

/-- A change of a link module of a die. -/
def State.modLink (s : State) (d : DieId) (m : Fin 4) (f : Link → Link) : State :=
  s.modDie d (fun x => { x with links := x.links.set m (f x.links[m]) })

/-- A register written (R3, R64, R336, R354, R361, R370, R374, R382, R383): the fields that are RO and those reserved stay, and any
non-zero value written to a W1C count clears it (R3; DEDUCED, log 95). -/
def State.writeRegister (s : State) (reg : RegName) (v : DWord) : State :=
  match reg with
  | .astbase => { s with xlat := { s.xlat with en := v.getLsbD 0, base := v.extractLsb' 12 40 } }
  | .nctl => { s with nomad := s.nomad.writeCtl v }
  | .nstat => if v.extractLsb' 48 16 != 0 then { s with nomad := { s.nomad with rollbacks := 0 } } else s
  | .nxtab => { s with nomad := { s.nomad with nxtab := v } }
  | .pgrid => { s with pctl := { s.pctl with pgrid := v } }
  | .pcap => { s with mgmt := { s.mgmt with cap := v.extractLsb' 0 12, capEn := v.getLsbD 12 } }
  | .hmap | .bootstat | .loghead => s
  | .bootcfg => s.writeBootcfg v
  | .cvquant d => s.modDie d (fun x => { x with cvquant := v.setWidth 16 })
  | .savecfgBase d => s.modDie d (fun x => { x with saveBase := v &&& 0x000FFFFFFFE00000 })
  | .savecfgSize d => s.modDie d (fun x => { x with saveSize := v.setWidth 32 })
  | .dlim d => s.modDie d (fun x => { x with dlim := { x.dlim with nextLimit := v.extractLsb' 0 13, nextWin := v.extractLsb' 13 3 } })
  | .lstat d m => if v.extractLsb' 8 8 != 0 then s.modLink d m (fun l => { l with retrain := 0 }) else s
  | .lcount d m => s.modLink d m (fun l =>
      { l with crcErr := if v.extractLsb' 0 32 == 0 then l.crcErr else 0, replay := if v.extractLsb' 32 32 == 0 then l.replay else 0 })
  | .dbgen d => s.modDie d (fun x => { x with dbgen := v.getLsbD 0 })
  | .xinvWord i => { s with xlat := s.xlat.writeWord i (v.setWidth 32) }
  | .counter _ _ | .telemetry _ => s

/-- REGISTER_WRITE (R3, R379); in minimal mode only BOOTCFG is reached, by a recovery tool, and any other write gets an error response (R376). -/
def execRegisterWrite (reg : RegName) (value : DWord) (s : State) : EventResult :=
  if reg == .bootcfg then .next (s.writeRegister reg value) else s.unlessMinimal (.next (s.writeRegister reg value))

/-! ## CSCHED, BOOTCFG's set bits, SVNMIN -/

/-- CSCHED_WRITE (R60, Table K-8): any non-zero value written to CONTCNT clears it (R3; DEDUCED, log 95). -/
def execCschedWrite (d : DieId) (c : CoreId) (value : Word) (s : State) : EventResult :=
  s.unlessMinimal <| .next (s.modCore d c (fun k =>
    let x : Admission := { k.adm with admitf := value.extractLsb' 0 5, adapt := value.getLsbD 5 }
    { k with adm := { x with feff := x.programmed, contcnt := if value.extractLsb' 16 16 != 0 then 0 else x.contcnt } }))

/-- BOOTOK (R374): 1 written to it alone. -/
def execBootok (s : State) : EventResult := .next { s with boot := s.boot.markOk }

/-- SVNMIN_WRITE (R387): the fused minimum rises, or the write is refused with a record. -/
def execSvnminWrite (value : Word) (s : State) : EventResult :=
  let x := s.boot.images s.boot.slot
  s.unlessMinimal <|
  if s.boot.svnMin.toNat < value.toNat ∧ value.toNat ≤ (svnOf x.1).toNat ∧ value.toNat ≤ (svnOf x.2).toNat then
    .next { s with boot := { s.boot with svnMin := value } }
  else .next (s.log 0x0F oasisSource 1 0 (value.setWidth 64))

/-! ## The density limiter (R382) -/

/-- DENSITY_WINDOW_END (R382): a new window, with DLIM as last written; windows follow one another from reset. -/
def execDensityWindowEnd (d : DieId) (s : State) : EventResult :=
  let y := s.dies[d].dlim
  if s.now < y.since + y.window then .next s
  else
    .next (s.modDie d (fun x => { x with dlim := x.dlim.roll (y.since + y.window) }))

/-! ## Telemetry and the power manager (R380, R383, R384) -/

/-- What a limit asks of the manager, the one that withholds more first. -/
inductive PowerStep
  | take | stay | undo
  deriving DecidableEq, Repr

/-- The step that withholds more of two (R384). -/
def PowerStep.join (x y : PowerStep) : PowerStep :=
  match x, y with
  | .take, _ | _, .take => .take
  | .stay, _ | _, .stay => .stay
  | .undo, .undo => .undo

/-- CAP in mW (Table F-4). -/
def Mgmt.capMilli (m : Mgmt) : Nat := 1000 * min 2600 (max 1200 m.cap.toNat)

/-- The step that power asks for (R383). -/
def Mgmt.powerStep (m : Mgmt) (power : Nat) : PowerStep :=
  if !m.capEn then .undo
  else if m.capMilli < power then .take
  else if 100 * power < 98 * m.capMilli then .undo
  else .stay

/-- The step that heat asks for, temperatures in sixteenths of a degree, and whether its steps are still to be undone afterwards (R384): only a
limit that has been reached asks for any. -/
def heatStep (engaged : Bool) (die hbm : Nat) : PowerStep × Bool :=
  if 1600 ≤ die ∨ 1520 ≤ hbm then (.take, true)
  else if engaged && !(decide (die < 1520) && decide (hbm < 1440)) then (.stay, true)
  else (.undo, false)

/-- The manager's step (R383). -/
def Mgmt.step (m : Mgmt) (x : PowerStep) : Mgmt :=
  match x with
  | .stay => m
  | .take => if 1024 < m.limit then { m with limit := max 1024 (m.limit - 256) } else { m with withheld := min 12 (m.withheld + 1) }
  | .undo => if 0 < m.withheld then { m with withheld := m.withheld - 1 } else { m with limit := min 4096 (m.limit + 256) }

/-- LIMITS (Table F-1). -/
def State.limitBits (s : State) (power die hbm : Nat) : DWord :=
  (if s.mgmt.capEn && decide (s.mgmt.capMilli < power) then 1 else 0) ||| (if 1600 ≤ die then 2 else 0) ||| (if 1520 ≤ hbm then 4 else 0)
    ||| (if allDies.any (fun d => s.dies[d].dlim.engaged) then 8 else 0)

/-- A source among n dies from a first one on, which the spec leaves open: a free value (log 99). -/
def freeSource (fresh k first n : Nat) : Fin 41 := Fin.ofNat 41 (first + (Config.freeWord (freeAt fresh k)).toNat % n)

/-- The unit of a source of the log: the stack of a Cistern die, none of another die (Table F-5). -/
def stackOf (source : Fin 41) : Nat := source.val - 33

/-- A core without the work that it had in flight. -/
def Core.lostFlight (k : Core) : Core :=
  { k with seq := [], pending := [], slots := k.slots.map (fun x => x.map (fun g => { g with flights := [] })) }

/-- A die without the work that it had in flight. -/
def Die.lostFlight (x : Die) : Die :=
  { x with cores := x.cores.map Core.lostFlight, engines := [], transit := [], box := [], hostSlots := [] }

/-- The device stops issue on every die, with a record, and asks for the removal of power: work in flight is lost, and no completion record
follows for it (R384). -/
def State.trip (s0 : State) (source : Fin 41) (unit : Nat) (temperature : DWord) : State :=
  let s := s0.log 0x0E source 3 unit temperature
  { s with
    mgmt := { s.mgmt with powered := false }
    dies := s.dies.map Die.lostFlight
    qps := s.qps.map (fun q => { q with reads := [] })
    nomad := { s.nomad with op := none }
    launches := [], waiting := [], held := [], commands := [], nvm := [], transfers := [] }

/-- The trip of a sample, if a temperature of it is one: 110 degrees on a junction, 105 on a stack (R384). -/
def State.tripAt (s : State) (tdie : Vector DWord 41) (hbm : DWord) (fresh : Nat) : State :=
  match (List.finRange 41).find? (fun i => decide (1760 ≤ tdie[i].toNat)) with
  | some i => s.trip i (stackOf i) tdie[i]
  | none =>
    let n := freeSource fresh 42 33 8
    if 1680 ≤ hbm.toNat then s.trip n (stackOf n) hbm else s

/-- The telemetry of one sample: the measured figures are free (log 17), and so is which die writes a THROTTLE record (log 99); THRCYC counts
the picks withheld. A temperature at a trip's is one (R384). -/
def State.sampled (s : State) : State :=
  let read := Config.freeReading s.fresh
  let tdie : Vector DWord 41 := Vector.ofFn fun i => read (16 + i.val)
  let hot := tdie.toList.foldl (fun a x => max a x.toNat) 0
  let hbm := read 3
  let limits := s.limitBits (read 0).toNat hot hbm.toNat
  let heat := heatStep s.mgmt.heat hot hbm.toNat
  let m := s.mgmt.step ((s.mgmt.powerStep (read 0).toNat).join heat.1)
  let regs : Vector DWord 7 := #v[read 0, read 1, BitVec.ofNat 64 hot, hbm, limits, BitVec.ofNat 64 s.mgmt.thrcyc, s.mgmt.regs[6] + 1]
  let s1 : State := { s with mgmt := { m with heat := heat.2, regs := regs, tdie := tdie, sampleAt := s.mgmt.sampleAt + 1880000 } }.freshened
  let s2 := if limits == s.mgmt.regs[4] then s1 else s1.log 0x0D (freeSource s.fresh 41 0 41) 0 0 limits
  s2.tripAt tdie hbm s.fresh

/-- TELEMETRY_SAMPLE (R380, R383, R384): every 1 ms, in core cycles of 1.88 GHz. -/
def execTelemetrySample (s : State) : EventResult :=
  if s.now < s.mgmt.sampleAt + 1880000 then .next s else .next s.sampled

/-- Whether the power manager withholds the picks of a core cycle: in as many of every 16 as it has taken steps, the first of them
(R383; which ones they are is a DESIGN CHOICE, log 89). -/
def State.withholds (s : State) : Bool := decide (s.now % 16 < s.mgmt.withheld)

/-- The picks of a core in one core cycle, or one more counted as withheld (R66, R383, Table F-1). -/
def State.pickMove (s : State) (d : DieId) (c : CoreId) : State :=
  let xs := s.picks d c
  if xs.isEmpty then s
  else if s.withholds then { s with mgmt := { s.mgmt with thrcyc := s.mgmt.thrcyc + 1 } }
  else { s with agenda := xs ++ s.agenda }

/-- The temperature of a trip, in sixteenths of a degree: at least 110 degrees on a junction, 105 on a stack (R384), else free (log 17). -/
def tripTemperature (fresh : Nat) (source : Fin 41) (hbm : Bool) : DWord :=
  BitVec.ofNat 64 (max (if hbm then 1680 else 1760) (Config.freeReading fresh (if hbm then 3 else 16 + source.val)).toNat)

/-- THERMAL_TRIP (R384): a temperature reached between two samples. -/
def execThermalTrip (source : Fin 41) (hbm : Bool) (s : State) : EventResult :=
  .next (s.freshened.trip source (stackOf source) (tripTemperature s.fresh source hbm))

/-! ## ECC (R359, R255, R268) -/

/-- The records that an error in a unit spoils: those that the unit lies in (R358, R359). -/
def Die.spoil (x : Die) (unit : Nat) : Die :=
  { x with saved := x.saved.map (fun v =>
      { v with corrupt := v.corrupt || (decide (v.addr < 16 * unit + 16) && decide (16 * unit < v.addr + v.bytes)) }) }

/-- The Cistern die of a unit of memory, the home of its address (R98), as a source of the log (Table F-1). -/
def eccSource (unit : Nat) : Fin 41 := ⟨33 + (homeCistern (unit / 256)).val, by omega⟩

/-- ECC_UNCORRECTABLE (R359, R255, R99). -/
def execEccUncorrectable (place : EccPlace) (s : State) : EventResult :=
  match place with
  | .memory u =>
    let s1 := s.addPoison [s.homeAddr (16 * u) / 16]
    let s2 : State := { s1 with dies := s1.dies.map (fun x => x.spoil u) }
    let source := eccSource (s.homeAddr (16 * u) / 16)
    .next (s2.log 0x02 source 2 (stackOf source) (BitVec.ofNat 64 (16 * u)))
  | .bankUnit d c b u => .next (s.modCore d c (fun k => k.modBank b (fun x => { x with poison := u :: x.poison.filter (· != u) })))
  | .slot d c n => .next (s.modCore d c (fun k => k.setSlot n { k.table[n] with poison := true }))

/-- ECC_CORRECTED (R359, Table F-6). -/
def execEccCorrected (source : Fin 41) (addr : DWord) (s : State) : EventResult := .next (s.log 0x01 source 0 (stackOf source) addr)

end Sys2Proof.Machine
end

