-- ==== Sys2Proof/Machine/FabricEvents.lean ====
section
/-! DEFINITION. The die links and a die that leaves service (spec 19 R368 to R371). -/

namespace Sys2Proof.Machine

/-! ## Flits (R368, R369) -/

/-- One byte of CRC-64, most significant bit first. -/
def crc64Byte (c : DWord) (b : Byte) : DWord :=
  (List.range 8).foldl (fun c _ => if c.getLsbD 63 then (c <<< 1) ^^^ 0x42F0E1EBA9EA3693 else c <<< 1) (c ^^^ (b.setWidth 64 <<< 56))

/-- CRC-64 with the polynomial of Table D-24, from 0, most significant bit first (PRESUMED, log 23). -/
def crc64 (bs : List Byte) : DWord := bs.foldl crc64Byte 0

/-- A byte of a flit. -/
def flitByte (x : BitVec 2048) (n : Nat) : Byte := x.extractLsb' (8 * n) 8

/-- Whether the CRC of a flit holds (Table D-24). -/
def flitCrcOk (x : BitVec 2048) : Bool := crc64 ((List.range 240).map (flitByte x)) == x.extractLsb' 1920 64

/-- The fields of a flit (Table D-24). -/
def flitHeader (x : BitVec 2048) : BitVec 128 := x.extractLsb' 0 128
def flitPayload (x : BitVec 2048) : BitVec 1792 := x.extractLsb' 128 1792
def flitSeq (x : BitVec 2048) : BitVec 16 := x.extractLsb' 1984 16
def flitAck (x : BitVec 2048) : BitVec 16 := x.extractLsb' 2000 16

/-- A beat of a flit (R368). -/
def flitBeat (x : BitVec 2048) (b : Fin 4) : BitVec 512 := x.extractLsb' (512 * b.val) 512

/-- A flit with its CRC; the last four bytes are zero (Table D-24). -/
def flitOf (header : BitVec 128) (payload : BitVec 1792) (seq ack : BitVec 16) : BitVec 2048 :=
  let body : BitVec 1920 := payload ++ header
  let crc := crc64 ((List.range 240).map (fun n => body.extractLsb' (8 * n) 8))
  0#32 ++ ack ++ seq ++ crc ++ body

/-- Where a module of an Erg die goes (R368). -/
def moduleEnd (d : DieId) (m : Fin 4) : LinkEnd :=
  match m with
  | 0 | 1 => .cistern ⟨d.val / 4, by omega⟩
  | 2 => .erg ⟨(d.val + 31) % 32, by omega⟩
  | 3 => .erg ⟨(d.val + 1) % 32, by omega⟩

/-- Whether a module of an Erg die goes to its Cistern die. -/
def towardCistern (d : DieId) (m : Fin 4) : Bool :=
  match moduleEnd d m with
  | .cistern _ => true
  | _ => false

/-- LSTAT of a module (Table D-25). -/
def Link.lstat (l : Link) : DWord :=
  let rep := fun (i : Fin 4) => ((l.rep[i]).setWidth 64 : DWord) <<< (16 + 6 * i.val)
  l.state.setWidth 64 ||| (l.retrain.setWidth 64 <<< 8) ||| rep 0 ||| rep 1 ||| rep 2 ||| rep 3

/-- Whether a module is up, at full or at half width (Table D-25). -/
def Link.up (l : Link) : Bool := l.state == 1 || l.state == 2

/-- A module that retrains (R369, Table D-25): what it has sent and not had acknowledged stays in its replay buffer, and its traffic waits. -/
def Link.startTraining (l : Link) : Link :=
  { l with state := 0, retrain := if l.retrain = 255 then 255 else l.retrain + 1, replays := 0 }

/-- A flit discarded with a replay request; it has been sent this many times in vain. -/
def Link.refuse (l : Link) (crcBad : Bool) : Link :=
  { l with crcErr := if crcBad then satOne l.crcErr else l.crcErr, replay := satOne l.replay, replays := l.replays + 1
           asks := l.asks ++ [l.nextSeq] }

/-- A flit transmitted, kept in the replay buffer until it is acknowledged; ACK is the SEQ of the last flit accepted (R369). -/
def Link.transmit (l : Link) (x : BitVec 128 × BitVec 1792) : Link :=
  let f := flitOf x.1 x.2 l.sendSeq (l.nextSeq - 1)
  { l with sendSeq := l.sendSeq + 1, unacked := l.unacked ++ [f], wire := l.wire ++ [f] }

/-- Traffic given to a module (R369): transmitted while it is up and its replay buffer of 128 has room, behind what waits already. -/
def Link.give (l : Link) (x : BitVec 128 × BitVec 1792) : Link :=
  if l.up && decide (l.unacked.length < 128) && l.backlog.isEmpty then l.transmit x else { l with backlog := l.backlog ++ [x] }

/-- The traffic that waits transmitted as far as it can be. -/
def Link.pump (l : Link) : Link := l.backlog.foldl Link.give { l with backlog := [] }

/-- The flits sent up to and with SEQ ack leave the replay buffer; a number that none of them has acknowledges nothing (log 23). -/
def Link.acked (l : Link) (ack : BitVec 16) : Link :=
  if l.unacked.any (fun x => flitSeq x == ack) then
    ({ l with unacked := (l.unacked.dropWhile (fun x => flitSeq x != ack)).drop 1 } : Link).pump
  else l

/-- A replay requested by the far end (R369): the flits from SEQ on are transmitted again, in order, out of the replay buffer. -/
def Link.replayed (l : Link) (seq : BitVec 16) : Link :=
  if l.up then { l with wire := l.wire ++ l.unacked.dropWhile (fun x => flitSeq x != seq) } else l

/-- A flit received by a module that is up (R369): accepted in order, with its ACK, or discarded; after four failed replays the module
retrains. -/
def Link.receive (l : Link) (flit : BitVec 2048) : Link :=
  if flitCrcOk flit && flitSeq flit == l.nextSeq then { (l.acked (flitAck flit)) with nextSeq := l.nextSeq + 1, replays := 0 }
  else
    let l1 := l.refuse (!flitCrcOk flit)
    if l1.replays < 5 then l1 else l1.startTraining

/-- The modules of a die that may carry the traffic of one that is DOWN (R369): those to the same end first (which one is a DESIGN CHOICE,
log 23). -/
def Die.others (x : Die) (d : DieId) (m : Fin 4) : List (Fin 4) :=
  let able := (List.finRange 4).filter (fun n => n != m && (x.links[n]).state != 3)
  able.filter (fun n => moduleEnd d n == moduleEnd d m) ++ able.filter (fun n => moduleEnd d n != moduleEnd d m)

/-- The traffic of a module: what it has sent and not had acknowledged, and what waits, in order. -/
def Link.traffic (l : Link) : List (BitVec 128 × BitVec 1792) := l.unacked.map (fun f => (flitHeader f, flitPayload f)) ++ l.backlog

/-- The traffic of a module that is DOWN taken by another of its die (R369). -/
def State.shiftTraffic (s : State) (d : DieId) (m : Fin 4) : State :=
  match s.dies[d].others d m with
  | [] => s
  | n :: _ =>
    (s.modLink d n (fun l => (s.dies[d].links[m]).traffic.foldl Link.give l)).modLink d m (fun l => { l with unacked := [], backlog := [] })

/-- A flit given to a module: of a die, to another while the module is DOWN (R369). -/
def State.sendFlit (s : State) (at_ : LinkAt) (header : BitVec 128) (payload : BitVec 1792) : State :=
  match at_ with
  | .die d m =>
    let s1 := s.modLink d m (fun l => l.give (header, payload))
    if (s.dies[d].links[m]).state == 3 then s1.shiftTraffic d m else s1
  | .hub n => { s with hubLinks := s.hubLinks.set n ((s.hubLinks[n]).give (header, payload)) }

/-- A replay requested of a module (R369). -/
def State.replayFlits (s : State) (at_ : LinkAt) (seq : BitVec 16) : State :=
  match at_ with
  | .die d m => s.modLink d m (fun l => l.replayed seq)
  | .hub n => { s with hubLinks := s.hubLinks.set n ((s.hubLinks[n]).replayed seq) }

/-- A Cistern die as a source of the log (Table F-1). -/
def cisternSource (n : Fin 8) : Fin 41 := ⟨33 + n.val, by omega⟩

/-- A flit received by the Oasis die from a Cistern die (R368, R369). -/
def State.hubFlit (s : State) (n : Fin 8) (flit : BitVec 2048) : State :=
  let l := s.hubLinks[n]
  if !l.up then s
  else
    let l1 := l.receive flit
    let s1 : State := { s with hubLinks := s.hubLinks.set n l1 }
    if l1.up then s1 else s1.log 0x06 (cisternSource n) 0 0 l1.lstat

/-! ## A die that leaves service (R371) -/

/-- HMAP (R371). -/
def State.hmap (s : State) : DWord := s.inService ++ s.present

/-- The teams of a launch's range on a lost die end with DIE-LOST, run or not. -/
def Launch.loseDie (l : Launch) (d : DieId) : Launch :=
  let mine := l.ranges.filter (fun x => x.1 == d)
  let left := (mine.flatMap (fun x => (List.range x.2.2).map (fun j => (d, x.2.1 + j)))).filter (fun p => !l.ended.contains p)
  if left.isEmpty then l
  else { l with ended := left ++ l.ended, status := match l.status with | some x => some x | none => some (0x08, 0) }

/-- A die without work: what its memories and modules hold stays; the packets that it holds are lost (DESIGN CHOICE, log 111). -/
def Die.emptied (x : Die) : Die :=
  { x with
    cores := x.cores.map (fun k => { Core.reset with banks := k.banks, l1 := k.l1, l1Dirty := k.l1Dirty, l1Lines := k.l1Lines.map (fun x => { x with owner := none }), adm := k.adm, gateAt := k.gateAt })
    waitList := [], saved := [], disp := Dispatcher.reset, box := [], transit := [], hostSlots := [], engines := [], residue := []
    dieEventPending := false }

/-- Whether an operation in flight on another die goes toward a die. -/
def State.toward (s : State) (d : DieId) (x : EngineOp) : Bool :=
  match x.kind with
  | .xsend _ t _ => t == d
  | .coll kind _ n m none => (s.participants ⟨x.asid, x.grid⟩ kind m n).contains d
  | _ => false

/-- An operation in flight toward a lost die ends with TIMEOUT. -/
def State.timeoutOp (s : State) (e : DieId) (x : EngineOp) : State :=
  match x.kind with
  | .coll _ _ _ m _ => s.collArrive e x m 0x0D
  | _ => s.complete e x .die 0x0D

/-- The operations in flight toward a die end with TIMEOUT, and no merge waits for it. -/
def State.timeoutToward (s : State) (d : DieId) : State :=
  let s1 := (allDies.filter (· != d)).foldl (fun s e => (s.dies[e].engines.filter (s.toward d)).foldl (fun s x => s.timeoutOp e x) s) s
  { s1 with merges := s1.merges.map (fun x => if x.waiting.contains d then x.arrived d 0x0D else x) }

/-- A die leaves service (R371). -/
def State.loseDie (s : State) (d : DieId) : State :=
  let s1 := s.timeoutToward d
  let s2 : State := { s1 with
    inService := s1.inService &&& ~~~(1#32 <<< d.val)
    launches := s1.launches.map (fun l => l.loseDie d)
    transfers := s1.transfers.filter (fun x => x.die != d)
    nvm := s1.nvm.filter (fun y => !s1.transfers.any (fun x => x.id == y.transfer && x.die == d))
    reserved := s1.reserved.filter (fun r => r.1 != d) }
  let s3 := (s2.modDie d Die.emptied).dieGone d
  (s3.pctlDone (fun x => x.1 == d) none).log 0x08 oasisSource 3 d.val s3.hmap

/-! ## Training (R369, R370) -/

/-- The lanes that the spares carry: up to four failed ones (R370). -/
def repairLanes (failed : List (Fin 64)) : Vector (BitVec 6) 4 :=
  let xs := failed.eraseDups
  Vector.ofFn fun i => if 4 < xs.length then 0x3F else match xs[i.val]? with | some n => BitVec.ofNat 6 n.val | none => 0x3F

/-- A module after a training that ended well (R369, R370): it transmits its replay buffer again, then what waits. -/
def Link.trained (l : Link) (failed : List (Fin 64)) : Link :=
  ({ l with state := if 4 < failed.eraseDups.length then 2 else 1, rep := repairLanes failed, failedTrainings := 0, replays := 0
            wire := l.wire ++ l.unacked } : Link).pump

/-- A module after a training (R369, R370): up, at half width, training again, or DOWN after three failures in a row. -/
def Link.train (l : Link) (failed : List (Fin 64)) (ok : Bool) : Link :=
  if ok then l.trained failed
  else { l with failedTrainings := l.failedTrainings + 1, state := if l.failedTrainings + 1 < 3 then l.state else 3 }

/-- Whether a die has a module up toward its Cistern die (R368, R371). -/
def Die.reachable (x : Die) (d : DieId) : Bool := (List.finRange 4).any (fun m => towardCistern d m && (x.links[m]).up)

/-- A die in service with no module up toward its Cistern die leaves service (R371; a retrain of the last one too: DEDUCED, log 23). -/
def State.settleService (s : State) (d : DieId) : State :=
  if s.inService.getLsbD d.val && !s.dies[d].reachable d then s.loseDie d else s

/-- FLIT_RECEIVE (R369, R371). -/
def execFlitReceive (d : DieId) (m : Fin 4) (flit : BitVec 2048) (s : State) : EventResult :=
  let l := s.dies[d].links[m]
  if !l.up then .next s
  else
    let l1 := l.receive flit
    let s1 := s.modLink d m (fun _ => l1)
    if l1.up then .next s1 else .next ((s1.log 0x06 (dieSource d) 0 m.val l1.lstat).settleService d)

/-- TRAINING_COMPLETE (R369 to R371): a module that is DOWN gives its traffic to others, and a die in service with none up toward its Cistern
die leaves service. -/
def execTrainingComplete (d : DieId) (m : Fin 4) (failed : List (Fin 64)) (ok : Bool) (s : State) : EventResult :=
  s.whenAwake <|
  let l := s.dies[d].links[m]
  if l.state != 0 then .next s
  else
    let l1 := l.train failed ok
    let s1 := s.modLink d m (fun _ => l1)
    if l1.state != 3 then .next (s1.settleService d)
    else .next (((s1.log 0x07 (dieSource d) 2 m.val l1.lstat).shiftTraffic d m).settleService d)

/-- The training of the Oasis die's module to a Cistern die (R368 to R370). -/
def State.hubTrained (s : State) (n : Fin 8) (failed : List (Fin 64)) (ok : Bool) : State :=
  let l := s.hubLinks[n]
  if l.state != 0 || s.boot.minimal then s
  else
    let l1 := l.train failed ok
    let s1 : State := { s with hubLinks := s.hubLinks.set n l1 }
    if l1.state != 3 then s1 else s1.log 0x07 (cisternSource n) 2 0 l1.lstat

end Sys2Proof.Machine
end

