-- ==== Sys2Proof/Machine/BootEvents.lean ====
section
/-! DEFINITION. Reset, the start-up chain, images and the watchdog (spec 20 R372 to R376, spec 21 R386, R387). -/

namespace Sys2Proof.Machine

/-! ## Reset and the watchdog (R373, R374) -/

/-- RESET (R373, R374). -/
def execReset (s : State) : EventResult := .next (s.restarted false)

/-- FORCEMIN (Table D-27). -/
def execForcemin (s : State) : EventResult := .next (s.restarted true)

/-- WATCHDOG (R373): 30 s after reset, in core cycles of 1.88 GHz; a start that had failed before keeps its reason (DEDUCED, log 78). -/
def execWatchdog (s : State) : EventResult :=
  if s.boot.minimal || s.boot.bootok || s.now < 56400000000 then .next s
  else .next (State.restarted { s with boot := { s.boot with reason := if s.boot.halted then s.boot.reason else 0x03 } } false)

/-! ## Hand-off (R371 to R373, R386) -/

/-- The remap register and the mark that a spare-column record gives (R386). -/
def Bank.programmed (b : Bank) (x : BitVec 256) : Bank :=
  { b with
    failed := x.getLsbD 8
    remap := (List.range 8).filterMap (fun n => if x.getLsbD n then some ⟨BitVec.ofNat 9 (x.extractLsb' (16 + 16 * n) 16).toNat, BitVec.ofNat 3 n⟩ else none) }

/-- The remap registers of one record programmed. -/
def State.programSpare (s : State) (x : Nat × BitVec 256) : State :=
  s.modCore (Fin.ofNat 32 (x.1 / 3072)) (Fin.ofNat 48 (x.1 / 64)) (fun k => k.modBank (Fin.ofNat 64 x.1) (fun b => b.programmed x.2))

/-- The modules of a die toward its Cistern die that still train have trained up; one that is DOWN stays so (R369, R371). -/
def State.trainUp (s : State) (d : DieId) : State :=
  (List.finRange 4).foldl (fun s m =>
    if towardCistern d m then s.modLink d m (fun l => if l.state == 0 then l.trained [] else l) else s) s

/-- The dies that are present and have a module up toward their Cistern die (R371). -/
def State.reached (s : State) : BitVec 32 :=
  allDies.foldl (fun acc d => if s.present.getLsbD d.val && s.dies[d].reachable d then acc ||| 1#32 <<< d.val else acc) 0

/-- The loader's setting of INSERVICE, once in a start, after it has ended the training of the modules of some dies (R371). -/
def State.enterService (s : State) (diesUp : BitVec 32) : State :=
  if s.boot.serviceSet then s
  else
    let s1 := (allDies.filter (fun d => diesUp.getLsbD d.val && s.present.getLsbD d.val)).foldl State.trainUp s
    { s1 with inService := s1.reached, boot := { s1.boot with serviceSet := true } }

/-- Stage 0 hands over: it has measured itself, and the loader of the chosen slot is verified and measured. -/
def Boot.toLoader (b0 : Boot) : Boot :=
  let b := b0.measureRom
  let x := (b.images b.slot).1
  match b.verify x with
  | .good => { b.extend 1 (imageDigest x) with stage := 1 }
  | v => b.slotFailed v

/-- Stage 1 hands over: the runtime image is verified and measured. -/
def Boot.toRuntime (b : Boot) : Boot :=
  let x := (b.images b.slot).2
  match b.verify x with
  | .good => { b.extend 2 (imageDigest x) with stage := 2 }
  | v => b.slotFailed v

/-- STAGE_HANDOFF (R371 to R373, R375, R386): the loader's hardware checks come before the verification of stage 2, whose firmware then
programs the remap registers; diesUp names the dies whose training it ends well. -/
def execStageHandoff (hbmTrained : Bool) (diesUp : BitVec 32) (s : State) : EventResult :=
  if s.boot.minimal || s.boot.halted then .next s
  else if s.boot.stage == 0 then .next { s with boot := s.boot.toLoader }
  else if s.boot.stage == 1 then
    if !hbmTrained then .next { s with boot := s.boot.fail 0x04 }
    else
      let s1 := s.enterService diesUp
      if s1.inService == 0 then .next { s1 with boot := s1.boot.fail 0x05 }
      else
        let s2 : State := { s1 with boot := s1.boot.toRuntime }
        .next (if s2.boot.stage == 2 then s2.mgmt.spares.foldl State.programSpare s2 else s2)
  else .next s

/-- IMAGE_WRITE (R376, R387): refused for the running slot; in minimal mode any slot is written, and FAILCNT clears. -/
def execImageWrite (slotB runtime : Bool) (image : List Byte) (s : State) : EventResult :=
  if !s.boot.minimal && slotB == s.boot.slot then .next s
  else
    let b := s.boot
    let b1 : Boot :=
      match slotB, runtime with
      | false, false => { b with loaderA := image }
      | false, true => { b with runtimeA := image }
      | true, false => { b with loaderB := image }
      | true, true => { b with runtimeB := image }
    .next { s with boot := if b.minimal then { b1 with failcnt := 0 } else b1 }

end Sys2Proof.Machine
end

