-- ==== Sys2Proof/Machine/FleetEvents.lean ====
section
/-! DEFINITION. SPDM requests and their answers, and what the management controller serves (spec 19 R361, spec 20 R375 to R378, spec 21 R379 to
R386). -/

namespace Sys2Proof.Machine

/-- An answer of the SPDM responder. -/
def State.answer (s : State) (x : SpdmReply) : State := { s with spdm := s.spdm ++ [x] }

/-- GET_VERSION (R377): SPDM 1.3. -/
def execGetVersion (s : State) : EventResult := .next (s.answer (.version 1 3))
/-- GET_CAPABILITIES (R377): a chain, challenges and signed measurements; no key exchange and no secure sessions. -/
def execGetCapabilities (s : State) : EventResult := .next (s.answer (.capabilities ⟨true, true, true, false, false⟩))
/-- NEGOTIATE_ALGORITHMS (R377): TPM_ALG_SHA_384, and brainpoolP384r1 ECDSA as an extended asymmetric algorithm. -/
def execNegotiateAlgorithms (s : State) : EventResult := .next (s.answer (.algorithms .tpmAlgSha384 .storatilBrainpoolP384r1Ecdsa))
/-- GET_DIGESTS (R377): of the one chain, in slot 0. -/
def execGetDigests (s : State) : EventResult := .next (s.answer (.digests (Config.sha384 Config.certificate)))
/-- GET_CERTIFICATE (R377). -/
def execGetCertificate (s : State) : EventResult := .next (s.answer (.certificate Config.certificate))

/-- An entry of the attestation log in its 56-byte form (R375). -/
def logEntryBytes (x : Word × Byte × BitVec 384) : List Byte :=
  leBytes 4 x.1.toNat ++ [x.2.1, 0, 0, 0] ++ beBytes 48 x.2.2.toNat

/-- Measurement block 4 (R378): the stage, the number of entries, and the entries. -/
def Boot.block4 (b : Boot) : List Byte :=
  [b.stage.setWidth 8, 0, 0, 0] ++ leBytes 4 b.log.length ++ b.log.flatMap logEntryBytes

/-- The measurement blocks as they are at one instant (R377, R378). -/
def Boot.blocks (b : Boot) : List Byte := b.m.toList.flatMap (fun x => beBytes 48 x.toNat) ++ b.block4

/-- The signature over the measurements and a nonce (R377). -/
def Boot.signed (b : Boot) (nonce : BitVec 256) : List Byte := Config.sign (Config.sha384 b.blocks) nonce

/-- CHALLENGE (R377, R378): answered with the measurements extended so far. -/
def execChallenge (nonce : BitVec 256) (s : State) : EventResult :=
  .next (s.answer (.challengeAuth s.boot.stage s.boot.m.toList s.boot.log (s.boot.signed nonce)))

/-- GET_MEASUREMENTS (R377, R378): registers and log of one instant. -/
def execGetMeasurements (nonce : BitVec 256) (signed : Bool) (s : State) : EventResult :=
  .next (s.answer (.measurements s.boot.stage s.boot.m.toList s.boot.log (if signed then s.boot.signed nonce else [])))

/-- The request codes of the seven requests of R377, as the SPDM standard numbers them (PRESUMED, log 13): GET_DIGESTS, GET_CERTIFICATE,
CHALLENGE, GET_VERSION, GET_MEASUREMENTS, GET_CAPABILITIES, NEGOTIATE_ALGORITHMS. -/
def spdmSupported : List Byte := [0x81, 0x82, 0x83, 0x84, 0xE0, 0xE1, 0xE3]

/-- Any other SPDM request (R377); the code of a supported one is no such request. -/
def execUnsupportedRequest (code : Byte) (s : State) : EventResult :=
  if spdmSupported.contains code then .next s else .next (s.answer (.errorUnsupported code))

/-! ## Reads by the management controller and by firmware (R379) -/

/-- MiB that the save records of a die hold (Table D-16). -/
def Die.savedMiB (x : Die) : Nat := ((x.saved.map Saved.bytes).sum + 2 ^ 20 - 1) / 2 ^ 20

/-- ELIM of a die (Table F-3). -/
def State.elim (s : State) (d : DieId) : Nat := min (min s.dies[d].dlim.limit.toNat 4096) s.mgmt.limit

/-- BOOTCFG and BOOTSTAT (Table D-27). -/
def Boot.cfgWord (b : Boot) : Nat := b.active.toNat + 2 * b.try_.toNat + 4 * b.bootok.toNat
def Boot.statWord (b : Boot) : Nat := b.stage.toNat + 4 * b.slot.toNat + 8 * b.minimal.toNat + 16 * b.failcnt.toNat + 256 * b.reason.toNat

/-- CSCHED (Table K-8): FEFF as sixteenths above 0.5. -/
def Admission.word (x : Admission) : Nat := x.admitf.toNat + 32 * x.adapt.toNat + 256 * x.feff + 65536 * x.contcnt.toNat

/-- XINV as it reads: with BUSY (Table D-11). -/
def Xlat.word (x : Xlat) : BitVec 128 := if x.busy then x.xinv ||| 0x40000000 else x.xinv

/-- What a register reads (R3 and its own table). -/
def State.readRegister (s : State) (reg : RegName) : DWord :=
  match reg with
  | .astbase => BitVec.ofNat 64 (s.xlat.en.toNat + 4096 * s.xlat.base.toNat)
  | .nctl =>
    let x := s.nomad
    BitVec.ofNat 64 (x.en.toNat + 2 * x.auto.toNat + 2 ^ 16 * x.hot.toNat + 2 ^ 32 * x.cold.toNat + 2 ^ 48 * x.hyst.toNat)
  | .nstat => s.nstat
  | .nxtab => s.nomad.nxtab
  | .pgrid => s.pctl.pgrid
  | .pcap => BitVec.ofNat 64 (s.mgmt.cap.toNat + 4096 * s.mgmt.capEn.toNat)
  | .hmap => s.hmap
  | .bootcfg => BitVec.ofNat 64 s.boot.cfgWord
  | .bootstat => BitVec.ofNat 64 s.boot.statWord
  | .loghead => BitVec.ofNat 64 s.mgmt.loghead
  | .cvquant d => s.dies[d].cvquant.setWidth 64
  | .savecfgBase d => s.dies[d].saveBase
  | .savecfgSize d => BitVec.ofNat 64 (s.dies[d].saveSize.toNat + 2 ^ 32 * s.dies[d].savedMiB)
  | .dlim d => BitVec.ofNat 64 (s.dies[d].dlim.nextLimit.toNat + 2 ^ 13 * s.dies[d].dlim.nextWin.toNat + 2 ^ 16 * s.elim d)
  | .lstat d m => (s.dies[d].links[m]).lstat
  | .lcount d m => (s.dies[d].links[m]).replay ++ (s.dies[d].links[m]).crcErr
  | .dbgen d => if s.dies[d].dbgen then 1 else 0
  | .xinvWord i => (s.xlat.word.extractLsb' (32 * i.val) 32).setWidth 64
  | .counter d i => s.dies[d].counters[i]
  | .telemetry i => s.mgmt.regs[i]

/-- The 32 bytes of an event record (Table F-5). -/
def Event.image (x : Event) : List Byte :=
  leBytes 8 x.time ++ [x.type, 0, BitVec.ofNat 8 x.source, BitVec.ofNat 8 x.sev] ++ leBytes 4 x.unit ++ leBytes 8 x.detail.toNat ++ leBytes 8 x.seq

/-- The record at an index of a ring of n that has had `head` records, the newest first in the list; 32 zeros where none is (R385). -/
def ringImage (xs : List Event) (n head i : Nat) : List Byte :=
  match xs[(head + n - 1 - i) % n]? with
  | some x => x.image
  | none => leBytes 32 0

/-- The inventory record of an array that has none of its own: no spare used (R386). -/
def spareUnused : BitVec 256 := BitVec.ofNat 256 (leNat ([0, 0] ++ List.replicate 16 0xFF ++ List.replicate 14 0))

/-- The bytes at a place (R361, R379, R380, R385, R386). -/
def State.placeBytes (s : State) (p : MgmtPlace) : List Byte :=
  match p with
  | .xinvCount => leBytes 4 (s.xlat.word.extractLsb' 96 32).toNat
  | .reg r => leBytes 8 (s.readRegister r).toNat
  | .pctl => leBytes 8 (s.pctl.value.toNat + 2 ^ 16 * s.pctl.busy.toNat + 2 ^ 24 * s.pctl.result.toNat)
  | .ncmd => leBytes 8 s.nomad.ncmdWord.toNat
  | .csched d c => leBytes 4 (s.core d c).adm.word
  | .tdie n => leBytes 8 (s.mgmt.tdie[n]).toNat
  | .nvhead => leBytes 8 s.mgmt.nvhead
  | .readout e => leBytes 4 (s.nomad.readoutWord e).toNat
  | .logRecord i => ringImage s.mgmt.log 4096 s.mgmt.loghead i.val
  | .nvRecord i => ringImage s.mgmt.nvlog 256 s.mgmt.nvhead i.val
  | .spare n => leBytes 32 (((s.mgmt.spares.find? (fun x => x.1 == n)).map Prod.snd).getD spareUnused).toNat

/-- A read served at one instant (R379); in minimal mode BOOTSTAT alone is, any other gets an error response (R376). -/
def State.serve (s : State) (p : MgmtPlace) : State :=
  { s with served := s.served ++ [if s.boot.minimal && p != .reg .bootstat then none else some (s.placeBytes p)] }

end Sys2Proof.Machine
end

