-- ==== Sys2Proof/Machine/Dispatch.lean ====
section
/-! DEFINITION. One arm for every constructor of Instr, each one call of that row's meaning. -/

namespace Sys2Proof.Machine

def exec (i : Instr) (s : State) : Host.Outcome State Fault Refusal :=
  match i with
  | .iadd f => Sys2Proof.Machine.execIadd f s
  | .isub f => Sys2Proof.Machine.execIsub f s
  | .imul f => Sys2Proof.Machine.execImul f s
  | .imulh f => Sys2Proof.Machine.execImulh f s
  | .imad f => Sys2Proof.Machine.execImad f s
  | .imadw f => Sys2Proof.Machine.execImadw f s
  | .imin f => Sys2Proof.Machine.execImin f s
  | .imax f => Sys2Proof.Machine.execImax f s
  | .iabs f => Sys2Proof.Machine.execIabs f s
  | .iaddx f => Sys2Proof.Machine.execIaddx f s
  | .idot4 f => Sys2Proof.Machine.execIdot4 f s
  | .idot2 f => Sys2Proof.Machine.execIdot2 f s
  | .lea f => Sys2Proof.Machine.execLea f s
  | .icmp f => Sys2Proof.Machine.execIcmp f s
  | .isel f => Sys2Proof.Machine.execIsel f s
  | .iclamp f => Sys2Proof.Machine.execIclamp f s
  | .and f => Sys2Proof.Machine.execAnd f s
  | .or f => Sys2Proof.Machine.execOr f s
  | .xor f => Sys2Proof.Machine.execXor f s
  | .andn f => Sys2Proof.Machine.execAndn f s
  | .not f => Sys2Proof.Machine.execNot f s
  | .shl f => Sys2Proof.Machine.execShl f s
  | .shr f => Sys2Proof.Machine.execShr f s
  | .sar f => Sys2Proof.Machine.execSar f s
  | .shf f => Sys2Proof.Machine.execShf f s
  | .bfext f => Sys2Proof.Machine.execBfext f s
  | .bfins f => Sys2Proof.Machine.execBfins f s
  | .popc f => Sys2Proof.Machine.execPopc f s
  | .clz f => Sys2Proof.Machine.execClz f s
  | .ctz f => Sys2Proof.Machine.execCtz f s
  | .brev f => Sys2Proof.Machine.execBrev f s
  | .prmt f => Sys2Proof.Machine.execPrmt f s
  | .fadd f => Sys2Proof.Machine.execFadd f s
  | .fsub f => Sys2Proof.Machine.execFsub f s
  | .fmul f => Sys2Proof.Machine.execFmul f s
  | .ffma f => Sys2Proof.Machine.execFfma f s
  | .fmin f => Sys2Proof.Machine.execFmin f s
  | .fmax f => Sys2Proof.Machine.execFmax f s
  | .fcmp f => Sys2Proof.Machine.execFcmp f s
  | .fclass f => Sys2Proof.Machine.execFclass f s
  | .frnd f => Sys2Proof.Machine.execFrnd f s
  | .fscale f => Sys2Proof.Machine.execFscale f s
  | .hfma2 f => Sys2Proof.Machine.execHfma2 f s
  | .hadd2 f => Sys2Proof.Machine.execHadd2 f s
  | .hmul2 f => Sys2Proof.Machine.execHmul2 f s
  | .fdot2 f => Sys2Proof.Machine.execFdot2 f s
  | .frcp f => Sys2Proof.Machine.execFrcp f s
  | .frsq f => Sys2Proof.Machine.execFrsq f s
  | .fsqrt f => Sys2Proof.Machine.execFsqrt f s
  | .fexp2 f => Sys2Proof.Machine.execFexp2 f s
  | .flog2 f => Sys2Proof.Machine.execFlog2 f s
  | .fsin f => Sys2Proof.Machine.execFsin f s
  | .fcos f => Sys2Proof.Machine.execFcos f s
  | .ftanh f => Sys2Proof.Machine.execFtanh f s
  | .fdiv f => Sys2Proof.Machine.execFdiv f s
  | .mov f => Sys2Proof.Machine.execMov f s
  | .movi f => Sys2Proof.Machine.execMovi f s
  | .movs f => Sys2Proof.Machine.execMovs f s
  | .cvt f => Sys2Proof.Machine.execCvt f s
  | .cvtq f => Sys2Proof.Machine.execCvtq f s
  | .pack f => Sys2Proof.Machine.execPack f s
  | .unpack f => Sys2Proof.Machine.execUnpack f s
  | .mxq f => Sys2Proof.Machine.execMxq f s
  | .mxdq f => Sys2Proof.Machine.execMxdq f s
  | .rdsr f => Sys2Proof.Machine.execRdsr f s
  | .wrsr f => Sys2Proof.Machine.execWrsr f s
  | .pop f => Sys2Proof.Machine.execPop f s
  | .pmov f => Sys2Proof.Machine.execPmov f s
  | .pmovSet f => Sys2Proof.Machine.execPmovSet f s
  | .vote f => Sys2Proof.Machine.execVote f s
  | .ballot f => Sys2Proof.Machine.execBallot f s
  | .matchLanes f => Sys2Proof.Machine.execMatchLanes f s
  | .shfl f => Sys2Proof.Machine.execShfl f s
  | .nbr f => Sys2Proof.Machine.execNbr f s
  | .redx f => Sys2Proof.Machine.execRedx f s
  | .scan f => Sys2Proof.Machine.execScan f s
  | .segred f => Sys2Proof.Machine.execSegred f s
  | .segscan f => Sys2Proof.Machine.execSegscan f s
  | .bra f => Sys2Proof.Machine.execBra f s
  | .brx f => Sys2Proof.Machine.execBrx f s
  | .call f => Sys2Proof.Machine.execCall f s
  | .callInd f => Sys2Proof.Machine.execCallInd f s
  | .ret f => Sys2Proof.Machine.execRet f s
  | .exit f => Sys2Proof.Machine.execExit f s
  | .tkopen f => Sys2Proof.Machine.execTkopen f s
  | .tkjoin f => Sys2Proof.Machine.execTkjoin f s
  | .tkleave f => Sys2Proof.Machine.execTkleave f s
  | .yield f => Sys2Proof.Machine.execYield f s
  | .nop f => Sys2Proof.Machine.execNop f s
  | .trap f => Sys2Proof.Machine.execTrap f s
  | .sleep f => Sys2Proof.Machine.execSleep f s
  | .brkpt f => Sys2Proof.Machine.execBrkpt f s
  | .vgrow f => Sys2Proof.Machine.execVgrow f s
  | .vshrink f => Sys2Proof.Machine.execVshrink f s
  | .barSync f => Sys2Proof.Machine.execBarSync f s
  | .barArrive f => Sys2Proof.Machine.execBarArrive f s
  | .barWait f => Sys2Proof.Machine.execBarWait f s
  | .barTest f => Sys2Proof.Machine.execBarTest f s
  | .barPhase f => Sys2Proof.Machine.execBarPhase f s
  | .barSyncOne f => Sys2Proof.Machine.execBarSyncOne f s
  | .barArriveOne f => Sys2Proof.Machine.execBarArriveOne f s
  | .barinit f => Sys2Proof.Machine.execBarinit f s
  | .barexp f => Sys2Proof.Machine.execBarexp f s
  | .fenceAr f => Sys2Proof.Machine.execFenceAr f s
  | .fenceSc f => Sys2Proof.Machine.execFenceSc f s
  | .sstep f => Sys2Proof.Machine.execSstep f s
  | .spawn f => Sys2Proof.Machine.execSpawn f s
  | .launch f => Sys2Proof.Machine.execLaunch f s
  | .reorder f => Sys2Proof.Machine.execReorder f s
  | .pksend f => Sys2Proof.Machine.execPksend f s
  | .pkrecv f => Sys2Proof.Machine.execPkrecv f s
  | .pkpoll f => Sys2Proof.Machine.execPkpoll f s
  | .route f => Sys2Proof.Machine.execRoute f s
  | .gang f => Sys2Proof.Machine.execGang f s
  | .gangRd f => Sys2Proof.Machine.execGangRd f s
  | .lease f => Sys2Proof.Machine.execLease f s
  | .ld f => Sys2Proof.Machine.execLd f s
  | .st f => Sys2Proof.Machine.execSt f s
  | .ldx f => Sys2Proof.Machine.execLdx f s
  | .stx f => Sys2Proof.Machine.execStx f s
  | .lds f => Sys2Proof.Machine.execLds f s
  | .sts f => Sys2Proof.Machine.execSts f s
  | .ldc f => Sys2Proof.Machine.execLdc f s
  | .pf f => Sys2Proof.Machine.execPf f s
  | .ldt f => Sys2Proof.Machine.execLdt f s
  | .stt f => Sys2Proof.Machine.execStt f s
  | .tmovRd f => Sys2Proof.Machine.execTmovRd f s
  | .tmovWr f => Sys2Proof.Machine.execTmovWr f s
  | .tmovC8 f => Sys2Proof.Machine.execTmovC8 f s
  | .tmovC16 f => Sys2Proof.Machine.execTmovC16 f s
  | .tmovC32 f => Sys2Proof.Machine.execTmovC32 f s
  | .tmovC4 f => Sys2Proof.Machine.execTmovC4 f s
  | .tmovWc32 f => Sys2Proof.Machine.execTmovWc32 f s
  | .tmovWc8 f => Sys2Proof.Machine.execTmovWc8 f s
  | .atom f => Sys2Proof.Machine.execAtom f s
  | .atomcas f => Sys2Proof.Machine.execAtomcas f s
  | .red f => Sys2Proof.Machine.execRed f s
  | .atoms f => Sys2Proof.Machine.execAtoms f s
  | .atomf f => Sys2Proof.Machine.execAtomf f s
  | .cpy f => Sys2Proof.Machine.execCpy f s
  | .cpyt f => Sys2Proof.Machine.execCpyt f s
  | .cwait f => Sys2Proof.Machine.execCwait f s
  | .ctest f => Sys2Proof.Machine.execCtest f s
  | .xform f => Sys2Proof.Machine.execXform f s
  | .seal f => Sys2Proof.Machine.execSeal f s
  | .coll f => Sys2Proof.Machine.execColl f s
  | .xsend f => Sys2Proof.Machine.execXsend f s
  | .wload f => Sys2Proof.Machine.execWload f s
  | .balloc f => Sys2Proof.Machine.execBalloc f s
  | .bfree f => Sys2Proof.Machine.execBfree f s
  | .bcfg f => Sys2Proof.Machine.execBcfg f s
  | .bmac f => Sys2Proof.Machine.execBmac f s
  | .bmacs f => Sys2Proof.Machine.execBmacs f s
  | .bdrain f => Sys2Proof.Machine.execBdrain f s
  | .bclr f => Sys2Proof.Machine.execBclr f s
  | .bfeed f => Sys2Proof.Machine.execBfeed f s
  | .bstat f => Sys2Proof.Machine.execBstat f s
  | .qcfg f => Sys2Proof.Machine.execQcfg f s
  | .qlen f => Sys2Proof.Machine.execQlen f s
  | .qdrain f => Sys2Proof.Machine.execQdrain f s
  | .tret f => Sys2Proof.Machine.execTret f s
  | .tretSkip f => Sys2Proof.Machine.execTretSkip f s
  | .svcTransfer f => Sys2Proof.Machine.execSvcTransfer f s
  | .svcIcflush f => Sys2Proof.Machine.execSvcIcflush f s
  | .tlbinv f => Sys2Proof.Machine.execTlbinv f s
  | .cflushI f => Sys2Proof.Machine.execCflushI f s
  | .cflushC f => Sys2Proof.Machine.execCflushC f s
  | .cflushWb f => Sys2Proof.Machine.execCflushWb f s
  | .idle f => Sys2Proof.Machine.execIdle f s
  | .bremap f => Sys2Proof.Machine.execBremap f s
  | .btest f => Sys2Proof.Machine.execBtest f s
  | .sleepExpiry g lane => Sys2Proof.Machine.execSleepExpiry g lane s
  | .vgrowGrant die core => Sys2Proof.Machine.execVgrowGrant die core s
  | .fenceComplete g => Sys2Proof.Machine.execFenceComplete g s
  | .sstepComplete asid grid => Sys2Proof.Machine.execSstepComplete asid grid s
  | .pksendAccepted g => Sys2Proof.Machine.execPksendAccepted g s
  | .loadDataReturn g id => Sys2Proof.Machine.execLoadDataReturn g id s
  | .atomicCompletion g id => Sys2Proof.Machine.execAtomicCompletion g id s
  | .cpyComplete die id abort => Sys2Proof.Machine.execCpyComplete die id abort s
  | .cpytCopyComplete die id abort => Sys2Proof.Machine.execCpytCopyComplete die id abort s
  | .xformComplete die id abort => Sys2Proof.Machine.execXformComplete die id abort s
  | .sealComplete die id abort => Sys2Proof.Machine.execSealComplete die id abort s
  | .collComplete id part => Sys2Proof.Machine.execCollComplete id part s
  | .wloadComplete die id abort => Sys2Proof.Machine.execWloadComplete die id abort s
  | .declaredInputComplete die id abort => Sys2Proof.Machine.execDeclaredInputComplete die id abort s
  | .bmacAccepted g => Sys2Proof.Machine.execBmacAccepted g s
  | .bankOperationStart die core id residue => Sys2Proof.Machine.execBankOperationStart die core id residue s
  | .bankOperationEnd die core id => Sys2Proof.Machine.execBankOperationEnd die core id s
  | .bdrainComplete g id => Sys2Proof.Machine.execBdrainComplete g id s
  | .feedRowAccepted g => Sys2Proof.Machine.execFeedRowAccepted g s
  | .trapEntry g => Sys2Proof.Machine.execTrapEntry g s
  | .dispatcherRestart die => Sys2Proof.Machine.execDispatcherRestart die s
  | .dieEvent die => Sys2Proof.Machine.execDieEvent die s
  | .allocatorPlacement die => Sys2Proof.Machine.execAllocatorPlacement die s
  | .packingUnitForm die core label => Sys2Proof.Machine.execPackingUnitForm die core label s
  | .reorderRegroup die core team => Sys2Proof.Machine.execReorderRegroup die core team s
  | .gateTick die core => Sys2Proof.Machine.execGateTick die core s
  | .groupDormant g => Sys2Proof.Machine.execGroupDormant g s
  | .admissionEpochEnd die core => Sys2Proof.Machine.execAdmissionEpochEnd die core s
  | .leaseWindowEnd g => Sys2Proof.Machine.execLeaseWindowEnd g s
  | .priorityPromotion g => Sys2Proof.Machine.execPriorityPromotion g s
  | .swapOutForProgress die core => Sys2Proof.Machine.execSwapOutForProgress die core s
  | .packetArrival die index => Sys2Proof.Machine.execPacketArrival die index s
  | .mailboxSlotWrite qp window offset imm data => Sys2Proof.Machine.execMailboxSlotWrite qp window offset imm data s
  | .rdmaWrite qp head va data => Sys2Proof.Machine.execRdmaWrite qp head va data s
  | .rdmaRead qp rkey va len => Sys2Proof.Machine.execRdmaRead qp rkey va len s
  | .inboundSend qp response => Sys2Proof.Machine.execInboundSend qp response s
  | .inboundAtomic qp => Sys2Proof.Machine.execInboundAtomic qp s
  | .cnpReceived qp => Sys2Proof.Machine.execCnpReceived qp s
  | .transferComplete die id => Sys2Proof.Machine.execTransferComplete die id s
  | .launchCmd qp cmd => Sys2Proof.Machine.execLaunchCmd qp cmd s
  | .launchComplete asid grid => Sys2Proof.Machine.execLaunchComplete asid grid s
  | .install qp cmd => Sys2Proof.Machine.execInstall qp cmd s
  | .dispatcherReplace die => Sys2Proof.Machine.execDispatcherReplace die s
  | .uninstall qp cmd => Sys2Proof.Machine.execUninstall qp cmd s
  | .fence qp cmd => Sys2Proof.Machine.execFence qp cmd s
  | .space qp cmd => Sys2Proof.Machine.execSpace qp cmd s
  | .badCommand qp cmd => Sys2Proof.Machine.execBadCommand qp cmd s
  | .completionRecordPost qp => Sys2Proof.Machine.execCompletionRecordPost qp s
  | .nomadWindowEnd => Sys2Proof.Machine.execNomadWindowEnd s
  | .add value => Sys2Proof.Machine.execAdd value s
  | .drop value => Sys2Proof.Machine.execDrop value s
  | .ncmdNoop value => Sys2Proof.Machine.execNcmdNoop value s
  | .prepareComplete abort => Sys2Proof.Machine.execPrepareComplete abort s
  | .verifyComplete => Sys2Proof.Machine.execVerifyComplete s
  | .commit die => Sys2Proof.Machine.execCommit die s
  | .drainLatch => Sys2Proof.Machine.execDrainLatch s
  | .retire => Sys2Proof.Machine.execRetire s
  | .departingEntryRemoval => Sys2Proof.Machine.execDepartingEntryRemoval s
  | .haltSave value => Sys2Proof.Machine.execHaltSave value s
  | .resume value => Sys2Proof.Machine.execResume value s
  | .pctlNoop value => Sys2Proof.Machine.execPctlNoop value s
  | .teamSave die team => Sys2Proof.Machine.execTeamSave die team s
  | .teamRestore die team => Sys2Proof.Machine.execTeamRestore die team s
  | .pageRange value => Sys2Proof.Machine.execPageRange value s
  | .wholeAsid value => Sys2Proof.Machine.execWholeAsid value s
  | .allAsids value => Sys2Proof.Machine.execAllAsids value s
  | .xinvNoop value => Sys2Proof.Machine.execXinvNoop value s
  | .xinvComplete => Sys2Proof.Machine.execXinvComplete s
  | .pageWalkComplete die core asid va => Sys2Proof.Machine.execPageWalkComplete die core asid va s
  | .cschedWrite die core value => Sys2Proof.Machine.execCschedWrite die core value s
  | .bootok => Sys2Proof.Machine.execBootok s
  | .forcemin => Sys2Proof.Machine.execForcemin s
  | .svnminWrite value => Sys2Proof.Machine.execSvnminWrite value s
  | .registerWrite reg value => Sys2Proof.Machine.execRegisterWrite reg value s
  | .densityWindowEnd die => Sys2Proof.Machine.execDensityWindowEnd die s
  | .telemetrySample => Sys2Proof.Machine.execTelemetrySample s
  | .thermalTrip source hbm => Sys2Proof.Machine.execThermalTrip source hbm s
  | .eccUncorrectable place => Sys2Proof.Machine.execEccUncorrectable place s
  | .flitReceive die mdl flit => Sys2Proof.Machine.execFlitReceive die mdl flit s
  | .trainingComplete die mdl failed ok => Sys2Proof.Machine.execTrainingComplete die mdl failed ok s
  | .reset => Sys2Proof.Machine.execReset s
  | .stageHandoff hbmTrained diesUp => Sys2Proof.Machine.execStageHandoff hbmTrained diesUp s
  | .watchdog => Sys2Proof.Machine.execWatchdog s
  | .imageWrite slotB runtime image => Sys2Proof.Machine.execImageWrite slotB runtime image s
  | .getVersion => Sys2Proof.Machine.execGetVersion s
  | .getCapabilities => Sys2Proof.Machine.execGetCapabilities s
  | .negotiateAlgorithms => Sys2Proof.Machine.execNegotiateAlgorithms s
  | .getDigests => Sys2Proof.Machine.execGetDigests s
  | .getCertificate => Sys2Proof.Machine.execGetCertificate s
  | .challenge nonce => Sys2Proof.Machine.execChallenge nonce s
  | .getMeasurements nonce signed => Sys2Proof.Machine.execGetMeasurements nonce signed s
  | .unsupportedRequest code => Sys2Proof.Machine.execUnsupportedRequest code s
  | .xsendComplete die id abort => Sys2Proof.Machine.execXsendComplete die id abort s
  | .eccCorrected source addr => Sys2Proof.Machine.execEccCorrected source addr s
  | .queuePairCreate qp => Sys2Proof.Machine.execQueuePairCreate qp s
  | .queuePairDestroy qp => Sys2Proof.Machine.execQueuePairDestroy qp s
  | .rdmaResponse id nak data => Sys2Proof.Machine.execRdmaResponse id nak data s
  | .peerTimeout id => Sys2Proof.Machine.execPeerTimeout id s
  | .yieldExpiry g => Sys2Proof.Machine.execYieldExpiry g s

end Sys2Proof.Machine
end

