-- ==== Sys2Proof/Machine/Step.lean ====
section
/-! DEFINITION. One step of the device: the next move of the agenda (log 2), and a word placed where the next step fetches (log 3). -/

namespace Sys2Proof.Machine

/-- The outcome of an issue, with no group issuing afterwards. -/
def endIssue (x : Host.Outcome State Fault Refusal) : Host.Outcome State Fault Refusal :=
  match x with
  | .next s => .next { s with cur := none, curPair := none, deferred := false }
  | .fault e => .fault e
  | .refused e => .refused e

/-- An issue that has been made ready: nothing, another effect in its place, or the instruction. -/
def Prepared.go (s : State) (x : Prepared) : Host.Outcome State Fault Refusal :=
  match x with
  | .nothing => .next s
  | .instead t => .next t
  | .run t i => endIssue (exec i t)

/-- A group's issue of its first path (R30): nothing when the group may not issue, the trap of a fetch that faults, or the instruction. -/
def State.issueStep (s : State) (r : GRef) : Host.Outcome State Fault Refusal := (s.prepare r).go s

/-- A pick of a group with its second path, in one core cycle (R31): the first path, then the second; the first alone when no pair can be
formed. -/
def State.pairStep (s : State) (r : GRef) : Host.Outcome State Fault Refusal :=
  match s.pairOf r with
  | none => s.issueStep r
  | some x =>
    match (s.passPads r x.g).issueStep r with
    | .next t => (t.prepareSecond r x).go t
    | y => y

/-- Whether the power manager withholds the issue of a group in this core cycle: a group that holds has issued before (R69, R383). -/
def State.withheldFor (s : State) (r : GRef) : Bool :=
  s.withholds && (match s.group? r with | some g => g.hold.isNone | none => true)

/-- One move. -/
def State.move (s : State) (m : Move) : Host.Outcome State Fault Refusal :=
  match m with
  | .issue r => if s.withheldFor r then .next s else s.issueStep r
  | .pair r => if s.withheldFor r then .next s else s.pairStep r
  | .event i => exec i s
  | .pick d c => .next (s.pickMove d c)
  | .tick n => .next { s with now := s.now + n }
  | .writeBack d line => .next (s.l2WriteBack d (fun a => a / 128 == line))
  | .dispatch d => .next (s.defaultDispatch d)
  | .defer => .next { s with deferred := true }
  | .perform d c n => .next (s.performNth d c n)
  | .fill d c sec => .next (s.takeSector d c sec)
  | .dropUnit d c code unit => .next (s.dropUnit d c code unit)
  | .chunk d => .next (s.sendChunk d)
  | .sirocco d id => .next (s.siroccoPart d id)
  | .sealRead d id => .next (s.sealRead d id)
  | .array d => .next (s.arrayCycle d)
  | .columnFails d c b n => .next (s.columnFails d c b n)
  | .passTrap r => .next (s.passTrap r)
  | .ecn qp => .next (s.ecnMarked qp)
  | .region k a => .next (s.setRegion k a)
  | .readResponse qp => .next (s.respondRead qp)
  | .sendTransfer id qp => .next (s.sendTransfer id qp)
  | .flush qp space => .next (s.sendFlush qp space)
  | .sendFlit x h p => .next (s.sendFlit x h p)
  | .replay x seq => .next (s.replayFlits x seq)
  | .hubFlit n flit => .next (s.hubFlit n flit)
  | .hubTrained n failed ok => .next (s.hubTrained n failed ok)
  | .mgmtRead p => .next (s.serve p)

/-- One step: the first move of the agenda, or one core cycle when it is empty (log 2). -/
def step (s : State) : Host.Outcome State Fault Refusal :=
  match s.agenda with
  | [] => .next { s with now := s.now + 1 }
  | m :: rest => { s with agenda := rest }.move m

/-- The group that runs a word placed from outside: slot 31 of core 0 of die 0 (log 3). -/
def probeRef : GRef := dispatcherRef 0

/-- The physical address at which a word is placed: the start of a fetch block (log 3). -/
def probeAddr : Nat := 0x1000

/-- The descriptor of the team that runs a placed word: its code is at probeAddr, all else is zero (log 3). -/
def probeDesc : Descriptor :=
  ⟨BitVec.ofNat 64 probeAddr, 0, 0, 1, 0, 8, 1, 0, 0, 0, 2, 3, false, false, 0, []⟩

/-- The 16 bytes of a word at an address of home memory, and no copy of them elsewhere on die 0. -/
def State.placeWord (s : State) (w : BitVec 128) : State :=
  let here := fun (a : Nat) => probeAddr ≤ a && a < probeAddr + 16
  ({ s with
    hbm := cellPutAll s.hbm probeAddr (leBytes 16 w.toNat)
    poison := s.poison.filter (fun u => u != probeAddr / 16)
    aliases := s.aliases.filter (fun x => x.line != probeAddr / 128) }.modDie 0 (fun x => { x with l2 := cellDrop x.l2 here })).modCore
    0 0 (fun k => { k with icache := cellDrop k.icache here })

/-- The state with an instruction's word placed where the next step fetches: a group of firmware mode in the dispatcher's slot, its
PC at the word, and its issue as the next move (log 3). -/
def State.withFetchWord (s : State) (nbits w : Nat) : State :=
  let t := dispatcherTeam s.uid 0 probeDesc
  let s1 := s.placeWord (BitVec.ofNat 128 (w % 2 ^ nbits))
  let s2 := s1.enterDispatcher 0 t (dispatcherGroup t .firmware s.now)
  { s2 with agenda := [.issue probeRef], mgmt := { s2.mgmt with powered := true, withheld := 0 } }

end Sys2Proof.Machine
end

