-- ==== Sys2Proof/Safety.lean ====
section
/-! DEFINITION. What the statements speak of: the canonical form of memory, an instruction that is ready to take effect, and the
state that a completed issue leaves. -/

namespace Sys2Proof.Machine

/-- The lists of bytes of a core are in their canonical forms: rising addresses, and in a bank no zero byte listed. -/
def Core.cellsOk (k : Core) : Prop :=
  cellsSorted k.l1 = true ∧ cellsSorted k.l1Dirty = true ∧ cellsSorted k.icache = true ∧ cellsSorted k.ccache = true ∧
  ∀ b : Fin 64, Memory.wf k.banks[b].mem = true

/-- The lists of bytes of a die are in their canonical forms. -/
def Die.cellsOk (x : Die) : Prop :=
  cellsSorted x.l2 = true ∧ (∀ c : CoreId, x.cores[c].cellsOk) ∧ ∀ v ∈ x.saved, ∀ p ∈ v.banks, Memory.wf p.2.mem = true

/-- Every memory of a state is in its one canonical form: home memory, the copies in the dies and cores, and the banks. -/
def State.memoryOk (s : State) : Prop := Memory.wf s.hbm = true ∧ ∀ d : DieId, s.dies[d].cellsOk

/-- A row that issues with fields f and passes every check made before its meaning (R30, R73, R81, R164): the group under way has
a run at the PC, the mode allows the row, and with a member every operand names a register the group has and no queue is empty that the row
pops or full that it pushes. Some lane of the run has a true guard, unless the row acts without one too, as a group-wide operation does (R37,
R191, R264). -/
structure Ready (op : Op) (always : Bool) (f : Fields) (s : State) (c : Ctx) : Prop where
  issuing : s.ctx? f = some c
  allowed : privileged op c.g.mode = false
  member : always = false → c.m ≠ 0
  operands : c.m ≠ 0 → operandsOk op f c.g c.t = true
  queues : c.m ≠ 0 → queueCheck c.g (opPops op f) (if always then none else opPushes op f) = .ok

/-- The group with the queue entries popped that the row reads; a run without a member pops none (R30, R81). -/
def Ctx.popped (c : Ctx) (op : Op) : Group :=
  if c.m = 0 then { c.g with hold := none } else (opPops op c.f).foldl Group.popQ { c.g with hold := none }

/-- The issue as its meaning sees it: the pops made. -/
def Ctx.go (c : Ctx) (op : Op) : Ctx := { c with s := c.s0.setGroup c.r (c.popped op) }

/-- The group with the issue in the window, its PCs as the meaning left them (R78), and its times: those of an issue, or of the end of a
hold when the instruction issued before (R69). -/
def Ctx.recorded (c : Ctx) (g : Group) (slot : WinSlot) : Group :=
  c.timed { g with window := (⟨g.issues, slot⟩ :: g.window).take 8, issues := g.issues + 1 }

/-- The group once the run has moved past the instruction and the issue stands in the window (R30, R78). -/
def Ctx.stepped (c : Ctx) (g : Group) (slot : WinSlot) : Group :=
  c.recorded { g with pcs := updLanes g.pcs c.run (fun _ => c.next) } slot

/-- A state in which the issue has changed one group and the ISSUED counter of its die (Table F-2), and nothing else. -/
def Ctx.after (c : Ctx) (g : Group) : State := c.counted (c.s0.setGroup c.r g)

/-- The state after a row that leaves a 32-bit result in each member lane. -/
def Ctx.after32 (c : Ctx) (op : Op) (x : Lane → Word) : State :=
  c.after (c.stepped ((c.popped op).write32 c.f.dst c.m x) (slot32 c.f c.m x))

/-- The state after a row that leaves a 64-bit result in each member lane. -/
def Ctx.after64 (c : Ctx) (op : Op) (x : Lane → DWord) : State :=
  c.after (c.stepped ((c.popped op).write64 c.f.dst c.m x) (slotOf c.f c.m x))

/-- The state after a row that leaves a 32-bit or a 64-bit result, as MOD says (R171, R172). -/
def Ctx.afterMod (c : Ctx) (op : Op) (x : Lane → DWord) : State :=
  if isB64 c.f.md then c.after64 op x else c.after32 op (fun i => (x i).setWidth 32)


/-! ## Rows 0x0 to 0x4 -/

/-- A 32-bit source of a lane as the integer that MOD gives: signed under `.i32`, unsigned under `.n32` (R169). -/
def Ctx.intOf (c : Ctx) (x : Operand) (i : Lane) : Int :=
  if c.f.md = 0 then (c.g.read32 c.f x i).toInt else ((c.g.read32 c.f x i).toNat : Int)

/-- An exact result reduced to 32 bits, saturated to the range of the type under `.sat` (R169). -/
def Ctx.reduce (c : Ctx) (x : Int) : Word :=
  if c.f.sub.getLsbD 0 then
    (if c.f.md = 0 then BitVec.ofInt 32 (max (-2 ^ 31) (min (2 ^ 31 - 1) x)) else BitVec.ofInt 32 (max 0 (min (2 ^ 32 - 1) x)))
  else BitVec.ofInt 32 x

/-- Row `op` leaves the 32-bit result x in every member lane, whenever it is ready. -/
def Leaves32 (op : Op) (i : Fields → Instr) (x : Ctx → Lane → Word) : Prop :=
  ∀ (f : Fields) (s : State) (c : Ctx), Ready op false f s c → exec (i f) s = .next (c.after32 op (x c))

/-- Row `op` leaves the 64-bit result x in every member lane, whenever it is ready. -/
def Leaves64 (op : Op) (i : Fields → Instr) (x : Ctx → Lane → DWord) : Prop :=
  ∀ (f : Fields) (s : State) (c : Ctx), Ready op false f s c → exec (i f) s = .next (c.after64 op (x c))

/-- Row `op` leaves the result x of 64 bits under `.b64`, and its low 32 bits otherwise. -/
def LeavesMod (op : Op) (i : Fields → Instr) (x : Ctx → Lane → DWord) : Prop :=
  ∀ (f : Fields) (s : State) (c : Ctx), Ready op false f s c → exec (i f) s = .next (c.afterMod op (x c))

/-- A source of the width that MOD gives (R171, R172). -/
def Ctx.bitsOf (c : Ctx) (x : Operand) (i : Lane) : DWord :=
  if c.f.md = 0x0B then c.g.read64 c.f x i else (c.g.read32 c.f x i).setWidth 64

/-- Whether the arithmetic trap takes an issue with these flags: FPTRAP is set and a member lane has NV, DZ or OF (R131, R167). -/
abbrev Ctx.arithTraps (c : Ctx) (fl : Lane → Flags) : Prop :=
  c.t.desc.fptrap = true ∧ ∃ i : Lane, inMask c.m i = true ∧ fl i &&& 7 ≠ 0

/-- FPSTAT with the flags of the member lanes added (R130, R167). -/
def Ctx.flagged (c : Ctx) (g : Group) (fl : Lane → Flags) : Group :=
  { g with fpstat := updLanes g.fpstat c.m (fun i => g.fpstat[i] ||| fl i) }

/-- The state after a row that leaves a 32-bit result with flags in each member lane (R167). -/
def Ctx.afterFp (c : Ctx) (op : Op) (x : Lane → Word × Flags) : State :=
  c.after (c.stepped ((c.flagged (c.popped op) (fun i => (x i).2)).write32 c.f.dst c.m (fun i => (x i).1))
    (slot32 c.f c.m (fun i => (x i).1)))

/-- The issue that the arithmetic trap ends: the flags added, nothing written, no result in the window, the queues as they were
(R131, R167). -/
def Ctx.afterArith (c : Ctx) (fl : Lane → Flags) : State :=
  c.after (c.recorded (c.flagged { c.g with hold := none } fl) .noResult)

/-- A floating row: the result x with its flags, or the arithmetic trap, whenever it is ready (R167). -/
def LeavesFp (op : Op) (i : Fields → Instr) (x : Ctx → Lane → Word × Flags) : Prop :=
  ∀ (f : Fields) (s : State) (c : Ctx), Ready op false f s c →
    (¬ c.arithTraps (fun l => (x c l).2) → exec (i f) s = .next (c.afterFp op (x c))) ∧
    (c.arithTraps (fun l => (x c l).2) →
      exec (i f) s = .next ((c.afterArith (fun l => (x c l).2)).raise c.r
        (c.info 0x0A ((flagDetail c.m (fun l => (x c l).2)).setWidth 8) 0 0)))

/-- The pair of 16-bit elements of Table K-43, each the exact value rounded once in the format of MOD, with the flags of both. -/
def Ctx.halves (c : Ctx) (x : Nat → Fx) : Word × Flags :=
  let r0 := c.half.round (x 0) c.mode 0 16
  let r1 := c.half.round (x 1) c.mode 0 16
  ((BitVec.ofNat 16 r1.1 ++ BitVec.ofNat 16 r0.1 : Word), r0.2 ||| r1.2)

/-! ### Rounding and conversion (R123 to R129, R132) -/

/-- The rational number that a finite exact value is. -/
def Fx.rat (x : Fx) : ℚ :=
  match x with
  | .num neg m e _ => (if neg then -1 else 1) * (m : ℚ) * (2 : ℚ) ^ e
  | _ => 0

/-- The number that a code of a format stands for. -/
abbrev Fmt.rat (f : Fmt) (code : Nat) : ℚ := (f.value code).rat

/-- The six floating formats that are no blocks (Table K-22). -/
abbrev floatFmts : List Fmt := [fmtF32, fmtF16, fmtBF16, fmtE4M3, fmtE5M2, fmtE2M1]

/-- A code of a format rounds the number x, no larger than the largest finite one, as a mode of Table K-25 says: to nearest with ties to the even
code, towards zero, up, down (R128, R129). -/
def Fmt.RoundsTo (f : Fmt) (mode : Nat) (x : ℚ) (r : Nat) : Prop :=
  match mode with
  | 0 => (∀ (b : Bool) (c : Nat), c ≤ f.maxCode → |x - f.rat r| ≤ |x - f.rat (f.signed b c)|) ∧
      ∀ (b : Bool) (c : Nat), c ≤ f.maxCode → f.rat (f.signed b c) ≠ f.rat r → |x - f.rat r| = |x - f.rat (f.signed b c)| → r % 2 = 0
  | 1 => |f.rat r| ≤ |x| ∧ ∀ c : Nat, c ≤ f.maxCode → |f.rat c| ≤ |x| → |f.rat c| ≤ |f.rat r|
  | 2 => x ≤ f.rat r ∧ ∀ (b : Bool) (c : Nat), c ≤ f.maxCode → x ≤ f.rat (f.signed b c) → f.rat r ≤ f.rat (f.signed b c)
  | _ => f.rat r ≤ x ∧ ∀ (b : Bool) (c : Nat), c ≤ f.maxCode → f.rat (f.signed b c) ≤ x → f.rat (f.signed b c) ≤ f.rat r

/-- An integer rounds a number as a mode of Table K-25 says (R129). -/
def RoundsInt (mode : Nat) (x : ℚ) (z : Int) : Prop :=
  match mode with
  | 0 => |x - z| ≤ 1 / 2 ∧ (|x - z| = 1 / 2 → z % 2 = 0)
  | 1 => z = if 0 ≤ x then ⌊x⌋ else ⌈x⌉
  | 2 => z = ⌈x⌉
  | _ => z = ⌊x⌋

/-- Rounding to a floating format of a finite exact value: the code keeps its sign and rounds it, with NX when it differs and UF when it is then
below the smallest normal one; beyond the largest finite code the result is that code or an infinity, as Table K-25 and R129 say. -/
def Fmt.Rounding (f : Fmt) : Prop :=
  ∀ (neg : Bool) (m : Nat) (e : Int) (k mode : Nat), mode ≤ 3 →
    let x := (Fx.num neg m e false).rat
    let r := f.round (.num neg m e false) mode 0 k
    (|x| ≤ f.rat f.maxCode → ∃ c, c ≤ f.maxCode ∧ r.1 = f.signed neg c ∧ f.RoundsTo mode x r.1 ∧
      (r.2.getLsbD 4 = true ↔ f.rat r.1 ≠ x) ∧ (r.2.getLsbD 3 = true ↔ f.rat r.1 ≠ x ∧ c < 2 ^ f.mbits) ∧ r.2 &&& 7 = 0) ∧
    (f.rat f.maxCode < |x| →
      (f.hasInf = true → mode = 0 →
        (((2 : ℚ) ^ (f.mbits + 2) - 1) * 2 ^ ((f.bias : Int) - f.mbits - 1) ≤ |x| → r = (f.signed neg (f.maxCode + 1), flOF ||| flNX)) ∧
        (|x| < ((2 : ℚ) ^ (f.mbits + 2) - 1) * 2 ^ ((f.bias : Int) - f.mbits - 1) → r = (f.signed neg f.maxCode, flNX))) ∧
      (f.hasInf = true → (mode = 2 ∧ neg = false ∨ mode = 3 ∧ neg = true) → r = (f.signed neg (f.maxCode + 1), flOF ||| flNX)) ∧
      ((f.hasInf = false ∨ mode = 1 ∨ mode = 2 ∧ neg = true ∨ mode = 3 ∧ neg = false) → r.1 = f.signed neg f.maxCode))

/-- The values that a lane gives to block e of `mxq`, and its random bits: a member's element widened exactly, and otherwise +0 and 0 (R184). -/
def Ctx.mxValue (c : Ctx) (e : Nat) (i : Lane) : Fx :=
  if inMask c.m i = false then .num false 0 0 false
  else if c.f.sub = 0 then f32In c.ftz (c.a32 i)
  else if c.f.sub = 1 then fmtBF16.value ((c.a32 i).extractLsb' (16 * e) 16).toNat
  else fmtF16.value ((c.a32 i).extractLsb' (16 * e) 16).toNat

/-! ## Row 0x5 -/

/-- Row `op` leaves the 32-bit result x in every member lane, whenever it is ready and p holds. -/
def Leaves32If (op : Op) (i : Fields → Instr) (p : Ctx → Prop) (x : Ctx → Lane → Word) : Prop :=
  ∀ (f : Fields) (s : State) (c : Ctx), Ready op false f s c → p c → exec (i f) s = .next (c.after32 op (x c))

/-- Row `op` changes its group to g c and leaves no result, whenever it is ready and p holds. -/
def Changes (op : Op) (i : Fields → Instr) (p : Ctx → Prop) (g : Ctx → Group) : Prop :=
  ∀ (f : Fields) (s : State) (c : Ctx), Ready op false f s c → p c →
    exec (i f) s = .next (c.after (c.stepped (g c) .noResult))

/-- Row `op` raises a trap with this cause, detail, TRADDR and TRINFO in its member lanes, or in its run when it has none, and has no other
effect than the issue itself, counted and timed, whenever it is ready and p holds (R44, R165, R289, R347, Table F-2). -/
def Raises (op : Op) (always : Bool) (i : Fields → Instr) (p : Ctx → Prop) (cause detail : Byte) (addr : Ctx → DWord)
    (info : Ctx → Word) : Prop :=
  ∀ (f : Fields) (s : State) (c : Ctx), Ready op always f s c → p c →
    exec (i f) s = .next ((c.charged s).raise c.r (c.info cause detail (addr c) (info c)))

/-- A number up to 0x7FF that no table of system registers lists (Tables K-2, K-7, K-26, K-51, K-59, K-67, K-70, D-4). -/
abbrev srAbsent (n : Nat) : Prop :=
  (0x00D ≤ n ∧ n ≤ 0x00F) ∨ (0x013 ≤ n ∧ n ≤ 0x01F) ∨ (0x021 ≤ n ∧ n ≤ 0x02F) ∨ (0x035 ≤ n ∧ n ≤ 0x03F) ∨ (0x05B ≤ n ∧ n ≤ 0x05F) ∨
  (0x063 ≤ n ∧ n ≤ 0x06F) ∨ (0x077 ≤ n ∧ n ≤ 0x7FF)

/-- A register that programs read only: the work identity, the lease state, the window's address, the counts and versions of Table K-67, and the
trap information (Tables K-2, K-7, K-59, K-67, K-70). -/
abbrev srReadOnly (n : Nat) : Prop :=
  n ≤ 0x00C ∨ (0x010 ≤ n ∧ n ≤ 0x012) ∨ n = 0x058 ∨ n = 0x059 ∨ (0x060 ≤ n ∧ n ≤ 0x062) ∨ (0x070 ≤ n ∧ n ≤ 0x076)

/-- A member lane writes 1 to bit 31 of its source. -/
abbrev Ctx.writesValid (c : Ctx) : Prop := ∃ i : Lane, inMask c.m i = true ∧ (c.b32 i).getLsbD 31 = true

/-- Row `op` leaves no result and has on the state with its pops made the effect u, whenever it is ready and p holds. -/
def Alters (op : Op) (i : Fields → Instr) (p : Ctx → Prop) (u : Ctx → State → State) : Prop :=
  ∀ (f : Fields) (s : State) (c : Ctx), Ready op false f s c → p c →
    exec (i f) s = .next (c.settle (.done (u c (c.go op).s) .noResult))

/-- The state after a row that has put its lanes itself: the group is closed when all its lanes have exited (R8), and traps when all
that is left is blocked (R36). -/
def Ctx.placed (c : Ctx) (g : Group) (slot : WinSlot) : State :=
  ((c.after (c.recorded g slot)).closeGroup c.r).checkDeadlock c.r

/-- Row `op` changes its group to g c, whose lanes stand where g c puts them, whenever it is ready and p holds. -/
def Places (op : Op) (always : Bool) (i : Fields → Instr) (p : Ctx → Prop) (g : Ctx → Group) (slot : Ctx → WinSlot) : Prop :=
  ∀ (f : Fields) (s : State) (c : Ctx), Ready op always f s c → p c → exec (i f) s = .next (c.placed (g c) (slot c))

/-- The run reaches a group-wide operation with a member mask (R37): w is the operation with the run's lanes arrived, their sources
a and b read. -/
abbrev Ctx.Joins (c : Ctx) (mask : Mask) (a : Lane → DWord) (b : Lane → Word) (w : GroupWide) : Prop :=
  c.run &&& ~~~mask = 0 ∧ w.pc = c.pc ∧ w.mask = mask ∧
  ((c.g.gw.find? (fun x => x.pc == c.pc) = none ∧ mask ≠ 0 ∧ (∀ i : Lane, inMask mask i = true → c.g.status[i] ≠ .exited) ∧
      w = ⟨c.pc, mask, c.run, c.m, lanes a, lanes b⟩) ∨
    (∃ v, c.g.gw.find? (fun x => x.pc == c.pc) = some v ∧ v.mask = mask ∧
      w = ⟨v.pc, mask, v.arrived ||| c.run, v.contrib ||| c.m,
        lanes fun i => if inMask c.run i then a i else v.srcA[i], lanes fun i => if inMask c.run i then b i else v.srcB[i]⟩))

/-- The flags that the contributors of a group-wide operation produce together (R191). -/
def GroupWide.flags (w : GroupWide) (x : Lane → Word × Flags) : Flags :=
  (lanesOf w.contrib).foldl (fun acc i => acc ||| (x i).2) 0

/-- The group once a group-wide operation has taken effect (R191): flags and results in its contributors, and every lane that arrived
at the next instruction. -/
def Ctx.gathered (c : Ctx) (op : Op) (w : GroupWide) (x : Lane → Word × Flags) : Group :=
  let g := c.popped op
  let g1 := { g with fpstat := updLanes g.fpstat w.contrib (fun i => g.fpstat[i] ||| w.flags x) }
  let g2 := g1.write32 c.f.dst w.contrib (fun i => (x i).1)
  { g2 with
    gw := g2.gw.filter (fun v => v.pc != w.pc)
    status := updLanes g2.status w.arrived (fun _ => .run)
    pcs := updLanes g2.pcs w.arrived (fun _ => c.next) }

/-- Whether the queue that a group-wide operation pushes is full when it takes effect (R81, R191). -/
abbrev Ctx.gwFull (c : Ctx) (op : Op) (w : GroupWide) : Prop :=
  w.contrib ≠ 0 ∧ ∃ n, c.f.dst = .q n ∧ ((c.popped op).queue n).depth ≤ ((c.popped op).queue n).items.length

/-- Row `op` is a group-wide operation with its mask, its sources and its results (R191): while a named lane is still to come the run
waits, and at the completing issue every contributor gets its result. -/
def GroupWideRow (op : Op) (i : Fields → Instr) (mask : Ctx → Operand) (a : Ctx → Lane → DWord) (b : Ctx → Lane → Word)
    (x : Ctx → GroupWide → Lane → Word × Flags) : Prop :=
  ∀ (f : Fields) (s : State) (c : Ctx) (w : GroupWide), Ready op true f s c →
    c.Joins (c.g.read32 c.f (mask c) 0) (a c) (b c) w →
    ((∃ l : Lane, inMask w.mask l = true ∧ inMask w.arrived l = false) →
      exec (i f) s = .next (c.placed
        { (c.popped op).dropClaims with
          gw := w :: (c.popped op).gw.filter (fun v => v.pc != c.pc)
          status := updLanes c.g.status c.run (fun _ => .waiting) } .noResult)) ∧
    ((∀ l : Lane, inMask w.mask l = true → inMask w.arrived l = true) → ¬ c.gwFull op w →
      ¬ (c.t.desc.fptrap = true ∧ w.flags (x c w) &&& 7 ≠ 0) →
      exec (i f) s = .next (c.placed (c.gathered op w (x c w)) (slot32 c.f w.contrib (fun l => (x c w l).1))))

/-- A group-wide operation's traps (R37, R81, R131). TRMASK of the arithmetic trap and of the queue stall is that of the completing issue: the lanes
of its run whose guard is true, the whole run where there is none (R289). -/
def GroupWideTraps (op : Op) (i : Fields → Instr) (mask : Ctx → Operand) (a : Ctx → Lane → DWord) (b : Ctx → Lane → Word)
    (x : Ctx → GroupWide → Lane → Word × Flags) : Prop :=
  Raises op true i (fun c => c.g.gw.find? (fun v => v.pc == c.pc) = none ∧ c.g.read32 c.f (mask c) 0 = 0) 0x02 0 (fun _ => 0) (fun _ => 0) ∧
  Raises op true i (fun c => ∃ v, c.g.gw.find? (fun v => v.pc == c.pc) = some v ∧ c.g.read32 c.f (mask c) 0 ≠ v.mask) 0x02 0
    (fun _ => 0) (fun _ => 0) ∧
  Raises op true i (fun c => c.run &&& ~~~(c.g.read32 c.f (mask c) 0) ≠ 0 ∧ ¬ (c.g.gw.find? (fun v => v.pc == c.pc) = none ∧
    ∃ l : Lane, inMask (c.g.read32 c.f (mask c) 0) l = true ∧ c.g.status[l] = .exited)) 0x02 0 (fun _ => 0) (fun _ => 0) ∧
  (∀ (f : Fields) (s : State) (c : Ctx), Ready op true f s c → c.g.gw.find? (fun v => v.pc == c.pc) = none →
    (∃ l : Lane, inMask (c.g.read32 c.f (mask c) 0) l = true ∧ c.g.status[l] = .exited) →
    exec (i f) s = .next ((c.charged s).raise c.r { c.info 0x08 0 0 0 with mask := c.run })) ∧
  (∀ (f : Fields) (s : State) (c : Ctx) (w : GroupWide), Ready op true f s c →
    c.Joins (c.g.read32 c.f (mask c) 0) (a c) (b c) w → (∀ l : Lane, inMask w.mask l = true → inMask w.arrived l = true) →
    (c.gwFull op w → exec (i f) s = .next ((c.charged s).raise c.r (c.info 0x09 0 0 0))) ∧
    (¬ c.gwFull op w → c.t.desc.fptrap = true → w.flags (x c w) &&& 7 ≠ 0 →
      exec (i f) s = .next ((c.after (c.recorded
          { c.g with
            hold := none
            fpstat := updLanes c.g.fpstat w.contrib (fun l => c.g.fpstat[l] ||| w.flags (x c w)) } .noResult)).raise c.r
        (c.info 0x0A ((w.flags (x c w) &&& 7).setWidth 8) 0 0))))

/-- The value of a reduction over a list of contributors: the fold of R194 from the identity of Table K-49. -/
def Ctx.fold (c : Ctx) (w : GroupWide) (ls : List Lane) : Word × Flags :=
  foldOf c.f.sub.toNat (c.f.md.extractLsb' 0 2).toNat (c.f.md.getLsbD 3) (ls.map (fun j => (w.srcA[j]).setWidth 32))

/-- The contributors of the segment that a lane stands in (R195): none of them begins a new segment above the lower of the two. -/
def GroupWide.sameSegment (w : GroupWide) (i j : Lane) : Bool :=
  allLanes.all (fun k => !(inMask w.contrib k && w.srcB[k] != 0 && ((i < k && k ≤ j) || (j < k && k ≤ i))))

/-- The lanes of a prefix: up to a lane, or below it under `.excl` (R194). -/
def Ctx.reaches (c : Ctx) (i j : Lane) : Bool := decide (j < i) || (j == i && !c.f.md.getLsbD 2)

/-! ## Row 0x6 -/

/-- The group with its run past the instruction and its members at targets (R197). -/
def Ctx.branched (c : Ctx) (g : Group) (target : Lane → DWord) : Group :=
  { g with pcs := Vector.ofFn fun i => if inMask c.m i then target i else if inMask c.run i then c.next else g.pcs[i] }

/-- What an entry of the token table becomes when lanes are taken from it (R34, R35): discarded when no member is left or every member
that is left is parked at it. -/
def tokenLess (k : Fin 8) (status : Lanes LaneStatus) (out : Mask) (x : Option Token) : Option Token :=
  match x with
  | none => none
  | some y =>
    if out = 0 then some y
    else if y.mask &&& ~~~out = 0 then none
    else if ∀ i : Lane, inMask (y.mask &&& ~~~out) i = true → status[i] = .parked k then none
    else some { y with mask := y.mask &&& ~~~out }

/-- The lanes that unpark at an entry when lanes are taken from it (R34, R35). -/
def tokenFrees (k : Fin 8) (status : Lanes LaneStatus) (out : Mask) (x : Option Token) (i : Lane) : Prop :=
  ∃ y, x = some y ∧ out ≠ 0 ∧ y.mask &&& ~~~out ≠ 0 ∧ inMask (y.mask &&& ~~~out) i = true ∧
    ∀ j : Lane, inMask (y.mask &&& ~~~out) j = true → status[j] = .parked k

/-- The group g after lanes `out k` have been taken from each token entry k of h, whose lanes have statuses and PCs already moved. -/
def TokensLeft (h g : Group) (out : Fin 8 → Mask) : Prop :=
  (∀ k : Fin 8, g.tokens[k] = tokenLess k h.status (out k) h.tokens[k]) ∧
  (∀ i : Lane, (¬ ∃ k : Fin 8, tokenFrees k h.status (out k) h.tokens[k] i) → g.status[i] = h.status[i] ∧ g.pcs[i] = h.pcs[i]) ∧
  (∀ (i : Lane) (k : Fin 8) (y : Token), tokenFrees k h.status (out k) h.tokens[k] i → h.tokens[k] = some y →
    g.status[i] = .run ∧ g.pcs[i] = y.joinPc) ∧
  { g with tokens := h.tokens, status := h.status, pcs := h.pcs } = h

/-- The lanes that `tkleave k` takes from entry j (R35): issuing members of entry k, from entry k and from every younger one. -/
def Ctx.leaves (c : Ctx) (k j : Fin 8) : Mask :=
  match c.g.tokens[k], c.g.tokens[j] with
  | some x, some y => if j = k ∨ x.seq < y.seq then c.m &&& x.mask &&& y.mask else 0
  | _, _ => 0

/-- The group in which the members have exited and are still in the token entries (R199). -/
def Ctx.exiting (c : Ctx) (op : Op) : Group :=
  let g := c.popped op
  { g with
    pcs := updLanes g.pcs c.run (fun _ => c.next)
    status := updLanes g.status c.m (fun _ => .exited) }

/-- Whether the budget of the group cannot change (R204). -/
abbrev Ctx.fixedBudget (c : Ctx) : Prop := c.t.dispatcher = true ∨ ∃ n : Fin 16, c.g.queues[n].depth ≠ 0

/-- The group as an instruction that begins to hold leaves it: it has issued, and the entry of a queue destination is allocated, unless the row
pushes later (R69, R191, R271, R296); one that held already has issued before. -/
def Ctx.taken (c : Ctx) (g : Group) (h : Hold) : Group :=
  if c.g.hold.isSome then g else if h.allocates then (g.passed c.s0.now).claimQ c.f.dst else g.passed c.s0.now

/-- The state with the group held at the instruction, whose effect has left the group as g. -/
def Ctx.holding (c : Ctx) (g : Group) (h : Hold) : State :=
  c.after { c.taken g h with hold := some h, heldRun := c.run, heldNext := c.next }

/-- Row `op` holds its group, whenever it is ready and p holds. -/
def Holds (op : Op) (i : Fields → Instr) (p : Ctx → Prop) (g : Ctx → Group) (h : Ctx → Hold) : Prop :=
  ∀ (f : Fields) (s : State) (c : Ctx), Ready op false f s c → p c → exec (i f) s = .next (c.holding (g c) (h c))

/-- The group as a trap enters it (R347): the handler's address in the lanes of TRMASK, the information registers, the window kept for
the return. -/
def Entered (g g' : Group) (mode : Mode) (x : TrapInfo) (handler : DWord) : Prop :=
  g'.mode = mode ∧ g'.traps = ⟨mode, x, g.window⟩ :: g.traps ∧ g'.hold = none ∧ g'.pendingTrap = none ∧
  (∀ i : Lane, inMask x.mask i = true → g'.pcs[i] = handler ∧ (g.status[i] ≠ .exited → g'.status[i] = .run)) ∧
  (∀ i : Lane, inMask x.mask i = false → g'.pcs[i] = g.pcs[i]) ∧
  (∀ i : Lane, g.status[i] = .exited → g'.status[i] = .exited) ∧
  (∀ i : Lane, inMask x.mask i = false → g.gangMask &&& x.mask = 0 → g'.status[i] = g.status[i]) ∧
  g'.gw = (g.gw.map (fun w => { w with arrived := w.arrived &&& ~~~x.mask })).filter (fun w => w.arrived != 0) ∧
  { g' with
    traps := g.traps, hold := g.hold, pendingTrap := g.pendingTrap, pcs := g.pcs, status := g.status, gw := g.gw
    sched := g.sched } = g.dropClaims

/-! ## Row 0x7 -/

/-- Row `op` ends as the act a says, whenever it is ready and p holds: the act is settled on the state with the issue's pops made. -/
def Ends (op : Op) (i : Fields → Instr) (p : Ctx → Prop) (a : Ctx → Act) : Prop :=
  ∀ (f : Fields) (s : State) (c : Ctx), Ready op false f s c → p c → exec (i f) s = .next (c.settle (a (c.go op)))

/-- The barrier operand names register b, and the team has it (R84, R206). -/
abbrev Ctx.Names (c : Ctx) (b : Fin 16) : Prop := c.aLevel.toNat = b.val ∧ b.val < c.t.desc.barriers

/-- An arrival of n at a register (R206). -/
def Barrier.after (b : Barrier) (n : Nat) : Barrier :=
  ⟨b.expect, if b.count + n = b.expect then 0 else b.count + n, if b.count + n = b.expect then b.phase + 1 else b.phase, b.pend⟩

/-- The arrivals of an issue: one for each member, or one with `.one` (R207). -/
def Ctx.arriving (c : Ctx) (one : Bool) : Nat := if one then 1 else (allLanes.filter (inMask c.m)).length

/-- The group held at a register until its phase differs from a value (R207). -/
def Ctx.waiting (c : Ctx) (g : Group) (b : Fin 16) (phase : BitVec 16) : Group :=
  { g with
    pcs := updLanes g.pcs c.run (fun _ => c.next)
    status := updLanes g.status c.m (fun _ => .barHold b phase) }

/-- The state with the release that an arrival makes (R209), the issuing group changed by h. -/
def Ctx.released (c : Ctx) (op : Op) (b : Fin 16) (h : Group → Group) : State :=
  (c.arriveRelease b (c.go op).s).modGroup c.r h

/-- Nothing that a group's core or the group itself has issued has yet to reach memory: no store waits in the core and no load of the group has yet
to read. -/
abbrev State.NoneWaits (s : State) (r : GRef) : Prop :=
  (s.core r.die r.core).pending = [] ∧ ∀ g, s.group? r = some g → ∀ x ∈ g.flights, x.late = none

/-- Another `launch` of the core that issued before this one still waits for room (R24). -/
abbrev Ctx.launchesBefore (c : Ctx) : Prop :=
  ∃ (i : SlotId) (g : Group) (n : Nat), c.s0.group? ⟨c.r.die, c.r.core, i⟩ = some g ∧ g.hold = some (.launch n) ∧ n < c.launchPlace

/-- The packets of an issue of `pksend` for dies that are present and in service, in ascending lane order (R217). -/
def Ctx.packets (c : Ctx) : List (Lane × DieId × BitVec 512) :=
  ((lanesOf c.m).map (fun i => (i, (Fin.ofNat 32 (c.b32 i).toNat : DieId), c.packet i))).filter (fun x => c.s0.inPlay x.2.1)

/-- Every member of an issue of `pksend` names a die number and a packet that may be sent (R217, R280). -/
abbrev Ctx.Sends (c : Ctx) : Prop := ∀ i : Lane, inMask c.m i = true → (c.b32 i).toNat ≤ 31 ∧ routedOk (c.packet i) = true

/-- The members of an issue of `pksend` whose target is not there (R217). -/
def Ctx.absentTargets (c : Ctx) : Mask := BitVec.ofFnLE (fun i : Lane => inMask c.m i && !c.s0.inPlay (Fin.ofNat 32 (c.b32 i).toNat))

/-! ## Rows 0x8 and 0x9 -/

/-- Every member lane's access of `size` bytes is aligned and translated, xs in ascending lane order (R223, R224). -/
abbrev Ctx.Reaches (c : Ctx) (kind : AccessKind) (size : Nat) (ea : Lane → DWord) (xs : List (Lane × Translated)) : Prop :=
  xs.map Prod.fst = lanesOf c.m ∧ ∀ x ∈ xs, (ea x.1).toNat % size = 0 ∧ c.translate (ea x.1) kind = .ok x.2

/-- Lane i is the lowest member whose access traps: every lower member's is aligned and translated (R224, R342). -/
abbrev Ctx.FirstBad (c : Ctx) (kind : AccessKind) (size : Nat) (ea : Lane → DWord) (i : Lane) : Prop :=
  inMask c.m i = true ∧ ∀ j : Lane, j < i → inMask c.m j = true → (ea j).toNat % size = 0 ∧ ∃ x, c.translate (ea j) kind = .ok x

/-- Every member lane's scratchpad access is aligned and lies in a storage-mode octet of the team (R92, R227). -/
abbrev Ctx.ReachesSpad (c : Ctx) (size : Nat) (ea : Lane → Word) : Prop :=
  ∀ i : Lane, inMask c.m i = true →
    (ea i).toNat % size = 0 ∧ ∃ p, (c.s0.core c.r.die c.r.core).spadPlace c.t (ea i).toNat = .ok p

/-- Lane i is the lowest member whose scratchpad access traps: every lower member's is aligned and lies in the team's storage (R92, R224). -/
abbrev Ctx.FirstBadSpad (c : Ctx) (size : Nat) (ea : Lane → Word) (i : Lane) : Prop :=
  inMask c.m i = true ∧ ∀ j : Lane, j < i → inMask c.m j = true →
    (ea j).toNat % size = 0 ∧ ∃ p, (c.s0.core c.r.die c.r.core).spadPlace c.t (ea j).toNat = .ok p

/-- The base and the stride of a global tile access are aligned (R224, R230). -/
abbrev Ctx.TileAligned (c : Ctx) : Prop := (c.tileRow 0).toNat % 32 = 0 ∧ c.bLevel.toNat % 32 = 0
/-- The base and the stride of a scratchpad tile access are aligned. -/
abbrev Ctx.TileAlignedSpad (c : Ctx) : Prop := (c.tileRowSpad 0).toNat % 32 = 0 ∧ c.bLevel.toNat % 32 = 0

/-- The places that the rows of a tile load read. -/
def Ctx.rowPlaces (c : Ctx) (xs : List Translated) : List ReadPlace :=
  xs.zipIdx.map (fun x => ⟨Fin.ofNat 32 x.2, c.tileRow x.2, x.1.pa, x.1.attrs.cache⟩)

/-- The width in bytes that SUB gives (Table K-53). -/
def widthOf (sub : BitVec 3) : Nat :=
  if sub = 0 ∨ sub = 1 then 1 else if sub = 2 ∨ sub = 3 then 2 else if sub = 4 then 4 else if sub = 5 then 8 else 16

/-- What a global load reads: the place of each lane. -/
def Ctx.spec (c : Ctx) (ea : Lane → DWord) (xs : List (Lane × Translated)) : LoadSpec :=
  ⟨c.size, c.f.sub, c.f.hint, c.bypasses, false, xs.map (fun x => ⟨x.1, ea x.1, x.2.pa, x.2.attrs.cache⟩)⟩

/-- A load put in flight in a state (R109, R226): it has yet to read when the agenda defers it and it acquires nothing, else it has read, each after
the group's earlier loads of its bytes. -/
def Ctx.loads (c : Ctx) (s : State) (words : Nat) (x : LoadSpec) : Act :=
  let u := s.readLate c.r (Flight.owesRead x.bytes)
  let y := u.readNow c.r x c.m
  if c.s0.deferred = true ∧ c.acquires = false then
    c.launchFlight u { c.flight false words 0 0 (lanes fun _ => 0) with late := some x }
  else
    c.launchFlight y.s { c.flight false words y.bad y.addr y.vals with tileBytes := y.quads }

/-- A global store as it leaves memory: the TLBs hold what it walked, then the release, the accesses and the lanes' data (R90, R106, R226). -/
def Ctx.stored (c : Ctx) (ea : Lane → DWord) (xs : List (Lane × Translated)) (data : Lane → List Byte) : State :=
  c.putAll (c.walked ((lanesOf c.m).map ea)) true (xs.map (fun x => (x.2, data x.1)))

/-- A global atomic of n bytes as it leaves memory, with the flight of its old values (R113, R233, R332, R388). -/
def Ctx.atomics (c : Ctx) (n : Nat) (xs : List (Lane × Translated)) (op : Lane → Nat → Nat) : Act :=
  let lvl := scopeLevel c.scope
  let u := (c.release (c.walked ((lanesOf c.m).map c.ea))).l1Accesses c.r (accessBytes xs n) true c.f.hint (bypassed (xs.map Prod.snd) (lvl != .core))
    (if lvl = .core then some 2 else none) true
  let run := c.atomLanes u xs n lvl op
  let bad := maskOf (fun i => xs.any (fun x => x.1 == i && u.poisonedIn x.2.pa n))
  c.launchFlight (c.acquire run.s) (c.flight true (n / 4) bad (lowestAddr bad c.ea) (lanes (laneValue run.olds)))

/-- The registers of a group that an instruction names are as they were. -/
def SameRegs (g g' : Group) : Prop :=
  g'.v = g.v ∧ g'.o = g.o ∧ g'.p = g.p ∧ g'.u = g.u ∧ g'.fpstat = g.fpstat ∧ g'.tiles = g.tiles ∧ g'.tokens = g.tokens ∧ g'.tags = g.tags ∧
  g'.cterr = g.cterr ∧ g'.status = g.status ∧ g'.traps = g.traps ∧ g'.budget = g.budget

/-- Some place of the package holds byte b for storage address a: the home slice, an L2, an L1, or a store that waits. -/
def State.holds (s : State) (a : Nat) (b : Byte) : Prop :=
  (cellGet s.hbm a).getD 0 = b ∨ ∃ k : Nat, s.homeAddr k = a ∧
    ((∃ d : DieId, cellGet s.dies[d].l2 k = some b) ∨
     ∃ (d : DieId) (c : CoreId), cellGet (s.core d c).l1 k = some b ∨ cellGet (s.core d c).l1Dirty k = some b ∨
       ∃ x ∈ (s.core d c).pending, x.pa ≤ k ∧ x.bytes[k - x.pa]? = some b)

/-- No byte comes from nowhere: at every storage address that p leaves, each value held afterwards was held before; no other group, team or bank
changes. -/
def Ctx.KeepsBytes (c : Ctx) (s t : State) (p : Nat → Prop) : Prop :=
  t.aliases = s.aliases ∧ (∀ r : GRef, r ≠ c.r → t.group? r = s.group? r) ∧
  (∀ (d : DieId) (k : CoreId), (t.core d k).banks = (s.core d k).banks ∧ (t.core d k).teams = (s.core d k).teams) ∧
  (∀ (a : Nat) (b : Byte), (∀ k : Nat, s.homeAddr k = a → p k) → t.holds a b → s.holds a b)

/-- The frame of an access to memory on pages that the die's L2 holds. No byte comes from nowhere. While no store of the core waits and the die's
L2 gives up no line for want of room, nothing outside the core, but what its L1 writes back to its die, has changed: the home slices, the other
dies and the other cores of the die; and the issuing core reads every byte that p holds of as before, or as its die held it when it has given up
a copy of its own (R94, R97, R98, R107, R111). -/
def Ctx.OnlyCore (c : Ctx) (s t : State) (p : Nat → Prop) : Prop :=
  c.KeepsBytes s t p ∧
  ((s.core c.r.die c.r.core).pending = [] → t.dies[c.r.die].l2Lines.length < l2SliceLines →
    t.hbm = s.hbm ∧ (∀ e : DieId, e ≠ c.r.die → t.dies[e] = s.dies[e]) ∧
    (∀ k : CoreId, k ≠ c.r.core → t.core c.r.die k = s.core c.r.die k) ∧
    (∀ a : Nat, p a →
      (t.coreByte c.r.die c.r.core a = s.coreByte c.r.die c.r.core a ∨ t.coreByte c.r.die c.r.core a = s.dieByte c.r.die a) ∧
      (t.dieByte c.r.die a = s.dieByte c.r.die a ∨ cellGet (s.core c.r.die c.r.core).l1Dirty a = some (t.dieByte c.r.die a))))

/-- The bytes of a tile from an offset, as a word. -/
def tileAt (t : Vector Byte 1024) (off n : Nat) : Word :=
  BitVec.ofNat 32 (((List.range n).map (fun j => (t[off + j]?.getD 0).toNat * 256 ^ j)).sum)

/-- Row `op` reads an element of tile SA in every member lane. -/
def ReadsTile (op : Op) (i : Fields → Instr) (x : Vector Byte 1024 → Nat → Nat → Word) : Prop :=
  ∀ n : BitVec 4, Leaves32If op i (fun c => c.f.sa = .t n) (fun c l => x (c.g.tiles.get n.toFin) l.val c.bLevel.toNat)

/-- Row `op` writes n bytes of SA to tile DST at an offset that differs from lane to lane; every other byte stays. -/
def WritesTile (op : Op) (i : Fields → Instr) (n : Nat) (off : Nat → Nat → Nat) : Prop :=
  ∀ (k : BitVec 4) (f : Fields) (s : State) (c : Ctx), Ready op false f s c → f.dst = .t k → ∃ x : Vector Byte 1024,
    exec (i f) s = .next (c.after (c.stepped { c.popped op with tiles := c.g.tiles.set k.toNat x k.isLt } .noResult)) ∧
    (∀ (l : Lane) (j : Nat), inMask c.m l = true → j < n →
      x[off l.val c.bLevel.toNat + j]? = some ((c.a32 l).extractLsb' (8 * j) 8)) ∧
    (∀ a : Fin 1024, (∀ (l : Lane) (j : Nat), inMask c.m l = true → j < n → a.val ≠ off l.val c.bLevel.toNat + j) →
      x[a] = (c.g.tiles.get k.toFin)[a])

/-! ### Translation (R328 to R331, R336) -/

/-- The place of an address's entry in a table of a level (Table D-8). -/
abbrev entryPlace (va level table : Nat) : Nat := table + 8 * (va / 2 ^ (12 + 9 * (level - 1)) % 512)

/-- A valid table entry that is not malformed (Table D-9, R330): nothing but V and PA, the next table inside device memory. -/
abbrev TableEntry (e : DWord) (level : Nat) : Prop :=
  e.getLsbD 0 = true ∧ e.extractLsb' 1 11 = 0 ∧ e.extractLsb' 52 12 = 0 ∧ (e.extractLsb' 12 40).toNat * 4096 < 2 ^ 39 ∧ level ≠ 1

/-- A valid leaf of a level that is not malformed, entry j of its table, in a group of n (Table D-9, R330, R331, R333). -/
structure GoodLeaf (e : DWord) (level j n : Nat) : Prop where
  valid : e.getLsbD 0 = true
  leaf : e.getLsbD 1 = true
  notTop : level ≠ 5
  mustBeZero : e.getLsbD 11 = false ∧ e.extractLsb' 54 10 = 0
  writeNeedsRead : e.getLsbD 3 = true → e.getLsbD 2 = true
  cache : e.extractLsb' 5 2 ≠ 3
  contig : e.extractLsb' 52 2 = 0 ∧ n = 1 ∨ e.extractLsb' 52 2 = 1 ∧ n = 16 ∧ level ≤ 3 ∨ e.extractLsb' 52 2 = 2 ∧ n = 64 ∧ level = 1
  aligned : (e.extractLsb' 12 40).toNat * 4096 % 2 ^ (12 + 9 * (level - 1)) = 0
  based : ∃ k, (e.extractLsb' 12 40).toNat * 4096 = (k * n + j % n) * 2 ^ (12 + 9 * (level - 1))
  resident : e.getLsbD 8 = true → level = 2 ∧ n = 1
  inside : (e.extractLsb' 12 40).toNat * 4096 + 2 ^ (12 + 9 * (level - 1)) ≤ 2 ^ 39

/-- n levels of a walk, from a table of a level down to another table: an unpoisoned table entry at each (R328, R339). -/
def State.LeadsTo (s : State) (d : DieId) (va : Nat) (n level table last : Nat) : Prop :=
  match n with
  | 0 => table = last
  | k + 1 => s.poisonedIn (entryPlace va level table) 8 = false ∧ TableEntry (s.entryAt d (entryPlace va level table)) level ∧
      s.LeadsTo d va k (level - 1) (((s.entryAt d (entryPlace va level table)).extractLsb' 12 40).toNat * 4096) last

/-- The root of an address space: EN is 1 and its entry of the address-space table is valid and not poisoned (R336, Table D-10). -/
structure State.HasRoot (s : State) (d : DieId) (asid : BitVec 12) (root : Nat) : Prop where
  enabled : s.xlat.en = true
  good : s.poisonedIn (s.xlat.base.toNat * 4096 / 65536 * 65536 + 16 * asid.toNat) 16 = false
  entry : ∃ e, s.entryAt d (s.xlat.base.toNat * 4096 / 65536 * 65536 + 16 * asid.toNat) = e ∧ e.getLsbD 0 = true ∧
    e.extractLsb' 1 11 = 0 ∧ e.extractLsb' 52 12 = 0 ∧ root = (e.extractLsb' 12 40).toNat * 4096 ∧ root < 2 ^ 39
  rest : s.entryAt d (s.xlat.base.toNat * 4096 / 65536 * 65536 + 16 * asid.toNat + 8) = 0

/-- The kinds of access that the attributes of a leaf allow (Table D-12, R333, R334). -/
def Attrs.Allows (x : Attrs) (kind : AccessKind) : Prop :=
  match kind with
  | .fetch => x.x = true
  | .read => x.r = true
  | .wload => x.r = true ∧ x.res = true
  | .write => x.w = true ∧ x.sealed = false
  | .atomic => x.r = true ∧ x.w = true ∧ x.sealed = false

/-! ## Rows 0xA and 0xB -/

/-- Row `op`, whose gang or group-wide form acts without a member too, ends as the act a says, whenever it is ready and p holds. -/
def EndsTogether (op : Op) (i : Fields → Instr) (p : Ctx → Prop) (a : Ctx → Act) : Prop :=
  ∀ (f : Fields) (s : State) (c : Ctx), Ready op true f s c → p c → exec (i f) s = .next (c.settle (a (c.go op)))

/-- BREG names register b, which the team has and which is not idle (R206). -/
abbrev Ctx.Arrives (c : Ctx) (b : Fin 16) : Prop :=
  c.f.breg.toNat = b.val ∧ b.val < c.t.desc.barriers ∧ c.t.barriers[b].expect ≠ 0

/-- The queue of an engine takes one more operation of the instruction's class (R235). -/
abbrev Ctx.HasRoom (c : Ctx) (q : EngQueue) (n : Nat) : Prop :=
  ((c.s0.dies[c.r.die].engines.filter (fun e => e.kind.queue == q && (q == .coll || e.cls == c.f.md.extractLsb' 0 2))).length + n) ≤
    (match q with | .caravan => 256 | .sirocco => 64 | .coll => 16)

/-- Source and destination of `cpy`, and the octets of the copy (R86, R89, R238). -/
abbrev Ctx.cpySrc (c : Ctx) : DWord := c.levelAddr (dirSrcGlobal c.f.sub) c.f.sa
abbrev Ctx.cpyDst (c : Ctx) : DWord := c.levelAddr (dirDstGlobal c.f.sub) c.f.sb
abbrev Ctx.cpyOctets (c : Ctx) (b : Fin 16) : List (Fin 8) :=
  c.engineOctets (c.engineOp c.s0 (.cpy c.f.sub) (.bar b) c.cpySrc c.cpyDst c.cLevel.toNat)
/-- The checks that `cpy` passes before its barrier register (R224, R238). -/
abbrev Ctx.CpyOk (c : Ctx) : Prop :=
  c.cpySrc.toNat % 16 = 0 ∧ c.cpyDst.toNat % 16 = 0 ∧ c.cLevel.toNat % 16 = 0 ∧ (c.f.sub ≠ 2 → c.t.desc.octets ≠ 0)

/-- The two records of `xform`, and the octets of the transform. -/
abbrev Ctx.xfSrc (c : Ctx) : DWord := c.g.level64 c.f c.f.sa c.m
abbrev Ctx.xfDst (c : Ctx) : DWord := c.g.level64 c.f c.f.sb c.m
abbrev Ctx.xfKind (c : Ctx) : EngKind := .xform c.f.sub (c.f.md.extractLsb' 2 3) (if c.f.sx = .none then 0 else c.cLevel)
abbrev Ctx.xfOctets (c : Ctx) (b : Fin 16) : List (Fin 8) := c.engineOctets (c.engineOp c.s0 c.xfKind (.bar b) c.xfSrc c.xfDst 0)

/-- The operation of `xsend` in a state, and the checks that it passes (R118, R250; the alignment of its source is log entry 108). -/
abbrev Ctx.xsendOp (c : Ctx) (s : State) : EngineOp :=
  c.engineOp s (.xsend (c.f.sub == 1) (c.bLevel.extractLsb' 26 5).toFin (keyGet c.s0.dies[c.r.die].intervals c.t.key 0)) .interval
    (c.levelAddr (c.f.sub != 1) c.f.sa) (BitVec.ofNat 64 (c.bLevel.toNat % 67108864)) c.cLevel.toNat
abbrev Ctx.XsendOk (c : Ctx) : Prop :=
  c.t.inRange = true ∧ c.t.packed = false ∧ (c.levelAddr (c.f.sub != 1) c.f.sa).toNat % 16 = 0 ∧ c.bLevel.getLsbD 31 = false ∧
  c.bLevel.toNat % 67108864 % 16 = 0 ∧ c.cLevel.toNat % 16 = 0 ∧ c.bLevel.toNat % 67108864 + c.cLevel.toNat ≤ 67108864 ∧
  (c.f.sub = 1 → c.t.desc.octets ≠ 0)

/-- The checks that `wload` into bank k passes (R241, R290). -/
abbrev Ctx.WloadOk (c : Ctx) (b : Fin 16) (k : Fin 64) : Prop :=
  c.Arrives b ∧ c.bLevel.toNat = k.val ∧ c.xfSrc.toNat % 64 = 0 ∧ c.wloadFault c.xfSrc = none ∧
  (c.s0.core c.r.die c.r.core).octets[k.val / 8].owner = some c.t.uid

/-- The copies of `cpyt` are aligned, at most 32 bytes long, and have an octet where they use the scratchpad (R84, R224, R239). -/
abbrev Ctx.CpytOk (c : Ctx) : Prop :=
  (c.f.sub ≠ 2 → c.t.desc.octets ≠ 0) ∧ ∀ i : Lane, inMask c.m i = true → c.cpytLen i ≤ 32 ∧
    (c.laneAddr (dirSrcGlobal c.f.sub) c.f.sa i).toNat % 16 = 0 ∧ (c.laneAddr (dirDstGlobal c.f.sub) c.f.sb i).toNat % 16 = 0

/-- The octets that a multiply works on, that of its slot among them (R89, R260). -/
abbrev Ctx.macOctets (c : Ctx) (slot : Nat) (op : BankOp) : List (Fin 8) := Fin.ofNat 8 (slot / 4) :: SeqKind.octets (.mac op)

/-- The team of the issue has allocated octet o for compute (R83, R252). -/
abbrev Ctx.Computes (c : Ctx) (o : Nat) : Prop :=
  ∃ h : o < 8, (c.s0.core c.r.die c.r.core).octets[o].owner = some c.t.uid ∧ (c.s0.core c.r.die c.r.core).octets[o].mode = .compute

/-- Slot n of the state table holds entry e with its poison bit clear, and its octet computes (R255, R260). -/
abbrev Ctx.SlotHolds (c : Ctx) (n : Nat) (e : Entry) : Prop :=
  ∃ h : n < 32, c.Computes (n / 4) ∧ (c.s0.core c.r.die c.r.core).table[n] = ⟨some e, false⟩

/-- The bank and row of an accumulator operand. -/
def Ctx.bankOf (c : Ctx) : Fin 64 := Fin.ofNat 64 (c.f.imm.toNat % 64)

/-- An operation of one group passes the checks of R260: its target's octet and slot, its chain, ACCBANK, and its rows. -/
abbrev Ctx.Multiplies (c : Ctx) (e : Entry) (rows : List ActRow) : Prop :=
  c.Computes (c.bankOf.val / 8) ∧ c.SlotHolds c.aLevel.toNat e ∧ (∀ b ∈ e.chain, c.Computes (b.val / 8)) ∧ e.accBank = c.bankOf ∧
  (c.s0.core c.r.die c.r.core).takeRows c.r.slot e = some rows

/-- The operations that the sequencer of the core has accepted and that have not ended (R260). -/
def Core.macsHeld (k : Core) : Nat :=
  (k.seq.filter (fun x => x.accepted && match x.kind with | .mac _ => true | _ => false)).length

/-- The sequencer of the core accepts an operation as it issues: it holds fewer than 32, and none issued before still waits (R260, R265). -/
abbrev Core.TakesMac (k : Core) : Prop := (∀ x ∈ k.seq, x.accepted = true) ∧ k.macsHeld < 32

/-- The sequencer is full, or an operation issued before still waits for it (R260, R265). -/
abbrev Core.Full (k : Core) : Prop := (∃ x ∈ k.seq, x.accepted = false) ∨ 32 ≤ k.macsHeld

/-- A multiply of one group with its rows. -/
def Ctx.oneMac (c : Ctx) (e : Entry) (sparse : Bool) (rows : List ActRow) : BankOp := ⟨e, sparse, [⟨rowOf c.f.dst, rows⟩], c.t.uid⟩

/-- The rendezvous latch with the arrival of the issuing group (R264). -/
def Ctx.latchWith (c : Ctx) (w : GroupWide) : Latch :=
  ⟨c.pc, (match c.t.latch with | some l => l.arrivals | none => []) ++
    [⟨c.r.slot, c.g.gix.val, w.contrib != 0, w.slotValue, c.bankOf.val, rowOf c.f.dst, c.f.ru, c.next⟩], none⟩

/-- A group arrives at the rendezvous latch with all its named lanes there, and passes the checks of R260 (R264). -/
abbrev Ctx.Comes (c : Ctx) (w : GroupWide) (e : Entry) : Prop :=
  c.Joins (c.g.read32 c.f c.f.sx 0) (fun _ => 0) c.a32 w ∧ (∀ l : Lane, inMask w.mask l = true → inMask w.arrived l = true) ∧
  c.t.gang.getLsbD c.g.gix.val = true ∧ (∀ l, c.t.latch = some l → l.pc = c.pc) ∧ c.Computes (c.bankOf.val / 8) ∧
  c.SlotHolds w.slotValue e ∧ (∀ b ∈ e.chain, c.Computes (b.val / 8)) ∧ e.accBank = c.bankOf ∧
  (w.contrib ≠ 0 → ∃ rows, (c.s0.core c.r.die c.r.core).takeRows c.r.slot e = some rows)

/-- It does so while no group of the gang has ended (R264). -/
abbrev Ctx.Rendezvous (c : Ctx) (w : GroupWide) (e : Entry) : Prop :=
  c.Comes w e ∧ ∀ i ∈ c.gangSlots, ∃ g, c.s0.group? ⟨c.r.die, c.r.core, i⟩ = some g ∧ g.ended = false

/-- It is the last group of the gang to arrive, and all of them name one slot and one bank (R264). -/
abbrev Ctx.Completes (c : Ctx) (w : GroupWide) (e : Entry) : Prop :=
  c.Rendezvous w e ∧ (∀ i ∈ c.gangSlots, (c.latchWith w).arrivals.any (fun a => a.slot == i) = true) ∧
  ∀ a ∈ (c.latchWith w).arrivals, a.table = w.slotValue ∧ a.bank = c.bankOf.val


/-! ## Row 0xC, fetching and traps -/

/-- The group as a return from a trap leaves it (R348): the entry is gone, the window is that of the entry, and the lanes of TRMASK that
have not exited run at an address. -/
def Ctx.returned (c : Ctx) (op : Op) (x : TrapCtx) (rest : List TrapCtx) (pc : DWord) : Group :=
  let g := c.popped op
  c.timed { g with
    traps := rest
    window := x.window
    pcs := updLanes g.pcs x.info.mask (fun _ => pc)
    status := Vector.ofFn fun i => if inMask x.info.mask i = true ∧ g.status[i] ≠ .exited then .run else g.status[i]
    gw := (g.gw.map (fun w => { w with arrived := w.arrived &&& ~~~x.info.mask })).filter (fun w => w.arrived != 0) }

/-- A privileged row in a mode that may not run it (R164): in row 0xC, all but `svc` everywhere, and `tret` in trap mode and firmware. -/
abbrev Forbidden (op : Op) (mode : Mode) : Prop :=
  op.opc / 16 = 0xC ∧ op ≠ .svcTransfer ∧ op ≠ .svcIcflush ∧ mode ≠ .firmware ∧ ¬ ((op = .tret ∨ op = .tretSkip) ∧ mode = .trap)

/-- The pad of R151 does not issue. -/
abbrev padRow (op : Op) (f : Fields) : Prop := op = .nop ∧ f.sub = 7

/-- The bytes at the PC of a group's run are those of an instruction (R30, R150). -/
structure StandsAt (s : State) (r : GRef) (g : Group) (t : Team) (pc : DWord) (op : Op) (f : Fields) : Prop where
  run : g.runPc = some pc
  aligned : pc.toNat % 4 = 0
  word : ∃ pa, s.fetchPa r g t pc = .ok pa ∧
    decodeAt pc (s.fetchBits r pa (32 - pc.toNat % 32)) = .ok (Instr.ofOp op f) ∧
    s.poisonedIn pa (min (lenBytes (lenOf (s.fetchBits r pa (32 - pc.toNat % 32)))) (32 - pc.toNat % 32)) = false

/-- The instruction that the issue of a group's run comes to: its group may issue, g is that group past the pads before the instruction
(R151), and the instruction's operands are there (R30, R44). -/
structure Fetches (s : State) (r : GRef) (g0 g : Group) (t : Team) (pc : DWord) (op : Op) (f : Fields) : Prop where
  group : s.group? r = some g0
  team : s.team? r.die r.core g0.team = some t
  may : g0.mayIssue t s.now = true
  notWithheld : s.withheldFor r = false
  notSelected : (r.die, t.uid) ∉ s.pctl.todo
  powered : s.mgmt.powered = true
  past : s.fetchRun r t padRun g0 = some (g, pc, .instr (Instr.ofOp op f))
  notPad : ¬ padRow op f
  ready : g.operandsReady op f (g.runAt pc) = true

/-- The state in which the instruction at a group's PC executes: the group is past its pads, the fetch has filled the instruction cache, a
team's first instruction has acquired, and the pick has been taken (R66, R151, R152, R201, R213). -/
def State.issuing (s : State) (r : GRef) (g : Group) (t : Team) (pc : DWord) (op : Op) (f : Fields) : State :=
  { ((((s.passPads r g).fetchFill r g t pc).firstAcquire r t).takePick r g (pickGap (op, f))) with cur := some r, curPair := none }

/-- A trap goes to the handler of the address space: user mode, a handler, and nothing for firmware to do first: no breakpoint of the debugger, and
no access fault that a walk now resolves (R338, R347, R391). -/
abbrev State.Delivers (s : State) (r : GRef) (g : Group) (t : Team) (x : TrapInfo) : Prop :=
  s.group? r = some g ∧ s.team? r.die r.core g.team = some t ∧ g.mode = .user ∧ s.handler t.asid ≠ 0 ∧
  ¬ (x.cause = 0x21 ∧ (x.detail = 0x02 ∨ x.detail = 0x03 ∨ x.detail = 0x0A) ∧
    ∃ y, (s.faulted r x).walk r.die (x.asid t) (va57 x.addr) = .ok y) ∧ ¬ (x.cause = 0x0C ∧ s.dies[r.die].dbgen = true)

/-- The destination of a 32-bit or a 64-bit result names vector register n. -/
abbrev destV (f : Fields) (wide : Bool) (n : BitVec 8) : Prop := f.dst = .v n ∨ (wide = true ∧ ∃ k, f.dst = .v k ∧ n = k + 1)
/-- The same for a uniform register. -/
abbrev destU (f : Fields) (wide : Bool) (n : BitVec 10) : Prop := f.dst = .u n ∨ (wide = true ∧ ∃ k, f.dst = .u k ∧ n = k + 1)

/-- The frame of a row that leaves a result (R74 to R77, R81): only the destination is written, in member lanes alone; a queue changes
only where it is popped or pushed; everything else that a group holds stays. -/
def Ctx.Keeps (c : Ctx) (op : Op) (wide : Bool) (g : Group) : Prop :=
  (∀ (n : BitVec 8) (i : Lane), (inMask c.m i = false ∨ ¬ destV c.f wide n) → g.vreg n i = c.g.vreg n i) ∧
  (∀ n : BitVec 10, ¬ destU c.f wide n → g.ureg n = c.g.ureg n) ∧
  (∀ (n : BitVec 3) (i : Lane), (inMask c.m i = false ∨ c.f.dst ≠ .o n) → (g.o.get n.toFin)[i] = (c.g.o.get n.toFin)[i]) ∧
  (∀ (n : BitVec 3) (i : Lane), (inMask c.m i = false ∨ c.f.dst ≠ .pred n) → g.pred n i = c.g.pred n i) ∧
  (∀ n : BitVec 4, n ∉ opPops op c.f → c.f.dst ≠ .q n → g.queue n = c.g.queue n) ∧
  g.tiles = c.g.tiles ∧ g.tokens = c.g.tokens ∧ g.tags = c.g.tags ∧ g.cterr = c.g.cterr ∧ g.status = c.g.status ∧ g.budget = c.g.budget ∧
  g.lease = c.g.lease ∧ g.gw = c.g.gw ∧ g.base = c.g.base ∧ g.traps = c.g.traps ∧ g.pendingTrap = c.g.pendingTrap ∧
  g.flights = c.g.flights ∧ g.team = c.g.team ∧ g.gix = c.g.gix ∧ g.role = c.g.role ∧ g.ended = c.g.ended ∧
  (∀ i : Lane, g.pcs[i] = if inMask c.run i then c.next else c.g.pcs[i])

/-! ## Copies of the engine -/

/-- What ends a copy before anything moves, with its code (R238): its ranges overlap in one space, or the first place of a scratchpad side
that cannot be reached, the source's before the destination's. -/
abbrev State.CopyFails (s : State) (d : DieId) (op : EngineOp) (dir : BitVec 3) (e : Byte) : Prop :=
  let lap := dirSrcGlobal dir = dirDstGlobal dir ∧ overlaps op.src.toNat op.dst.toNat op.len = true
  (lap ∧ e = 0x05) ∨
  (¬ lap ∧ dirSrcGlobal dir = false ∧ s.sideFault d op op.src.toNat op.len = some e) ∨
  (¬ lap ∧ (dirSrcGlobal dir = false → s.sideFault d op op.src.toNat op.len = none) ∧ dirDstGlobal dir = false ∧
    s.sideFault d op op.dst.toNat op.len = some e)

/-- Nothing ends a copy before it moves (R238). -/
abbrev State.CopyGoes (s : State) (d : DieId) (op : EngineOp) (dir : BitVec 3) : Prop :=
  ¬ (dirSrcGlobal dir = dirDstGlobal dir ∧ overlaps op.src.toNat op.dst.toNat op.len = true) ∧
  (dirSrcGlobal dir = false → s.sideFault d op op.src.toNat op.len = none) ∧
  (dirDstGlobal dir = false → s.sideFault d op op.dst.toNat op.len = none)

/-- An operation of Caravan that goes may end: every chunk is sent, one has met an error, or it is cut short (R72, R236). -/
abbrev EngineOp.MayEnd (op : EngineOp) (ab : Option Abort) : Prop := ab ≠ none ∨ op.code ≠ 0 ∨ op.moved = true

end Sys2Proof.Machine
end

