-- ==== Sys2Proof/Certificates/Slice0/Obligations.lean ====
section
/-! DEFINITION. The statements for the provers. Each docstring gives the tier and the rules of the spec that it formalises. -/

open Sys2Proof Sys2Proof.Machine


/-! ## Encoding (spec 06) -/

/-- Tier 3. Decode and encode agree: the word written for a well-formed instruction of a row with an encoding decodes to that
instruction, with every operand, modifier and immediate. Formalises the field layouts of R153 to R160. -/
def Obligations.DecodeOfEncode : Prop :=
  ∀ (op : Op) (f : Fields), (Instr.ofOp op f).wf = true → decodeWord (encodeFields op.opc f) = .ok (Instr.ofOp op f)

/-- Tier 2. No bit of an encoding is dropped: a word that decodes is, within the length it gives itself, the word of the instruction
it decodes to. -/
def Obligations.EncodeOfDecode : Prop :=
  ∀ (w : BitVec 128) (len : Len) (i : Instr), lenOf w = some len → decodeWord w = .ok i →
    ∃ x : BitVec 128, encode i = some x ∧ x.toNat = w.toNat % 2 ^ (8 * len.bytes)

/-- Tier 2. The decoder accepts nothing that the checks of Table K-37 refuse: what it answers is well-formed; an opcode to which Table K-36
gives no row is refused with OPCODE, and one given a length it does not take with FORM (R163, R165). -/
def Obligations.DecoderChecks : Prop :=
  (∀ (w : BitVec 128) (i : Instr), decodeWord w = .ok i → i.wf = true) ∧
  (∀ (w : BitVec 128) (len : Len), lenOf w = some len →
    (opcAssigned (w.extractLsb' 2 8).toNat = false → decodeWord w = .error .opcode) ∧
    (opcAssigned (w.extractLsb' 2 8).toNat = true → opcTakes (w.extractLsb' 2 8).toNat len = false → decodeWord w = .error .form))

/-- Tier 1. Words written out from the encodings of the spec decode to the instructions they stand for. -/
def Obligations.SpecWordsDecode : Prop :=
  (∃ f, decodeWord 0x7FFFFFFFFFF85D98 = .ok (.tkjoin f) ∧ f.sub = 1) ∧
  (∃ f, decodeWord 0x7FF012023FFA1C88 = .ok (.fmul f) ∧ f.nw = true ∧ f.sa = .v 8 ∧ f.sb = .v 9 ∧ f.dst = .none) ∧
  (∃ f, decodeWord 0x7FFFFF0500501DEC = .ok (.route f) ∧ f.dst = .v 10 ∧ f.sa = .u 20 ∧ f.sb = .none) ∧
  (∃ f, decodeWord 0x7FFFFFFFFFF85F00 = .ok (.tretSkip f) ∧ f.guard = 7) ∧
  (∃ f, decodeWord 0x0407FF0000000029007FFE814C181ECE = .ok (.bmac f) ∧ f.dst = .acc 3 ∧ f.ru = true ∧ f.imm = 41)

/-! ## Rows 0x0 to 0x4 (spec 07) -/

/-- Tier 1. Row 0x0 computes the exact integer result of Table K-39 and reduces it (R169), forms dot products (R170), compares and
selects (R171). -/
def Obligations.IntegerResults : Prop :=
  Leaves32 .iadd .iadd (fun c i => c.reduce (c.intOf c.f.sa i + c.intOf c.f.sb i)) ∧
  Leaves32 .isub .isub (fun c i => c.reduce (c.intOf c.f.sa i - c.intOf c.f.sb i)) ∧
  Leaves32 .imul .imul (fun c i => c.a32 i * c.b32 i) ∧
  Leaves32 .imulh .imulh (fun c i => (BitVec.ofInt 64 (c.intOf c.f.sa i * c.intOf c.f.sb i)).extractLsb' 32 32) ∧
  Leaves32 .imad .imad (fun c i => c.a32 i * c.b32 i + c.c32 i) ∧
  Leaves64 .imadw .imadw (fun c i => BitVec.ofInt 64 (c.intOf c.f.sa i * c.intOf c.f.sb i) + c.c64 i) ∧
  Leaves32 .imin .imin (fun c i => if c.intOf c.f.sa i ≤ c.intOf c.f.sb i then c.a32 i else c.b32 i) ∧
  Leaves32 .imax .imax (fun c i => if c.intOf c.f.sa i ≤ c.intOf c.f.sb i then c.b32 i else c.a32 i) ∧
  (∀ f s c, f.md = 0 → Ready .iabs false f s c →
    exec (.iabs f) s = .next (c.after32 .iabs (fun i =>
      if c.a32 i = 0x80000000 then (if f.sub.getLsbD 0 then 0x7FFFFFFF else 0x80000000)
      else if (c.a32 i).msb then -c.a32 i else c.a32 i))) ∧
  Leaves64 .iaddx .iaddx (fun c i =>
    if c.f.sub.getLsbD 0 then c.a64 i - c.b64 i - BitVec.ofInt 64 (c.intOf c.f.sx i)
    else c.a64 i + c.b64 i + BitVec.ofInt 64 (c.intOf c.f.sx i)) ∧
  Leaves64 .lea .lea (fun c i => c.a64 i + (BitVec.ofInt 64 (c.intOf c.f.sb i) <<< ((c.c32 i).extractLsb' 0 6).toNat)) ∧
  Leaves32 .iclamp .iclamp (fun c i =>
    let x := max (c.intOf c.f.sa i) (c.intOf c.f.sb i)
    BitVec.ofInt 32 (if c.intOf c.f.sx i < x then c.intOf c.f.sx i else x)) ∧
  Leaves32 .icmp .icmp (fun c i =>
    let a := c.intOf c.f.sa i
    let b := c.intOf c.f.sb i
    if (c.f.sub = 0 ∧ a = b) ∨ (c.f.sub = 1 ∧ a ≠ b) ∨ (c.f.sub = 2 ∧ a < b) ∨ (c.f.sub = 3 ∧ a ≤ b) ∨ (c.f.sub = 4 ∧ b < a)
      ∨ (5 ≤ c.f.sub.toNat ∧ b ≤ a) then 1 else 0) ∧
  LeavesMod .isel .isel (fun c i => if c.c32 i = 0 then c.bitsOf c.f.sb i else c.bitsOf c.f.sa i) ∧
  Leaves32 .idot4 .idot4 (fun c i =>
    let el := fun (u : Bool) (x : Word) (k : Nat) => if u then ((x.extractLsb' (8 * k) 8).toNat : Int) else (x.extractLsb' (8 * k) 8).toInt
    let ua := c.f.md.getLsbD 0
    let ub := c.f.md.getLsbD 1
    let x := (if ua && ub then ((c.c32 i).toNat : Int) else (c.c32 i).toInt)
      + el ua (c.a32 i) 0 * el ub (c.b32 i) 0 + el ua (c.a32 i) 1 * el ub (c.b32 i) 1
      + el ua (c.a32 i) 2 * el ub (c.b32 i) 2 + el ua (c.a32 i) 3 * el ub (c.b32 i) 3
    BitVec.ofInt 32 (if c.f.sub.getLsbD 0 then
      (if ua && ub then max 0 (min (2 ^ 32 - 1) x) else max (-2 ^ 31) (min (2 ^ 31 - 1) x)) else x)) ∧
  Leaves32 .idot2 .idot2 (fun c i =>
    let el := fun (u : Bool) (x : Word) (k : Nat) =>
      if u then ((x.extractLsb' (16 * k) 16).toNat : Int) else (x.extractLsb' (16 * k) 16).toInt
    let ua := c.f.md.getLsbD 0
    let ub := c.f.md.getLsbD 1
    let x := (if ua && ub then ((c.c32 i).toNat : Int) else (c.c32 i).toInt)
      + el ua (c.a32 i) 0 * el ub (c.b32 i) 0 + el ua (c.a32 i) 1 * el ub (c.b32 i) 1
    BitVec.ofInt 32 (if c.f.sub.getLsbD 0 then
      (if ua && ub then max 0 (min (2 ^ 32 - 1) x) else max (-2 ^ 31) (min (2 ^ 31 - 1) x)) else x))

/-- Tier 1. Row 0x1 acts on the raw bits of its operands as Table K-40, R173 and R174 say. -/
def Obligations.BitResults : Prop :=
  LeavesMod .and .and (fun c i => c.bitsOf c.f.sa i &&& c.bitsOf c.f.sb i) ∧
  LeavesMod .or .or (fun c i => c.bitsOf c.f.sa i ||| c.bitsOf c.f.sb i) ∧
  LeavesMod .xor .xor (fun c i => c.bitsOf c.f.sa i ^^^ c.bitsOf c.f.sb i) ∧
  LeavesMod .andn .andn (fun c i => c.bitsOf c.f.sa i &&& ~~~(c.bitsOf c.f.sb i)) ∧
  LeavesMod .not .not (fun c i => ~~~(c.bitsOf c.f.sa i)) ∧
  LeavesMod .shl .shl (fun c i => if c.f.md = 0x0B then c.a64 i <<< (c.b32 i).toNat else (c.a32 i <<< (c.b32 i).toNat).setWidth 64) ∧
  LeavesMod .shr .shr (fun c i => if c.f.md = 0x0B then c.a64 i >>> (c.b32 i).toNat else (c.a32 i >>> (c.b32 i).toNat).setWidth 64) ∧
  LeavesMod .sar .sar (fun c i =>
    if c.f.md = 0x0B then (c.a64 i).sshiftRight (c.b32 i).toNat else ((c.a32 i).sshiftRight (c.b32 i).toNat).setWidth 64) ∧
  Leaves32 .shf .shf (fun c i =>
    if c.f.sub.getLsbD 0 then ((c.b32 i ++ c.a32 i) <<< ((c.c32 i).toNat % 64)).extractLsb' 32 32
    else ((c.b32 i ++ c.a32 i) >>> ((c.c32 i).toNat % 64)).extractLsb' 0 32) ∧
  Leaves32 .bfext .bfext (fun c i =>
    let l := min (c.c32 i).toNat 32
    let bit := fun (k : Nat) => if k < 32 then (c.a32 i).getLsbD k else (c.f.md = 0 && (c.a32 i).getLsbD 31)
    BitVec.ofFnLE (n := 32) (fun j => l ≠ 0 && (if j.val < l then bit ((c.b32 i).toNat + j.val)
      else (c.f.md = 0 && bit ((c.b32 i).toNat + l - 1))))) ∧
  Leaves32 .bfins .bfins (fun c i =>
    let p := ((c.c32 i).extractLsb' 0 8).toNat
    let l := min ((c.c32 i).extractLsb' 8 8).toNat 32
    BitVec.ofFnLE (n := 32) (fun j => if p ≤ j.val ∧ j.val < p + l then (c.b32 i).getLsbD (j.val - p) else (c.a32 i).getLsbD j.val)) ∧
  Leaves32 .popc .popc (fun c i => BitVec.ofNat 32 ((List.range 64).filter (c.bitsOf c.f.sa i).getLsbD).length) ∧
  (∀ f s c, Ready .clz false f s c → ∃ x : Lane → Word, exec (.clz f) s = .next (c.after32 .clz x) ∧
    ∀ i, (x i).toNat ≤ c.width ∧ (∀ j, j < (x i).toNat → (c.bitsOf f.sa i).getLsbD (c.width - 1 - j) = false) ∧
      ((x i).toNat < c.width → (c.bitsOf f.sa i).getLsbD (c.width - 1 - (x i).toNat) = true)) ∧
  (∀ f s c, Ready .ctz false f s c → ∃ x : Lane → Word, exec (.ctz f) s = .next (c.after32 .ctz x) ∧
    ∀ i, (x i).toNat ≤ c.width ∧ (∀ j, j < (x i).toNat → (c.bitsOf f.sa i).getLsbD j = false) ∧
      ((x i).toNat < c.width → (c.bitsOf f.sa i).getLsbD (x i).toNat = true)) ∧
  LeavesMod .brev .brev (fun c i =>
    if c.f.md = 0x0B then BitVec.ofFnLE (n := 64) (fun j => (c.a64 i).getLsbD (63 - j.val))
    else (BitVec.ofFnLE (n := 32) (fun j => (c.a32 i).getLsbD (31 - j.val))).setWidth 64) ∧
  (∀ f s c, Ready .prmt false f s c → ∃ x : Lane → Word, exec (.prmt f) s = .next (c.after32 .prmt x) ∧
    ∀ (i : Lane) (k : Nat), k < 4 →
      let byte : Byte := (c.b32 i ++ c.a32 i).extractLsb' (8 * ((c.c32 i).extractLsb' (4 * k) 3).toNat) 8
      (x i).extractLsb' (8 * k) 8 = if (c.c32 i).getLsbD (4 * k + 3) then (if byte.msb then 0xFF else 0) else byte)

/-- Tier 2. Rows 0x2 and 0x3: each result is the exact value of Tables K-41 to K-43 rounded once, with its flags; rounding a finite value gives
the code that Table K-25 says, to nearest with ties to even, towards zero, up or down, with OF, UF and NX as R129 says, and sums and products are exact;
under FPTRAP a trapping flag raises the arithmetic trap with nothing written (R123, R127 to R129, R167, R175 to R179). That the queues keep their
entries under that trap, how far the special functions are exact, and the operands that a row leaves out read as zero are the model's (log entries 91, 14
and 68). -/
def Obligations.FloatResults : Prop :=
  (∀ f ∈ floatFmts, f.Rounding) ∧
  (∀ (f : Fmt), f ∈ floatFmts → ∀ (c : Nat), c ≤ f.maxCode → f.rat c =
    (if c < 2 ^ f.mbits then (c : ℚ) * 2 ^ (1 - (f.bias : Int) - f.mbits)
     else ((2 : ℚ) ^ f.mbits + ((c % 2 ^ f.mbits : Nat) : ℚ)) * 2 ^ (((c / 2 ^ f.mbits : Nat) : Int) - f.bias - f.mbits)) ∧
    f.rat (f.signed true c) = -f.rat c) ∧
  (∀ (a b : Bool) (m n : Nat) (e g : Int) (mode : Nat),
    let x := Fx.num a m e false
    let y := Fx.num b n g false
    (x.mul y).rat = x.rat * y.rat ∧ (Fx.add mode x y).rat = x.rat + y.rat ∧
    (∀ (z : Bool) (k : Nat) (h : Int), (Fx.fma mode x y (.num z k h false)).rat = x.rat * y.rat + (Fx.num z k h false).rat)) ∧
  (∀ (mode : Nat) (x : Fx), f32Out mode false x = (BitVec.ofNat 32 (fmtF32.round x mode 0 32).1, (fmtF32.round x mode 0 32).2) ∧
    f32Out mode true x = (let w : Word := BitVec.ofNat 32 (fmtF32.round x mode 0 32).1
      if w.extractLsb' 23 8 = 0 ∧ w.extractLsb' 0 23 ≠ 0 then (w &&& 0x80000000, (fmtF32.round x mode 0 32).2 ||| flUF ||| flNX)
      else (w, (fmtF32.round x mode 0 32).2))) ∧
  LeavesFp .fadd .fadd (fun c i => f32Out c.mode c.ftz (Fx.add c.mode (c.aF i) (c.bF i))) ∧
  LeavesFp .fsub .fsub (fun c i => f32Out c.mode c.ftz (Fx.add c.mode (c.aF i) (c.bF i).neg)) ∧
  LeavesFp .fmul .fmul (fun c i => f32Out c.mode c.ftz ((c.aF i).mul (c.bF i))) ∧
  LeavesFp .ffma .ffma (fun c i => f32Out c.mode c.ftz (Fx.fma c.mode (c.aF i) (c.bF i) (c.cF i))) ∧
  LeavesFp .fmin .fmin (fun c i => fMinMax true c.ftz (c.a32 i) (c.b32 i)) ∧
  LeavesFp .fmax .fmax (fun c i => fMinMax false c.ftz (c.a32 i) (c.b32 i)) ∧
  LeavesFp .fcmp .fcmp (fun c i => (if (floatCond c.f.sub (c.aF i) (c.bF i)).1 then 1 else 0, (floatCond c.f.sub (c.aF i) (c.bF i)).2)) ∧
  Leaves32 .fclass .fclass (fun c i =>
    let x := c.a32 i
    let e := (x.extractLsb' 23 8).toNat
    let m := (x.extractLsb' 0 23).toNat
    let bit : Nat := if e = 255 then (if m = 0 then (if x.msb then 0 else 7) else if x.getLsbD 22 then 9 else 8)
      else if e = 0 then (if m = 0 then (if x.msb then 3 else 4) else if x.msb then 2 else 5)
      else if x.msb then 1 else 6
    1#32 <<< bit) ∧
  LeavesFp .frnd .frnd (fun c i => roundIntegral c.mode c.ftz (c.a32 i)) ∧
  LeavesFp .fscale .fscale (fun c i => f32Out c.mode c.ftz ((c.aF i).scale (c.b32 i).toInt)) ∧
  LeavesFp .fdot2 .fdot2 (fun c i => f32Out c.mode c.ftz (sumFx c.mode false
    [(c.elem (c.a32 i) 0).mul (c.elem (c.b32 i) 0), (c.elem (c.a32 i) 1).mul (c.elem (c.b32 i) 1), c.cF i])) ∧
  LeavesFp .hfma2 .hfma2 (fun c i => c.halves (fun e => Fx.fma c.mode (c.elem (c.a32 i) e) (c.elem (c.b32 i) e) (c.elem (c.c32 i) e))) ∧
  LeavesFp .hadd2 .hadd2 (fun c i => c.halves (fun e => Fx.add c.mode (c.elem (c.a32 i) e) (c.elem (c.b32 i) e))) ∧
  LeavesFp .hmul2 .hmul2 (fun c i => c.halves (fun e => (c.elem (c.a32 i) e).mul (c.elem (c.b32 i) e))) ∧
  LeavesFp .frcp .frcp (fun c i => special c.ftz (Fx.div (.num false 1 0 false) (c.aF i))) ∧
  LeavesFp .frsq .frsq (fun c i => special c.ftz (c.aF i).rsqrt) ∧
  LeavesFp .fsqrt .fsqrt (fun c i => f32Out c.mode c.ftz (c.aF i).sqrt) ∧
  LeavesFp .fexp2 .fexp2 (fun c i => special c.ftz (c.aF i).exp2) ∧
  LeavesFp .flog2 .flog2 (fun c i => special c.ftz (c.aF i).log2) ∧
  LeavesFp .fsin .fsin (fun c i => special c.ftz ((c.aF i).sincos false)) ∧
  LeavesFp .fcos .fcos (fun c i => special c.ftz ((c.aF i).sincos true)) ∧
  LeavesFp .ftanh .ftanh (fun c i => special c.ftz (c.aF i).tanh) ∧
  LeavesFp .fdiv .fdiv (fun c i =>
    let q := Fx.div (c.aF i) (c.bF i)
    ((f32Out c.mode c.ftz q.1).1, (f32Out c.mode c.ftz q.1).2 ||| q.2))

/-- Tier 2. Row 0x4: moves, conversions, packing and the MX formats. A conversion to an integer rounds as Table K-25 says and saturates with NV,
one to a floating format rounds into it, and one that widens is exact; `mxq` scales its block by the floor of log2 of the largest magnitude less emax,
and gives each element the code nearest to the quotient (R123, R128, R129, R132, R180 to R185). What a floating row leaves under the arithmetic trap and the
lanes that `movs` names outside the run are the model's (log entries 91 and 63). -/
def Obligations.MoveResults : Prop :=
  (∀ p ∈ ([(0x02, -2147483648, 2147483647), (0x03, 0, 4294967295), (0x0E, -32768, 32767), (0x0F, 0, 65535), (0x10, -128, 127), (0x11, 0, 255)] :
      List (BitVec 5 × Int × Int)), ∀ (mode : Nat) (a rnd : Word), mode ≤ 3 → (a.extractLsb' 23 8 ≠ 0xFF) →
    ∃ z : Int, RoundsInt mode (fmtF32.rat a.toNat) z ∧ (cvtOf p.1 mode a rnd).1 = BitVec.ofInt 32 (max p.2.1 (min p.2.2 z)) ∧
      (cvtOf p.1 mode a rnd).2 = (if z < p.2.1 ∨ p.2.2 < z then flNV else if (z : ℚ) ≠ fmtF32.rat a.toNat then flNX else 0)) ∧
  (∀ p ∈ ([(0x12, -128, 127), (0x13, 0, 255), (0x14, -32768, 32767), (0x15, 0, 65535)] : List (BitVec 5 × Int × Int)),
    ∀ (mode : Nat) (a rnd : Word), cvtOf p.1 mode a rnd =
      (BitVec.ofInt 32 (max p.2.1 (min p.2.2 a.toInt)), if a.toInt < p.2.1 ∨ p.2.2 < a.toInt then flNV else 0)) ∧
  (∀ p ∈ ([(0x04, fmtF16), (0x05, fmtBF16), (0x06, fmtE4M3), (0x07, fmtE5M2), (0x08, fmtE2M1)] : List (BitVec 5 × Fmt)),
    ∀ (mode : Nat) (a rnd : Word), cvtOf p.1 mode a rnd = (BitVec.ofNat 32 (p.2.round (fmtF32.value a.toNat) mode rnd.toNat 32).1,
      (p.2.round (fmtF32.value a.toNat) mode rnd.toNat 32).2)) ∧
  (∀ (mode : Nat) (a rnd : Word),
    cvtOf 0x00 mode a rnd = (BitVec.ofNat 32 (fmtF32.round (Fx.ofInt a.toInt) mode rnd.toNat 32).1,
      (fmtF32.round (Fx.ofInt a.toInt) mode rnd.toNat 32).2) ∧
    cvtOf 0x01 mode a rnd = (BitVec.ofNat 32 (fmtF32.round (Fx.ofInt a.toNat) mode rnd.toNat 32).1,
      (fmtF32.round (Fx.ofInt a.toNat) mode rnd.toNat 32).2)) ∧
  (∀ p ∈ ([(0x09, fmtF16), (0x0A, fmtBF16), (0x0B, fmtE4M3), (0x0C, fmtE5M2), (0x0D, fmtE2M1)] : List (BitVec 5 × Fmt)),
    ∀ (mode : Nat) (a rnd : Word), mode ≤ 4 → a.toNat % 2 ^ (p.2.width - 1) ≤ p.2.maxCode →
      fmtF32.rat (cvtOf p.1 mode a rnd).1.toNat = p.2.rat a.toNat ∧ (cvtOf p.1 mode a rnd).2 = 0) ∧
  (∀ (i8 : Bool) (v : Lane → Fx) (rnd : List Nat), rnd.length = 32 → (∀ i : Lane, ∃ n m e, v i = .num n m e false) →
    ∃ X : Int, -127 ≤ X ∧ X ≤ 127 ∧ (mxQuantise i8 (allLanes.map v) 0 rnd).2.1 = BitVec.ofInt 8 (X + 127) ∧
      ((∀ i : Lane, (v i).rat = 0) → X = 0) ∧
      (∀ k : Lane, (v k).rat ≠ 0 → (∀ i : Lane, |(v i).rat| ≤ |(v k).rat|) →
        (-127 < X → (2 : ℚ) ^ (X + (if i8 then 0 else 2)) ≤ |(v k).rat|) ∧ (X < 127 → |(v k).rat| < (2 : ℚ) ^ (X + (if i8 then 1 else 3)))) ∧
      ∀ i : Lane, ∃ q, (mxQuantise i8 (allLanes.map v) 0 rnd).1[i.val]? = some q ∧
        (i8 = false → q < 16 ∧ ∀ c : Nat, c < 16 → |(v i).rat / 2 ^ X - fmtE2M1.rat q| ≤ |(v i).rat / 2 ^ X - fmtE2M1.rat c|) ∧
        (i8 = true → q < 256 ∧ ∀ c : Nat, c < 256 →
          |(v i).rat / 2 ^ (X - 6) - (BitVec.ofNat 8 q).toInt| ≤ |(v i).rat / 2 ^ (X - 6) - (BitVec.ofNat 8 c).toInt|)) ∧
  (∀ (i8 : Bool) (xs : List Fx) (mode : Nat) (rnd : List Nat), (∃ x ∈ xs, x.isNan = true ∨ x.isInf = true) →
    mxQuantise i8 xs mode rnd = (xs.map (fun _ => 0), 0xFF, flNV)) ∧
  (∀ (c : Ctx) (e : Nat), c.f.sx = .none → c.mxBlock e = mxQuantise (c.f.md.getLsbD 4) (allLanes.map (c.mxValue e)) (c.f.md.toNat % 8)
    (allLanes.map (fun i => if inMask c.m i = true then
      (if c.f.sb = .none then 0 else ((c.b32 i).extractLsb' (16 * e) 16).toNat) else 0))) ∧
  (∀ (c : Ctx) (e : Nat), c.f.sx ≠ .none → c.mxBlock e = mxFixed (c.f.md.getLsbD 4) (allLanes.map (c.mxValue e))
    (c.cLevel.extractLsb' (8 * e) 8) (c.f.md.toNat % 8) (allLanes.map (fun i => if inMask c.m i = true then
      (if c.f.sb = .none then 0 else ((c.b32 i).extractLsb' (16 * e) 16).toNat) else 0))) ∧
  LeavesMod .mov .mov (fun c i => c.bitsOf c.f.sa i) ∧
  LeavesMod .movi .movi (fun c _ => c.f.imm.signExtend 64) ∧
  (∀ f s c, f.sb ≠ .none → Ready .movs false f s c →
    exec (.movs f) s = .next (c.afterMod .movs (fun i => c.bitsOf f.sa (Fin.ofNat 32 (c.b32 i).toNat)))) ∧
  (∀ f s c k, f.sb = .none → lowest c.m = some k → Ready .movs false f s c →
    exec (.movs f) s = .next (c.afterMod .movs (fun _ => c.bitsOf f.sa k))) ∧
  LeavesFp .cvt .cvt (fun c i => cvtOf c.f.md c.f.sub.toNat (c.a32 i) (if c.f.sub = 4 then c.b32 i else 0)) ∧
  LeavesFp .cvtq .cvtq (fun c i => cvtqPack (cvtqFmt c.f.sub) c.mode c.ftz (c.c32 i) (c.cvtqWords c.f.sa i ++ c.cvtqWords c.f.sb i)) ∧
  Leaves32 .pack .pack (fun c i =>
    let sat := fun (x : Word) =>
      let bits := if c.f.md.getLsbD 1 then 8 else 16
      let v : Int := if c.f.md.getLsbD 0 then (x.toNat : Int) else x.toInt
      let lo : Int := if c.f.md.getLsbD 0 then 0 else -2 ^ (bits - 1)
      let hi : Int := if c.f.md.getLsbD 0 then 2 ^ bits - 1 else 2 ^ (bits - 1) - 1
      (BitVec.ofInt 32 (max lo (min hi v))) &&& BitVec.ofNat 32 (2 ^ bits - 1)
    if c.f.md.getLsbD 1 then sat (c.a32 i) ||| (sat (c.b32 i) <<< 8) ||| (c.c32 i <<< 16)
    else sat (c.a32 i) ||| (sat (c.b32 i) <<< 16)) ∧
  Leaves32 .unpack .unpack (fun c i =>
    if c.f.md.getLsbD 1 then
      let x : Byte := (c.a32 i).extractLsb' (8 * ((c.b32 i).toNat % 4)) 8
      if c.f.md.getLsbD 0 then x.setWidth 32 else x.signExtend 32
    else
      let x : BitVec 16 := (c.a32 i).extractLsb' (16 * ((c.b32 i).toNat % 2)) 16
      if c.f.md.getLsbD 0 then x.setWidth 32 else x.signExtend 32) ∧
  LeavesFp .mxq .mxq (fun c i =>
    let b0 := c.mxBlock 0
    let b1 := c.mxBlock 1
    if c.f.sub = 0 then (BitVec.ofNat 32 (b0.1[i.val]?.getD 0) ||| (b0.2.1.setWidth 32 <<< 16), b0.2.2)
    else (BitVec.ofNat 32 (b0.1[i.val]?.getD 0) ||| (BitVec.ofNat 32 (b1.1[i.val]?.getD 0) <<< (if c.f.md.getLsbD 4 then 8 else 4)) |||
      (b0.2.1.setWidth 32 <<< 16) ||| (b1.2.1.setWidth 32 <<< 24), b0.2.2 ||| b1.2.2)) ∧
  LeavesFp .mxdq .mxdq (fun c i =>
    let e := if c.f.sub.getLsbD 0 then 1 else 0
    mxDecode (c.f.md.getLsbD 4) e (c.a32 i) (if c.f.sb = .none then (c.a32 i).extractLsb' (8 * e + 16) 8 else (c.b32 i).setWidth 8))

/-! ## System registers and row 0x5 (spec 07 and 08) -/

/-- Tier 1. `rdsr` gives each member lane the value of the register that SA names (Tables K-2, K-7, K-26, K-45, K-51, K-59, K-67, K-70, D-4):
the trap information in trap mode alone, the spawn context to the dispatcher alone, the firmware registers to firmware alone. `wrsr` writes FPSTAT of
each member lane, the spawn context with the value of the lowest member lane, and the debug enable, and clears an error register when a
member lane writes 1 to VALID; a read-only register, and one that does not exist, traps (R186, R11, R64, R212, R237, R289). Which mode reads the trap
registers, and whose value a write of a register without lanes takes, are the readings of log entries 58 and 59. -/
def Obligations.SystemRegisters : Prop :=
  ((∀ f s c x, Ready .rdsr false f s c → c.readSr c.srNumber = .value x → exec (.rdsr f) s = .next (c.after32 .rdsr x)) ∧
  (∀ c : Ctx,
    c.readSr 0x000 = .value (fun i => BitVec.ofNat 32 i.val) ∧
    c.readSr 0x001 = .value (fun _ => BitVec.ofNat 32 c.g.gix.val) ∧
    c.readSr 0x002 = .value (fun _ => BitVec.ofNat 32 c.t.slots.length) ∧
    c.readSr 0x003 = .value (fun _ => match c.g.role with | .consumer => 0 | .producer => 1 | .dispatcher => 2) ∧
    c.readSr 0x004 = .value (fun _ => c.t.teamIx) ∧
    c.readSr 0x005 = .value (fun _ => c.t.nteam) ∧
    c.readSr 0x006 = .value (fun _ => BitVec.ofNat 32 c.r.core.val) ∧
    c.readSr 0x007 = .value (fun _ => BitVec.ofNat 32 c.r.die.val) ∧
    c.readSr 0x008 = .value (fun _ => BitVec.ofNat 32 c.t.desc.prio.val) ∧
    c.readSr 0x009 = .value (fun _ => c.t.grid.extractLsb' 0 32) ∧
    c.readSr 0x00A = .value (fun _ => c.t.grid.extractLsb' 32 32) ∧
    c.readSr 0x00B = .value (fun _ => c.t.desc.args.extractLsb' 0 32) ∧
    c.readSr 0x00C = .value (fun _ => c.t.desc.args.extractLsb' 32 32) ∧
    (c.t.dispatcher = true → c.readSr 0x010 = .value (fun _ => 0)) ∧
    (c.t.dispatcher = false → c.readSr 0x010 = .value (fun _ => BitVec.ofNat 32 (c.g.lease.units + (if c.g.lease.measured then 256 else 0)))) ∧
    c.readSr 0x011 = .value (fun _ => BitVec.ofNat 32 (c.s0.core c.r.die c.r.core).adm.feff) ∧
    c.readSr 0x012 = .value (fun _ => c.g.lease.lost) ∧
    c.readSr 0x020 = .value (fun i => (c.g.fpstat[i]).setWidth 32 ||| (if c.t.desc.fptrap then 0x100 else 0)) ∧
    (c.t.dispatcher = true →
      c.readSr 0x030 = .value (fun _ => c.s0.dies[c.r.die].disp.gridLo) ∧ c.readSr 0x031 = .value (fun _ => c.s0.dies[c.r.die].disp.gridHi) ∧
      c.readSr 0x032 = .value (fun _ => c.s0.dies[c.r.die].disp.nteam) ∧ c.readSr 0x033 = .value (fun _ => c.s0.dies[c.r.die].disp.dieCnt) ∧
      c.readSr 0x034 = .value (fun _ => c.s0.dies[c.r.die].disp.spasidWord)) ∧
    (∀ b : Fin 16, c.readSr (0x040 + b.val) = .value (fun _ => c.t.berr[b])) ∧
    (∀ t : Fin 8, c.readSr (0x050 + t.val) = .value (fun _ => c.g.cterr[t])) ∧
    c.readSr 0x058 = .value (fun _ => (Config.xwinVa c.r.die).extractLsb' 0 32) ∧
    c.readSr 0x059 = .value (fun _ => (((Config.xwinVa c.r.die).extractLsb' 32 25).setWidth 32)) ∧
    c.readSr 0x05A = .value (fun _ => match c.s0.dies[c.r.die].xerr.find? (fun y => y.1 == c.t.key) with | some y => y.2 | none => 0) ∧
    c.readSr 0x060 = .value (fun _ => (c.s0.dies[c.r.die].replicas.version).setWidth 32) ∧
    c.readSr 0x061 = .value (fun _ => c.s0.dies[c.r.die].redir) ∧
    c.readSr 0x062 = .value (fun _ => c.s0.dies[c.r.die].dropped) ∧
    (∀ x rest, c.g.traps = x :: rest → x.mode = .trap →
      c.readSr 0x070 = .value (fun _ => 0#16 ++ x.info.detail ++ x.info.cause) ∧
      c.readSr 0x071 = .value (fun _ => x.info.mask) ∧
      c.readSr 0x072 = .value (fun _ => x.info.pc.extractLsb' 0 32) ∧
      c.readSr 0x073 = .value (fun _ => (x.info.pc.extractLsb' 32 25).setWidth 32) ∧
      c.readSr 0x074 = .value (fun _ => x.info.addr.extractLsb' 0 32) ∧
      c.readSr 0x075 = .value (fun _ => (x.info.addr.extractLsb' 32 25).setWidth 32) ∧
      c.readSr 0x076 = .value (fun _ => x.info.info)) ∧
    (c.g.mode = .firmware → c.readSr 0x800 = .value (fun _ => if c.s0.dies[c.r.die].dbgen then 1 else 0))) ∧
  Raises .rdsr false .rdsr (fun c => srAbsent c.srNumber ∨ 0xFFF < c.srNumber) 0x02 0 (fun _ => 0) (fun _ => 0) ∧
  Raises .rdsr false .rdsr (fun c => 0x070 ≤ c.srNumber ∧ c.srNumber ≤ 0x076 ∧ ∀ x rest, c.g.traps = x :: rest → x.mode ≠ .trap) 0x02 0
    (fun _ => 0) (fun _ => 0) ∧
  Raises .rdsr false .rdsr (fun c => 0x800 < c.srNumber ∧ c.srNumber ≤ 0xFFF ∧ c.g.mode = .firmware) 0x02 0 (fun _ => 0) (fun _ => 0) ∧
  Raises .rdsr false .rdsr (fun c => 0x800 ≤ c.srNumber ∧ c.srNumber ≤ 0xFFF ∧ c.g.mode ≠ .firmware) 0x03 0 (fun _ => 0) (fun _ => 0) ∧
  Raises .rdsr false .rdsr (fun c => 0x030 ≤ c.srNumber ∧ c.srNumber ≤ 0x034 ∧ c.t.dispatcher = false) 0x04 0 (fun _ => 0) (fun _ => 0)) ∧
  (Changes .wrsr .wrsr (fun c => c.srNumber = 0x020) (fun c =>
    { c.popped .wrsr with fpstat := updLanes c.g.fpstat c.m (fun i => (c.b32 i).setWidth 5) }) ∧
  Alters .wrsr .wrsr (fun c => c.srNumber = 0x030 ∧ c.t.dispatcher = true)
    (fun c s => s.modDie c.r.die (fun x => { x with disp := { x.disp with gridLo := c.bLevel } })) ∧
  Alters .wrsr .wrsr (fun c => c.srNumber = 0x031 ∧ c.t.dispatcher = true)
    (fun c s => s.modDie c.r.die (fun x => { x with disp := { x.disp with gridHi := c.bLevel } })) ∧
  Alters .wrsr .wrsr (fun c => c.srNumber = 0x032 ∧ c.t.dispatcher = true)
    (fun c s => s.modDie c.r.die (fun x => { x with disp := { x.disp with nteam := c.bLevel } })) ∧
  Alters .wrsr .wrsr (fun c => c.srNumber = 0x033 ∧ c.t.dispatcher = true)
    (fun c s => s.modDie c.r.die (fun x => { x with disp := { x.disp with dieCnt := c.bLevel } })) ∧
  (∀ b : Fin 16, Alters .wrsr .wrsr (fun c => c.srNumber = 0x040 + b.val ∧ c.writesValid)
    (fun c s => s.modTeam c.r.die c.r.core c.t.uid (fun t => { t with berr := t.berr.set b 0 }))) ∧
  (∀ n : Fin 8, Changes .wrsr .wrsr (fun c => c.srNumber = 0x050 + n.val ∧ c.writesValid)
    (fun c => { c.popped .wrsr with cterr := c.g.cterr.set n 0 })) ∧
  Alters .wrsr .wrsr (fun c => c.srNumber = 0x05A ∧ c.writesValid)
    (fun c s => s.modDie c.r.die (fun x => { x with xerr := x.xerr.filter (fun y => y.1 != c.t.key) })) ∧
  Changes .wrsr .wrsr (fun c => ((0x040 ≤ c.srNumber ∧ c.srNumber ≤ 0x057) ∨ c.srNumber = 0x05A) ∧ ¬ c.writesValid) (fun c => c.popped .wrsr) ∧
  Alters .wrsr .wrsr (fun c => c.srNumber = 0x800 ∧ c.g.mode = .firmware)
    (fun c s => s.modDie c.r.die (fun x => { x with dbgen := c.bLevel.getLsbD 0 })) ∧
  Raises .wrsr false .wrsr (fun c => srReadOnly c.srNumber ∨ (c.srNumber = 0x034 ∧ c.t.dispatcher = true)) 0x02 0 (fun _ => 0) (fun _ => 0) ∧
  Raises .wrsr false .wrsr (fun c => srAbsent c.srNumber ∨ 0xFFF < c.srNumber) 0x02 0 (fun _ => 0) (fun _ => 0) ∧
  Raises .wrsr false .wrsr (fun c => 0x800 < c.srNumber ∧ c.srNumber ≤ 0xFFF ∧ c.g.mode = .firmware) 0x02 0 (fun _ => 0) (fun _ => 0) ∧
  Raises .wrsr false .wrsr (fun c => 0x800 ≤ c.srNumber ∧ c.srNumber ≤ 0xFFF ∧ c.g.mode ≠ .firmware) 0x03 0 (fun _ => 0) (fun _ => 0) ∧
  Raises .wrsr false .wrsr (fun c => 0x030 ≤ c.srNumber ∧ c.srNumber ≤ 0x034 ∧ c.t.dispatcher = false) 0x04 0 (fun _ => 0) (fun _ => 0))

/-- Tier 1. `pop` combines two truth values by SUB, `pmov` gathers the predicates of a lane, `pmov.set` writes those of p0 to p6 that B chooses
(R190); `nbr` gives each member lane the register of its neighbour: the next or previous lane of the group, across the edge that of the
neighbour group, and the fill where there is none (R41, R42, R196). What a neighbour group reads as that has ended is the model's choice (log entry 92). -/
def Obligations.LaneRows : Prop :=
  (Leaves32 .pop .pop (fun c i =>
    let a := decide (c.a32 i ≠ 0)
    let b := decide (c.b32 i ≠ 0)
    let r := if c.f.sub = 0 then a && b else if c.f.sub = 1 then a || b else if c.f.sub = 2 then xor a b else if c.f.sub = 3 then a && !b
      else if c.f.sub = 4 then a || !b else if c.f.sub = 5 then !(a && b) else if c.f.sub = 6 then !(a || b) else !(xor a b)
    if r then 1 else 0) ∧
  Leaves32 .pmov .pmov (fun c i => BitVec.ofFnLE (n := 32) (fun k => decide (k.val = 7) || (decide (k.val < 7) && (c.g.p[i]).getLsbD k.val))) ∧
  Changes .pmovSet .pmovSet (fun _ => True) (fun c =>
    { c.popped .pmovSet with p := updLanes c.g.p c.m (fun i => BitVec.ofFnLE (n := 8) (fun k =>
        if k.val < 7 ∧ (if c.f.sb = .none then 0x7F else c.b32 i).getLsbD k.val = true then (c.a32 i).getLsbD k.val
        else (c.g.p[i]).getLsbD k.val)) })) ∧
  (∀ f s c, Ready .nbr false f s c → ∃ (x : Lane → Word) (k : Nat),
    exec (.nbr f) s = .next { c.after32 .nbr x with fresh := k } ∧ s.fresh ≤ k ∧
    (f.sub = 0 → (∀ i : Lane, i.val < 31 → c.g.hasSource f.sa = true → x i = c.g.read32 f f.sa (i + 1)) ∧
      (∀ g, s.besideGroup c.r c.g c.t true = some g → g.hasSource f.sa = true → x 31 = g.read32 f f.sa 0) ∧
      (s.besideGroup c.r c.g c.t true = none → x 31 = if f.sb = .none then c.a32 31 else c.b32 31)) ∧
    (f.sub ≠ 0 → (∀ i : Lane, 0 < i.val → c.g.hasSource f.sa = true → x i = c.g.read32 f f.sa (i - 1)) ∧
      (∀ g, s.besideGroup c.r c.g c.t false = some g → g.hasSource f.sa = true → x 0 = g.read32 f f.sa 31) ∧
      (s.besideGroup c.r c.g c.t false = none → x 0 = if f.sb = .none then c.a32 0 else c.b32 0)))

/-- Tier 1. The group-wide operations wait for their named lanes and then write the results of R192 to R195 to every contributor (R37,
R191), whether or not the run that comes has a lane whose guard is true. The flags of an exclusive scan's lane are those of its own fold alone (the
model's choice, log entry 66). -/
def Obligations.GroupWideResults : Prop :=
  GroupWideRow .vote .vote (fun c => c.f.sb) (fun c i => (c.a32 i).setWidth 64) (fun _ _ => 0) (fun c w _ =>
    let all := decide (∀ j : Lane, inMask w.contrib j = true → w.srcA[j] ≠ 0)
    let any := decide (∃ j : Lane, inMask w.contrib j = true ∧ w.srcA[j] ≠ 0)
    ((if c.f.sub = 0 then (if all then 1 else 0) else if c.f.sub = 1 then (if any then 1 else 0) else if all || !any then 1 else 0), 0)) ∧
  GroupWideRow .ballot .ballot (fun c => c.f.sb) (fun c i => (c.a32 i).setWidth 64) (fun _ _ => 0) (fun _ w _ =>
    (BitVec.ofFnLE (n := 32) (fun j => inMask w.contrib j && decide (w.srcA[j] ≠ 0)), 0)) ∧
  GroupWideRow .matchLanes .matchLanes (fun c => c.f.sb) (fun c i => c.bitsOf c.f.sa i) (fun _ _ => 0) (fun c w i =>
    ((if c.f.sub = 1 then
        (if ∀ j k : Lane, inMask w.contrib j = true → inMask w.contrib k = true → w.srcA[j] = w.srcA[k] then w.contrib else 0)
      else BitVec.ofFnLE (n := 32) (fun j => inMask w.contrib j && decide (w.srcA[j] = w.srcA[i]))), 0)) ∧
  GroupWideRow .shfl .shfl (fun c => c.f.sx) (fun c i => (c.a32 i).setWidth 64) (fun c => c.b32) (fun c w i =>
    let b := w.srcB[i]
    let mode := c.f.sub.extractLsb' 0 2
    let k : Int := if mode = 0 then b.toInt else if mode = 1 then (i.val : Int) - b.toInt else if mode = 2 then (i.val : Int) + b.toInt
      else ((i.val ^^^ (b.toNat % 32) : Nat) : Int)
    ((if 0 ≤ k ∧ k ≤ 31 then
        (if inMask w.contrib (Fin.ofNat 32 k.toNat) then (w.srcA[(Fin.ofNat 32 k.toNat : Lane)]).setWidth 32 else c.a32 (Fin.ofNat 32 k.toNat))
      else if c.f.sub.getLsbD 2 then c.f.imm else (w.srcA[i]).setWidth 32), 0)) ∧
  GroupWideRow .redx .redx (fun c => c.f.sb) (fun c i => (c.a32 i).setWidth 64) (fun _ _ => 0) (fun c w _ =>
    c.fold w (allLanes.filter (fun j => inMask w.contrib j))) ∧
  GroupWideRow .scan .scan (fun c => c.f.sb) (fun c i => (c.a32 i).setWidth 64) (fun _ _ => 0) (fun c w i =>
    c.fold w (allLanes.filter (fun j => inMask w.contrib j && c.reaches i j))) ∧
  GroupWideRow .segred .segred (fun c => c.f.sx) (fun c i => (c.a32 i).setWidth 64) (fun c => c.b32) (fun c w i =>
    c.fold w (allLanes.filter (fun j => inMask w.contrib j && w.sameSegment i j))) ∧
  GroupWideRow .segscan .segscan (fun c => c.f.sx) (fun c i => (c.a32 i).setWidth 64) (fun c => c.b32) (fun c w i =>
    c.fold w (allLanes.filter (fun j => inMask w.contrib j && w.sameSegment i j && c.reaches i j)))

/-- Tier 1. The uses of a group-wide operation that trap: a mask of zero, a lane that the mask does not name, a mask other than the
first run's, an exited member, a full queue, and under FPTRAP a trapping flag (R37, R81, R191, R289). TRMASK of the first two and of the last two
is the lanes of the run whose guard is true, or the run without one: the model's reading in log entries 24 and 65; what a pop leaves under the
arithmetic trap is log entry 91. -/
def Obligations.GroupWideTrapCases : Prop :=
  (∀ p ∈ ([(.vote, .vote), (.ballot, .ballot)] : List (Op × (Fields → Instr))), GroupWideTraps p.1 p.2 (fun c => c.f.sb)
    (fun c i => (c.a32 i).setWidth 64) (fun _ _ => 0) (fun _ _ _ => (0, 0))) ∧
  GroupWideTraps .matchLanes .matchLanes (fun c => c.f.sb) (fun c i => c.bitsOf c.f.sa i) (fun _ _ => 0) (fun _ _ _ => (0, 0)) ∧
  GroupWideTraps .shfl .shfl (fun c => c.f.sx) (fun c i => (c.a32 i).setWidth 64) (fun c => c.b32) (fun _ _ _ => (0, 0)) ∧
  GroupWideTraps .redx .redx (fun c => c.f.sb) (fun c i => (c.a32 i).setWidth 64) (fun _ _ => 0) (fun c w _ =>
    c.fold w (allLanes.filter (fun j => inMask w.contrib j))) ∧
  GroupWideTraps .scan .scan (fun c => c.f.sb) (fun c i => (c.a32 i).setWidth 64) (fun _ _ => 0) (fun c w i =>
    c.fold w (allLanes.filter (fun j => inMask w.contrib j && c.reaches i j))) ∧
  GroupWideTraps .segred .segred (fun c => c.f.sx) (fun c i => (c.a32 i).setWidth 64) (fun c => c.b32) (fun c w i =>
    c.fold w (allLanes.filter (fun j => inMask w.contrib j && w.sameSegment i j))) ∧
  GroupWideTraps .segscan .segscan (fun c => c.f.sx) (fun c i => (c.a32 i).setWidth 64) (fun c => c.b32) (fun c w i =>
    c.fold w (allLanes.filter (fun j => inMask w.contrib j && w.sameSegment i j && c.reaches i j)))

/-- Tier 2. The identities of Table K-49, and a fold as one step for each value in ascending lane order (R194). -/
def Obligations.FoldIdentities : Prop :=
  (foldOf 0 0 false [] = (0, 0) ∧ foldOf 0 2 false [] = (0x80000000, 0) ∧ foldOf 1 0 false [] = (0x7FFFFFFF, 0) ∧
    foldOf 1 1 false [] = (0xFFFFFFFF, 0) ∧ foldOf 1 2 false [] = (0x7FC00000, 0) ∧ foldOf 2 0 false [] = (0x80000000, 0) ∧
    foldOf 2 1 false [] = (0, 0) ∧ foldOf 2 2 false [] = (0x7FC00000, 0) ∧ foldOf 3 0 false [] = (0xFFFFFFFF, 0) ∧
    foldOf 4 0 false [] = (0, 0) ∧ foldOf 5 0 false [] = (0, 0)) ∧
  (∀ (ftz : Bool) (xs : List Word) (x : Word),
    (foldOf 0 0 ftz (xs ++ [x])).1 = (foldOf 0 0 ftz xs).1 + x ∧
    (foldOf 3 1 ftz (xs ++ [x])).1 = (foldOf 3 1 ftz xs).1 &&& x ∧
    (foldOf 4 1 ftz (xs ++ [x])).1 = (foldOf 4 1 ftz xs).1 ||| x ∧
    (foldOf 5 1 ftz (xs ++ [x])).1 = (foldOf 5 1 ftz xs).1 ^^^ x ∧
    ((foldOf 1 0 ftz (xs ++ [x])).1).toInt = min ((foldOf 1 0 ftz xs).1).toInt x.toInt ∧
    ((foldOf 2 0 ftz (xs ++ [x])).1).toInt = max ((foldOf 2 0 ftz xs).1).toInt x.toInt ∧
    ((foldOf 1 1 ftz (xs ++ [x])).1).toNat = min ((foldOf 1 1 ftz xs).1).toNat x.toNat ∧
    ((foldOf 2 1 ftz (xs ++ [x])).1).toNat = max ((foldOf 2 1 ftz xs).1).toNat x.toNat) ∧
  (∀ (op ty : Nat) (ftz : Bool) (xs : List Word), ty ≠ 2 → (foldOf op ty ftz xs).2 = 0)

/-! ## Row 0x6 (spec 08, 12) -/

/-- Tier 1. A branch sends each member lane to its target and the other lanes of the run to the next instruction; a call writes the
address of the next instruction first (R197, R198). -/
def Obligations.Branches : Prop :=
  Places .bra false .bra (fun _ => True) (fun c => c.branched (c.popped .bra) (fun _ => c.pc + c.f.imm.signExtend 64)) (fun _ => .noResult) ∧
  Places .brx false .brx (fun _ => True) (fun c => c.branched (c.popped .brx) (fun i => c.a64 i + c.f.imm.signExtend 64))
    (fun _ => .noResult) ∧
  Places .ret false .ret (fun _ => True) (fun c => c.branched (c.popped .ret) (fun i => c.a64 i)) (fun _ => .noResult) ∧
  Places .call false .call (fun _ => True)
    (fun c => c.branched ((c.popped .call).write64 c.f.dst c.m (fun _ => c.next)) (fun _ => c.pc + c.f.imm.signExtend 64))
    (fun c => slotOf c.f c.m (fun _ => c.next)) ∧
  Places .callInd false .callInd (fun _ => True)
    (fun c => c.branched ((c.popped .callInd).write64 c.f.dst c.m (fun _ => c.next)) (fun i => c.a64 i + c.f.imm.signExtend 64))
    (fun c => slotOf c.f c.m (fun _ => c.next))

/-- Tier 2. `tkopen` makes an invalid entry valid with the members, the label and the next open sequence number, adds members to an entry of
the same join PC, and traps at a different one; `tkjoin` parks the issuing members of its entry, and when every member of the entry is then
parked at it, all of them go on at the join PC and the entry is invalid; `tkleave` takes its members out of its entry and every younger one,
with the completion tests (R33 to R35, R200). -/
def Obligations.Tokens : Prop :=
  (Changes .tkopen .tkopen (fun c => c.g.tokens[c.f.sub.toFin] = none) (fun c =>
    { c.popped .tkopen with
      tokens := c.g.tokens.set c.f.sub.toFin (some ⟨c.m, c.pc + c.f.imm.signExtend 64, c.g.tokenSeq⟩)
      tokenSeq := c.g.tokenSeq + 1 }) ∧
  (∀ x : Token, Changes .tkopen .tkopen (fun c => c.g.tokens[c.f.sub.toFin] = some x ∧ x.joinPc = c.pc + c.f.imm.signExtend 64) (fun c =>
    { c.popped .tkopen with tokens := c.g.tokens.set c.f.sub.toFin (some { x with mask := x.mask ||| c.m }) })) ∧
  (∀ x : Token, Raises .tkopen false .tkopen
    (fun c => c.g.tokens[c.f.sub.toFin] = some x ∧ x.joinPc ≠ c.pc + c.f.imm.signExtend 64) 0x06 0 (fun _ => 0) (fun _ => 0))) ∧
  ((Places .tkjoin false .tkjoin (fun c => c.g.tokens[c.f.sub.toFin] = none)
    (fun c => { c.popped .tkjoin with pcs := updLanes c.g.pcs c.run (fun _ => c.next) }) (fun _ => .noResult) ∧
  (∀ x : Token, Places .tkjoin false .tkjoin
    (fun c => c.g.tokens[c.f.sub.toFin] = some x ∧
      ∃ i : Lane, inMask x.mask i = true ∧ inMask c.m i = false ∧ c.g.status[i] ≠ .parked c.f.sub.toFin)
    (fun c => { c.popped .tkjoin with
      pcs := updLanes c.g.pcs (c.run &&& ~~~(c.m &&& x.mask)) (fun _ => c.next)
      status := updLanes c.g.status (c.m &&& x.mask) (fun _ => .parked c.f.sub.toFin) }) (fun _ => .noResult)) ∧
  (∀ x : Token, Places .tkjoin false .tkjoin
    (fun c => c.g.tokens[c.f.sub.toFin] = some x ∧ x.mask ≠ 0 ∧
      ∀ i : Lane, inMask x.mask i = true → inMask c.m i = true ∨ c.g.status[i] = .parked c.f.sub.toFin)
    (fun c => { c.popped .tkjoin with
      pcs := Vector.ofFn fun i => if inMask x.mask i then x.joinPc else if inMask c.run i then c.next else c.g.pcs[i]
      status := updLanes c.g.status x.mask (fun _ => .run)
      tokens := c.g.tokens.set c.f.sub.toFin none }) (fun _ => .noResult))) ∧
  (∀ f s c, Ready .tkleave false f s c → ∃ g, exec (.tkleave f) s = .next (c.placed g .noResult) ∧
    TokensLeft { c.popped .tkleave with pcs := updLanes c.g.pcs c.run (fun _ => c.next) } g (fun j => c.leaves f.sub.toFin j)))

/-- Tier 2. `exit` makes its members exited and takes them out of every token entry; when a group-wide operation waits for one of them
the exit takes effect and the exited-member trap is raised at that operation for the lanes that wait there (R199). Executed in trap mode it ends
trap mode once every lane of TRMASK has exited and another lane has not: the other lanes go on where they stand, with the window of the entry,
and the issue leaves no place of its own in it (R291). -/
def Obligations.ExitEndsLanes : Prop :=
  ∀ f s c, Ready .exit false f s c →
    ∃ g, TokensLeft (c.exiting .exit) g (fun k => match c.g.tokens[k] with | some x => x.mask &&& c.m | none => 0) ∧
      ((c.g.traps = [] ∨ (∀ i : Lane, g.status[i] = .exited) ∨
          ∀ x ∈ c.g.traps, ∃ i : Lane, inMask x.info.mask i = true ∧ g.status[i] ≠ .exited) →
        (c.g.gw = [] → exec (.exit f) s = .next (c.placed g .noResult)) ∧
        (∀ w : GroupWide, c.g.gw = [w] → (∃ i : Lane, inMask (w.mask &&& ~~~w.arrived) i = true ∧ g.status[i] = .exited) →
          exec (.exit f) s = .next ((c.after (c.recorded g .noResult)).raise c.r ⟨0x08, 0, w.pc, 12, w.arrived, 0, 0, none⟩))) ∧
      (∀ x : TrapCtx, c.g.traps = [x] → c.g.gw = [] → (∀ i : Lane, inMask x.info.mask i = true → g.status[i] = .exited) →
        (∃ i : Lane, g.status[i] ≠ .exited) →
        exec (.exit f) s = .next (((c.after (c.timed { g with traps := [], window := x.window })).closeGroup c.r).checkDeadlock c.r))

/-- Tier 1. `yield` takes no pick until the other eligible groups of its class have been picked or 64 core cycles have passed, `sleep`
takes each member out of the candidates for at most 1,048,576 cycles, `nop` only advances and the pad does not even issue (R151, R201,
R203). -/
def Obligations.WaitsAndNops : Prop :=
  Changes .yield .yield (fun _ => True) (fun c =>
    { c.popped .yield with sched := { c.g.sched with yieldAt := some c.s0.now, yieldFor := c.peers } }) ∧
  (∀ (x : Sched) (now at_ : Nat), x.yieldAt = some at_ → (x.yields now = true ↔ x.yieldFor ≠ [] ∧ now < at_ + 64)) ∧
  Places .sleep false .sleep (fun _ => True) (fun c =>
    { c.popped .sleep with
      pcs := updLanes c.g.pcs c.run (fun _ => c.next)
      status := Vector.ofFn fun i => if inMask c.m i then
          (if c.a32 i = 0 then .run else .asleep (c.s0.now + min (c.a32 i).toNat 1048576)) else c.g.status[i] }) (fun _ => .noResult) ∧
  Changes .nop .nop (fun c => c.f.sub ≠ 7) (fun c => c.popped .nop) ∧
  (∀ f s c, f.sub = 7 → s.ctx? f = some c →
    exec (.nop f) s = .next (s.setGroup c.r { c.g with hold := none, pcs := updLanes c.g.pcs c.run (fun _ => c.next) }))

/-- Tier 2. `trap n` and `brkpt` take their traps: in user mode, with nothing of the group outstanding and a handler registered, the
group enters the handler with the information registers written, and the issue is counted; TRINFO is n[15:0] (R202, R347, R289, Table F-2). -/
def Obligations.SoftwareTrapEntry : Prop :=
  (∀ f s c, Ready .trap false f s c → c.g.hold = none → c.g.mode = .user → s.owes c.r c.g = false → c.g.pendingTrap = none → s.handler c.t.asid ≠ 0 →
    c.g.gangMask = 0 →
    ∃ g, exec (.trap f) s = .next (c.after g) ∧
      Entered c.g g .trap ⟨0x0B, 0, c.pc, c.len, c.m, 0, (c.g.read32 f f.sa 0) &&& 0xFFFF, none⟩ (s.handler c.t.asid)) ∧
  (∀ f s c, Ready .brkpt false f s c → c.g.hold = none → c.g.mode = .user → s.owes c.r c.g = false → c.g.pendingTrap = none → s.handler c.t.asid ≠ 0 →
    c.g.gangMask = 0 → s.dies[c.r.die].dbgen = false →
    ∃ g, exec (.brkpt f) s = .next (c.after g) ∧ Entered c.g g .trap ⟨0x0C, 0, c.pc, c.len, c.m, 0, 0, none⟩ (s.handler c.t.asid))

/-- Tier 1. `vgrow` and `vshrink` change the budget of the group as the procedure of R204 says: granted when the granules are free, held
when they are not, refused for the dispatcher, with a configured queue, outside 1 to 32 granules, and where the team would hold more than its core
has (R46). That a request is granted as it issues, and that one which fits waits behind an older request of the core, is the model's choice
(log entry 51). -/
def Obligations.RegisterBudgets : Prop :=
  Changes .vgrow .vgrow (fun c => ¬ c.fixedBudget ∧ c.aLevel = 0) (fun c => c.popped .vgrow) ∧
  Changes .vgrow .vgrow (fun c => ¬ c.fixedBudget ∧ c.aLevel ≠ 0 ∧ c.g.budget + c.aLevel.toNat ≤ 32 ∧
      c.s0.teamGranules c.r.die c.r.core c.t + c.aLevel.toNat ≤ coreGranules c.r.core ∧
      c.aLevel.toNat ≤ c.s0.freeGranules c.r.die c.r.core ∧
      ∀ i : SlotId, i ≠ c.r.slot → ∀ g, c.s0.group? ⟨c.r.die, c.r.core, i⟩ = some g → g.growing = false)
    (fun c => { c.popped .vgrow with budget := c.g.budget + c.aLevel.toNat }) ∧
  Holds .vgrow .vgrow (fun c => ¬ c.fixedBudget ∧ c.aLevel ≠ 0 ∧ c.g.budget + c.aLevel.toNat ≤ 32 ∧
      c.s0.teamGranules c.r.die c.r.core c.t + c.aLevel.toNat ≤ coreGranules c.r.core ∧
      (c.s0.freeGranules c.r.die c.r.core < c.aLevel.toNat ∨
        ∃ i g, i ≠ c.r.slot ∧ c.s0.group? ⟨c.r.die, c.r.core, i⟩ = some g ∧ g.growing = true))
    (fun c => c.popped .vgrow) (fun c => .vgrow c.aLevel.toNat) ∧
  Raises .vgrow false .vgrow (fun c => c.fixedBudget ∨ (c.aLevel ≠ 0 ∧ (32 < c.g.budget + c.aLevel.toNat ∨
      coreGranules c.r.core < c.s0.teamGranules c.r.die c.r.core c.t + c.aLevel.toNat))) 0x02 0 (fun _ => 0) (fun _ => 0) ∧
  Changes .vshrink .vshrink (fun c => ¬ c.fixedBudget ∧ c.aLevel = 0) (fun c => c.popped .vshrink) ∧
  Changes .vshrink .vshrink (fun c => ¬ c.fixedBudget ∧ c.aLevel ≠ 0 ∧ c.aLevel.toNat < c.g.budget) (fun c =>
    { c.popped .vshrink with
      budget := c.g.budget - c.aLevel.toNat
      v := Vector.ofFn fun k => if 8 * (c.g.budget - c.aLevel.toNat) ≤ k.val then Vector.replicate 32 0 else c.g.v[k] }) ∧
  Raises .vshrink false .vshrink (fun c => c.fixedBudget ∨ c.aLevel ≠ 0 ∧ c.g.budget ≤ c.aLevel.toNat) 0x02 0 (fun _ => 0) (fun _ => 0)

/-! ## Row 0x7 (spec 08, 11) -/

/-- Tier 1. `bar` arrives, holds, and reads the phase as Table K-50 says; an arrival that a register cannot take, and a wait that nothing can
end, raise the illegal-operand trap; `barinit` sets EXPECT with COUNT 0 and keeps PHASE, and `barexp` adds to EXPECT, completing the phase
when EXPECT falls to COUNT or below (R206 to R208). An arrival releases at team scope, and at b15 of a halo chain at die scope, where an
observation acquires; with no store of the core and no load of the group waiting, a release at team scope changes nothing (R114, R209). -/
def Obligations.BarrierRows : Prop :=
  ((∀ (b : Fin 16) (one : Bool),
    let i := if one then Instr.barArriveOne else Instr.barArrive
    let op := if one then Op.barArriveOne else Op.barArrive
    Ends op i (fun c => c.Names b ∧ c.t.barriers[b].expect ≠ 0 ∧ c.t.barriers[b].count + c.arriving one ≤ c.t.barriers[b].expect)
      (fun c => .done ((c.released op b (fun g => g.write32 c.f.dst c.m (fun _ => c.t.barriers[b].phase.setWidth 32))).putBar
        c.r.die c.r.core c.t b (c.t.barriers[b].after (c.arriving one))) (slot32 c.f c.m (fun _ => c.t.barriers[b].phase.setWidth 32))) ∧
    Raises op false i (fun c => 16 ≤ c.aLevel.toNat ∨ c.t.desc.barriers ≤ c.aLevel.toNat ∨ (c.Names b ∧ (c.t.barriers[b].expect = 0 ∨
      c.t.barriers[b].expect < c.t.barriers[b].count + c.arriving one))) 0x02 0 (fun _ => 0) (fun _ => 0)) ∧
  (∀ (b : Fin 16) (one : Bool),
    let i := if one then Instr.barSyncOne else Instr.barSync
    let op := if one then Op.barSyncOne else Op.barSync
    Ends op i (fun c => c.Names b ∧ c.t.barriers[b].expect ≠ 0 ∧ c.t.barriers[b].count + c.arriving one ≤ c.t.barriers[b].expect)
      (fun c => .placed ((c.released op b (fun g => c.waiting g b c.t.barriers[b].phase)).putBar
        c.r.die c.r.core c.t b (c.t.barriers[b].after (c.arriving one))) .noResult) ∧
    Raises op false i (fun c => 16 ≤ c.aLevel.toNat ∨ c.t.desc.barriers ≤ c.aLevel.toNat ∨ (c.Names b ∧ (c.t.barriers[b].expect = 0 ∨
      c.t.barriers[b].expect < c.t.barriers[b].count + c.arriving one))) 0x02 0 (fun _ => 0) (fun _ => 0)) ∧
  (∀ b : Fin 16,
    Ends .barWait .barWait (fun c => c.Names b ∧ c.t.barriers[b].phase ≠ c.bLevel.setWidth 16)
      (fun c => .done (c.observe b c.s) .noResult) ∧
    Places .barWait false .barWait
      (fun c => c.Names b ∧ c.t.barriers[b].phase = c.bLevel.setWidth 16 ∧ c.t.barriers[b].expect ≠ 0)
      (fun c => c.waiting (c.popped .barWait) b (c.bLevel.setWidth 16)) (fun _ => .noResult) ∧
    Raises .barWait false .barWait
      (fun c => c.Names b ∧ c.t.barriers[b].phase = c.bLevel.setWidth 16 ∧ c.t.barriers[b].expect = 0) 0x02 0 (fun _ => 0) (fun _ => 0) ∧
    Ends .barTest .barTest (fun c => c.Names b ∧ c.t.barriers[b].phase ≠ c.bLevel.setWidth 16)
      (fun c => Ctx.result32 { c with s := c.observe b c.s } (fun _ => 1)) ∧
    Leaves32If .barTest .barTest (fun c => c.Names b ∧ c.t.barriers[b].phase = c.bLevel.setWidth 16) (fun _ _ => 0) ∧
    Ends .barPhase .barPhase (fun c => c.Names b)
      (fun c => Ctx.result32 { c with s := c.observe b c.s } (fun _ => c.t.barriers[b].phase.setWidth 32))) ∧
  (∀ (c : Ctx) (b : Fin 16) (s : State),
    (¬ (c.t.desc.halo = true ∧ b = 15) → c.observe b s = s ∧ c.arriveRelease b s = s.releaseBy c.r .core ∧
      (s.NoneWaits c.r → c.arriveRelease b s = s)) ∧
    (c.t.desc.halo = true → b = 15 → c.observe b s = s.acquireAt c.r.die c.r.core .die ∧ c.arriveRelease b s = s.releaseBy c.r .die))) ∧
  (∀ b : Fin 16,
    Ends .barinit .barinit (fun c => c.Names b ∧ c.t.barriers[b].count = 0 ∧ c.bLevel.toNat ≤ 65535 ∧
        (c.bLevel = 0 → c.t.barriers[b].pend = 0))
      (fun c => .done (c.s.putBar c.r.die c.r.core c.t b ⟨c.bLevel.toNat, 0, c.t.barriers[b].phase, c.t.barriers[b].pend⟩) .noResult) ∧
    Raises .barinit false .barinit (fun c => c.Names b ∧ (c.t.barriers[b].count ≠ 0 ∨ 65535 < c.bLevel.toNat ∨
      (c.bLevel = 0 ∧ c.t.barriers[b].pend ≠ 0))) 0x02 0 (fun _ => 0) (fun _ => 0) ∧
    (∀ n : Nat, 1 ≤ n → n ≤ 65535 → Ends .barexp .barexp
      (fun c => c.Names b ∧ (c.t.barriers[b].expect : Int) + c.bLevel.toInt = n)
      (fun c => .done (c.s.putBar c.r.die c.r.core c.t b
        (if n ≤ c.t.barriers[b].count then ⟨n, 0, c.t.barriers[b].phase + 1, c.t.barriers[b].pend⟩
         else ⟨n, c.t.barriers[b].count, c.t.barriers[b].phase, c.t.barriers[b].pend⟩)) .noResult)) ∧
    Raises .barexp false .barexp (fun c => c.Names b ∧ ((c.t.barriers[b].expect : Int) + c.bLevel.toInt < 1 ∨
      65535 < (c.t.barriers[b].expect : Int) + c.bLevel.toInt)) 0x02 0 (fun _ => 0) (fun _ => 0))

/-- Tier 2. A barrier register written in a team has its new value, and every lane of the team's groups that waits for an earlier phase of
it is a candidate again (R206). -/
def Obligations.BarrierRelease : Prop :=
  ∀ (s : State) (d : DieId) (k : CoreId) (t : Team) (b : Fin 16) (x : Barrier) (r : GRef) (g : Group) (i : Lane) (ph : BitVec 16),
    s.team? d k t.uid = some t → t.desc.halo = false → (r, g) ∈ s.groupsOf d k t → g.status[i] = .barHold b ph →
    ∃ t' g', (s.putBar d k t b x).team? d k t.uid = some t' ∧ t'.barriers[b] = x ∧
      (s.putBar d k t b x).group? r = some g' ∧ g'.status[i] = (if x.phase = ph then .barHold b ph else .run) ∧ g'.v = g.v ∧
      g'.pcs = g.pcs

/-- Tier 1. A fence at core scope or narrower ends with its issue, the loads of its group read and the stores that wait in its core performed; a wider
one holds its group once those loads have read, and `fence.ar` acquires before it does, so that it does not order earlier stores before later loads
(R112; the deferral of loads and stores is the model's, log entry 85). `sstep` holds its members until the
superstep completes, and traps in a team that belongs to no superstep set (R210, R211). -/
def Obligations.FencesAndSupersteps : Prop :=
  (∀ p ∈ ([(.fenceAr, .fenceAr), (.fenceSc, .fenceSc)] : List (Op × (Fields → Instr))),
    Ends p.1 p.2 (fun c => scopeLevel (c.f.md.toNat % 8) = .core)
      (fun c => .done (c.s.releaseBy c.r .core) .noResult)) ∧
  Ends .fenceAr .fenceAr (fun c => scopeLevel (c.f.md.toNat % 8) ≠ .core) (fun c =>
    .holdWith ((c.s.readLate c.r (fun _ => true)).acquireAt c.r.die c.r.core (scopeLevel (c.f.md.toNat % 8))) (.fence (c.f.md.toNat % 8) false)) ∧
  Ends .fenceSc .fenceSc (fun c => scopeLevel (c.f.md.toNat % 8) ≠ .core)
    (fun c => .holdWith (c.s.readLate c.r (fun _ => true)) (.fence (c.f.md.toNat % 8) true)) ∧
  (∀ (s : State) (r : GRef), s.NoneWaits r → s.readLate r (fun _ => true) = s ∧ s.releaseBy r .core = s) ∧
  Places .sstep false .sstep (fun c => c.t.inRange = true ∧ c.t.packed = false) (fun c =>
    { c.popped .sstep with
      pcs := updLanes c.g.pcs c.run (fun _ => c.next)
      status := updLanes c.g.status c.m (fun _ => .sstepHold) }) (fun _ => .noResult) ∧
  Raises .sstep false .sstep (fun c => c.t.inRange = false ∨ c.t.packed = true) 0x02 0 (fun _ => 0) (fun _ => 0)

/-- Tier 1. `spawn` creates one team for each member in ascending lane order with the context of Table K-51, after a release at die scope;
it holds while the wait list has no room, traps outside the dispatcher, and with a descriptor that fails creates none. `launch` makes
child items, holding while they have no room or an earlier `launch` of the core holds, so that items enter in the order of issue; `reorder` deposits
and exits (R24, R213 to R216). -/
def Obligations.WorkCreation : Prop :=
  (∀ (asid : BitVec 12) (xs : List (Lane × Descriptor)), Ends .spawn .spawn
    (fun c => c.t.dispatcher = true ∧ c.s0.dies[c.r.die].disp.spasid = some asid ∧ c.descriptors asid = .ok xs ∧
      c.s0.dies[c.r.die].waitCount + xs.length ≤ 256)
    (fun c => .done (xs.foldl (fun u x =>
        let y := u.dies[c.r.die].disp
        { u.noteWalk c.r.die (some 0) asid (c.a64 x.1) with uid := u.uid + 1 }.modDie c.r.die (fun z => { z with waitList := z.waitList ++
          [freshTeam u.uid asid x.2 (c.a64 x.1) (y.gridHi ++ y.gridLo) (c.b32 x.1) y.nteam
            (u.inLaunch c.r.die asid (y.gridHi ++ y.gridLo) (c.a64 x.1) (c.b32 x.1).toNat) y.dieCnt.toNat] }))
        (c.s.releaseBy c.r .die)) .noResult)) ∧
  (∀ (asid : BitVec 12) (xs : List (Lane × Descriptor)), Holds .spawn .spawn
    (fun c => c.t.dispatcher = true ∧ c.s0.dies[c.r.die].disp.spasid = some asid ∧ c.descriptors asid = .ok xs ∧
      256 < c.s0.dies[c.r.die].waitCount + xs.length) (fun c => c.g) (fun _ => .spawn)) ∧
  Raises .spawn false .spawn (fun c => c.t.dispatcher = false) 0x04 0 (fun _ => 0) (fun _ => 0) ∧
  Raises .spawn false .spawn (fun c => c.t.dispatcher = true ∧ c.s0.dies[c.r.die].disp.spasid = none) 0x05 0 (fun _ => 0) (fun _ => 0) ∧
  (∀ (asid : BitVec 12) (e : DescFault) (f : Fields) (s : State) (c : Ctx), Ready .spawn false f s c → c.t.dispatcher = true →
    s.dies[c.r.die].disp.spasid = some asid → c.descriptors asid = .error e →
    exec (.spawn f) s = .next ((c.charged s).raise c.r { c.info e.cause e.detail e.addr 0 with space := some asid })) ∧
  (∀ (s : State) (d : DieId) (asid : BitVec 12) (va : DWord), va.toNat % 128 ≠ 0 → s.readDescriptor d asid va = .error ⟨0x05, 0, va⟩) ∧
  Ends .launch .launch (fun c => (c.s0.core c.r.die c.r.core).children.length + (lanesOf c.m).length ≤ 4096 ∧ ¬ c.launchesBefore)
    (fun c => .done ((c.s.releaseBy c.r .core).modCore c.r.die c.r.core (fun k => { k with children := k.children ++ (lanesOf c.m).map (fun i =>
      ⟨c.pc + c.f.imm.signExtend 64, (List.range 4).map (fun j => (c.g.read128 c.f.sa i).extractLsb' (32 * j) 32), c.t.uid, c.t.asid,
        c.t.desc, c.t.grid, c.t.teamIx, c.t.nteam, c.s0.now, c.t.originAge⟩) })) .noResult) ∧
  Ends .launch .launch (fun c => 4096 < (c.s0.core c.r.die c.r.core).children.length + (lanesOf c.m).length ∨ c.launchesBefore)
    (fun c => .holdWith { c.s0 with uid := c.s0.uid + 1 } (.launch c.launchPlace)) ∧
  (∀ c : Ctx, (c.g.hold = none → c.launchPlace = c.s0.uid) ∧ ∀ n, c.g.hold = some (.launch n) → c.launchPlace = n) ∧
  Ends .reorder .reorder (fun c => c.t.desc.nprod = 0 ∧ (c.t.label = none ∨ c.t.label = some (c.pc + c.f.imm.signExtend 64)))
    (fun c => Ctx.exitMembers { c with s := c.s.modTeam c.r.die c.r.core c.t.uid (fun t =>
      { t with
        label := some (c.pc + c.f.imm.signExtend 64)
        deposits := t.deposits ++ (lanesOf c.m).map (fun i => ⟨c.a32 i, c.depositWords i⟩) }) }) ∧
  Raises .reorder false .reorder
    (fun c => c.t.desc.nprod ≠ 0 ∨ ∃ l, c.t.label = some l ∧ l ≠ c.pc + c.f.imm.signExtend 64) 0x02 0 (fun _ => 0) (fun _ => 0)

/-- Tier 2. `pksend` sends the members' packets, 64 bytes of their registers with HOPS and bytes 5 to 7 zero, in ascending lane order after a release
at package scope, holds from the first that finds no room, and writes 1 where the target die is absent; `pkrecv` and `pkpoll` deliver queued packets
to the dispatcher's lanes, the former holding while there is none; the mailbox unit stamps SRCDIE and SEQ (R20, R217, R218, R320, R389). -/
def Obligations.Packets : Prop :=
  ((∀ u : State, Ends .pksend .pksend
    (fun c => c.Sends ∧ c.packets ≠ [] ∧ ((c.go .pksend).s.releaseBy c.r .home).sendAll c.r.die c.t.asid c.packets = (u, []))
    (fun c => Ctx.result32 { c with s := u } (fun i => if inMask c.absentTargets i then 1 else 0))) ∧
  (∀ (u : State) (rest : List (Lane × DieId × BitVec 512)), rest ≠ [] → Ends .pksend .pksend
    (fun c => c.Sends ∧ ((c.go .pksend).s.releaseBy c.r .home).sendAll c.r.die c.t.asid c.packets = (u, rest))
    (fun c => .holdWith u (.pksend rest c.absentTargets c.m c.f))) ∧
  (∀ (s : State) (d : DieId) (asid : BitVec 12) (x : Lane × DieId × BitVec 512) (rest : List (Lane × DieId × BitVec 512)),
    (s.dies[x.2.1].inside < 1024 → s.sendAll d asid (x :: rest) = (s.sendPacket d asid x.2.1 x.2.2).sendAll d asid rest) ∧
    (1024 ≤ s.dies[x.2.1].inside → s.sendAll d asid (x :: rest) = (s, x :: rest))) ∧
  (∀ (c : Ctx) (i : Lane) (n : BitVec 8), c.f.sa = .v n → pktField (c.packet i) 1 1 = 0 ∧ pktField (c.packet i) 5 3 = 0 ∧
    ∀ j : Nat, j < 64 → j ≠ 1 → (j < 5 ∨ 8 ≤ j) →
      pktField (c.packet i) j 1 = (c.g.vreg (n + BitVec.ofNat 8 (j / 4)) i).toNat / 256 ^ (j % 4) % 256) ∧
  Leaves32If .pksend .pksend
    (fun c => ∀ i : Lane, inMask c.m i = true → (c.b32 i).toNat ≤ 31 ∧ routedOk (c.packet i) = true ∧
      c.s0.inPlay (Fin.ofNat 32 (c.b32 i).toNat) = false) (fun c i => if inMask c.m i then 1 else 0) ∧
  Raises .pksend false .pksend (fun c => ∃ i : Lane, inMask c.m i = true ∧ (31 < (c.b32 i).toNat ∨ routedOk (c.packet i) = false)) 0x02 0
    (fun _ => 0) (fun _ => 0) ∧
  (∀ p ∈ ([(.pkrecv, .pkrecv), (.pkpoll, .pkpoll)] : List (Op × (Fields → Instr))),
    Ends p.1 p.2 (fun c => c.t.dispatcher = true ∧ c.s0.dies[c.r.die].box ≠ []) (fun c =>
      let k := min (lanesOf c.m).length c.s0.dies[c.r.die].box.length
      .done (((c.s.modDie c.r.die (fun x => x.take k)).modGroup c.r (fun g =>
        g.deliver c.f.dst c.m (c.s0.dies[c.r.die].box.take k))).acquireAt c.r.die c.r.core .home) .noResult) ∧
    Raises p.1 false p.2 (fun c => c.t.dispatcher = false) 0x04 0 (fun _ => 0) (fun _ => 0)) ∧
  Ends .pkpoll .pkpoll (fun c => c.t.dispatcher = true ∧ c.s0.dies[c.r.die].box = []) (fun c =>
    .done ((c.s.modDie c.r.die (fun x => x.take 0)).modGroup c.r (fun g => g.deliver c.f.dst c.m [])) .noResult) ∧
  Ends .pkrecv .pkrecv (fun c => c.t.dispatcher = true ∧ c.s0.dies[c.r.die].box = [])
    (fun c => .holdWith (c.s0.modDie c.r.die (fun x => { x with disp := { x.disp with inHand := [] } })) .packet) ∧
  (∀ (x : Die) (k : Nat), (x.take k).box = x.box.drop k ∧ (∀ p ps, x.box.take k = p :: ps → (x.take k).disp.spasid = some p.asid))) ∧
  (∀ (s : State) (d target : DieId) (asid : BitVec 12) (bits : BitVec 512), pktKind bits ≠ 2 →
    ∃ b : BitVec 512, (s.sendPacket d asid target bits).dies[target].transit = s.dies[target].transit ++ [⟨b, asid, .die d, none⟩] ∧
      pktField b 4 1 = d.val ∧ pktField b 8 8 = s.dies[d].sentTo[target] % 2 ^ 64 ∧ pktField b 0 4 = pktField bits 0 4 ∧
      pktField b 16 48 = pktField bits 16 48 ∧
      (s.sendPacket d asid target bits).dies[d].sentTo[target] = s.dies[d].sentTo[target] + 1)

/-- Tier 1. `route` chooses a placement of an expert and acquires; `gang` and `lease` set their registers within the bounds of R220 and R221. -/
def Obligations.RouteGangLease : Prop :=
  Ends .route .route (fun c => ∀ i : Lane, inMask c.m i = true → (c.a32 i).toNat ≤ 4095)
    (fun c => Ctx.result64 { c with s := c.s.acquireAt c.r.die c.r.core .home } (fun i =>
      routeOf c.s0.dies[c.r.die].replicas (c.a32 i).toNat (if c.f.sb = .none then i.val else (c.b32 i).toNat))) ∧
  Raises .route false .route (fun c => ∃ i : Lane, inMask c.m i = true ∧ 4095 < (c.a32 i).toNat) 0x02 0 (fun _ => 0) (fun _ => 0) ∧
  (∀ (t : ReplicaTable) (e b : Nat), t.places e = [] → routeOf t e b = 0xFFFFFFFFFFFFFFFF) ∧
  (∀ (t : ReplicaTable) (e b : Nat) (p : Placement), (t.places e)[b % (t.places e).length]? = some p → p.slot < 256 →
    ((routeOf t e b).extractLsb' 0 8).toNat = p.die.val ∧ ((routeOf t e b).extractLsb' 8 8).toNat = p.slot ∧
    (routeOf t e b).extractLsb' 16 16 = t.version) ∧
  Ends .gang .gang (fun c => 2 ≤ (lanesOf c.aLevel).length ∧ (lanesOf c.aLevel).length ≤ 8 ∧
      (∀ i : Lane, inMask c.aLevel i = true → i.val < c.t.slots.length) ∧ c.t.latch = none)
    (fun c => .done (c.s.modTeam c.r.die c.r.core c.t.uid (fun t => { t with gang := c.aLevel })) .noResult) ∧
  Holds .gang .gang (fun c => 2 ≤ (lanesOf c.aLevel).length ∧ (lanesOf c.aLevel).length ≤ 8 ∧
      (∀ i : Lane, inMask c.aLevel i = true → i.val < c.t.slots.length) ∧ c.t.latch ≠ none) (fun c => c.g) (fun _ => .gang) ∧
  Raises .gang false .gang (fun c => (lanesOf c.aLevel).length < 2 ∨ 8 < (lanesOf c.aLevel).length ∨
      ∃ i : Lane, inMask c.aLevel i = true ∧ c.t.slots.length ≤ i.val) 0x02 0 (fun _ => 0) (fun _ => 0) ∧
  Leaves32 .gangRd .gangRd (fun c _ => c.t.gang) ∧
  Changes .lease .lease (fun c => c.t.dispatcher = true) (fun c => c.popped .lease) ∧
  Changes .lease .lease (fun c => c.t.dispatcher = false ∧ c.aLevel = 0) (fun c =>
    { c.popped .lease with
      lease := { c.g.lease with measured := true, units := 4, accesses := 0, lines := [], windowLost := 0 } }) ∧
  Changes .lease .lease (fun c => c.t.dispatcher = false ∧ 1 ≤ c.aLevel.toNat ∧ c.aLevel.toNat ≤ 128) (fun c =>
    { c.popped .lease with
      lease := { c.g.lease with measured := false, units := c.aLevel.toNat, accesses := 0, lines := [], windowLost := 0 } }) ∧
  Raises .lease false .lease (fun c => c.t.dispatcher = false ∧ 128 < c.aLevel.toNat) 0x02 0 (fun _ => 0) (fun _ => 0)

/-! ## Row 0x8 (spec 09) -/

/-- Tier 1. `ld`, `ldx`, `lds`, `ldc` and `ldt` complete their issue for every lane aligned and translated: the TLBs hold what they walked, an
acquire is made, and the load goes into flight with what it has read; a relaxed one that the agenda defers has yet to read (R223, R226 to R228,
R230; the deferral is the model's, log entries 5 and 85). -/
def Obligations.LoadIssues : Prop :=
  (∀ xs, Ends .ld .ld (fun c => c.Reaches .read (widthOf c.f.sub) (fun i => c.a64 i + c.f.imm.signExtend 64) xs)
    (fun c => c.loads (c.acquire (c.walked ((lanesOf c.m).map c.ea))) c.words (c.spec c.ea xs))) ∧
  (∀ xs, Ends .ldx .ldx (fun c => c.Reaches .read (widthOf c.f.sub)
      (fun i => c.a64 i + c.f.imm.signExtend 64 + (c.b32 i).signExtend 64 * BitVec.ofNat 64 (widthOf c.f.sub)) xs)
    (fun c => c.loads (c.acquire (c.walked ((lanesOf c.m).map c.eaIndexed))) c.words (c.spec c.eaIndexed xs))) ∧
  Ends .lds .lds (fun c => c.ReachesSpad (widthOf c.f.sub) (fun i => c.a32 i + c.f.imm)) (fun c =>
    let k := c.s.core c.r.die c.r.core
    let bad := maskOf (fun i => inMask c.m i && k.spadPoisoned c.t (c.a32 i + c.f.imm).toNat (widthOf c.f.sub))
    c.launchFlight c.s (c.flight false c.words bad (lowestAddr bad (fun i => (c.a32 i + c.f.imm).setWidth 64))
      (lanes (fun i => if inMask c.m i then
        extendLoad c.f.sub (k.spadRead c.t (c.a32 i + c.f.imm).toNat (widthOf c.f.sub)) else 0)))) ∧
  (∀ xs, Ends .ldc .ldc (fun c => c.Reaches .read (widthOf c.f.sub) (fun i => c.a64 i + c.f.imm.signExtend 64) xs) (fun c =>
    let u := xs.foldl (fun s x => s.fillC c.r.die c.r.core x.2.pa (widthOf c.f.sub) (x.2.attrs.cache == 2)) (c.walked ((lanesOf c.m).map c.ea))
    let bad := maskOf (fun i => xs.any (fun x => x.1 == i && u.poisonedIn x.2.pa (widthOf c.f.sub)))
    c.launchFlight u (c.flight false c.words bad (lowestAddr bad c.ea) (lanes (laneValue (xs.map (fun x =>
      (x.1, extendLoad c.f.sub ((span x.2.pa (widthOf c.f.sub)).map (u.cByte c.r.die c.r.core)))))))))) ∧
  Ends .ldt .ldt (fun c => c.f.sub = 1 ∧ c.TileAlignedSpad ∧
      ∀ r, r < 32 → (c.s0.core c.r.die c.r.core).spadFault c.t (c.tileRowSpad r).toNat = none) (fun c =>
    let k := c.s.core c.r.die c.r.core
    let bad := (List.range 32).find? (fun r => k.spadPoisoned c.t (c.tileRowSpad r).toNat 32)
    c.tileFlight c.s (bad.map (fun r => (c.tileRowSpad r).setWidth 64))
      ((List.range 32).flatMap (fun r => k.spadRead c.t (c.tileRowSpad r).toNat 32))) ∧
  (∀ xs : List Translated, Ends .ldt .ldt (fun c => c.f.sub ≠ 1 ∧ c.TileAligned ∧
      xs.length = 32 ∧ ∀ r x, xs[r]? = some x → c.translate (c.tileRow r) .read = .ok x) (fun c =>
    c.loads (c.acquire (c.walked ((List.range 32).map c.tileRow))) 256 ⟨32, c.f.sub, c.f.hint, c.bypasses, true, c.rowPlaces xs⟩))

/-- Tier 2. A walk goes from the root down through the tables of Table D-8 and ends at a leaf, whose address and attributes the access gets, alone or
in a group of 16 or 64, or with the failure of Table D-12 that comes first; the attributes allow or deny the access. An access that is not aligned to
its width raises the alignment trap, one that does not translate the access fault, for the lowest such lane or row, and a scratchpad access beyond
the team's octets SCRATCHPAD-RANGE, in a compute-mode octet BANK-MODE; nothing of the instruction happens (R92, R224, R230, R328 to R331, R336, R339,
R342, R392). A tile access whose stride alone is misaligned reports its base (the model's choice, log entry 27). -/
def Obligations.AccessTraps : Prop :=
  (∀ (s : State) (d : DieId) (asid : BitVec 12) (va root last level n : Nat), s.HasRoot d asid root → 1 ≤ level → level ≤ 4 →
    s.LeadsTo d va (5 - level) 5 root last → s.poisonedIn (entryPlace va level last) 8 = false →
    GoodLeaf (s.entryAt d (entryPlace va level last)) level (va / 2 ^ (12 + 9 * (level - 1)) % 512) n →
    ∃ y, s.walk d asid va = .ok y ∧ y.asid = asid ∧ y.va ≤ va ∧ va < y.va + y.size ∧ y.size = n * 2 ^ (12 + 9 * (level - 1)) ∧
      y.pa + (va - y.va) = ((s.entryAt d (entryPlace va level last)).extractLsb' 12 40).toNat * 4096 + va % 2 ^ (12 + 9 * (level - 1)) ∧
      y.attrs = leafAttrs (s.entryAt d (entryPlace va level last))) ∧
  (∀ (s : State) (d : DieId) (asid : BitVec 12) (va root last level : Nat), s.HasRoot d asid root → 1 ≤ level → level ≤ 5 →
    s.LeadsTo d va (5 - level) 5 root last →
    let e := s.entryAt d (entryPlace va level last)
    (s.poisonedIn (entryPlace va level last) 8 = true → s.walk d asid va = .error .walkPoison) ∧
    (s.poisonedIn (entryPlace va level last) 8 = false → e.getLsbD 0 = false → s.walk d asid va = .error .notPresent) ∧
    (s.poisonedIn (entryPlace va level last) 8 = false → e.getLsbD 0 = true → e.getLsbD 1 = true →
      (∀ n, ¬ GoodLeaf e level (va / 2 ^ (12 + 9 * (level - 1)) % 512) n) → s.walk d asid va = .error .malformed) ∧
    (s.poisonedIn (entryPlace va level last) 8 = false → e.getLsbD 0 = true → e.getLsbD 1 = false → ¬ TableEntry e level →
      s.walk d asid va = .error .malformed)) ∧
  (∀ (s : State) (d : DieId) (c : Option CoreId) (asid : BitVec 12) (va : DWord) (kind : AccessKind),
    (canonical va = false → s.translate d c asid va kind = .error .nonCanonical) ∧
    (canonical va = true → s.xlat.en = false → s.translate d c asid va kind = .error .asidInvalid) ∧
    (∀ e, canonical va = true → s.lookup d c asid (va57 va) = .error e → s.translate d c asid va kind = .error e) ∧
    (∀ y, canonical va = true → s.lookup d c asid (va57 va) = .ok y →
      (y.attrs.Allows kind → s.translate d c asid va kind = .ok ⟨y.pa + (va57 va - y.va), y.attrs⟩) ∧
      (¬ y.attrs.Allows kind → ∃ e, s.translate d c asid va kind = .error e ∧ e = (match kind with
        | .fetch => AccessDetail.execute
        | .read => .read
        | .wload => if y.attrs.r = false then .read else .notResident
        | .write => if y.attrs.w = false then .write else .sealed
        | .atomic => if y.attrs.r = false then .read else if y.attrs.w = false then .write else .sealed)))) ∧
  (∀ (s : State) (d : DieId) (c : CoreId) (asid : BitVec 12) (va : Nat) (y : TlbEntry), s.xlat.en = true → s.released asid va = false →
    (tlbFind (s.core d c).tlb asid va = some y → s.lookup d (some c) asid va = .ok y) ∧
    (tlbFind (s.core d c).tlb asid va = none → tlbFind s.dies[d].tlb asid va = some y → s.lookup d (some c) asid va = .ok y) ∧
    (tlbFind (s.core d c).tlb asid va = none → tlbFind s.dies[d].tlb asid va = none → s.lookup d (some c) asid va = s.walk d asid va)) ∧
  (∀ p ∈ ([(.ld, .ld, .read), (.ldx, .ldx, .read), (.ldc, .ldc, .read), (.st, .st, .write), (.stx, .stx, .write)] :
      List (Op × (Fields → Instr) × AccessKind)),
    ∀ (f : Fields) (s : State) (c : Ctx) (i : Lane), Ready p.1 false f s c →
      let ea := fun l => c.a64 l + f.imm.signExtend 64 +
        (if p.1 = .ldx ∨ p.1 = .stx then (c.b32 l).signExtend 64 * BitVec.ofNat 64 (widthOf f.sub) else 0)
      c.FirstBad p.2.2 (widthOf f.sub) ea i →
      ((ea i).toNat % widthOf f.sub ≠ 0 → exec (p.2.1 f) s = .next ((c.charged s).raise c.r (c.info 0x20 0 (ea i) 0))) ∧
      (∀ e, (ea i).toNat % widthOf f.sub = 0 → c.translate (ea i) p.2.2 = .error e →
        exec (p.2.1 f) s = .next ((c.charged s).raise c.r (c.info 0x21 e.code (ea i) 0)))) ∧
  (∀ p ∈ ([(.atom, .atom), (.red, .red), (.atomf, .atomf), (.atomcas, .atomcas)] : List (Op × (Fields → Instr))),
    ∀ (f : Fields) (s : State) (c : Ctx) (i : Lane), Ready p.1 false f s c → (p.1 = .atomcas → f.sub.getLsbD 2 = false) →
      let ea := fun l => c.a64 l + f.imm.signExtend 64
      let n := if p.1 = .atomcas ∧ f.sub.getLsbD 0 = true then 8 else 4
      c.FirstBad .atomic n ea i →
      ((ea i).toNat % n ≠ 0 → exec (p.2 f) s = .next ((c.charged s).raise c.r (c.info 0x20 0 (ea i) 0))) ∧
      (∀ e, (ea i).toNat % n = 0 → c.translate (ea i) .atomic = .error e →
        exec (p.2 f) s = .next ((c.charged s).raise c.r (c.info 0x21 e.code (ea i) 0)))) ∧
  (∀ p ∈ ([(.lds, .lds), (.sts, .sts), (.atoms, .atoms), (.atomcas, .atomcas)] : List (Op × (Fields → Instr))),
    ∀ (f : Fields) (s : State) (c : Ctx) (i : Lane), Ready p.1 false f s c → (p.1 = .atomcas → f.sub.getLsbD 2 = true) →
      let ea := fun l => c.a32 l + f.imm
      let n := if p.1 = .atomcas then (if f.sub.getLsbD 0 then 8 else 4) else if p.1 = .atoms then 4 else widthOf f.sub
      c.FirstBadSpad n ea i →
      ((ea i).toNat % n ≠ 0 → exec (p.2 f) s = .next ((c.charged s).raise c.r (c.info 0x20 0 ((ea i).setWidth 64) 0))) ∧
      (∀ e, (ea i).toNat % n = 0 → (s.core c.r.die c.r.core).spadPlace c.t (ea i).toNat = .error e →
        exec (p.2 f) s = .next ((c.charged s).raise c.r (c.info e 0 ((ea i).setWidth 64) 0)))) ∧
  (∀ p ∈ ([(.ldt, .ldt, .read), (.stt, .stt, .write)] : List (Op × (Fields → Instr) × AccessKind)),
    ∀ (f : Fields) (s : State) (c : Ctx), Ready p.1 false f s c → (p.1 = .stt → ∃ n, f.sx = .t n) →
      (f.sub ≠ 1 → ¬ c.TileAligned → exec (p.2.1 f) s = .next ((c.charged s).raise c.r (c.info 0x20 0 (c.tileRow 0) 0))) ∧
      (∀ (r : Nat) (e : AccessDetail), f.sub ≠ 1 → c.TileAligned → r < 32 → c.translate (c.tileRow r) p.2.2 = .error e →
        (∀ q, q < r → ∃ x, c.translate (c.tileRow q) p.2.2 = .ok x) →
        exec (p.2.1 f) s = .next ((c.charged s).raise c.r (c.info 0x21 e.code (c.tileRow r) 0))) ∧
      (f.sub = 1 → ¬ c.TileAlignedSpad →
        exec (p.2.1 f) s = .next ((c.charged s).raise c.r (c.info 0x20 0 ((c.tileRowSpad 0).setWidth 64) 0))) ∧
      (∀ (r : Nat) (e : Byte), f.sub = 1 → c.TileAlignedSpad → r < 32 →
        (s.core c.r.die c.r.core).spadPlace c.t (c.tileRowSpad r).toNat = .error e →
        (∀ q, q < r → ∃ x, (s.core c.r.die c.r.core).spadPlace c.t (c.tileRowSpad q).toNat = .ok x) →
        exec (p.2.1 f) s = .next ((c.charged s).raise c.r (c.info e 0 ((c.tileRowSpad r).setWidth 64) 0)))) ∧
  (∀ (k : Core) (t : Team) (a : Nat), t.octetAt (a / 131072) = none → k.spadPlace t a = .error 0x22) ∧
  (∀ (k : Core) (t : Team) (a : Nat) (o : Fin 8), t.octetAt (a / 131072) = some o → k.octets[o].mode = .compute →
    k.spadPlace t a = .error 0x23)

/-- Tier 2. The frame of a global load of a group with no load that has yet to read: no register changes at its issue, no byte of memory comes from
nowhere, and none changes on pages that L2 holds; each loaded byte is one that the package holds, and on such pages one that the core or its die
holds. A load that the agenda defers has read nothing yet (R101, R107, R226; the deferral is the model's, log entry 85). -/
def Obligations.LoadFrame : Prop :=
  ∀ p ∈ ([(.ld, .ld), (.ldx, .ldx)] : List (Op × (Fields → Instr))),
    ∀ (f : Fields) (s : State) (c : Ctx) (xs : List (Lane × Translated)), s.memoryOk → Ready p.1 false f s c →
      (∀ y ∈ c.g.flights, y.late = none) →
      let ea := fun l => c.a64 l + f.imm.signExtend 64 +
        (if p.1 = .ldx then (c.b32 l).signExtend 64 * BitVec.ofNat 64 (widthOf f.sub) else 0)
      c.Reaches .read (widthOf f.sub) ea xs →
      ∃ t g x, exec (p.2 f) s = .next t ∧ t.group? c.r = some g ∧ SameRegs c.g g ∧ g.flights = c.g.flights ++ [x] ∧ x.dst = f.dst ∧
        x.mask = c.m ∧ c.KeepsBytes s t (fun _ => True) ∧ ((∀ y ∈ xs, y.2.attrs.cache ≠ 2) → c.OnlyCore s t (fun _ => True)) ∧
        (s.deferred = true → f.md.getLsbD 3 = false → x.late = some (c.spec ea xs)) ∧
        (¬ (s.deferred = true ∧ f.md.getLsbD 3 = false) → x.late = none ∧
          (∀ y ∈ xs, widthOf f.sub = 4 → ∀ j, j < 4 → s.holds (s.homeAddr (y.2.pa + j)) ((x.vals[y.1]).extractLsb' (8 * j) 8)) ∧
          ((s.core c.r.die c.r.core).pending = [] → t.poison = s.poison ∧
            (t.dies[c.r.die].l2Lines.length < l2SliceLines → (∀ y ∈ xs, y.2.attrs.cache ≠ 2) → ∀ y ∈ xs, widthOf f.sub = 4 → ∀ j, j < 4 →
              ((x.vals[y.1]).extractLsb' (8 * j) 8 = s.coreByte c.r.die c.r.core (y.2.pa + j) ∨
                (x.vals[y.1]).extractLsb' (8 * j) 8 = s.dieByte c.r.die (y.2.pa + j)))))

/-- Tier 1. The stores `st`, `stx`, `sts` and `stt` complete: the release first, then the lanes' or the rows' data in ascending order
(R90, R96, R106, R110, R226, R227, R230). A relaxed store that the agenda defers waits in its core (the model's choice of when, log entry 85);
one that does not performs in L1 where L1 holds or takes its sector, else in L2, and one on a page that bypasses L2 at home (R94, R95, R332). -/
def Obligations.StoreIssues : Prop :=
  (∀ xs, Ends .st .st (fun c => c.Reaches .write (widthOf c.f.sub) (fun i => c.a64 i + c.f.imm.signExtend 64) xs) (fun c =>
    .done (c.stored c.ea xs (c.storeData c.f.sb)) .noResult)) ∧
  (∀ xs, Ends .stx .stx (fun c => c.Reaches .write (widthOf c.f.sub)
      (fun i => c.a64 i + c.f.imm.signExtend 64 + (c.b32 i).signExtend 64 * BitVec.ofNat 64 (widthOf c.f.sub)) xs) (fun c =>
    .done (c.stored c.eaIndexed xs (c.storeData c.f.dst)) .noResult)) ∧
  Ends .sts .sts (fun c => c.ReachesSpad (widthOf c.f.sub) (fun i => c.a32 i + c.f.imm)) (fun c =>
    .done ((lanesOf c.m).foldl (fun s i =>
      s.spadWrite c.r.die c.r.core c.t (c.a32 i + c.f.imm).toNat (c.storeData c.f.sb i)) (c.release c.s)) .noResult) ∧
  (∀ n : BitVec 4, Ends .stt .stt (fun c => c.f.sx = .t n ∧ c.f.sub = 1 ∧ c.TileAlignedSpad ∧
      ∀ r, r < 32 → (c.s0.core c.r.die c.r.core).spadFault c.t (c.tileRowSpad r).toNat = none) (fun c =>
    .done ((List.range 32).foldl (fun s r =>
      s.spadWrite c.r.die c.r.core c.t (c.tileRowSpad r).toNat (tileRowBytes (c.g.tile n) r)) (c.release c.s)) .noResult)) ∧
  (∀ (n : BitVec 4) (xs : List Translated), Ends .stt .stt (fun c => c.f.sx = .t n ∧ c.f.sub ≠ 1 ∧ c.TileAligned ∧
      xs.length = 32 ∧ ∀ r x, xs[r]? = some x → c.translate (c.tileRow r) .write = .ok x) (fun c =>
    .done (c.putAll (c.walked ((List.range 32).map c.tileRow)) false (xs.zipIdx.map (fun x => (x.1, tileRowBytes (c.g.tile n) x.2)))) .noResult)) ∧
  (∀ (c : Ctx) (s : State) (lease : Bool) (xs : List (Translated × List Byte)), (c.f.hint = 3 ∨ c.releases = false) →
    c.putAll s lease xs = xs.foldl (fun t x => c.putStore (wholeSectors (xs.flatMap (fun x => span x.1.pa x.2.length))) t x.1 x.2)
      ((c.release s).l1Accesses c.r (xs.flatMap (fun x => span x.1.pa x.2.length)) true c.f.hint (bypassed (xs.map Prod.fst) false) c.wrote lease)) ∧
  (∀ (c : Ctx) (whole : List Nat) (s : State) (x : Translated) (bs : List Byte),
    (x.attrs.cache = 2 → c.putStore whole s x bs = s.writeAt c.r.die c.r.core .home x.pa bs) ∧
    (x.attrs.cache ≠ 2 → c.releases = true → c.through ≠ .core → c.putStore whole s x bs = s.writeAt c.r.die c.r.core c.through x.pa bs) ∧
    (x.attrs.cache ≠ 2 → c.releases = false → c.s0.deferred = true → ∃ all, c.putStore whole s x bs =
      s.modCore c.r.die c.r.core (fun k => { k with pending := k.pending ++ [⟨c.r.slot, x.pa, bs, c.f.hint != 3 && x.attrs.cache == 0, all⟩] })) ∧
    (x.attrs.cache ≠ 2 → c.releases = false → c.s0.deferred = false → ∃ y : PendingStore, c.putStore whole s x bs =
      s.performStore c.r.die c.r.core y ∧ y.pa = x.pa ∧ y.bytes = bs)) ∧
  (∀ (s : State) (d : DieId) (k : CoreId) (x : PendingStore), (s.core d k).holds x.pa x.bytes.length = false →
    (x.alloc = false ∨ (s.core d k).holdsLine (x.pa / 128) = false) → s.performStore d k x = s.writeAt d k .die x.pa x.bytes)

/-- Tier 2. The frame of a plain store of one lane (no release, a page that L2 holds, a group with no load that has yet to read): no register
changes, the core reads the stored bytes at the address that the operands give, or holds them in a store that waits (log entry 85), and every
other byte of memory is as before (R96, R101, R226). -/
def Obligations.StoreFrame : Prop :=
  ∀ p ∈ ([(.st, .st), (.stx, .stx)] : List (Op × (Fields → Instr))),
    ∀ (f : Fields) (s : State) (c : Ctx) (l : Lane) (x : Translated), s.memoryOk → Ready p.1 false f s c →
      (∀ y ∈ c.g.flights, y.late = none) →
      let ea := fun l => c.a64 l + f.imm.signExtend 64 +
        (if p.1 = .stx then (c.b32 l).signExtend 64 * BitVec.ofNat 64 (widthOf f.sub) else 0)
      let data := c.storeData (if p.1 = .stx then f.dst else f.sb) l
      c.Reaches .write (widthOf f.sub) ea [(l, x)] → f.md.getLsbD 4 = false → x.attrs.cache ≠ 2 →
      ∃ t g, exec (p.2 f) s = .next t ∧ t.group? c.r = some g ∧ SameRegs c.g g ∧ g.flights = c.g.flights ∧
        c.OnlyCore s t (fun a => ¬ (x.pa ≤ a ∧ a < x.pa + widthOf f.sub)) ∧
        (s.deferred = false → ∀ j, j < widthOf f.sub → some (t.coreByte c.r.die c.r.core (x.pa + j)) = data[j]?) ∧
        (s.deferred = true → ∃ y, (t.core c.r.die c.r.core).pending.getLast? = some y ∧ y.slot = c.r.slot ∧ y.pa = x.pa ∧ y.bytes = data)

/-- Tier 2. The frame of scratchpad stores that release nothing that waits: in the whole package only the issuing group moves on, with the count of
its issue, and in the banks of its core only storage bytes at the lanes' addresses change, with the poison of words written whole; no register, no
other group, no accumulator, no waiting store, no state table, no octet and no byte of memory (R85, R86, R227, R359). -/
def Obligations.ScratchpadStoreFrame : Prop :=
  ∀ f s c, s.memoryOk → Ready .sts false f s c → c.ReachesSpad (widthOf f.sub) (fun i => c.a32 i + f.imm) →
    (f.md.getLsbD 4 = false ∨ (s.NoneWaits c.r ∧ scopeLevel (f.md.toNat % 8) = .core)) →
    ∃ (g : Group) (bs : Vector Bank 64),
      exec (.sts f) s = .next ((c.after g).modCore c.r.die c.r.core (fun k => { k with banks := bs })) ∧
      g = c.stepped (c.popped .sts) .noResult ∧ SameRegs c.g g ∧
      (∀ b : Fin 64, { bs[b] with
          mem := (s.core c.r.die c.r.core).banks[b].mem
          poison := (s.core c.r.die c.r.core).banks[b].poison } = (s.core c.r.die c.r.core).banks[b] ∧
        (∀ u ∈ bs[b].poison, u ∈ (s.core c.r.die c.r.core).banks[b].poison)) ∧
      (∀ (b : Fin 64) (off : Nat),
        (∀ (i : Lane) (j : Nat), inMask c.m i = true → j < widthOf f.sub →
          (s.core c.r.die c.r.core).spadPlace c.t ((c.a32 i + f.imm).toNat + j) ≠ .ok ⟨b, off⟩) →
        (cellGet bs[b].mem off).getD 0 = (cellGet (s.core c.r.die c.r.core).banks[b].mem off).getD 0) ∧
      (∀ (i : Lane) (j : Nat), c.m = 1#32 <<< i.val → j < widthOf f.sub →
        some (({ s.core c.r.die c.r.core with banks := bs } : Core).spadByte c.t ((c.a32 i + f.imm).toNat + j)) = (c.storeData f.sb i)[j]?)

/-- Tier 1. `pf` never traps: for each member lane that a TLB translates, `.l2` fetches the line into L2 and the L1 form into L1 too (R229); `tmov`
moves elements between registers and tiles as Table K-54 says, and a write changes the bytes it names and no other (R82, R231). That `pf` acts where
a TLB holds the page, and walks nothing, is the model's choice (log entry 39). -/
def Obligations.PrefetchAndTiles : Prop :=
  (Changes .pf .pf (fun c => ∀ i : Lane, inMask c.m i = true → c.pfTarget i = none) (fun c => c.popped .pf) ∧
  (∀ xs : List Translated, Ends .pf .pf (fun c => c.f.sub = 1 ∧ (lanesOf c.m).filterMap c.pfTarget = xs) (fun c =>
    .done (xs.foldl (fun s x => if x.attrs.cache = 2 then s else s.l2Take c.r.die (x.pa / 128)) c.s) .noResult)) ∧
  (∀ xs : List Translated, Ends .pf .pf (fun c => c.f.sub ≠ 1 ∧ (lanesOf c.m).filterMap c.pfTarget = xs) (fun c =>
    .done (xs.foldl (fun s x => s.l1Access c.r (x.pa / 128) (span (x.pa / 128 * 128) 128) false (if x.attrs.cache = 0 then c.f.hint else 3) none false false) c.s)
      .noResult)) ∧
  (∀ f s c, s.memoryOk → Ready .pf false f s c → ∃ t g, exec (.pf f) s = .next t ∧ t.group? c.r = some g ∧ SameRegs c.g g ∧ g.flights = c.g.flights ∧
    c.OnlyCore s t (fun _ => True))) ∧
  (ReadsTile .tmovRd .tmovRd (fun t i b => tileAt t (128 * (b % 8) + 4 * i) 4) ∧
  ReadsTile .tmovC8 .tmovC8 (fun t i b => tileAt t (32 * i + b % 32) 1) ∧
  ReadsTile .tmovC16 .tmovC16 (fun t i b => tileAt t (32 * i + 2 * (b % 16)) 2) ∧
  ReadsTile .tmovC32 .tmovC32 (fun t i b => tileAt t (32 * i + 4 * (b % 8)) 4) ∧
  ReadsTile .tmovC4 .tmovC4 (fun t i b =>
    if b % 2 = 0 then tileAt t (32 * i + b % 64 / 2) 1 &&& 0xF else tileAt t (32 * i + b % 64 / 2) 1 >>> 4) ∧
  WritesTile .tmovWr .tmovWr 4 (fun i b => 128 * (b % 8) + 4 * i) ∧
  WritesTile .tmovWc32 .tmovWc32 4 (fun i b => 32 * i + 4 * (b % 8)) ∧
  WritesTile .tmovWc8 .tmovWc8 1 (fun i b => 32 * i + b % 32))

/-! ## Row 0x9 (spec 09) -/

/-- Tier 1. Atomics perform their lanes in ascending order at the level of their scope, after the release they may make, and return the old values
in flight: `atom`, `red`, `atomf` and `atomcas` in memory, `atoms` and `atomcas` in the scratchpad (R110, R113, R233). That a die-scope lane
first makes its core's own dirty bytes current is log entry 40. -/
def Obligations.AtomicIssues : Prop :=
  (∀ p ∈ ([(.atom, .atom, fun c => atomOf c.f.sub), (.red, .red, fun c => atomOf c.f.sub), (.atomf, .atomf, fun c => atomfOf c.f.sub)] :
      List (Op × (Fields → Instr) × (Ctx → Word → Word → Word))), ∀ xs,
    Ends p.1 p.2.1 (fun c => c.Reaches .atomic 4 (fun i => c.a64 i + c.f.imm.signExtend 64) xs) (fun c =>
      c.atomics 4 xs (fun i old => (p.2.2 c (BitVec.ofNat 32 old) (c.b32 i)).toNat))) ∧
  (∀ xs, Ends .atomcas .atomcas (fun c => c.f.sub.getLsbD 2 = false ∧
      c.Reaches .atomic (if c.f.sub.getLsbD 0 then 8 else 4) (fun i => c.a64 i + c.f.imm.signExtend 64) xs) (fun c =>
    c.atomics (if c.f.sub.getLsbD 0 then 8 else 4) xs c.casNew)) ∧
  (∀ p ∈ ([(.atoms, .atoms), (.atomcas, .atomcas)] : List (Op × (Fields → Instr))),
    Ends p.1 p.2 (fun c => (p.1 = .atomcas → c.f.sub.getLsbD 2 = true) ∧
        c.ReachesSpad (if p.1 = .atomcas ∧ c.f.sub.getLsbD 0 = true then 8 else 4) (fun i => c.a32 i + c.f.imm)) (fun c =>
      let n := if p.1 = .atomcas ∧ c.f.sub.getLsbD 0 = true then 8 else 4
      let run := c.atomLanesSpad n (fun i old => if p.1 = .atomcas then c.casNew i old
        else (atomOf c.f.sub (BitVec.ofNat 32 old) (c.b32 i)).toNat)
      let bad := maskOf (fun i => inMask c.m i && (c.s.core c.r.die c.r.core).spadPoisoned c.t (c.a32 i + c.f.imm).toNat n)
      c.launchFlight (c.acquire run.s) (c.flight true (n / 4) bad (lowestAddr bad (fun i => (c.a32 i + c.f.imm).setWidth 64))
        (lanes (laneValue run.olds))))) ∧
  (∀ a b : Word, atomOf 0 a b = a + b ∧ (atomOf 1 a b).toInt = min a.toInt b.toInt ∧ (atomOf 2 a b).toInt = max a.toInt b.toInt ∧
    (atomOf 3 a b).toNat = min a.toNat b.toNat ∧ (atomOf 4 a b).toNat = max a.toNat b.toNat ∧ atomOf 5 a b = a &&& b ∧
    atomOf 6 a b = a ||| b ∧ atomOf 7 a b = a ^^^ b) ∧
  (∀ (c : Ctx) (i : Lane) (old : Nat), c.f.sub.getLsbD 0 = false →
    (c.f.sub.getLsbD 1 = true → c.casNew i old = (c.b32 i).toNat) ∧
    (c.f.sub.getLsbD 1 = false → c.casNew i old = if old = (c.b32 i).toNat then (c.c32 i).toNat else old))

/-- Tier 2. One lane of an atomic at die scope, whose bytes lie in one sector, leaves its new value where its die reads it; while the die's L2 gives
up no line for want of room, it reads the newest value that its core's die can see, its own dirty sector made current first (the model's choice, log
entry 40), and neither the home slices nor any other byte that the die reads change, but for what that sector brought (R102, R104, R113). -/
def Obligations.AtomicAtDie : Prop :=
  ∀ (s : State) (d : DieId) (c : CoreId) (a n : Nat) (op : Nat → Nat), s.memoryOk → 0 < n → (a + n - 1) / 32 = a / 32 →
    (s.rmw d c .die a n op).2.readDie d a n = leBytes n (op (s.rmw d c .die a n op).1) ∧
    ((s.rmw d c .die a n op).2.dies[d].l2Lines.length < l2SliceLines →
      (s.rmw d c .die a n op).1 = leNat ((span a n).map (fun x => (cellGet (s.core d c).l1Dirty x).getD (s.dieByte d x))) ∧
      (s.rmw d c .die a n op).2.hbm = s.hbm ∧
      (∀ x, x < a ∨ a + n ≤ x → (s.rmw d c .die a n op).2.dieByte d x =
        if x / 32 = a / 32 then (cellGet (s.core d c).l1Dirty x).getD (s.dieByte d x) else s.dieByte d x))

/-! ## Row 0xA (spec 09) -/

/-- Tier 1. The engine instructions fork: the release of Table K-20, one more in PEND of their barrier register, and the operation in its queue;
a length of 0 in `cpy` arrives at once; a misaligned address or length, a barrier register that is idle or not the team's, and scratchpad
use without an octet trap, and with no room in the queue, or while a `bfree` waits for an octet of theirs, they hold (R89, R115, R206, R224,
R235, R238 to R242, R248 to R250). `wload` takes its place in bank order as it issues, also while it holds for room (R69, R265). Choices of the
model: log entries 30 (the seal of its own), 41, 54 (the set of a merge), 97 (the order of those that wait for an octet) and 108 (xsend's
alignment). -/
def Obligations.EngineIssues : Prop :=
  ((∀ b : Fin 16, Ends .cpy .cpy (fun c => c.CpyOk ∧ c.Arrives b ∧ c.HasRoom .caravan 1 ∧ c.cLevel ≠ 0 ∧ c.blockedOn (c.cpyOctets b) = false)
    (fun c => .done (c.fork .die b (.cpy c.f.sub) c.cpySrc c.cpyDst c.cLevel.toNat) .noResult)) ∧
  (∀ b : Fin 16, Ends .cpy .cpy (fun c => c.CpyOk ∧ c.Arrives b ∧ c.cLevel = 0)
    (fun c => .done ((c.s.releaseBy c.r .die).putBar c.r.die c.r.core c.t b (c.t.barriers[b].after 1)) .noResult)) ∧
  (∀ b : Fin 16, Ends .xform .xform (fun c => c.Arrives b ∧ c.HasRoom .sirocco 1 ∧ c.xfSrc.toNat % 64 = 0 ∧ c.xfDst.toNat % 64 = 0 ∧
      c.blockedOn (c.xfOctets b) = false)
    (fun c => .done (c.fork .die b c.xfKind c.xfSrc c.xfDst 0) .noResult)) ∧
  (∀ b : Fin 16, Ends .seal .seal (fun c => c.Arrives b ∧ c.HasRoom .sirocco 1 ∧ c.xfSrc.toNat % 4096 = 0 ∧
      c.xfDst ≠ 0 ∧ c.xfDst.toNat % 4096 = 0 ∧ (c.f.sx = .none ∨ (c.g.level64 c.f c.f.sx c.m).toNat % 64 = 0))
    (fun c =>
      let record := if c.f.sx = .none then none else some (c.g.level64 c.f c.f.sx c.m)
      let own := match c.s0.sealCheck c.r.die c.t.asid c.xfSrc c.xfDst.toNat record with
        | .ok _ => true
        | .error _ => false
      .done (c.fork .home b (.seal record own none) c.xfSrc 0 c.xfDst.toNat) .noResult)) ∧
  (∀ b : Fin 16, Ends .coll .coll (fun c => c.Arrives b ∧ c.t.inRange = true ∧ c.t.packed = false ∧ c.HasRoom .coll 1 ∧
      c.xfSrc.toNat % 16 = 0 ∧ c.xfDst.toNat % 16 = 0 ∧
      (c.cLevel.toNat * collSize c.f.md) % 16 = 0 ∧ c.cLevel.toNat * collSize c.f.md ≤ 268435456)
    (fun c =>
      let n := keyGet c.s0.dies[c.r.die].collCount c.t.key 0
      .done (((c.fork .home b (.coll c.f.sub c.f.md c.f.imm n none) c.xfSrc c.xfDst
        (c.cLevel.toNat * collSize c.f.md)).modDie c.r.die (fun d => { d with collCount := keySet d.collCount c.t.key (n + 1) })).enterMerge
        c.r.die c.t.key n c.f.sub c.f.imm) .noResult)) ∧
  Ends .xsend .xsend (fun c => c.XsendOk ∧ c.HasRoom .caravan 1 ∧ c.blockedOn (c.engineOctets (c.xsendOp c.s0)) = false)
    (fun c =>
      let u := c.s.releaseBy c.r .die
      .done ({ u with uid := u.uid + 1 }.modDie c.r.die (fun d => { d with engines := d.engines ++ [c.xsendOp u] })) .noResult) ∧
  (∀ (b : Fin 16) (k : Fin 64),
    Ends .wload .wload (fun c => c.WloadOk b k ∧ c.HasRoom .caravan 1 ∧ (∀ id, c.g.hold ≠ some (.wload id)) ∧
        c.blockedOn [Fin.ofNat 8 (k.val / 8)] = false)
      (fun c => .done ((Ctx.forkAs { c with s := c.walked [c.xfSrc] } c.s.uid .die b (.wload k) c.xfSrc 0 17408).modCore c.r.die c.r.core
        (fun x => { x with seq := x.seq ++ [seqItem c.s.uid (.wload k)] })) .noResult) ∧
    Ends .wload .wload (fun c => c.WloadOk b k ∧ ¬ c.HasRoom .caravan 1 ∧ (∀ id, c.g.hold ≠ some (.wload id)) ∧
        c.blockedOn [Fin.ofNat 8 (k.val / 8)] = false)
      (fun c => .holdWith ({ c.s0 with uid := c.s0.uid + 1 }.modCore c.r.die c.r.core
        (fun x => { x with seq := x.seq ++ [seqItem c.s0.uid (.wload k)] })) (.wload c.s0.uid)) ∧
    (∀ id : Nat, Ends .wload .wload (fun c => c.WloadOk b k ∧ c.HasRoom .caravan 1 ∧ c.g.hold = some (.wload id))
      (fun c => .done (Ctx.forkAs { c with s := c.walked [c.xfSrc] } id .die b (.wload k) c.xfSrc 0 17408) .noResult))) ∧
  (∀ t : Fin 8, Ends .cpyt .cpyt (fun c => c.f.ctag.toNat = t.val ∧ c.CpytOk ∧ c.HasRoom .caravan (lanesOf c.m).length ∧
      c.g.tags[t] + (lanesOf c.m).length ≤ 1023 ∧ c.blockedOn c.cpytOctets = false)
    (fun c =>
      let u := (c.s.releaseBy c.r .die).modGroup c.r (fun g =>
        { g with tags := g.tags.set t (g.tags[t] + (lanesOf c.m).length) })
      .done ((lanesOf c.m).foldl (fun s i =>
        let op := c.engineOp s (.cpyt c.f.sub) (.tag t) (c.laneAddr (dirSrcGlobal c.f.sub) c.f.sa i)
          (c.laneAddr (dirDstGlobal c.f.sub) c.f.sb i) (c.cpytLen i)
        { s with uid := s.uid + 1 }.modDie c.r.die (fun d => { d with engines := d.engines ++ [op] })) u) .noResult))) ∧
  ((∀ b : Fin 16, Holds .cpy .cpy (fun c => c.CpyOk ∧ c.Arrives b ∧ ¬ c.HasRoom .caravan 1 ∧ c.cLevel ≠ 0 ∧ c.blockedOn (c.cpyOctets b) = false)
    (fun c => c.g) (fun _ => .engine)) ∧
  (∀ b : Fin 16, Ends .cpy .cpy (fun c => c.CpyOk ∧ c.Arrives b ∧ c.cLevel ≠ 0 ∧ c.blockedOn (c.cpyOctets b) = true)
    (fun c => .holdWith { c.s0 with uid := c.s0.uid + 1 } (.busy c.busyPlace (c.cpyOctets b)))) ∧
  Holds .cpyt .cpyt (fun c => c.CpytOk ∧ 1023 < c.g.tags[c.f.ctag.toFin] + (lanesOf c.m).length) (fun c => c.g) (fun _ => .tag) ∧
  (∀ c : Ctx, ∀ os : List (Fin 8), c.blockedOn os = true ↔ ∃ o ∈ os, ∃ p ∈ c.s0.groupsOf c.r.die c.r.core c.t,
    p.2.hold = some (.octet o) ∨ ∃ n qs, p.2.hold = some (.busy n qs) ∧ n < c.busyPlace ∧ o ∈ qs)) ∧
  (Raises .cpy false .cpy (fun c => c.cpySrc.toNat % 16 ≠ 0) 0x20 0 (fun c => c.cpySrc) (fun _ => 0) ∧
  Raises .cpy false .cpy (fun c => c.cpySrc.toNat % 16 = 0 ∧ c.cpyDst.toNat % 16 ≠ 0) 0x20 0 (fun c => c.cpyDst) (fun _ => 0) ∧
  Raises .cpy false .cpy (fun c => c.cpySrc.toNat % 16 = 0 ∧ c.cpyDst.toNat % 16 = 0 ∧ c.cLevel.toNat % 16 ≠ 0) 0x20 0 (fun _ => 0)
    (fun _ => 0) ∧
  Raises .cpy false .cpy (fun c => c.cpySrc.toNat % 16 = 0 ∧ c.cpyDst.toNat % 16 = 0 ∧ c.cLevel.toNat % 16 = 0 ∧ c.f.sub ≠ 2 ∧
    c.t.desc.octets = 0) 0x02 0 (fun _ => 0) (fun _ => 0) ∧
  Raises .cpy false .cpy (fun c => c.CpyOk ∧ ∀ b, ¬ c.Arrives b) 0x02 0 (fun _ => 0) (fun _ => 0) ∧
  Raises .xform false .xform (fun c => c.xfSrc.toNat % 64 ≠ 0) 0x20 0 (fun c => c.xfSrc) (fun _ => 0) ∧
  Raises .xform false .xform (fun c => c.xfSrc.toNat % 64 = 0 ∧ c.xfDst.toNat % 64 = 0 ∧ ∀ b, ¬ c.Arrives b) 0x02 0 (fun _ => 0) (fun _ => 0) ∧
  Raises .seal false .seal (fun c => c.xfSrc.toNat % 4096 = 0 ∧ c.xfDst.toNat % 4096 ≠ 0) 0x20 0 (fun _ => 0) (fun _ => 0) ∧
  Raises .xsend false .xsend (fun c => (c.levelAddr (c.f.sub != 1) c.f.sa).toNat % 16 = 0 ∧ ¬ c.XsendOk) 0x02 0 (fun _ => 0) (fun _ => 0) ∧
  Raises .cpyt false .cpyt (fun c => (∀ i : Lane, inMask c.m i = true → (c.laneAddr (dirSrcGlobal c.f.sub) c.f.sa i).toNat % 16 = 0 ∧
    (c.laneAddr (dirDstGlobal c.f.sub) c.f.sb i).toNat % 16 = 0) ∧ ¬ c.CpytOk) 0x02 0 (fun _ => 0) (fun _ => 0) ∧
  Raises .wload false .wload (fun c => c.xfSrc.toNat % 64 ≠ 0) 0x20 0 (fun c => c.xfSrc) (fun _ => 0) ∧
  (∀ (b : Fin 16) (k : Fin 64) (e : AccessDetail), Raises .wload false .wload (fun c => c.Arrives b ∧ c.bLevel.toNat = k.val ∧
      c.xfSrc.toNat % 64 = 0 ∧ c.wloadFault c.xfSrc = some e ∧ (c.s0.core c.r.die c.r.core).octets[k.val / 8].owner = some c.t.uid)
    0x21 e.code (fun c => c.xfSrc) (fun _ => 0)) ∧
  Raises .coll false .coll (fun c => c.t.inRange = false ∨ c.t.packed = true) 0x02 0 (fun _ => 0) (fun _ => 0))

/-- Tier 2. A fork raises PEND of its barrier register by one and leaves the rest of the register, and puts one operation at the end of the
die's engine queue, with a number of its own; a bank operation accepted stands at the end of the core's bank order under a number of its
own (R206, R235, R260, R265). -/
def Obligations.QueuedWork : Prop :=
  (∀ (c : Ctx) (f : Fields) (s : State) (op : Op) (lvl : Level) (b : Fin 16) (kind : EngKind) (src dst : DWord) (len : Nat),
    s.ctx? f = some c → c.t.desc.halo = false →
    ∃ t x, ((c.go op).fork lvl b kind src dst len).team? c.r.die c.r.core c.t.uid = some t ∧
      t.barriers[b] = { c.t.barriers[b] with pend := c.t.barriers[b].pend + 1 } ∧
      ((c.go op).fork lvl b kind src dst len).dies[c.r.die].engines = s.dies[c.r.die].engines ++ [x] ∧
      x.kind = kind ∧ x.completion = .bar b ∧ x.src = src ∧ x.dst = dst ∧ x.len = len ∧ x.id = s.uid ∧ x.team = c.t.uid) ∧
  (∀ (s : State) (d : DieId) (c : CoreId) (op : BankOp),
    ((s.acceptMac d c op).core d c).seq = (s.core d c).seq ++ [seqItem s.uid (.mac op)] ∧ (s.acceptMac d c op).uid = s.uid + 1 ∧
    (∀ b : Fin 64, ((s.acceptMac d c op).core d c).banks[b].acc = (s.core d c).banks[b].acc ∧
      ((s.acceptMac d c op).core d c).banks[b].mem = (s.core d c).banks[b].mem) ∧
    (s.acceptMac d c op).hbm = s.hbm)

/-- Tier 1. `cwait` and `ctest` observe a copy tag: at a count of at most A they acquire, above it `cwait` holds its members and `ctest` writes
0 (R240); `qcfg` gives a queue its depth out of the group's registers, `qlen` reads its state, and `qdrain` discards entries (R80, R274,
R275). -/
def Obligations.TagsAndQueues : Prop :=
  (∀ t : Fin 8,
    Ends .cwait .cwait (fun c => c.f.sub.toNat = t.val ∧ c.g.tags[t] ≤ c.aLevel.toNat)
      (fun c => .done (c.s.acquireAt c.r.die c.r.core .die) .noResult) ∧
    Places .cwait false .cwait (fun c => c.f.sub.toNat = t.val ∧ c.aLevel.toNat < c.g.tags[t]) (fun c =>
      { c.popped .cwait with
        pcs := updLanes c.g.pcs c.run (fun _ => c.next)
        status := updLanes c.g.status c.m (fun _ => .tagHold t c.aLevel) }) (fun _ => .noResult) ∧
    Ends .ctest .ctest (fun c => c.f.sub.toNat = t.val ∧ c.g.tags[t] ≤ c.aLevel.toNat)
      (fun c => Ctx.result32 { c with s := c.s.acquireAt c.r.die c.r.core .die } (fun _ => 1)) ∧
    Leaves32If .ctest .ctest (fun c => c.f.sub.toNat = t.val ∧ c.aLevel.toNat < c.g.tags[t]) (fun _ _ => 0)) ∧
  ((∀ n : BitVec 4, Changes .qcfg .qcfg (fun c => c.f.sa = .q n ∧ c.bLevel.toNat ≤ 16 ∧ (c.g.queue n).items = [] ∧
      c.g.drainInto n = false ∧ c.t.dispatcher = false ∧ (c.g.depthWith n c.bLevel.toNat + 7) / 8 < c.g.budget)
    (fun c => Group.clearAbove { c.popped .qcfg with queues := (c.popped .qcfg).queues.set n.toNat ⟨c.bLevel.toNat, [], none⟩ n.isLt }
      (c.g.budget - (c.g.depthWith n c.bLevel.toNat + 7) / 8))) ∧
  (∀ n : BitVec 4, Raises .qcfg false .qcfg (fun c => c.f.sa = .q n ∧ (16 < c.bLevel.toNat ∨ (c.g.queue n).items ≠ [] ∨
      c.t.dispatcher = true ∨ c.g.budget ≤ (c.g.depthWith n c.bLevel.toNat + 7) / 8)) 0x02 0 (fun _ => 0) (fun _ => 0)) ∧
  (∀ n : BitVec 4, Leaves32If .qlen .qlen (fun c => c.f.sa = .q n ∧ (c.g.queue n).depth = 0) (fun _ _ => 0)) ∧
  (∀ n : BitVec 4, Leaves32If .qlen .qlen (fun c => c.f.sa = .q n ∧ (c.g.queue n).depth ≠ 0) (fun c _ =>
    BitVec.ofNat 32 (((c.g.queue n).items.length + (if (c.g.queue n).claim.isSome then 1 else 0)) % 32 + 256 * ((c.g.queue n).depth % 32) + 65536 * (c.g.pendingInto n % 32)))) ∧
  (∀ n : BitVec 4, Changes .qdrain .qdrain (fun c => c.f.sa = .q n ∧ (c.g.queue n).depth ≠ 0 ∧ c.g.drainInto n = false) (fun c =>
    { c.popped .qdrain with
      queues := (c.popped .qdrain).queues.set n.toNat { c.g.queue n with
        items := ((c.popped .qdrain).queue n).items.drop (if c.f.sb = .none then (c.g.queue n).items.length else c.bLevel.toNat) } n.isLt })) ∧
  (∀ n : BitVec 4, Raises .qdrain false .qdrain (fun c => c.f.sa = .q n ∧ (c.g.queue n).depth = 0) 0x02 0 (fun _ => 0) (fun _ => 0)))

/-! ## Row 0xB (spec 10) -/

/-- Tier 1. `balloc` allocates a reserved octet at its position, or at the lowest free one, with all of it zero; `bfree` gives it back; both
hold while an operation on the octet is in flight, and trap for an octet that is not reserved for the team (R86, R87, R89, R253, R254). -/
def Obligations.OctetRows : Prop :=
  (∀ (o p : Fin 8), Ends .balloc .balloc (fun c => c.aLevel.toNat = o.val ∧ o ∈ c.t.reserved ∧
      ((c.t.positionOf o = some p ∧ c.s0.octetBusy c.r.die c.r.core c.t o = false) ∨
        (c.t.positionOf o = none ∧ c.t.freePosition = some p)))
    (fun c =>
      let u := (c.s.modCore c.r.die c.r.core (fun k => k.allocOctet c.t.uid o (if c.f.sub = 1 then .compute else .storage))).modTeam
        c.r.die c.r.core c.t.uid (fun t => { t with position := t.position.set p (some o) })
      Ctx.result32 { c with s := u } (fun _ => BitVec.ofNat 32 p.val))) ∧
  (∀ o : Fin 8, Holds .balloc .balloc (fun c => c.aLevel.toNat = o.val ∧ o ∈ c.t.reserved ∧ c.t.positionOf o ≠ none ∧
      c.s0.octetBusy c.r.die c.r.core c.t o = true) (fun c => c.g) (fun _ => .octet o)) ∧
  Raises .balloc false .balloc (fun c => ∀ o : Fin 8, o ∈ c.t.reserved → c.aLevel.toNat ≠ o.val) 0x02 0 (fun _ => 0) (fun _ => 0) ∧
  (∀ (k : Core) (uid : Nat) (o : Fin 8) (m : OctMode), (k.allocOctet uid o m).octets[o] = ⟨some uid, m, []⟩ ∧
    (∀ j : Fin 4, (k.allocOctet uid o m).table[(⟨4 * o.val + j.val, by omega⟩ : Fin 32)] = ⟨none, false⟩) ∧
    (∀ b : Fin 64, b.val / 8 = o.val → (k.allocOctet uid o m).banks[b].mem = [] ∧
      (k.allocOctet uid o m).banks[b].acc = Vector.replicate 8 (Vector.replicate 128 0)) ∧
    (∀ b : Fin 64, b.val / 8 ≠ o.val → (k.allocOctet uid o m).banks[b] = k.banks[b])) ∧
  (∀ o : Fin 8, Changes .bfree .bfree (fun c => c.aLevel.toNat = o.val ∧ o ∈ c.t.reserved ∧ c.t.positionOf o = none)
    (fun c => c.popped .bfree)) ∧
  (∀ (o p : Fin 8), Ends .bfree .bfree (fun c => c.aLevel.toNat = o.val ∧ o ∈ c.t.reserved ∧ c.t.positionOf o = some p ∧
      c.s0.octetBusy c.r.die c.r.core c.t o = false)
    (fun c => .done ((c.s.modCore c.r.die c.r.core (fun k => k.freeOctet o)).modTeam c.r.die c.r.core c.t.uid
      (fun t => { t with position := t.position.set p none })) .noResult)) ∧
  (∀ o : Fin 8, Holds .bfree .bfree (fun c => c.aLevel.toNat = o.val ∧ o ∈ c.t.reserved ∧ c.t.positionOf o ≠ none ∧
      c.s0.octetBusy c.r.die c.r.core c.t o = true) (fun c => c.g) (fun _ => .octet o)) ∧
  Raises .bfree false .bfree (fun c => ∀ o : Fin 8, o ∈ c.t.reserved → c.aLevel.toNat ≠ o.val) 0x02 0 (fun _ => 0) (fun _ => 0)

/-- Tier 1. Five bank rows complete. `bcfg` reads 64 bytes of the scratchpad or of global memory and puts the entry that they make into its slot.
`bfeed` pushes its row into the feeds that MCAST names, and holds for those that are full. `bdrain` goes into flight with its place in bank
order, `bclr` takes its place in bank order as a clear of its rows, and `bstat` gives each member lane the counter and clears it under `.clr`.
Each of the five raises ILLEGAL-OPERAND for an octet that is not the team's and the bank-mode fault for one in storage mode (R89, R252,
R257, R259, R271 to R273). That `bcfg` reads at issue and holds for nothing but an operation that waits before it for its octet is log entry 53,
the column of `bstat` log entry 46, the order of those that wait log entry 97. -/
def Obligations.BankRows : Prop :=
  ((∀ (f : Fields) (s : State) (c : Ctx) (n : Fin 32) (x : Entry) (u : State) (bs : List Byte), Ready .bcfg false f s c →
      c.aLevel.toNat = n.val → c.Computes (n.val / 4) → c.queuedOn [Fin.ofNat 8 (n.val / 4)] = false → (c.go .bcfg).readEntry = .ok (u, bs) →
      parseEntry bs = some x →
      exec (.bcfg f) s = .next (c.settle (.done (u.modCore c.r.die c.r.core (fun k => { k with table := k.table.set n ⟨some x, false⟩ }))
        .noResult))) ∧
  (∀ c : Ctx, c.f.sub = 1 → c.entryAddr.toNat % 64 = 0 →
    (∀ a ∈ span c.entryAddr.toNat 64, (c.s.core c.r.die c.r.core).spadFault c.t a = none) →
    (c.s.core c.r.die c.r.core).spadPoisoned c.t c.entryAddr.toNat 64 = false →
    c.readEntry = .ok (c.s, (c.s.core c.r.die c.r.core).spadRead c.t c.entryAddr.toNat 64)) ∧
  (∀ (c : Ctx) (x : Translated), c.f.sub ≠ 1 → c.entryAddr.toNat % 64 = 0 → c.translate c.entryAddr .read = .ok x →
    ∀ (u : State) (bs : List Byte), c.readBytes c.entryAddr x 64 = (u, some bs) → c.readEntry = .ok (u, bs)) ∧
  Raises .bcfg false .bcfg (fun c => 31 < c.aLevel.toNat) 0x02 0 (fun _ => 0) (fun _ => 0)) ∧
  ((∀ (f : Fields) (s : State) (c : Ctx), Ready .bfeed false f s c →
      (∀ o : Fin 8, f.mcast.getLsbD o.val = true → c.Computes o.val) →
      let u := (c.go .bfeed).s.modCore c.r.die c.r.core (fun k => k.pushRows c.r.slot c.feedRow (mcastOctets f.mcast))
      let rest := (mcastOctets f.mcast).filter (fun o => decide (64 ≤ (s.core c.r.die c.r.core).octets[o].feed.length))
      (rest = [] → exec (.bfeed f) s = .next (c.settle (.done u .noResult))) ∧
      (rest ≠ [] → exec (.bfeed f) s = .next (c.settle (.holdWith u (.feed rest c.feedRow))))) ∧
  (∀ (k : Core) (slot : SlotId) (row : ActRow) (os : List (Fin 8)) (o : Fin 8), os.Nodup →
    ((k.pushRows slot row os).octets[o]).feed =
      if o ∈ os ∧ (k.octets[o]).feed.length < 64 then (k.octets[o]).feed ++ [⟨slot, row⟩] else (k.octets[o]).feed)) ∧
  ((∀ (f : Fields) (s : State) (c : Ctx), Ready .bdrain false f s c → c.Computes (c.bankOf.val / 8) →
      (∀ n, f.dst = .q n → drainW f.sub ≤ (c.g.queue n).depth) →
      (∀ n, f.dst = .t n → 128 * drainW f.sub * ((if f.sx = .none then 0 else c.cLevel.toNat % 8) + 1) ≤ 1024) →
      (c.blockedOn [Fin.ofNat 8 (c.bankOf.val / 8)] = false →
        exec (.bdrain f) s = .next (c.settle (c.launchFlight ((c.go .bdrain).s.modCore c.r.die c.r.core (fun k =>
            { k with seq := k.seq ++ [seqItem s.uid (.drain c.r c.bankOf (rowOf f.sa))] }))
          { c.flight false (drainW f.sub) 0 0 (lanes fun _ => 0) with
            drain := some ⟨c.bankOf, rowOf f.sa, f.sub, if f.sx = .none then 0 else c.cLevel.toNat % 8, none⟩ }))) ∧
      (c.blockedOn [Fin.ofNat 8 (c.bankOf.val / 8)] = true → exec (.bdrain f) s = .next (c.settle (.holdWith { s with uid := s.uid + 1 }
        (.busy c.busyPlace [Fin.ofNat 8 (c.bankOf.val / 8)]))))) ∧
  (∀ n : BitVec 4, Raises .bdrain false .bdrain
    (fun c => c.Computes (c.bankOf.val / 8) ∧ c.f.dst = .q n ∧ (c.g.queue n).depth < drainW c.f.sub) 0x02 0 (fun _ => 0) (fun _ => 0))) ∧
  ((∀ (f : Fields) (s : State) (c : Ctx), Ready .bclr false f s c → c.Computes (c.bankOf.val / 8) → (f.sub = 1 → rowOf f.dst = 0) →
      c.queuedOn [Fin.ofNat 8 (c.bankOf.val / 8)] = false →
      exec (.bclr f) s = .next (c.settle (.done ({ (c.go .bclr).s with uid := s.uid + 1 }.modCore c.r.die c.r.core (fun k => Core.settleClears
        { k with seq := k.seq ++ [seqItem s.uid (.clr c.bankOf (if f.sub = 1 then List.finRange 8 else [rowOf f.dst]))] })) .noResult))) ∧
  Raises .bclr false .bclr (fun c => c.Computes (c.bankOf.val / 8) ∧ c.f.sub = 1 ∧ rowOf c.f.dst ≠ 0) 0x02 0 (fun _ => 0) (fun _ => 0)) ∧
  ((∀ (b : Fin 64) (f : Fields) (s : State) (c : Ctx), Ready .bstat false f s c → c.aLevel.toNat = b.val → c.Computes (b.val / 8) →
      let x := (s.core c.r.die c.r.core).banks[b]
      let n := f.sub.extractLsb' 0 2
      let col := if n = 0 ∧ f.sb ≠ .none then c.bLevel.toNat else 0
      (if x.lastI8 then 1 else 3) ≥ col →
      let v : Word := if n = 0 then (x.idle[col]?).getD 0 else if n = 1 then x.busy else if n = 2 then x.lim else x.skip
      (f.sub.getLsbD 2 = false → exec (.bstat f) s = .next (c.after32 .bstat (fun _ => v))) ∧
      (f.sub.getLsbD 2 = true → exec (.bstat f) s = .next (c.settle (Ctx.result32 { c.go .bstat with
        s := (c.go .bstat).s.modCore c.r.die c.r.core (fun k => k.modBank b (fun y => y.clearCounter n.toNat col)) } (fun _ => v))))) ∧
  (∀ (y : Bank) (n col : Nat), n < 4 → (y.clearCounter n col).counter n col = 0 ∧ (y.clearCounter n col).mem = y.mem ∧
    (y.clearCounter n col).acc = y.acc ∧ ∀ m, m < 4 → m ≠ n → (y.clearCounter n col).counter m col = y.counter m col) ∧
  (∀ b : Fin 64, Raises .bstat false .bstat (fun c => c.aLevel.toNat = b.val ∧ c.Computes (b.val / 8) ∧ c.f.sub.extractLsb' 0 2 = 0 ∧
      c.f.sb ≠ .none ∧ (if ((c.s0.core c.r.die c.r.core).banks[b]).lastI8 then 1 else 3) < c.bLevel.toNat) 0x02 0 (fun _ => 0) (fun _ => 0))) ∧
  (∀ p ∈ ([(.bcfg, .bcfg, fun c o => c.aLevel.toNat ≤ 31 ∧ c.aLevel.toNat / 4 = o), (.bdrain, .bdrain, fun c o => c.bankOf.val / 8 = o),
      (.bclr, .bclr, fun c o => c.bankOf.val / 8 = o), (.bstat, .bstat, fun c o => c.aLevel.toNat / 8 = o),
      (.bfeed, .bfeed, fun c o => c.f.mcast.getLsbD o = true ∧ ∀ j, j < o → c.f.mcast.getLsbD j = true → c.Computes j)] : List (Op × (Fields → Instr) × (Ctx → Nat → Prop))),
    (∀ o : Nat, Raises p.1 false p.2.1 (fun c => p.2.2 c o ∧
      ((c.s0.core c.r.die c.r.core).octets[o]?).map Octet.owner ≠ some (some c.t.uid)) 0x02 0 (fun _ => 0) (fun _ => 0)) ∧
    (∀ o : Fin 8, Raises p.1 false p.2.1 (fun c => p.2.2 c o.val ∧ (c.s0.core c.r.die c.r.core).octets[o].owner = some c.t.uid ∧
      (c.s0.core c.r.die c.r.core).octets[o].mode = .storage) 0x23 0 (fun _ => 0) (fun _ => 0)))

/-- Tier 1. `bmac` and `bmacs` of one group take their place in bank order when every check of R260 passes, with the rows of their feed queues,
which they consume unless they are reused; while the sequencer is full, or an earlier operation waits for it, the group holds with its
operation in its place, and while a `bfree` waits for an octet of it, before it. With `.g` the lanes of a group wait for the named lanes, whether
or not one that comes has a true guard, the group then arrives at the rendezvous latch, and the arrival of the last group of the gang makes one
operation, which the sequencer accepts, releasing all, or keeps waiting; with a group of the gang ended, the lanes that wait there take the
exited-member trap (R89, R260, R264, R265, R289). Choices of the model: log entries 48, 49 and 97. -/
def Obligations.Multiplies : Prop :=
  (∀ p ∈ ([(.bmac, .bmac, false), (.bmacs, .bmacs, true)] : List (Op × (Fields → Instr) × Bool)), ∀ (e : Entry) (rows : List ActRow),
    Ends p.1 p.2.1 (fun c => c.f.sub ≠ 1 ∧ c.Multiplies e rows ∧ c.blockedOn (c.macOctets c.aLevel.toNat (c.oneMac e p.2.2 rows)) = false ∧
        (c.s0.core c.r.die c.r.core).TakesMac)
      (fun c => .done ((if c.f.ru then c.s else c.s.modCore c.r.die c.r.core (fun k => k.consumeRows c.r.slot e)).acceptMac c.r.die
        c.r.core (c.oneMac e p.2.2 rows)) .noResult) ∧
    Ends p.1 p.2.1 (fun c => c.f.sub ≠ 1 ∧ c.Multiplies e rows ∧ c.blockedOn (c.macOctets c.aLevel.toNat (c.oneMac e p.2.2 rows)) = false ∧
        (c.s0.core c.r.die c.r.core).Full)
      (fun c => .holdWith (c.s.queueMac c.r.die c.r.core (c.oneMac e p.2.2 rows)) (.bank c.s.uid (!c.f.ru))) ∧
    Ends p.1 p.2.1 (fun c => c.f.sub ≠ 1 ∧ c.Multiplies e rows ∧ c.blockedOn (c.macOctets c.aLevel.toNat (c.oneMac e p.2.2 rows)) = true)
      (fun c => .holdWith { c.s0 with uid := c.s0.uid + 1 } (.busy c.busyPlace (c.macOctets c.aLevel.toNat (c.oneMac e p.2.2 rows))))) ∧
  (∀ p ∈ ([(.bmac, .bmac, false), (.bmacs, .bmacs, true)] : List (Op × (Fields → Instr) × Bool)), ∀ (e : Entry) (w : GroupWide),
    EndsTogether p.1 p.2.1 (fun c => c.f.sub = 1 ∧ c.Joins (c.g.read32 c.f c.f.sx 0) (fun _ => 0) c.a32 w ∧
        ∃ l : Lane, inMask w.mask l = true ∧ inMask w.arrived l = false)
      (fun c => .placed (c.withGroup (fun g =>
        { g.dropClaims with
          gw := w :: g.gw.filter (fun v => v.pc != c.pc)
          status := updLanes g.status c.run (fun _ => .waiting) })) .noResult) ∧
    EndsTogether p.1 p.2.1 (fun c => c.f.sub = 1 ∧ c.Rendezvous w e ∧
        ∃ i ∈ c.gangSlots, (c.latchWith w).arrivals.all (fun a => a.slot != i) = true)
      (fun c => .placed ((c.withGroup (fun g => g.atLatch w)).modTeam c.r.die c.r.core c.t.uid
        (fun t => { t with latch := some (c.latchWith w) })) .noResult) ∧
    EndsTogether p.1 p.2.1 (fun c => c.f.sub = 1 ∧ c.Completes w e ∧
        c.blockedOn (c.macOctets w.slotValue (c.s0.gangOp c.r.die c.r.core c.t.uid (c.latchWith w) e p.2.2)) = false ∧
        (c.s0.core c.r.die c.r.core).TakesMac)
      (fun c => .placed (((c.withGroup (fun g => g.atLatch w)).acceptMac c.r.die c.r.core
          (c.s0.gangOp c.r.die c.r.core c.t.uid (c.latchWith w) e p.2.2)).releaseGang c.r.die c.r.core c.t.uid (c.latchWith w)
        (c.s0.gangOp c.r.die c.r.core c.t.uid (c.latchWith w) e p.2.2)) .noResult) ∧
    EndsTogether p.1 p.2.1 (fun c => c.f.sub = 1 ∧ c.Completes w e ∧
        c.blockedOn (c.macOctets w.slotValue (c.s0.gangOp c.r.die c.r.core c.t.uid (c.latchWith w) e p.2.2)) = false ∧
        (c.s0.core c.r.die c.r.core).Full)
      (fun c => .placed (((c.withGroup (fun g => g.atLatch w)).queueMac c.r.die c.r.core
          (c.s0.gangOp c.r.die c.r.core c.t.uid (c.latchWith w) e p.2.2)).modTeam c.r.die c.r.core c.t.uid
        (fun t => { t with latch := some { c.latchWith w with pending := some c.s0.uid } })) .noResult) ∧
    EndsTogether p.1 p.2.1 (fun c => c.f.sub = 1 ∧ c.Completes w e ∧
        c.blockedOn (c.macOctets w.slotValue (c.s0.gangOp c.r.die c.r.core c.t.uid (c.latchWith w) e p.2.2)) = true)
      (fun c => .holdWith { c.s0 with uid := c.s0.uid + 1 } (.busy c.busyPlace
        (c.macOctets w.slotValue (c.s0.gangOp c.r.die c.r.core c.t.uid (c.latchWith w) e p.2.2)))) ∧
    EndsTogether p.1 p.2.1 (fun c => c.f.sub = 1 ∧ c.Comes w e ∧
        ∃ i ∈ c.gangSlots, ∀ g, c.s0.group? ⟨c.r.die, c.r.core, i⟩ = some g → g.ended = true)
      (fun c => .trap (c.s0.breakLatch c.r.die c.r.core c.t 0x08) { c.info 0x08 0 0 0 with mask := w.arrived }))

/-! ## Row 0xC (spec 12, 16, 17, 18) -/

/-- Tier 1. `tret` and `tret.skip` return from the youngest entry: the mode before it, its window, and the lanes of TRMASK at the resume
PC, or at the next instruction; after a final cause they are unhandled (R348, R349). Without an entry they only advance, which is the
model's choice (log 21). -/
def Obligations.TrapReturns : Prop :=
  ∀ p ∈ ([(.tret, .tret, TrapInfo.resumePc), (.tretSkip, .tretSkip, fun x => x.pc + BitVec.ofNat 64 x.len)] :
      List (Op × (Fields → Instr) × (TrapInfo → DWord))),
    (∀ (f : Fields) (s : State) (c : Ctx) (x : TrapCtx) (rest : List TrapCtx), Ready p.1 false f s c → c.g.traps = x :: rest →
      ¬ ((x.info.cause = 0x07 ∨ x.info.cause = 0x08) ∧ x.mode = .trap) →
      exec (p.2.1 f) s = .next (((c.after (c.returned p.1 x rest (p.2.2 x.info))).closeGroup c.r).checkDeadlock c.r)) ∧
    (∀ (f : Fields) (s : State) (c : Ctx) (x : TrapCtx) (rest : List TrapCtx), Ready p.1 false f s c → c.g.traps = x :: rest →
      (x.info.cause = 0x07 ∨ x.info.cause = 0x08) ∧ x.mode = .trap →
      ∃ u, exec (p.2.1 f) s = .next u ∧ (c.t.dispatcher = false → u.team? c.r.die c.r.core c.t.uid = none)) ∧
    Changes p.1 p.2.1 (fun c => c.g.traps = []) (fun c => c.popped p.1) ∧
    (∀ x : TrapInfo, x.resumePc = if x.cause = 0x0B ∨ x.cause = 0x0C then x.pc + BitVec.ofNat 64 x.len else x.pc)

/-- Tier 1. The services and the maintenance rows: ICFLUSH and the `cflush` forms empty caches or write back, TRANSFER queues its request
with one more in PEND, `tlbinv` places its request and `idle` holds, `bremap` writes a remap entry and `btest` reports failing columns
(R152, R324, R325, R340, R352, R353, R360). That `cflush.wb` skips a page without a
translation, and reads an omitted operand as zero, is the model's reading (log entry 60). -/
def Obligations.ServiceRows : Prop :=
  Ends .svcIcflush .svcIcflush (fun _ => True) (fun c =>
    Ctx.result32 { c with s := (c.s.releaseBy c.r .die).flushCode c.r.die true true } (fun _ => 0)) ∧
  (∀ (x : Translated) (bs : List Byte) (u : State) (b : Fin 16), Ends .svcTransfer .svcTransfer (fun c =>
      c.f.svcNumber = 0x10 ∧ (c.g.level64 c.f c.f.sb c.m).toNat % 64 = 0 ∧ c.translate (c.g.level64 c.f c.f.sb c.m) .read = .ok x ∧
      (c.go .svcTransfer).readBytes (c.g.level64 c.f c.f.sb c.m) x 64 = (u, some bs) ∧ transferOk bs = true ∧ (parseTransfer bs).breg = b.val ∧
      b.val < c.t.desc.barriers ∧ c.t.barriers[b].expect ≠ 0 ∧ c.s0.localFault c.r.die c.t.asid (parseTransfer bs) = none ∧
      c.s0.transfers.length < 4096)
    (fun c =>
      let y := parseTransfer bs
      let v := (u.releaseBy c.r .home).putBar c.r.die c.r.core c.t b
        { c.t.barriers[b] with pend := c.t.barriers[b].pend + 1 }
      let w : State := { v with uid := v.uid + 1, transfers := v.transfers ++ [⟨v.uid, BitVec.ofNat 8 y.op, c.t.asid, c.r.die, c.r.core,
        c.t.uid, b, y.target, y.remote, y.loc, y.len, y.rkey, c.t.grid, 0, none⟩] }
      Ctx.result32 { c with s := w } (fun _ => 0))) ∧
  (∀ p ∈ ([(.svcTransfer, .svcTransfer)] : List (Op × (Fields → Instr))),
    Raises p.1 false p.2 (fun c => c.f.svcNumber ≠ 0x10) 0x02 0 (fun _ => 0) (fun _ => 0)) ∧
  (∀ (s : State) (d : DieId) (k : CoreId), ((s.flushCode d true true).core d k).icache = [] ∧
    ((s.flushCode d true true).core d k).ccache = [] ∧ ((s.flushCode d true false).core d k).ccache = (s.core d k).ccache ∧
    ((s.flushCode d false true).core d k).icache = (s.core d k).icache ∧ (s.flushCode d true true).hbm = s.hbm) ∧
  Ends .cflushI .cflushI (fun _ => True) (fun c => .done (c.s.flushCode c.r.die true false) .noResult) ∧
  Ends .cflushC .cflushC (fun _ => True) (fun c => .done (c.s.flushCode c.r.die false true) .noResult) ∧
  Ends .cflushWb .cflushWb (fun c => (c.g.level64 c.f c.f.sa c.m).toNat % 128 = 0 ∧ c.bLevel.toNat % 128 = 0)
    (fun c => .done (c.s.flushEverywhere (fun pa =>
      (c.s0.framesOf c.r.die c.t.asid (c.g.level64 c.f c.f.sa c.m) c.bLevel.toNat).any (fun x => decide (x.1 ≤ pa) && decide (pa < x.1 + x.2))))
      .noResult) ∧
  Raises .cflushWb false .cflushWb (fun c => (c.g.level64 c.f c.f.sa c.m).toNat % 128 ≠ 0) 0x20 0 (fun c => c.g.level64 c.f c.f.sa c.m)
    (fun _ => 0) ∧
  Ends .tlbinv .tlbinv (fun c => c.s0.xlat.busy = false ∧ c.f.sub.toNat % 4 = 3) (fun c =>
    .done { c.s with xlat := { c.s.xlat with
      xinv := xinvWord 3 (c.f.sub.getLsbD 2) (c.f.imm.setWidth 12) (c.g.level64 c.f c.f.sa c.m) c.bLevel, busy := false, waiter := none } }
      .noResult) ∧
  Ends .tlbinv .tlbinv (fun c => c.s0.xlat.busy = false ∧ c.f.sub.toNat % 4 ≠ 3) (fun c =>
    .holdWith { c.s with xlat := { c.s.xlat with
      xinv := xinvWord (c.f.sub.setWidth 2) (c.f.sub.getLsbD 2) (c.f.imm.setWidth 12) (c.g.level64 c.f c.f.sa c.m) c.bLevel
      busy := true, waiter := some c.r } } .xinv) ∧
  Holds .tlbinv .tlbinv (fun c => c.s0.xlat.busy = true) (fun c => c.g) (fun _ => .service) ∧
  Holds .idle .idle (fun _ => True) (fun c => c.popped .idle) (fun _ => .idle) ∧
  (∀ (k : CoreId) (b : Fin 64), Ends .bremap .bremap (fun c => c.aLevel.toNat = 64 * k.val + b.val ∧
      ((c.s0.core c.r.die k).banks[b].quarantined = true ∨ (c.s0.core c.r.die k).octets[octetOf b].owner = none) ∧
      c.bLevel.toNat < 8192 ∧ ∀ y ∈ (c.s0.core c.r.die k).banks[b].remap, y.spare = c.bLevel.extractLsb' 9 3 → y.column = c.bLevel.setWidth 9)
    (fun c => .done (c.s.bremap c.r.die k b c.bLevel) .noResult)) ∧
  (∀ (s : State) (d : DieId) (k : CoreId) (b : Fin 64) (w : Word),
    (((s.bremap d k b w).core d k).banks[b]).remap =
      ((((s.core d k).banks[b]).writeRemap (w.setWidth 9) (w.extractLsb' 9 3) (w.getLsbD 12))).remap ∧
    (s.bremap d k b w).hbm = s.hbm ∧ ((s.bremap d k b w).core d k).slots = (s.core d k).slots) ∧
  (∀ (x : Bank) (col : BitVec 9) (sp : BitVec 3), (x.writeRemap col sp false).remap = x.remap.filter (fun y => y.spare != sp) ∧
    (x.writeRemap col sp true).remap = x.remap.filter (fun y => y.spare != sp) ++ [⟨col, sp⟩]) ∧
  (∀ (k : CoreId) (b : Fin 64), Ends .btest .btest (fun c => c.aLevel.toNat = 64 * k.val + b.val ∧
      ((c.s0.core c.r.die k).banks[b].quarantined = true ∨ (c.s0.core c.r.die k).octets[octetOf b].owner = none))
    (fun c => Ctx.result32 { c with s := c.s.btest c.r.die k b }
      (fun _ => btestWord (c.s0.core c.r.die k).banks[b].failing))) ∧
  Raises .btest false .btest (fun c => 3072 ≤ c.aLevel.toNat) 0x02 0 (fun _ => 0) (fun _ => 0)

/-! ## Every issue (spec 01, 03, 06, 18) -/

/-- Tier 2. The checks before a row's meaning, for every row with an encoding: a privileged row in another mode, an operand that the group
does not have, and a queue pop or push that cannot be made raise their traps, the issue counted; a pop that a drain in flight will serve holds;
without a member the run only advances and no operand traps, which for the operands is the model's choice (log entry 12) (R30, R69, R73, R81,
R164); with no group issuing there is nothing to execute (log entry 2). -/
def Obligations.IssueChecks : Prop :=
  ∀ (op : Op) (f : Fields) (s : State), ¬ padRow op f →
    (s.ctx? f = none → exec (Instr.ofOp op f) s = .fault .notIssuing) ∧
    ∀ c, s.ctx? f = some c →
      (Forbidden op c.g.mode → exec (Instr.ofOp op f) s = .next ((c.charged s).raise c.r (c.info 0x03 0 0 0))) ∧
      (¬ Forbidden op c.g.mode →
        (c.m = 0 → groupWideOp op f = false →
          exec (Instr.ofOp op f) s = .next (c.after (c.stepped { c.g with hold := none } (zeroSlot op f)))) ∧
        (c.m ≠ 0 →
          let push := if groupWideOp op f then none else opPushes op f
          (operandsOk op f c.g c.t = false → exec (Instr.ofOp op f) s = .next ((c.charged s).raise c.r (c.info 0x02 0 0 0))) ∧
          (operandsOk op f c.g c.t = true →
            (((∃ n ∈ opPops op f, (c.g.queue n).items = [] ∧ c.g.drainInto n = false) ∨
                (∃ n, push = some n ∧ (c.g.queue n).claim = none ∧
                  (c.g.queue n).depth ≤ (c.g.queue n).items.length - (if n ∈ opPops op f then 1 else 0))) →
              exec (Instr.ofOp op f) s = .next ((c.charged s).raise c.r (c.info 0x09 0 0 0))) ∧
            ((∃ n ∈ opPops op f, (c.g.queue n).items = []) →
              (∀ n ∈ opPops op f, (c.g.queue n).items = [] → c.g.drainInto n = true) →
              (∀ n, push = some n → (c.g.queue n).claim ≠ none ∨
                (c.g.queue n).items.length - (if n ∈ opPops op f then 1 else 0) < (c.g.queue n).depth) →
              exec (Instr.ofOp op f) s = .next (c.holding c.g (if groupWideOp op f then .pop else .queue))))))

/-- Tier 1. A step runs the decoded instruction: when the issue of a group is the next move, the group may issue and its operands are there,
the step is exec of the instruction that its fetch comes to, in the issuing state, with no group issuing afterwards. That instruction is
the one that the bytes at its PC decode to; the fetch passes the pads of R151, and the power manager withholds no issue in the cycle (R30, R150, R151,
R152, R383; that moves follow one another in an agenda is the model's, log entry 2). -/
def Obligations.StepRunsDecoded : Prop :=
  (∀ (s : State) (r : GRef) (rest : List Move) (g0 g : Group) (t : Team) (pc : DWord) (op : Op) (f : Fields),
    s.agenda = .issue r :: rest → Fetches { s with agenda := rest } r g0 g t pc op f →
    step s = endIssue (exec (Instr.ofOp op f) ({ s with agenda := rest }.issuing r g t pc op f)) ∧
    (∀ u, exec (Instr.ofOp op f) ({ s with agenda := rest }.issuing r g t pc op f) = .next u →
      step s = .next { u with cur := none, curPair := none, deferred := false })) ∧
  (∀ (s : State) (r : GRef) (g : Group) (t : Team) (pc : DWord) (op : Op) (f : Fields) (n : Nat), StandsAt s r g t pc op f →
    (¬ padRow op f → s.fetchRun r t n g = some (g, pc, .instr (Instr.ofOp op f))) ∧
    (padRow op f → s.fetchRun r t (n + 1) g = s.fetchRun r t n
      { g with pcs := updLanes g.pcs (g.runAt pc) (fun _ => pc + BitVec.ofNat 64 (match f.len with | .f64 => 8 | .f96 => 12 | .f128 => 16)) }))

/-- Tier 2. The frame of the rows that compute in registers (0x0 to 0x4 but for the system registers): nothing of the group changes but the
destination in member lanes, the queues popped and pushed, FPSTAT of a floating row, the PCs of the run, and the window and the times of an issue;
outside the group the state is as it was but for the ISSUED counter of the die (R75, R76, R77, R81, R130, Table F-2). -/
def Obligations.RegisterRowFrame : Prop :=
  ∀ (op : Op) (f : Fields) (s : State) (c : Ctx), op.opc < 0x49 → c.t.desc.fptrap = false → Ready op false f s c →
    ∃ g, exec (Instr.ofOp op f) s = .next (c.after g) ∧
      c.Keeps op (isB64 f.md || op == .imadw || op == .iaddx || op == .lea) g ∧
      (op.opc < 0x20 ∨ op ∈ [.mov, .movi, .movs, .pack, .unpack] → g.fpstat = c.g.fpstat) ∧
      (∀ i : Lane, ∃ x : Flags, g.fpstat[i] = if inMask c.m i then c.g.fpstat[i] ||| x else c.g.fpstat[i])

/-- Tier 1. A uniform register holds one value for the group: every lane reads the same, and a result goes to it from the lowest member
lane, or not at all without one (R75). -/
def Obligations.UniformRegisters : Prop :=
  (∀ (g : Group) (f : Fields) (n : BitVec 10) (i j : Lane), g.read32 f (.u n) i = g.read32 f (.u n) j ∧
    g.read64 f (.u n) i = g.read64 f (.u n) j) ∧
  (∀ (g : Group) (n : BitVec 10) (m : Mask) (x : Lane → Word),
    (∀ k, lowest m = some k → (g.write32 (.u n) m x).ureg n = x k) ∧ (m = 0 → g.write32 (.u n) m x = g) ∧
    ∀ q, q ≠ n → (g.write32 (.u n) m x).ureg q = g.ureg q) ∧
  (∀ (g : Group) (n : BitVec 10) (m : Mask) (x : Lane → DWord),
    (∀ k, lowest m = some k → (g.write64 (.u n) m x).ureg n = (x k).setWidth 32 ∧
      (g.write64 (.u n) m x).ureg (n + 1) = (x k).extractLsb' 32 32) ∧ (m = 0 → g.write64 (.u n) m x = g)) ∧
  (∀ (m : Mask) (k : Lane), lowest m = some k ↔ (inMask m k = true ∧ ∀ j : Lane, j < k → inMask m j = false)) ∧
  (∀ (g : Group) (f : Fields) (run : Mask) (i : Lane), inMask (g.members f run) i = (inMask run i && g.guardOf f i))

/-- Tier 1. Predicates (R76): p7 reads as true in every lane and a write to it is discarded; a predicate as a source is 1 or 0, and as the
destination of a 32-bit value it becomes true when the value is not zero, in the lanes written. -/
def Obligations.Predicates : Prop :=
  (∀ (g : Group) (i : Lane), g.pred 7 i = true) ∧
  (∀ (g : Group) (m : Mask) (x : Lane → Word), g.write32 (.pred 7) m x = g) ∧
  (∀ (g : Group) (f : Fields) (n : BitVec 3) (i : Lane), g.read32 f (.pred n) i = if g.pred n i = true then 0x00000001 else 0x00000000) ∧
  (∀ (g : Group) (n k : BitVec 3) (m : Mask) (x : Lane → Word) (i : Lane),
    (g.write32 (.pred n) m x).pred k i =
      if k = n ∧ n ≠ 7 ∧ inMask m i = true then decide (x i ≠ 0) else g.pred k i)

/-- Tier 2. Trap entry (R338, R346, R347, R349, R391): a trap raised in user mode with nothing of the group outstanding enters the handler of
its address space; with something outstanding it is recorded. An access fault leaves its page in neither the core's TLB nor the die's, and one
that firmware resumes goes on where the address now translates. Without a handler, in trap mode and in firmware a trap is unhandled, which ends an
ordinary team; a breakpoint enters firmware while DBGEN is set, at an address that is the model's configuration (log entry 11), and firmware passes
it to the handler, as a move of its own (log entry 96). -/
def Obligations.TrapEntry : Prop :=
  (∀ (s : State) (r : GRef) (g : Group) (t : Team) (x : TrapInfo), s.Delivers r g t x → s.owes r g = false → g.pendingTrap = none →
    ∃ g', (s.raise r x).group? r = some g' ∧ Entered g g' .trap x (s.handler t.asid)) ∧
  (∀ (s : State) (r : GRef) (g : Group) (t : Team) (x : TrapInfo), s.group? r = some g → s.team? r.die r.core g.team = some t →
    x.cause = 0x21 → canonical x.addr = true →
    tlbFind ((s.faulted r x).core r.die r.core).tlb (x.asid t) (va57 x.addr) = none ∧
    tlbFind (s.faulted r x).dies[r.die].tlb (x.asid t) (va57 x.addr) = none ∧ (s.faulted r x).group? r = some g ∧
    (s.faulted r x).hbm = s.hbm) ∧
  (∀ (s : State) (r : GRef) (g : Group) (t : Team) (x : TrapInfo) (y : TlbEntry), s.group? r = some g →
    s.team? r.die r.core g.team = some t → s.owes r g = false → g.pendingTrap = none → g.mode ≠ .firmware → x.cause = 0x21 →
    (x.detail = 0x02 ∨ x.detail = 0x03 ∨ x.detail = 0x0A) → (s.faulted r x).walk r.die (x.asid t) (va57 x.addr) = .ok y →
    s.raise r x = (s.faulted r x).rouse r (fun g => { g with pendingTrap := none })) ∧
  (∀ (s : State) (r : GRef) (g : Group) (x : TrapInfo), s.group? r = some g → s.owes r g = true → g.pendingTrap = none →
    s.raise r x = (s.faulted r x).setGroup r { g with pendingTrap := some x, pendingSeq := g.issues } ∧
    (x.cause ≠ 0x21 → s.faulted r x = s)) ∧
  (∀ (s : State) (r : GRef) (g : Group) (t : Team) (x : TrapInfo), s.group? r = some g → s.team? r.die r.core g.team = some t →
    s.owes r g = false → g.pendingTrap = none → t.dispatcher = false → x.cause ≠ 0x0C → x.cause ≠ 0x21 →
    (g.mode ≠ .user ∨ s.handler t.asid = 0) → (s.raise r x).team? r.die r.core t.uid = none) ∧
  (∀ (s : State) (r : GRef) (g : Group) (t : Team) (x : TrapInfo), s.group? r = some g → s.team? r.die r.core g.team = some t →
    s.owes r g = false → g.pendingTrap = none → g.mode = .user → x.cause = 0x0C → s.dies[r.die].dbgen = true →
    ∃ g', (s.raise r x).group? r = some g' ∧ Entered g g' .firmware x Config.firmwareEntry) ∧
  (∀ (s : State) (r : GRef) (rest : List Move) (g : Group) (t : Team) (x : TrapCtx) (xs : List TrapCtx), s.agenda = .passTrap r :: rest →
    s.group? r = some g → s.team? r.die r.core g.team = some t → g.traps = x :: xs → x.mode = .firmware → g.ended = false →
    s.owes r g = false → g.pendingTrap = none → g.hold = none → { g with traps := xs }.mode = .user → s.handler t.asid ≠ 0 →
    ∃ u g', step s = .next u ∧ u.group? r = some g' ∧
      Entered { g with traps := xs, window := x.window } g' .trap x.info (s.handler t.asid))

/-! ## The whole machine -/

/-- Tier 3. Every step keeps every memory in its canonical form: from any state in that form, whatever the next move is. -/
def Obligations.MemoryFormKept : Prop :=
  ∀ s t : State, s.memoryOk → step s = .next t → t.memoryOk

/-- Tier 1. Reset: the registers at the values their tables give, no work but the default dispatchers, which firmware runs itself (R14, R16),
memory with nothing listed and in its form (Tables D-4, D-10, D-15, D-18, D-25, F-1, F-3, K-8). What memory that nothing has written reads as, the
empty agenda, how work comes to run, and the empty caches are the model's choices (log entries 1, 2, 3 and 7). -/
def Obligations.ResetState : Prop :=
  State.reset.memoryOk ∧ State.reset.hbm = [] ∧ State.reset.agenda = [] ∧ State.reset.cur = none ∧
  (∀ d : DieId, State.reset.dies[d].box = [] ∧ State.reset.dies[d].waitList = [] ∧ State.reset.dies[d].engines = [] ∧
    State.reset.dies[d].disp.user = none ∧ State.reset.dies[d].disp.spasid = none ∧ State.reset.dies[d].redir = 0 ∧
    State.reset.dies[d].dlim.limit = 3072 ∧ State.reset.dies[d].dlim.win = 2 ∧
    (∀ k : Fin 4, State.reset.dies[d].links[k].state = 0 ∧ State.reset.dies[d].links[k].rep = Vector.replicate 4 0x3F) ∧
    ∀ c : CoreId, (State.reset.core d c).adm.admitf = 8 ∧ (State.reset.core d c).adm.adapt = true ∧
      (State.reset.core d c).l1 = [] ∧ (State.reset.core d c).l1Dirty = [] ∧ (State.reset.core d c).pending = [] ∧
      (c ≠ 0 → (State.reset.core d c).teams = []) ∧ (∀ i : SlotId, (c ≠ 0 ∨ i ≠ 31) → State.reset.group? ⟨d, c, i⟩ = none) ∧
      (c = 0 → ∃ t g, (State.reset.core d c).teams = [t] ∧ t.dispatcher = true ∧ State.reset.group? ⟨d, c, 31⟩ = some g ∧
        g.hold = some .builtin)) ∧
  State.reset.xlat.en = false ∧ State.reset.xlat.busy = false ∧ State.reset.nomad.en = false ∧ State.reset.nomad.auto = false ∧
  State.reset.nomad.hot = 0x0400 ∧ State.reset.nomad.cold = 0x0010 ∧ State.reset.nomad.hyst = 2 ∧ State.reset.pctl.busy = false ∧
  State.reset.mgmt.cap = 2600 ∧ State.reset.mgmt.capEn = true

/-! ## Events (spec 01, 02, 04, 08, 09, 18) -/

/-- Tier 1. Events of a group, each under its condition: a sleep or a `yield` expires, a fence or a superstep completes, waiting packets
are accepted, a load or an atomic returns to its destination and records the poison trap, a recorded trap is entered, a group becomes
dormant, a lease window ends, a group is promoted (R44, R57, R61, R112, R119, R120, R201, R203, R211, R217, R226, R347, R388, R389). A load that has
yet to read reads as it returns, which is the model's choice (log entry 85); what counts as dormant, and that a superstep waits for the teams of its
grid that are still to come, are the model's readings (log entries 57 and 56). -/
def Obligations.GroupEvents : Prop :=
  (∀ (s : State) (r : GRef) (l : Lane) (g : Group) (w : Nat), s.group? r = some g → g.status[l] = .asleep w → w ≤ s.now →
    exec (.sleepExpiry r l) s = .next (s.setGroup r (Group.roused { g with status := g.status.set l .run } (s.eligible r) s.now))) ∧
  (∀ (g : Group) (was : Bool) (now : Nat), (g.roused was now).sched = { g.sched with
      dormant := g.sched.dormant && !(g.hold.isNone && g.runPc.isSome), eligibleSince := if was then g.sched.eligibleSince else now }) ∧
  (∀ (s : State) (r : GRef) (g : Group) (w : Nat), s.group? r = some g → g.sched.yieldAt = some w → w + 64 ≤ s.now →
    exec (.yieldExpiry r) s = .next (s.setGroup r { g with sched := { g.sched with
      yieldAt := none, yieldFor := [], eligibleSince := g.sched.since } })) ∧
  (∀ (s : State) (r : GRef) (n : Nat) (sc : Bool), s.holdOf r = some (.fence n sc) →
    let t := s.releaseBy r (scopeLevel n)
    exec (.fenceComplete r) s = .next ((if sc then t.acquireAt r.die r.core (scopeLevel n) else t).finishHold r .noResult)) ∧
  (∀ (s : State) (r : GRef) (todo rest : List (Lane × DieId × BitVec 512)) (absent m : Mask) (f : Fields) (u : State),
    s.holdOf r = some (.pksend todo absent m f) → s.sendAll r.die (s.asidOf r) todo = (u, rest) →
    (rest = [] → exec (.pksendAccepted r) s =
      .next ((u.modGroup r (fun g => g.write32 f.dst m (sentCode absent))).finishHold r (slot32 f m (sentCode absent)))) ∧
    (rest ≠ [] → exec (.pksendAccepted r) s = .next (u.modGroup r (fun g => { g with hold := some (.pksend rest absent m f) })))) ∧
  (∀ (s : State) (asid : BitVec 12) (grid : DWord) (l : Launch),
    s.launches.find? (fun x => x.asid == asid && x.grid == grid) = some l → l.ranges ≠ [] →
    (∀ x ∈ l.ranges, s.stepArrived ⟨asid, grid⟩ l x = true ∧ s.dies[x.1].stepSent ⟨asid, grid⟩ l.step = true) →
    let u := l.ranges.foldl (fun v x => v.passStepDie x.1 ⟨asid, grid⟩ (l.step + 1)) s
    exec (.sstepComplete asid.toNat grid) s = .next { u with launches := u.launches.map (fun y =>
      if y.asid = asid ∧ y.grid = grid then { y with step := y.step + 1 } else y) }) ∧
  (∀ (g : Group) (i : Lane), g.passStep.status[i] = if g.status[i] = .sstepHold then .run else g.status[i]) ∧
  (∀ p ∈ ([((fun r n => .loadDataReturn r n), false), ((fun r n => .atomicCompletion r n), true)] : List ((GRef → Nat → Instr) × Bool)),
    (∀ (s : State) (r : GRef) (g : Group) (x : Flight) (n : BitVec 8), s.group? r = some g → x.dst = .v n → x.words ≤ 4 →
    n.toNat + x.words ≤ g.vLimit → g.flights.find? (fun y => y.id == x.id && y.atomic == p.2 && y.drain.isNone) = some x →
    (∀ y ∈ g.flights, y.id = x.id → y.late = none) →
    ∃ g', exec (p.1 r x.id) s = .next (s.setGroup r g') ∧ g'.flights = g.flights.filter (fun y => y.id != x.id) ∧
      (∀ (j : Nat) (i : Lane), j < x.words → g'.vreg (n + BitVec.ofNat 8 j) i =
        if inMask x.mask i = true ∧ inMask x.poisoned i = false ∧ g.status[i] ≠ .exited then
          (x.vals[i]).extractLsb' (32 * j) 32 else g.vreg (n + BitVec.ofNat 8 j) i) ∧
      ((∀ i : Lane, inMask x.poisoned i = true → g.status[i] = .exited) → g'.pendingTrap = g.pendingTrap) ∧
      (g.pendingTrap = none → g.ended = false → (∃ i : Lane, inMask x.poisoned i = true ∧ g.status[i] ≠ .exited) →
        ∃ m : Mask, g'.pendingTrap = some ⟨0x30, 0x01, x.pc, x.len, m, x.addr, 0, none⟩ ∧
          ∀ i : Lane, inMask m i = true ↔ (inMask x.poisoned i = true ∧ g.status[i] ≠ .exited))) ∧
    (∀ (s : State) (r : GRef) (g : Group) (x : Flight), s.group? r = some g → g.flights.filter (fun y => y.id == x.id) = [x] →
      x.atomic = p.2 → x.drain = none → x.late ≠ none → exec (p.1 r x.id) s = exec (p.1 r x.id) (s.readFlight r x))) ∧
  (∀ (s : State) (r : GRef) (g : Group) (x : TrapInfo), s.group? r = some g → g.pendingTrap = some x → s.owes r g = false → g.ended = false →
    exec (.trapEntry r) s = .next (s.takeTrap r x)) ∧
  (∀ g : Group, g.allHeld = true ↔ ((∃ h, g.hold = some h ∧ h.dormant = true) ∨ ∀ i : Lane, g.status[i] ≠ .run)) ∧
  (∀ (s : State) (r : GRef) (g : Group), s.group? r = some g → g.ended = false → g.allHeld = true → g.sched.lastIssue + 256 ≤ s.now →
    exec (.groupDormant r) s = .next (s.setGroup r { g with sched := { g.sched with dormant := true } })) ∧
  (∀ (s : State) (r : GRef) (g : Group), s.group? r = some g → g.lease.measured = true → 4096 ≤ g.lease.accesses →
    exec (.leaseWindowEnd r) s = .next (s.setGroup r { g with lease := g.lease.closeWindow })) ∧
  (∀ (s : State) (r : GRef) (g : Group), s.group? r = some g → s.eligible r = true → g.sched.since + 4096 ≤ s.now →
    exec (.priorityPromotion r) s = .next (s.setGroup r { g with sched := { g.sched with promoted := true } }))

/-- Tier 1. Events of the scheduler of a die: the oldest group held in `vgrow` takes its granules, a team is swapped out for progress, the
gate admits groups in its order, an admission epoch ends, items are packed, deposits are regrouped, the dispatcher is restarted, residue
errors are repaired, and the allocator places the teams that fit (R14, R16, R25, R28, R45, R46, R51 to R55, R60, R62, R360). What a packed team and a
dispatcher take that the rules leave open, the choice of a team bound to a core, the order of grants and of what a save and a repair do are the model's
(log entries 72, 87, 51 and 80). -/
def Obligations.SchedulerEvents : Prop :=
  (∀ (s : State) (d : DieId) (k : CoreId) (x : Team × GRef × Group) (rest : List (Team × GRef × Group)),
    ((s.workGroups d k).filter (fun y => y.2.2.growing)).insertionSort (fun y z => olderGroup y z = true) = x :: rest →
    s.teamGranules d k x.1 + x.2.2.wants ≤ coreGranules k →
    exec (.vgrowGrant d k) s = .next (s.growOldest d k (s.core d k).accounted.length) ∧
    (∀ n : Nat, x.2.2.wants ≤ s.freeGranules d k → s.growOldest d k n =
      (s.modGroup x.2.1 (fun g => { g with budget := g.budget + x.2.2.wants })).finishHold x.2.1 .noResult) ∧
    (∀ (n : Nat) (y : Team × GRef × Group), s.freeGranules d k < x.2.2.wants → (∀ z ∈ s.workGroups d k, z.2.2.growing = true) →
      rest.getLast? = some y → y.1.uid ≠ x.1.uid →
      (s.swaps d k y.1 = true → s.growOldest d k (n + 1) = (s.swapOut d k y.1).growOldest d k n) ∧
      (s.swaps d k y.1 = false → s.growOldest d k (n + 1) = s.swapOut d k y.1))) ∧
  (∀ (s : State) (d : DieId) (k : CoreId) (x : Team × GRef × Group) (rest : List (Team × GRef × Group)),
    ((s.workGroups d k).filter (fun y => y.2.2.growing)).insertionSort (fun y z => olderGroup y z = true) = x :: rest →
    coreGranules k < s.teamGranules d k x.1 + x.2.2.wants →
    exec (.vgrowGrant d k) s = .next (s.rouse x.2.1 (fun g => { g with hold := none }))) ∧
  (∀ (s : State) (d : DieId) (k : CoreId) (b t : Team) (cs : List CoreId) (rest : List Team),
    (s.allocWalk d).bound.find? (fun x => x.2.contains k) = some (b, cs) →
    (∀ u ∈ (s.core d k).accounted, ∀ p ∈ s.groupsOf d k u, p.2.sched.lastIssue + 65536 ≤ s.now) →
    (s.core d k).accounted.insertionSort (fun a b => swapBefore a b = true) = t :: rest →
    exec (.swapOutForProgress d k) s = .next ((s.swapOut d k t).admitHead d (b, cs))) ∧
  (∀ (s : State) (d : DieId) (k : CoreId) (b : Team), s.dies[d].saved.find? (fun v => v.team.uid == b.uid) = none → b.desc.halo = false →
    ((s.core d k).fits k (s.core d k).accounted b.desc = true → s.admitHead d (b, [k]) = s.placeTeam d k b) ∧
    ((s.core d k).fits k (s.core d k).accounted b.desc = false → s.admitHead d (b, [k]) = s)) ∧
  (∀ (s : State) (d : DieId) (k : CoreId), (s.core d k).gateAt + 64 ≤ s.now →
    let u := s.modCore d k (fun x => { x with gateAt := x.gateAt + 64 })
    exec (.gateTick d k) s = .next
      ((((u.workGroups d k).filter (fun x => x.1.landed)).insertionSort (fun x y => gateBefore x y = true)).foldl
        (Gate.visit (64 + 8 * (u.core d k).adm.feff)) ⟨u, 0, false, true⟩).s) ∧
  (∀ (cap : Nat) (w : Gate) (x : Team × GRef × Group), x.2.2.sched.dormant = false →
    (w.opened = true → (w.sum + x.2.2.lease.units ≤ cap ∨ w.any = false) →
      (w.visit cap x).opened = true ∧ (w.visit cap x).sum = w.sum + x.2.2.lease.units ∧
      ∀ g, w.s.group? x.2.1 = some g → ∃ g', (w.visit cap x).s.group? x.2.1 = some g' ∧ g'.sched.active = true) ∧
    ((w.opened = false ∨ cap < w.sum + x.2.2.lease.units ∧ w.any = true) → (w.visit cap x).opened = false)) ∧
  (∀ (s : State) (d : DieId) (k : CoreId), (s.core d k).adm.epochAt + 16384 ≤ s.now → ∃ t, exec (.admissionEpochEnd d k) s = .next t ∧
    let a := (s.core d k).adm
    let b := (t.core d k).adm
    b.misses = 0 ∧ b.contentions = 0 ∧ b.admitf = a.admitf ∧ b.epochAt = a.epochAt + 16384 ∧
    (a.adapt = false → b.feff = min a.admitf.toNat 24) ∧
    (a.adapt = true → a.misses < 8 * a.contentions → b.feff = a.feff - 2) ∧
    (a.adapt = true → 8 * a.contentions ≤ a.misses → 32 * a.contentions < a.misses → b.feff = min (min a.admitf.toNat 24) (a.feff + 2)) ∧
    (a.adapt = true → 8 * a.contentions ≤ a.misses → a.misses ≤ 32 * a.contentions → b.feff = a.feff)) ∧
  (∀ (s : State) (d : DieId) (k : CoreId) (label : DWord) (x : Child),
    (s.core d k).children.find? (fun y => y.label == label) = some x → s.dies[d].waitCount < 256 →
    let same := fun (y : Child) => y.label == label && y.asid == x.asid
    let xs := (s.core d k).children.filter same
    (256 ≤ xs.length ∨ x.since + 1024 ≤ s.now) →
    exec (.packingUnitForm d k label) s = .next (((s.releaseTo d k .die).modCore d k (fun z =>
      { z with children := z.children.filter (fun y => !same y) ++ xs.drop 256 })).enterTeam d (packedTeam s.uid x label (xs.take 256)))) ∧
  (∀ (s : State) (d : DieId) (k : CoreId) (uid : Nat) (t : Team) (label : DWord), s.team? d k uid = some t → t.label = some label →
    t.deposits ≠ [] → (∀ p ∈ s.groupsOf d k t, p.2.ended = true ∧ p.2.flights = [] ∧ ∀ i : Fin 8, p.2.tags[i] = 0) →
    exec (.reorderRegroup d k uid) s = .next (s.regroup d k t label)) ∧
  (∀ (s : State) (d : DieId) (g : Group), s.group? (dispatcherRef d) = some g → g.ended = true → s.dies[d].disp.pending = [] →
    exec (.dispatcherRestart d) s = .next ((s.log 0x0B (dieSource d) 1 0
      (match g.pendingTrap with | some x => x.trcause.setWidth 64 | none => 0)).startDispatcher d s.dies[d].disp.user)) ∧
  (∀ (s : State) (d : DieId) (asid : BitVec 12) (x : Descriptor), ∃ g, (s.startDispatcher d (some (asid, x))).group? (dispatcherRef d) =
    some g ∧ g.role = .dispatcher ∧ g.budget = 8 ∧ g.base = .user ∧ ∀ i : Lane, g.pcs[i] = x.code ∧ g.status[i] = .run) ∧
  (∀ (s : State) (d : DieId), (s.startDispatcher d none).group? (dispatcherRef d) = some (Group.builtin s.uid s.now)) ∧
  (∀ (s : State) (d : DieId), s.dies[d].dieEventPending = true → exec (.dieEvent d) s = .next
    ((s.dies[d].residue.foldl (fun u p => u.repairBank d p)
      (s.modDie d (fun y => { y with residue := [], dieEventPending := false }))).endIdle d)) ∧
  (∀ (s : State) (d : DieId), exec (.allocatorPlacement d) s = .next (s.allocWalk d).s) ∧
  (∀ (s : State) (d : DieId) (k : CoreId) (t : Team),
    ((s.placeTeam d k t).core d k).teams = (s.core d k).teams ++
      [t.resident (((s.core d k).freeSlots k (s.core d k).accounted).take t.desc.groups)
        (((s.core d k).freeOctets (s.core d k).accounted).take t.desc.octets)] ∧
    (s.placeTeam d k t).dies[d].waitList = s.dies[d].waitList.filter (fun y => y.uid != t.uid))

/-! ## Events of engines and banks (spec 04, 09, 10) -/

/-- Tier 1. Each completion of an engine operation, under conditions on the state and the operation alone: a copy, a declared input, a `cpyt` copy
and a send move what is left once every chunk is sent, one of them has met an error or they are cut short, a transform as its records say, an image
load in its place in bank order, a seal with the code of its check or of its reading, a part of a collective once its result is there; what
keeps an operation from starting gives its code of Table K-58; and the operation arrives at its barrier register (R23, R72, R115 to R119, R121, R122,
R236 to R243, R248 to R250, R266, R356). That parts are moves of an agenda, who the participants of a merge are, when a load records its source, and
which stores a seal's own group may not make are the model's readings (log entries 2, 54, 55 and 30). -/
def Obligations.EngineCompletions : Prop :=
  (∀ (s : State) (d : DieId) (op : EngineOp) (dir : BitVec 3) (ab : Option Abort), s.engine? d op.id = some op → op.kind = .cpy dir →
    op.completion ≠ .nomad → (dirSpad dir = true → s.stopped d op = false) →
    (∀ e, s.CopyFails d op dir e → exec (.cpyComplete d op.id ab) s = .next (s.complete d op .die e)) ∧
    (s.CopyGoes d op dir → op.MayEnd ab →
      exec (.cpyComplete d op.id ab) s = .next ((s.moveRest d op ab).1.complete d op .die (s.moveRest d op ab).2))) ∧
  (∀ (s : State) (d : DieId) (op : EngineOp) (ab : Option Abort), s.engine? d op.id = some op → op.kind = .input → s.stopped d op = false →
    (∀ e, s.CopyFails d op 0 e → exec (.declaredInputComplete d op.id ab) s = .next (s.complete d op .die e)) ∧
    (s.CopyGoes d op 0 → op.MayEnd ab →
      exec (.declaredInputComplete d op.id ab) s = .next ((s.moveRest d op ab).1.complete d op .die (s.moveRest d op ab).2))) ∧
  (∀ (s : State) (d : DieId) (op : EngineOp) (dir : BitVec 3) (ab : Option Abort), s.engine? d op.id = some op → op.kind = .cpyt dir →
    (dirSpad dir = true → s.stopped d op = false) → op.MayEnd ab →
    exec (.cpytCopyComplete d op.id ab) s = .next ((s.moveRest d op ab).1.complete d op .die (s.moveRest d op ab).2)) ∧
  (∀ (s : State) (d : DieId) (op : EngineOp) (spad : Bool) (target : DieId) (n : Nat) (ab : Option Abort), s.engine? d op.id = some op →
    op.kind = .xsend spad target n → (spad = true → s.stopped d op = false) →
    (target ∉ s.stepSet ⟨op.asid, op.grid⟩ → exec (.xsendComplete d op.id ab) s = .next (s.complete d op .die 0x07)) ∧
    (target ∈ s.stepSet ⟨op.asid, op.grid⟩ → op.MayEnd ab →
      exec (.xsendComplete d op.id ab) s = .next ((s.moveRest d op ab).1.complete d op .die (s.moveRest d op ab).2))) ∧
  (∀ (s : State) (d : DieId) (op : EngineOp) (ab : Option Abort), ∃ x : EngineOp,
    s.moveRest d op ab = s.movePart d x op.sent (op.work - op.sent) ∧ x.kind = op.kind ∧ x.src = op.src ∧ x.dst = op.dst ∧ x.len = op.len ∧
    x.code = (match ab with | none => op.code | some a => if op.code = 0 then abortCode a else op.code)) ∧
  (∀ (s : State) (d : DieId) (op : EngineOp) (a n : Nat),
    let u := s.noteEngine d op a n
    (∀ dir, (op.kind = .cpy dir ∨ op.kind = .cpyt dir) →
      let p := u.copyPlan d op (!dirSrcGlobal dir) (!dirDstGlobal dir) op.len a n
      let code := if op.code ≠ 0 then op.code else u.planCode d op p
      s.movePart d op a n = (u.perform d op (op.completion == .nomad) { p with code := code }, code)) ∧
    (op.kind = .input →
      let p := u.copyPlan d op false true op.len a n
      let code := if op.code ≠ 0 then op.code else u.planCode d op p
      s.movePart d op a n = (u.perform d op (op.completion == .nomad) { p with code := code }, code)) ∧
    (∀ spad target k, op.kind = .xsend spad target k →
      let xs := (List.range n).map (fun j => (j, u.engRead d op spad (op.src.toNat + a + j)))
      let code := if op.code ≠ 0 then op.code else firstCode (xs.map (fun p => p.2.map (fun x => (x.1.toNat, x.2))))
      s.movePart d op a n = (u.windowWrite target (op.dst.toNat + a) xs code, code))) ∧
  (∀ (s : State) (d : DieId) (op : EngineOp) (sub rnd : BitVec 3) (p : Word) (ab : Option Abort), s.engine? d op.id = some op →
    op.kind = .xform sub rnd p →
    (∀ e, s.readRecord d op.asid op.src = .error e → exec (.xformComplete d op.id ab) s = .next (s.complete d op .die e)) ∧
    (∀ x e, s.readRecord d op.asid op.src = .ok x → s.readRecord d op.asid op.dst = .error e →
      exec (.xformComplete d op.id ab) s = .next (s.complete d op .die e)) ∧
    (∀ x y, s.readRecord d op.asid op.src = .ok x → s.readRecord d op.asid op.dst = .ok y →
      (x.spad = true ∨ y.spad = true → s.stopped d op = false) →
      let plan := planXform sub rnd p x y (s.engRead d op)
      let code := s.planCode d op (plan.abort ab)
      exec (.xformComplete d op.id ab) s = .next (((s.noteXform d op x y).perform d op false
        { plan.only (plan.units.drop op.sent) with code := code }).complete d op .die code))) ∧
  (∀ (s : State) (d : DieId) (op : EngineOp) (b : Fin 64) (t : Team) (ab : Option Abort), s.engine? d op.id = some op → op.kind = .wload b →
    s.wloadWaits d op b = false → (ab ≠ none ∨ op.moved = true) → s.opTeam? d op = some t →
    let u := s.modCore d op.core (fun k => k.finishItem op.id)
    ((s.core d op.core).octetMode t (b.val / 8) ≠ some .compute → exec (.wloadComplete d op.id ab) s = .next (u.complete d op .die 0x03)) ∧
    (∀ code : Byte, (s.core d op.core).octetMode t (b.val / 8) = some .compute →
      code = (match ab with | some a => abortCode a | none => (s.imageOf d op).2) →
      exec (.wloadComplete d op.id ab) s = .next (((u.noteEngine d op 0 op.len).modCore d op.core (fun k => k.modBank b (fun x =>
        { x.load (imageReached (s.imageOf d op).1 code s.fresh) with source := some (op.asid, op.src), reloadBad := false }))).freshened.complete
          d op .die code))) ∧
  (∀ (s : State) (d : DieId) (op : EngineOp) (rec_ : Option DWord) (own : Bool) (ab : Option Abort), s.engine? d op.id = some op →
    (∀ e, op.kind = .seal rec_ own none → s.sealCheck d op.asid op.src op.len rec_ = .error e →
      exec (.sealComplete d op.id none) s = .next (s.complete d op .home e)) ∧
    (∀ a, op.kind = .seal rec_ own none → exec (.sealComplete d op.id (some a)) s = .next (s.complete d op .home (abortCode a))) ∧
    (∀ x, op.kind = .seal rec_ own none → s.sealCheck d op.asid op.src op.len rec_ = .ok x →
      let t := s.readSealed d op rec_ own x
      exec (.sealComplete d op.id none) s = .next (t.endSeal d op x (t.sealCode x (t.sealWatch.getD []).length none))) ∧
    (∀ x y, op.kind = .seal rec_ own (some y) → s.sealCheck d op.asid op.src op.len rec_ = .ok x →
      exec (.sealComplete d op.id ab) s = .next (s.endSeal d op ⟨y.leaves, x.record⟩ (s.sealCode ⟨y.leaves, x.record⟩ y.mark ab))) ∧
    (∀ e y, op.kind = .seal rec_ own (some y) → s.sealCheck d op.asid op.src op.len rec_ = .error e →
      exec (.sealComplete d op.id ab) s = .next (s.endSeal d op ⟨y.leaves, none⟩ e))) ∧
  (∀ (s : State) (d : DieId) (op : EngineOp) (kind : BitVec 3) (md : BitVec 5) (n : Word) (m : Nat) (ab : Option Abort),
    s.engine? d op.id = some op →
    (∀ code, op.kind = .coll kind md n m (some code) → exec (.collComplete op.id ⟨d, ab⟩) s = .next (s.collArrive d op m code)) ∧
    (∀ a, op.kind = .coll kind md n m none → exec (.collComplete op.id ⟨d, some a⟩) s = .next (s.collArrive d op m (abortCode a))) ∧
    (op.kind = .coll kind md n m none → s.outsider d ⟨op.asid, op.grid⟩ kind m n = true →
      exec (.collComplete op.id ⟨d, none⟩) s = .next (s.complete d op .home 0x0B)) ∧
    (op.kind = .coll kind md n m none →
      let ds := s.participants ⟨op.asid, op.grid⟩ kind m n
      let ops := ds.filterMap (fun x => (s.collOf x ⟨op.asid, op.grid⟩ m).map (fun o => (x, o)))
      let u := s.collPerform kind md n ops ((kind != 2 || ds.any (fun x => x.val == n.toNat % 32)) && ops.all (fun x => collAgrees op x.2))
      d ∈ ds → (∀ x ∈ ds, ∃ o, s.collOf x ⟨op.asid, op.grid⟩ m = some o) →
      ∀ o code, u.engine? d op.id = some o → o.kind = .coll kind md n m (some code) →
        exec (.collComplete op.id ⟨d, none⟩) s = .next (u.collArrive d o m code))) ∧
  (∀ (s : State) (d : DieId) (k : GridKey) (kind : BitVec 3) (m : Nat) (n : Word),
    (kind ≠ 3 → (s.outsider d k kind m n = true ↔ d ∉ s.stepSet k) ∧ (s.participants k kind m n).Perm (s.stepSet k)) ∧
    (∀ x, kind = 3 → s.mergeOf k m (expertOf n) = some x → s.participants k kind m n = x.dies ∧
      (s.outsider d k kind m n = true ↔ d ∉ x.dies)) ∧
    (kind = 3 → s.mergeOf k m (expertOf n) = none →
      (s.outsider d k kind m n = true ↔ ∀ e : DieId, ∀ p ∈ s.dies[e].replicas.merging (expertOf n), p.die ≠ d))) ∧
  (∀ (s : State) (d : DieId) (op : EngineOp) (lvl : Level) (code : Byte) (b : Fin 16) (t : Team), op.completion = .bar b →
    s.team? d op.core op.team = some t → t.desc.halo = false →
    (s.complete d op lvl code).dies[d].engines = s.dies[d].engines.filter (fun e => e.id != op.id) ∧
    ∃ t', (s.complete d op lvl code).team? d op.core op.team = some t' ∧
      t'.barriers[b] = { t.barriers[b].arrive 1 with pend := t.barriers[b].pend - 1 } ∧
      (code = 0 → t'.berr[b] = t.berr[b]) ∧
      (code ≠ 0 → (t.berr[b]).getLsbD 31 = false →
        t'.berr[b] = 0x80000000 ||| ((t.barriers[b].phase.setWidth 32) <<< 8) ||| code.setWidth 32))

/-- Tier 2. Each event of the banks under its condition: the first operation that waits for the sequencer is accepted and its group or its
gang goes on, feeds that have room take a waiting row, an accepted operation starts when nothing earlier in bank order is in its way, an
operation that runs ends with its sums in its target rows after the array cycles that it still needs, which leave memory, feeds and every
other row as they were, and a drain reads its row in bank order and delivers it when its destination has room. An operation adds to its target row,
by FP32 additions in its accumulation order, the block terms of the columns that receive one; a block term is the exact sum of 32 products, scaled and
rounded once (R134, R135, R259 to R273, R360). When an accepted operation starts, what the columns beyond a format's hold, and how a failed array is
reported are the model's readings (log entries 42, 45 and 50). -/
def Obligations.BankEvents : Prop :=
  (∀ (s : State) (r : GRef) (g : Group) (id : Nat) (running : Bool) (run : MacRun) (op : BankOp), s.group? r = some g →
    (s.core r.die r.core).nextAccepted = some ⟨id, false, running, run, .mac op⟩ → (s.core r.die r.core).macsHeld < 32 →
    let u := s.modCore r.die r.core (fun k => k.acceptItem id op)
    (∀ consume, g.hold = some (.bank id consume) → exec (.bmacAccepted r) s =
      .next ((if consume then u.modCore r.die r.core (fun k => k.consumeRows r.slot op.entry) else u).finishHold r .noResult)) ∧
    (∀ (t : Team) (l : Latch), g.hold = none → s.team? r.die r.core g.team = some t → t.latch = some l → l.pending = some id →
      exec (.bmacAccepted r) s = .next (u.releaseGang r.die r.core t.uid l op))) ∧
  (∀ (s : State) (r : GRef), 32 ≤ (s.core r.die r.core).macsHeld → exec (.bmacAccepted r) s = .next s) ∧
  (∀ (s : State) (r : GRef) (g : Group) (todo : List (Fin 8)) (row : ActRow), s.group? r = some g → g.hold = some (.feed todo row) →
    let k := s.core r.die r.core
    let live := todo.filter (k.feeds g.team)
    let u := s.modCore r.die r.core (fun k => k.pushRows r.slot row live)
    ((∀ o ∈ live, k.feedRoom o = true) → exec (.feedRowAccepted r) s = .next (u.finishHold r .noResult)) ∧
    ((∃ o ∈ live, k.feedRoom o = false) → exec (.feedRowAccepted r) s = .next (u.modGroup r (fun g =>
      { g with hold := some (.feed (live.filter (fun o => !k.feedRoom o)) row) })))) ∧
  (∀ (s : State) (d : DieId) (c : CoreId) (i id : Nat) (run : MacRun) (op : BankOp),
    (s.core d c).seq.find? (fun x => x.id == id) = some ⟨i, true, false, run, .mac op⟩ →
    (s.core d c).banksBlocked ⟨i, true, false, run, .mac op⟩ = false → (s.core d c).rowsBlocked ⟨i, true, false, run, .mac op⟩ = false →
    ((∀ b ∈ op.entry.chain, (s.core d c).banks[b].failed = false ∧ (s.core d c).banks[b].quarantined = false) →
      let u := s.modCore d c (fun k => k.startItem id op)
      exec (.bankOperationStart d c id none) s = .next u ∧
      ∀ b ∈ op.entry.chain, exec (.bankOperationStart d c id (some b)) s = .next (u.residueError d c op b)) ∧
    ((∃ b ∈ op.entry.chain, (s.core d c).banks[b].failed = true) →
      exec (.bankOperationStart d c id none) s = .next (s.modCore d c (fun k => (op.poisonRows k 0x03).finishItem id)))) ∧
  (∀ (s : State) (d : DieId) (c : CoreId) (i id : Nat) (acc : Bool) (run : MacRun) (op : BankOp),
    (s.core d c).seq.find? (fun x => x.id == id) = some ⟨i, acc, true, run, .mac op⟩ →
    let t := s.runOut d id op.cycles
    ∀ x, (t.core d c).seq.find? (fun y => y.id == id) = some x →
      exec (.bankOperationEnd d c id) s = .next (t.modCore d c (fun k => (op.apply x.run k t.fresh).finishItem id)).freshened) ∧
  (∀ (s : State) (d : DieId) (stop : Bool) (xs : List (CoreId × SeqItem × BankOp)) (k : CoreId) (b : Fin 64),
    ((s.arrayOver d stop xs).core d k).banks[b].mem = (s.core d k).banks[b].mem ∧
    ((s.arrayOver d stop xs).core d k).banks[b].acc = (s.core d k).banks[b].acc ∧
    ((s.arrayOver d stop xs).core d k).octets = (s.core d k).octets) ∧
  (∀ (op : BankOp) (run : MacRun) (k : Core) (n : Nat) (b : Fin 64),
    ((op.apply run k n).banks[b]).mem = (k.banks[b]).mem ∧ (op.apply run k n).seq = k.seq ∧ (op.apply run k n).octets = k.octets ∧
    ∀ r : Fin 8, (b ≠ op.entry.accBank ∨ ∀ m ∈ op.members, m.row ≠ r) →
      (op.apply run k n).banks[b].acc[r] = k.banks[b].acc[r] ∧ (op.apply run k n).banks[b].accPoison[r] = k.banks[b].accPoison[r]) ∧
  (∀ (op : BankOp) (run : MacRun) (k : Core) (fresh : Nat) (x : Member), op.members = [x] →
    k.banks[op.entry.accBank].accPoison[x.row] = none → (∀ t ∈ run.terms, t.poison = none) →
    ((op.apply run k fresh).banks[op.entry.accBank]).accPoison[x.row] = none ∧
    ∀ n : Fin 128, n.val < (if op.entry.i8 then 64 else 128) →
      (((op.apply run k fresh).banks[op.entry.accBank]).acc[x.row])[n] =
        (((List.range op.entry.chain.length).flatMap (fun j => run.terms.filter (fun t => decide (t.member = 0 ∧ t.chain = j)))).filter
          (fun t => !op.absent t.chain t.kb (n.val / 32))).foldl (fun acc t => fAdd32 acc t.cols[n]) (k.banks[op.entry.accBank].acc[x.row])[n]) ∧
  (∀ (op : BankOp) (b : Bank) (act : ActRow) (j kb : Nat) (n : Fin 128), n.val < (if op.entry.i8 then 64 else 128) →
    op.absent j kb (n.val / 32) = false → (op.terms b act j kb)[n] = blockTerm op.entry.i8
      (∑ i : Fin 32, elemInt op.entry.i8 (act.elem op.entry.i8 (32 * kb + i.val)) *
        elemInt op.entry.i8 (b.weight op.entry.i8 (32 * kb + i.val) n.val)) (act.scales[kb]?.getD 0) (b.weightScale op.entry.i8 kb n.val)) ∧
  (∀ (k : Core) (op : BankOp) (j blk : Nat) (act : ActRow), op.act? (blk / 8) j = some act →
    (op.skipped act j (blk % 8) = true → op.finishBlock k j blk = none) ∧
    (op.skipped act j (blk % 8) = false → ∃ p, op.finishBlock k j blk =
      some ⟨blk / 8, j, blk % 8, op.terms k.banks[op.chainBank j] act j (blk % 8), p⟩)) ∧
  ((∀ c : Nat, c < 16 → (elemInt false c : ℚ) = 2 * fmtE2M1.rat c) ∧ (∀ c : Nat, c < 256 → elemInt true c = (BitVec.ofNat 8 c).toInt)) ∧
  (∀ (i8 : Bool) (S : Int) (sa sw : Byte),
    (sa = 0xFF ∨ sw = 0xFF → blockTerm i8 S sa sw = 0x7FC00000) ∧
    (sa ≠ 0xFF → sw ≠ 0xFF → ∃ neg m e,
      (Fx.num neg m e false).rat = (S : ℚ) * 2 ^ ((sa.toNat : Int) + sw.toNat - 254 + (if i8 then -12 else -2)) ∧
      blockTerm i8 S sa sw = BitVec.ofNat 32 (fmtF32.round (.num neg m e false) 0 0 32).1)) ∧
  (∀ a b : Word,
    (a.extractLsb' 23 8 ≠ 0xFF → b.extractLsb' 23 8 ≠ 0xFF → ∃ neg m e,
      (Fx.num neg m e false).rat = fmtF32.rat a.toNat + fmtF32.rat b.toNat ∧
      fAdd32 a b = BitVec.ofNat 32 (fmtF32.round (.num neg m e false) 0 0 32).1) ∧
    (a.extractLsb' 23 8 = 0xFF → a.extractLsb' 0 23 ≠ 0 → fAdd32 a b = 0x7FC00000 ∧ fAdd32 b a = 0x7FC00000) ∧
    (a = 0x7F800000 → b = 0xFF800000 → fAdd32 a b = 0x7FC00000 ∧ fAdd32 b a = 0x7FC00000) ∧
    (a.extractLsb' 23 8 = 0xFF → a.extractLsb' 0 23 = 0 → b.extractLsb' 23 8 ≠ 0xFF → fAdd32 a b = a ∧ fAdd32 b a = a)) ∧
  (∀ (s : State) (r : GRef) (g : Group) (x : Flight) (y : DrainSpec) (id : Nat), s.group? r = some g → g.drain? id = some (x, y) →
    (y.read = none → (s.core r.die r.core).rowsBlocked (seqItem id (.drain r y.bank y.row)) = false →
      exec (.bdrainComplete r id) s = .next ((s.drainRead r g x y).landRead r id)) ∧
    (∀ bs, y.read = some bs → g.drainRoom x = true → exec (.bdrainComplete r id) s = .next (s.drainLand r g x y bs))) ∧
  (∀ (s : State) (r : GRef) (g : Group) (x : Flight) (y : DrainSpec) (bs : List Byte) (n : BitVec 8), s.group? r = some g → x.dst = .v n →
    x.words = 4 → n.toNat + 4 ≤ g.vLimit →
    ∃ g', (s.drainLand r g x y bs).group? r = some g' ∧ g'.flights = g.flights.filter (fun z => z.id != x.id) ∧
      ∀ (w : Fin 4) (i : Lane), inMask x.mask i = true → g.status[i] ≠ .exited →
        g'.vreg (n + BitVec.ofNat 8 w.val) i = drainWord bs w.val i) ∧
  (∀ (acc : Vector Word 128) (w : Fin 4) (i : Lane), drainWord (drainString acc 0) w.val i = acc[32 * w.val + i.val])

/-! ## Events of pre-emption, translation, mailboxes and commands (spec 01, 11, 16 to 19) -/

/-- Tier 1. PCTL and XINV: a HALT-SAVE selects the teams it saves, a RESUME lets saved teams go on and a team saved before it was placed wait
again while its record is sound, a selected team is saved once quiet (a waiting one by a record of its own, one swapped out by staying where it
is), a saved one restored in its turn; an XINV request starts, completes with no matching entry left in any TLB, and a walk fills the TLBs; in
minimal mode each of the requests is answered with an error response alone (R338 to R341, R354 to R358, R376, R379).  Which
teams a HALT-SAVE selects and what the record of a waiting team holds are log 71, where a record lies and the bytes of its body log 16, and that
a request performs every waiting store and flushes the frames that the TLBs have held log 22: the model's choices. -/
def Obligations.PreemptionAndTranslation : Prop :=
  (∀ s : State, s.boot.minimal = true → ∀ i : Instr,
    ((∃ v, i = .haltSave v ∨ i = .resume v ∨ i = .pctlNoop v) ∨ ∃ v, i = .pageRange v ∨ i = .wholeAsid v ∨ i = .allAsids v ∨ i = .xinvNoop v) →
    exec i s = .next { s with served := s.served ++ [none] }) ∧
  (∀ (s : State) (v : DWord), s.boot.minimal = false → s.pctl.busy = false → v.toNat % 4 = 1 → v.toNat / 4 % 4 ≠ 3 → ∃ t, exec (.haltSave v) s = .next t ∧
    t.pctl.value = pctlFields v ∧ t.pctl.pgrid = s.pctl.pgrid ∧ (t.pctl.busy = false ↔ t.pctl.todo = []) ∧
    (t.pctl.result = 1 ↔ ∃ d : DieId, pctlDie v d = true ∧ s.dies[d].saveSize.toNat < 112) ∧
    (∀ (d : DieId) (u : Nat), (d, u) ∈ t.pctl.todo ↔
      pctlDie v d = true ∧ 112 ≤ s.dies[d].saveSize.toNat ∧ u ∈ s.selected d v)) ∧
  (∀ (s : State) (v : DWord), s.boot.minimal = false → s.pctl.busy = false → v.toNat % 4 = 2 → v.toNat / 4 % 4 ≠ 3 →
    (∀ d : DieId, pctlDie v d = true → (s.dies[d].saved.map (fun x => x.team.uid)).Nodup ∧
      ∀ x ∈ s.dies[d].saved, x.groups = [] → s.recordGood x = true) →
    ∃ t, exec (.resume v) s = .next t ∧
    t.pctl.busy = false ∧ t.pctl.result = 0 ∧
    (∀ (d : DieId) (x : Saved), pctlDie v d = true → x ∈ s.dies[d].saved → pctlSelects v s.pctl.pgrid x.team = true →
      (x.groups = [] → x.team ∈ t.dies[d].waitList) ∧ (x.groups ≠ [] → { x with resume := true } ∈ t.dies[d].saved)) ∧
    (∀ d : DieId, pctlDie v d = false → t.dies[d] = s.dies[d])) ∧
  (∀ (s : State) (d : DieId) (v : Saved), v.groups = [] → s.recordGood v = false →
    s.reenter d v = (s.dropRecord d v.team.uid).restoreFailed d v ∧ (s.reenter d v).pctl.result = 2 ∧
      (∀ x ∈ (s.dropRecord d v.team.uid).dies[d].saved, x.team.uid ≠ v.team.uid)) ∧
  (∀ (s : State) (v : DWord), s.boot.minimal = false → s.pctl.busy = false → (v.toNat % 4 = 0 ∨ v.toNat % 4 = 3 ∨ v.toNat / 4 % 4 = 3) →
    exec (.pctlNoop v) s = .next { s with pctl := ⟨pctlFields v, false, if v.toNat % 4 = 0 then s.pctl.result else 0, s.pctl.pgrid, []⟩ }) ∧
  (∀ (s : State) (d : DieId) (k : CoreId) (t : Team), (d, t.uid) ∈ s.pctl.todo → s.homeOf d t.uid = some (k, t) →
    (∀ x ∈ s.unit d k t, s.teamQuiet d x.1 x.2 = true) →
    (s.dies[d].saveRoom (s.unit d k t).length = true → exec (.teamSave d t.uid) s =
      .next ((s.saveUnit d (s.unit d k t) false).pctlDone (fun x => x.1 == d && (s.unit d k t).any (fun y => y.2.uid == x.2)) none)) ∧
    (s.dies[d].saveRoom (s.unit d k t).length = false → exec (.teamSave d t.uid) s = .next (s.pctlDone (fun x => x.1 == d) (some 1)))) ∧
  (∀ (s : State) (d : DieId) (t : Team), (d, t.uid) ∈ s.pctl.todo → s.homeOf d t.uid = none →
    s.dies[d].waitList.find? (fun x => x.uid == t.uid) = some t →
    (∀ a, s.dies[d].saveRoom 1 = true → s.dies[d].saveAt 1 = some a → exec (.teamSave d t.uid) s =
      .next (((s.modDie d (fun x => { x with waitList := x.waitList.filter (fun y => y.uid != t.uid) })).keepRecord d
        (waitingRecord t s.fresh a)).pctlDone (fun x => x == (d, t.uid)) none)) ∧
    (s.dies[d].saveRoom 1 = false → exec (.teamSave d t.uid) s = .next (s.pctlDone (fun x => x.1 == d) (some 1)))) ∧
  (∀ (s : State) (d : DieId) (uid : Nat), (d, uid) ∈ s.pctl.todo → s.homeOf d uid = none → (∀ t ∈ s.dies[d].waitList, t.uid ≠ uid) →
    exec (.teamSave d uid) s = .next ((s.modDie d (fun x => { x with
        saved := x.saved.map (fun v => if v.team.uid == uid then { v with resume := false } else v) })).pctlDone (fun x => x == (d, uid)) none)) ∧
  (∀ (s : State) (d : DieId) (k : CoreId) (t : Team) (sw : Bool), t ∈ (s.core d k).teams →
    ∃ v, (s.saveTeam d k t sw).dies[d].saved = s.dies[d].saved ++ [v] ∧ v.team = t ∧ v.core = k ∧ v.resume = sw ∧
      (s.saveTeam d k t sw).team? d k t.uid = none) ∧
  (∀ (s : State) (d : DieId) (v : Saved), s.dies[d].saved.find? (fun x => x.team.uid == v.team.uid) = some v → v.resume = true →
    (d, v.team.uid) ∉ s.pctl.todo → v.team.desc.halo = false → (s.recordGood v = false ∨ (s.core d v.core).fitsSaved v.core v = true) → s.restoreTurn d v = true →
    exec (.teamRestore d v.team.uid) s = .next (s.restoreOne d v)) ∧
  (∀ p ∈ ([((fun v => .pageRange v), 0, true), ((fun v => .wholeAsid v), 1, true), ((fun v => .allAsids v), 2, true),
      ((fun v => .xinvNoop v), 3, false)] : List ((BitVec 128 → Instr) × Nat × Bool)), ∀ (s : State) (v : BitVec 128), s.boot.minimal = false → v.toNat % 4 = p.2.1 →
    (s.xlat.busy = false → exec (p.1 v) s = .next { s with xlat := { s.xlat with xinv := xinvFields v, busy := p.2.2, waiter := none } }) ∧
    (s.xlat.busy = true → exec (p.1 v) s = .next s)) ∧
  (∀ s : State, s.xlat.busy = true → ∃ t, exec .xinvComplete s = .next t ∧ t.xlat.busy = false ∧ t.xlat.waiter = none ∧
    ∀ d : DieId, t.dies[d].tlb = s.settleAll.dies[d].tlb.filter (fun e => !xinvMatches s.xlat.xinv e) ∧
      ∀ k : CoreId, (t.core d k).tlb = (s.settleAll.core d k).tlb.filter (fun e => !xinvMatches s.xlat.xinv e)) ∧
  (∀ (s : State) (d : DieId) (k : CoreId) (asid : BitVec 12) (va : DWord) (e : TlbEntry), canonical va = true →
    s.walk d asid (va57 va) = .ok e →
    ∃ t, exec (.pageWalkComplete d (some k) asid.toNat va) s = .next t ∧ e ∈ t.dies[d].tlb ∧ e ∈ (t.core d k).tlb ∧
      t.dies[d].tlb.length ≤ 16384 ∧ (t.core d k).tlb.length ≤ 256 ∧ t.hbm = s.hbm)

/-- Tier 1. What arrives from the fabric and from hosts: a packet is delivered, discarded or waits as R283 says, or is redirected to placement
PLACE mod n of its expert when it has no hop yet and to placement 0 after one hop, its HOPS one more, its VERSION, SLOT and PLACE those of the
die's table and the rest as sent; a host slot takes a packet or answers by Table D-3; plain writes and reads reach only pages that admit them;
transfers end with their code; queue pairs come and go, the first of the STORAGE role the admin queue and at most 64 others (R18, R281, R283,
R314 to R319, R322, R324 to R327).  That a WRITE event is one
packet of a message and a limit of Table D-2 that is passed is an access error is log 74, the regions that keys name log 88, the namespaces and
peers that handles name log 20, which pair is the admin queue log 102, and that a redirect may enter a die that has left service log 111: the
model's choices. -/
def Obligations.MailboxAndRdma : Prop :=
  (∀ (s : State) (d : DieId) (n : Nat) (p : Packet), s.boot.minimal = false → s.dies[d].transit[n]? = some p → firstOfSource s.dies[d].transit n p = true →
    let gone := s.modDie d (fun x => { x with transit := x.transit.take n ++ x.transit.drop (n + 1) })
    (routingOf s.dies[d].replicas d p.bits = .waits → exec (.packetArrival d n) s = .next s) ∧
    (routingOf s.dies[d].replicas d p.bits = .discard → exec (.packetArrival d n) s =
      .next (gone.modDie d (fun x => { x.freeHostSlot p with dropped := satOne x.dropped }))) ∧
    (routingOf s.dies[d].replicas d p.bits = .deliver →
      (p.src ≠ .distributor ∨ s.dies[d].packetRoom = true → exec (.packetArrival d n) s = .next (gone.deliverPacket d p)) ∧
      (p.src = .distributor → s.dies[d].packetRoom = false → exec (.packetArrival d n) s = .next s)) ∧
    (∀ (d' : DieId) (y : BitVec 512), routingOf s.dies[d].replicas d p.bits = .redirect d' y →
      let left := gone.modDie d (fun x => x.freeHostSlot p)
      (left.dies[d'].packetRoom = true → exec (.packetArrival d n) s =
        .next ((left.modDie d (fun x => { x with redir := satOne x.redir })).modDie d'
          (fun x => { x with transit := x.transit ++ [⟨y, p.asid, .die d, none⟩] }))) ∧
      (left.dies[d'].packetRoom = false → exec (.packetArrival d n) s = .next s))) ∧
  (∀ (t : ReplicaTable) (d : DieId) (x : BitVec 512), (pktKind x ≠ 2 → routingOf t d x = .deliver) ∧
    (pktKind x = 2 → BitVec.ofNat 16 (pktVersion x) - t.version ≠ 1 →
      (t.places (pktExpert x) = [] → routingOf t d x = .discard) ∧
      ((∃ p ∈ t.places (pktExpert x), p.die = d ∧ p.slot = pktSlot x) → routingOf t d x = .deliver) ∧
      (t.places (pktExpert x) ≠ [] → pktHops x = 2 → routingOf t d x = .deliver) ∧
      (t.places (pktExpert x) ≠ [] → pktHops x ≠ 2 → (∀ p ∈ t.places (pktExpert x), ¬ (p.die = d ∧ p.slot = pktSlot x)) →
        ∃ (k : Nat) (p : Placement) (y : BitVec 512), (t.places (pktExpert x))[k]? = some p ∧
          k = (if pktHops x = 0 then pktPlace x % (t.places (pktExpert x)).length else 0) ∧ routingOf t d x = .redirect p.die y ∧
          pktField y 1 1 = (pktHops x + 1) % 256 ∧ pktVersion y = t.version.toNat ∧ pktField y 18 1 = p.slot % 256 ∧ pktField y 19 1 = k % 256 ∧
          ∀ b : Nat, b ∉ [1, 2, 3, 18, 19] → pktField y b 1 = pktField x b 1)) ∧
    (pktKind x = 2 → BitVec.ofNat 16 (pktVersion x) - t.version = 1 → routingOf t d x = .waits)) ∧
  (∀ (s : State) (q : QueuePair) (rkey : Word) (d : DieId) (n : Nat) (data : List Byte), s.boot.minimal = false → s.qp? q.spec.qp = some q → q.error = false →
    s.regionOk rkey q.spec.asid = true → q.spec.slotLo.toNat ≤ n → n ≤ q.spec.slotHi.toNat → n < 4096 → data.length = 64 →
    let i := Instr.mailboxSlotWrite q.spec.qp ⟨d, rkey⟩ (64 * n) (some (BitVec.ofNat 32 n)) data
    (q.role = some .mailbox → q.spec.die = d → data.headD 0 ≠ 0x01 → data.headD 0 ≠ 0x03 →
      (s.inPlay d = true → s.reservedAgainst d q.spec.asid = false → n ∉ s.dies[d].hostSlots →
        ∃ t b, exec i s = .next t ∧ t.replies = s.replies ++ [.ack q.spec.qp] ∧ t.dies[d].hostSlots = n :: s.dies[d].hostSlots ∧
          t.dies[d].transit = s.dies[d].transit ++ [⟨b, q.spec.asid, .host q.spec.qp, some n⟩] ∧ pktField b 4 1 = 33) ∧
      (s.inPlay d = true → s.reservedAgainst d q.spec.asid = false → n ∈ s.dies[d].hostSlots →
        exec i s = .next (s.reply (.rnr q.spec.qp))) ∧
      (s.inPlay d = false → exec i s = .next (s.reply (.nakOperational q.spec.qp)))) ∧
    (q.role = some .command → (∀ x ∈ s.commands, x.slot ≠ n) →
      exec i s = .next (State.reply { s with commands := s.commands ++ [⟨q.spec.qp, n, BitVec.ofNat 512 (leNat data)⟩] } (.ack q.spec.qp)))) ∧
  (∀ (s : State) (q : QueuePair) (rkey : Word), s.boot.minimal = false → s.qp? q.spec.qp = some q → q.error = false → q.role = some .data →
    (∀ (m : Nat) (va : DWord) (data : List Byte) (ps : List (Nat × Nat)), s.regionOk rkey q.spec.asid = true → m ≤ 2 ^ 31 →
      data.length ≤ 1024 * 2 ^ q.spec.mtu.toNat → s.rdmaPieces q.spec.asid va data.length Attrs.rdmaWritable = some ps →
      exec (.rdmaWrite q.spec.qp ⟨rkey, m⟩ va data) s =
        .next (((s.placePieces ps data).noteStorage q.spec.qp va.toNat data.length).reply (.ack q.spec.qp))) ∧
    (∀ (m : Nat) (va : DWord) (data : List Byte), s.regionOk rkey q.spec.asid = false ∨ 2 ^ 31 < m ∨ 1024 * 2 ^ q.spec.mtu.toNat < data.length ∨
      s.rdmaPieces q.spec.asid va data.length Attrs.rdmaWritable = none →
      exec (.rdmaWrite q.spec.qp ⟨rkey, m⟩ va data) s = .next ((s.failQp q.spec.qp).reply (.nakAccess q.spec.qp))) ∧
    (∀ (va : DWord) (n : Nat) (ps : List (Nat × Nat)), s.regionOk rkey q.spec.asid = true → n ≤ 2 ^ 31 → q.reads.length < 16 →
      s.rdmaPieces q.spec.asid va n Attrs.rdmaReadable = some ps →
      exec (.rdmaRead q.spec.qp rkey va n) s = .next (s.modQp q.spec.qp (fun y => { y with reads := y.reads ++ [ps] }))) ∧
    (∀ (ps : List (Nat × Nat)) (rest : List (List (Nat × Nat))), q.reads = ps :: rest → (∀ p ∈ ps, s.poisonedIn p.1 p.2 = false) →
      s.respondRead q.spec.qp = (s.modQp q.spec.qp (fun y => { y with reads := y.reads.drop 1 })).reply
        (.readData q.spec.qp (ps.flatMap (fun p => s.readHome p.1 p.2))))) ∧
  (∀ (s : State) (q : QueuePair) (n : Nat) (st : BitVec 16), s.boot.minimal = false → s.qp? q.spec.qp = some q → q.error = false →
    (q.role = some .storage →
      (∀ x, s.nvm.find? (fun y => y.id == n && y.qp == q.spec.qp && !y.done) = some x →
        exec (.inboundSend q.spec.qp ⟨n, st⟩) s = .next ((s.answerCommand x st).reply (.ack q.spec.qp))) ∧
      (s.nvm.find? (fun y => y.id == n && y.qp == q.spec.qp && !y.done) = none →
        exec (.inboundSend q.spec.qp ⟨n, st⟩) s = .next (s.reply (.ack q.spec.qp)))) ∧
    (q.role ≠ some .storage → exec (.inboundSend q.spec.qp ⟨n, st⟩) s = .next ((s.failQp q.spec.qp).reply (.nakInvalid q.spec.qp))) ∧
    exec (.inboundAtomic q.spec.qp) s = .next ((s.failQp q.spec.qp).reply (.nakInvalid q.spec.qp)) ∧
    exec (.cnpReceived q.spec.qp) s = .next (s.modQp q.spec.qp (fun y => { y with rate := y.rate + 1 })) ∧
    (∃ t, exec (.queuePairDestroy q.spec.qp) s = .next t ∧ t.qp? q.spec.qp = none)) ∧
  (∀ (s : State) (x : QueuePairSpec), s.boot.minimal = false → s.qp? x.qp = none → s.qps.length < 16384 → x.mtu ≠ 3 →
    (x.role = 2 → exec (.queuePairCreate x) s = .next { s with qps := s.qps ++ [⟨x, false, [], 0, 0, [], none, false⟩] }) ∧
    (x.role = 3 → 4 ≤ x.ringLog.toNat → x.ringLog.toNat ≤ 16 →
      ((∀ q ∈ s.qps, q.spec.role ≠ 3) →
        exec (.queuePairCreate x) s = .next { s with qps := s.qps ++ [⟨x, false, [], 0, 0, [], none, true⟩] }) ∧
      ((∃ q ∈ s.qps, q.spec.role = 3 ∧ q.admin = true) → (s.qps.filter (fun q => q.spec.role == 3 && !q.admin)).length < 64 →
        exec (.queuePairCreate x) s = .next { s with qps := s.qps ++ [⟨x, false, [], 0, 0, [], none, false⟩] }) ∧
      ((∃ q ∈ s.qps, q.spec.role = 3 ∧ q.admin = true) → 64 ≤ (s.qps.filter (fun q => q.spec.role == 3 && !q.admin)).length →
        exec (.queuePairCreate x) s = .next s))) ∧
  (∀ (s : State) (x : Transfer), s.transfer? x.id = some x →
    ((x.op = 1 ∨ x.op = 2) → s.nvmOver x = true →
      (x.failed = none → exec (.transferComplete x.die x.id) s = .next (s.endTransfer x 0 none)) ∧
      ∀ st, x.failed = some st → exec (.transferComplete x.die x.id) s = .next (s.endTransfer x 0x0E (some st))) ∧
    (x.sent ≠ 0 → exec (.peerTimeout x.id) s = .next (s.endTransfer x 0x0F none)) ∧
    (x.sent ≠ 0 → x.op = 3 → ∀ (data : List Byte),
      exec (.rdmaResponse x.id true data) s = .next (s.endTransfer x 0x0F none) ∧
      ((s.peerPair x).isSome = true → exec (.rdmaResponse x.id false data) s = .next (s.endTransfer x 0 none))) ∧
    (x.sent ≠ 0 → x.op = 4 → ∀ (data : List Byte), (s.peerPair x).isSome = true → data.length = x.len →
      let p := s.placePeer x (peerData (data.take x.len) true s.fresh)
      exec (.rdmaResponse x.id false data) s = .next (p.1.freshened.endTransfer x p.2 none)))

/-- Tier 1. The commands of a host: LAUNCH is checked and its shares sent, it completes when every team has ended; INSTALL and UNINSTALL change
dispatchers die by die; FENCE, SPACE and refused commands complete, and a record is posted while its ring has room (R48 to R50, R321 to R323,
R350, R390, Table D-5).  That a launch starts the counts of its grid anew is log 75, the order in which the commands of a queue pair are taken
log 81, and that SEQ counts the LAUNCH packets sent before log 90: the model's choices. -/
def Obligations.HostCommands : Prop :=
  (∀ (s u : State) (q : QueuePair) (cmd : BitVec 512), s.command? q.spec.qp cmd 1 = some (q, u) →
    let asid := q.spec.asid
    let desc : DWord := BitVec.ofNat 64 (cmdField cmd 8 8)
    let grid : DWord := BitVec.ofNat 64 (cmdField cmd 16 8)
    let mask : Word := BitVec.ofNat 32 (cmdField cmd 28 4)
    (∀ st, u.checkLaunch asid desc grid (cmdField cmd 24 4) mask = .error st →
      exec (.launchCmd q.spec.qp cmd) s = .next ({ u with uid := u.uid + 1 }.completeCmd q.spec.qp (cmdTag cmd) st 0)) ∧
    (∀ xs, u.checkLaunch asid desc grid (cmdField cmd 24 4) mask = .ok xs →
      exec (.launchCmd q.spec.qp cmd) s = .next (xs.foldl (fun v x => v.sendLaunch asid desc grid (cmdField cmd 24 4) mask x) { u with
        uid := u.uid + 1, launches := u.launches ++ [⟨u.uid, q.spec.qp, cmdTag cmd, asid, grid, desc, xs, [], none, 0⟩],
        dies := u.dies.map (fun x => x.freshGrid ⟨asid, grid⟩), merges := u.merges.filter (fun x => x.key != ⟨asid, grid⟩) }))) ∧
  (∀ (s : State) (asid : BitVec 12) (desc grid : DWord) (n : Nat) (mask : Word) (d : DieId) (first k : Nat), ∃ b : BitVec 512,
    s.sendLaunch asid desc grid n mask (d, first, k) = s.modDie d (fun y => { y with
      launchSent := y.launchSent + 1, transit := y.transit ++ [⟨b, asid, .distributor, none⟩] }) ∧
    pktField b 0 1 = 1 ∧ pktField b 8 8 = s.dies[d].launchSent % 2 ^ 64 ∧ pktField b 16 8 = desc.toNat ∧ pktField b 24 8 = grid.toNat ∧
    pktField b 32 4 = first % 2 ^ 32 ∧ pktField b 36 4 = k % 2 ^ 32 ∧ pktField b 40 4 = n % 2 ^ 32 ∧ pktField b 44 4 = mask.toNat) ∧
  (∀ (s : State) (asid : BitVec 12) (desc grid : DWord) (mask : Word), s.checkLaunch asid desc grid 0 mask = .error 0x04) ∧
  (∀ (ds : List DieId) (n : Nat), ds ≠ [] → ((shares ds n).map (fun x => x.2.2)).sum = n) ∧
  (∀ (s : State) (asid : BitVec 12) (grid : DWord) (l : Launch),
    s.launches.find? (fun y => y.asid == asid && y.grid == grid) = some l →
    (l.over = true → s.engineOpen l = false → exec (.launchComplete asid.toNat grid) s =
      .next (let u := l.ranges.foldl (fun v x => v.releaseDie x.1) s
        State.completeCmd { u with launches := u.launches.filter (fun y => y.id != l.id) } l.qp l.tag (l.status.getD (0, 0)).1
          (l.status.getD (0, 0)).2)) ∧
    (l.over = false ∨ s.engineOpen l = true → exec (.launchComplete asid.toNat grid) s = .next s)) ∧
  (∀ (s u : State) (q : QueuePair) (cmd : BitVec 512) (x : Descriptor), s.command? q.spec.qp cmd 2 = some (q, u) →
    u.homeDescriptor q.spec.asid (BitVec.ofNat 64 (cmdField cmd 8 8)) = some x →
    let ds := u.eligibleDies (BitVec.ofNat 32 (cmdField cmd 28 4))
    (dispatcherOk x = true → exec (.install q.spec.qp cmd) s = .next
      (State.askDispatcher { u with reserved := ds.map (fun d => (d, q.spec.asid)) ++ u.reserved.filter (fun r => !ds.contains r.1) }
        q.spec.qp (cmdTag cmd) ds (some (q.spec.asid, x)))) ∧
    (dispatcherOk x = false → exec (.install q.spec.qp cmd) s =
      .next ({ u with uid := u.uid + 1 }.completeCmd q.spec.qp (cmdTag cmd) 0x04 0))) ∧
  (∀ (s u : State) (q : QueuePair) (cmd : BitVec 512), s.command? q.spec.qp cmd 3 = some (q, u) →
    exec (.uninstall q.spec.qp cmd) s =
      .next (u.askDispatcher q.spec.qp (cmdTag cmd) (u.eligibleDies (BitVec.ofNat 32 (cmdField cmd 28 4))) none)) ∧
  (∀ (s : State) (d : DieId) (rest : List (Option (BitVec 12 × Descriptor))), s.dispatcherFree d = true →
    (∀ x, s.dies[d].disp.pending = some x :: rest → exec (.dispatcherReplace d) s = .next ((s.startDispatcher d (some x)).dieChanged d)) ∧
    (s.dies[d].disp.pending = none :: rest →
      let u := s.startDispatcher d none
      ((∀ x ∈ rest, x = none) →
        exec (.dispatcherReplace d) s = .next (State.dieChanged { u with reserved := u.reserved.filter (fun r => r.1 != d) } d)) ∧
      ((∃ x ∈ rest, x ≠ none) → exec (.dispatcherReplace d) s = .next (u.dieChanged d)))) ∧
  (∀ (s u : State) (q : QueuePair) (cmd : BitVec 512), s.command? q.spec.qp cmd 4 = some (q, u) →
    let v : State := { u with uid := u.uid + 1, waiting := u.waiting ++ [⟨u.uid, q.spec.qp, cmdTag cmd, []⟩] }
    exec (.fence q.spec.qp cmd) s = .next (v.settleFences v.waiting)) ∧
  (∀ (s u : State) (q : QueuePair) (cmd : BitVec 512), s.command? q.spec.qp cmd 5 = some (q, u) →
    let v : State := { u with uid := u.uid + 1 }
    let x : SpaceRecord := ⟨q.spec.asid, BitVec.ofNat 64 (cmdField cmd 8 8), BitVec.ofNat 64 (cmdField cmd 16 8), cmdField cmd 24 4⟩
    ((cmdField cmd 8 8 % 4 = 0 ∧ cmdField cmd 16 8 % 16 = 0 ∧ cmdField cmd 24 4 ≤ 65536) →
      exec (.space q.spec.qp cmd) s = .next (State.completeCmd { v with spaces := x :: u.spaces.filter (fun y => y.asid != q.spec.asid) }
        q.spec.qp (cmdTag cmd) 0 0)) ∧
    (¬ (cmdField cmd 8 8 % 4 = 0 ∧ cmdField cmd 16 8 % 16 = 0 ∧ cmdField cmd 24 4 ≤ 65536) →
      exec (.space q.spec.qp cmd) s = .next (v.completeCmd q.spec.qp (cmdTag cmd) 0x04 0))) ∧
  (∀ (s u : State) (q : QueuePair) (cmd : BitVec 512), s.taken? q.spec.qp cmd = some (q, u) →
    (cmdReserved cmd = false ∨ s.boot.minimal = true) →
    exec (.badCommand q.spec.qp cmd) s = .next ({ u with uid := u.uid + 1 }.completeCmd q.spec.qp (cmdTag cmd) 0x04 0)) ∧
  (∀ (s u : State) (qp : Nat) (q : QueuePair) (cmd : BitVec 512) (n : Nat), s.command? qp cmd n = some (q, u) →
    s.qp? qp = some q ∧ q.role = some .command ∧
    ∃ x ∈ s.commands, x.qp = qp ∧ x.bits = cmd ∧ u = { s with commands := s.commands.filter (fun y => y.slot != x.slot) }) ∧
  (∀ (s : State) (q : QueuePair) (r : Record), s.qp? q.spec.qp = some q → s.held.find? (fun x => x.qp == q.spec.qp) = some r →
    (s.ringRoom q r.seq = true → exec (.completionRecordPost q.spec.qp) s = .next { s with
      held := s.held.filter (fun x => !(x.qp == q.spec.qp && x.seq == r.seq)), posted := s.posted ++ [r]
      outbound := s.outbound ++ [.write q.spec.qp
        (q.spec.ringBase + BitVec.ofNat 64 (32 * (r.seq % 2 ^ q.spec.ringLog.toNat))) 0 (r.image q.spec.ringLog.toNat)] }) ∧
    (s.ringRoom q r.seq = false → exec (.completionRecordPost q.spec.qp) s = .next s))

/-- Tier 1. Nomad: a command begins an operation or rolls back with the code of Table D-22, and is answered with an error response alone in
minimal mode; the copy of an ADD enters the class 0 queue of its die's Caravan and ends with what its chunks have moved; each phase ends as R364
to R366 say, and a window's end moves the counts (R281, R282, R288, R361 to R367, R376).  The slot that a SLOT of 48 or more gives, the phase
code of the wait for a merge, the record read anew in each phase and the ages that precede a retirement are log 76: the model's choices. -/
def Obligations.NomadEvents : Prop :=
  (∀ (s : State) (v : DWord), s.boot.minimal = true → ∀ i : Instr, i = .add v ∨ i = .drop v ∨ i = .ncmdNoop v →
    exec i s = .next { s with served := s.served ++ [none] }) ∧
  (∀ (s : State) (v : DWord), s.boot.minimal = false → s.nomad.en = true → s.nomad.op = none →
    let e := v.toNat / 4 % 4096
    let u : State := { s with nomad := { s.nomad with ncmd := v &&& 0x0FFFFFFF } }
    let w : State := { u with nomad := { u.nomad with expert := BitVec.ofNat 12 e } }
    (v.toNat % 4 = 1 →
      (s.expertRecord e = none → exec (.add v) s = .next (w.rollback 0x07).freshened.nextOp) ∧
      (∀ (x : ExpertRecord) (d : DieId), s.expertRecord e = some x → d.val = v.toNat / 16384 % 32 →
        (s.inPlay d = false → exec (.add v) s = .next (w.rollback 0x03).freshened.nextOp) ∧
        (s.inPlay d = true → (s.nomad.table.places e = [] ∨ 8 ≤ (s.nomad.table.places e).length ∨
            ∃ p ∈ s.nomad.table.places e, p.die = d) → exec (.add v) s = .next (w.rollback 0x06).freshened.nextOp) ∧
        (s.inPlay d = true → s.nomad.table.places e ≠ [] → (s.nomad.table.places e).length < 8 →
            (∀ p ∈ s.nomad.table.places e, p.die ≠ d) →
          exec (.add v) s = .next (State.queueCopy { w with nomad := { w.nomad with
            released := w.nomad.released.filter (fun y => !(y.1 == e && y.2.1 == d))
            op := some ⟨true, e, d, ncmdSlot (v.toNat / 524288 % 64) s.fresh, (s.nomad.table.places e).length, .prepare, s.nomad.table, [], 0,
              false, false, ⟨x.asid, x.region d, x.wlen⟩, none⟩ } }).freshened.nextOp))) ∧
    (v.toNat % 4 = 2 →
      let k := v.toNat / 33554432 % 8
      ((k = 0 ∨ (s.nomad.table.places e).length ≤ k) → exec (.drop v) s = .next (w.rollback 0x08).nextOp) ∧
      (∀ p, k ≠ 0 → (s.nomad.table.places e)[k]? = some p → s.expertRecord e = none → exec (.drop v) s = .next (w.rollback 0x07).nextOp) ∧
      (∀ p x, k ≠ 0 → (s.nomad.table.places e)[k]? = some p → s.expertRecord e = some x →
        exec (.drop v) s = .next (State.nextOp { w with nomad := { w.nomad with op := some ⟨false, e, p.die, p.slot, k, .commit,
          s.nomad.table.remove e k x.merge, s.diesInPlay, 0, false, false, ⟨x.asid, x.region p.die, x.wlen⟩, none⟩ } }))) ∧
    ((v.toNat % 4 = 0 ∨ v.toNat % 4 = 3) → exec (.ncmdNoop v) s = .next u)) ∧
  (∀ (n k : Nat), ncmdSlot n k < 48 ∧ (n < 48 → ncmdSlot n k = n)) ∧
  (∀ (s : State) (op : NomadOp) (x : ExpertRecord), s.nomad.op = some op → s.inPlay op.die = true → s.expertRecord op.expert = some x →
    (op.phase = .prepare →
      let c : EngineOp :=
        { id := s.uid, kind := .cpy 2, completion := .nomad, asid := op.region.asid, core := 0, team := s.uid, slot := 0, grid := 0, cls := 0
          src := x.wbase, dst := op.region.va, len := op.region.len, sent := 0, code := 0 }
      (op.copy = none → s.dies[op.die].engineRoom .caravan 0 1 = false → s.queueCopy = s) ∧
      (op.copy = none → s.dies[op.die].engineRoom .caravan 0 1 = true → s.queueCopy =
        (State.modDie { s with uid := s.uid + 1 } op.die (fun y => { y with engines := y.engines ++ [c] })).setOp { op with copy := some s.uid }) ∧
      (∀ (id : Nat) (e : EngineOp) (abort : Option Abort), op.copy = some id → s.engine? op.die id = some e →
        let p : State × Byte := match s.refusedOp op.die e with
          | some code => (s.dropEngine op.die e.id, code)
          | none => ((s.moveRest op.die e abort).1.dropEngine op.die e.id, (s.moveRest op.die e abort).2)
        (abort = none → e.code = 0 → e.moved = false → s.refusedOp op.die e = none → exec (.prepareComplete abort) s = .next s) ∧
        (¬ (abort = none ∧ e.code = 0 ∧ e.moved = false ∧ s.refusedOp op.die e = none) →
          (p.2 = 0 → exec (.prepareComplete abort) s = .next (p.1.setOp { op with phase := .verify, copy := none })) ∧
          (p.2 ≠ 0 → exec (.prepareComplete abort) s =
            .next (p.1.rollCopy { op with copy := none } (copyRollback p.2)))))) ∧
    (op.phase = .verify →
      ((s.replicaBytes x op.die).map (crc32c 0) = some x.wcrc → exec .verifyComplete s = .next (s.setOp { op with
        phase := .commit, next := s.nomad.table.add op.expert ⟨op.die, op.slot⟩, waiting := s.diesInPlay })) ∧
      ((s.replicaBytes x op.die).map (crc32c 0) ≠ some x.wcrc → exec .verifyComplete s = .next (s.rollCopy op 0x04)))) ∧
  (∀ (s : State) (op : NomadOp) (id : Nat), s.nomad.op = some op → op.copy = some id →
    (s.inPlay op.die = false → (op.phase = .prepare → ∀ abort, exec (.prepareComplete abort) s = .next (s.rollCopy op 0x03)) ∧
      (op.phase = .verify → exec .verifyComplete s = .next (s.rollCopy op 0x03))) ∧
    (s.inPlay op.die = true → s.expertRecord op.expert = none →
      (op.phase = .prepare → ∀ abort, exec (.prepareComplete abort) s = .next (s.rollCopy op 0x07)) ∧
      (op.phase = .verify → exec .verifyComplete s = .next (s.rollCopy op 0x07)))) ∧
  (copyRollback codePoison = 0x01 ∧ copyRollback (abortCode .timeout) = 0x02 ∧ copyRollback codeAccess = 0x05) ∧
  (∀ (s : State) (op : NomadOp) (d : DieId), s.nomad.op = some op → op.phase = .commit → d ∈ op.waiting → s.inPlay d = true →
    (op.begun = true ∨ s.mergeOpen op.expert = false) →
    ∃ t, exec (.commit d) s = .next t ∧ t.dies[d].replicas = op.next ∧
      ((∀ x ∈ op.waiting, x ≠ d → s.inPlay x = false) → t.nomad.table = op.next ∧ t.nomad.version = op.next.version) ∧
      ((∃ x ∈ op.waiting, x ≠ d ∧ s.inPlay x = true) → t.nomad.table = s.nomad.table)) ∧
  (∀ (s : State) (op : NomadOp), s.nomad.op = some op → op.phase = .drain →
    (s.inFlight (op.next.version - 1) = true → exec .drainLatch s = .next s) ∧
    (s.inFlight (op.next.version - 1) = false → op.isAdd = true →
      exec .drainLatch s = .next (State.nextOp { s with nomad := { s.nomad with op := none } })) ∧
    (s.inFlight (op.next.version - 1) = false → op.isAdd = false → (∀ x ∈ op.next.departing, x.1 ≠ op.expert) →
      exec .drainLatch s = .next (s.setOp { op with phase := .retire, age := s.uid }))) ∧
  (∀ (s : State) (op : NomadOp), s.nomad.op = some op → op.phase = .retire →
    ((∀ t ∈ s.liveTeams op.die ++ s.dies[op.die].saved.map Saved.team, op.age ≤ t.retireAge) → exec .retire s =
      .next (State.nextOp { s with nomad := { s.nomad with op := none, released := (op.expert, op.die, op.region) :: s.nomad.released } })) ∧
    ((∃ t ∈ s.liveTeams op.die ++ s.dies[op.die].saved.map Saved.team, t.retireAge < op.age) → exec .retire s = .next s)) ∧
  (∀ (s : State) (op : NomadOp), s.nomad.op = some op → op.phase = .waitMerge → op.merged = true →
    exec .departingEntryRemoval s = .next (s.setOp { op with
      phase := .commit, next := s.nomad.table.forget op.expert, waiting := s.diesInPlay, begun := false })) ∧
  (∀ s : State, s.nomad.windowAt + 1880000 ≤ s.now → s.nomad.auto = false → exec .nomadWindowEnd s = .next { s with nomad := { s.nomad with
      streaks := s.nomad.table.experts.filterMap (fun y => if y.2.isEmpty then none else some (s.nomad.streak y.1 y.2.length))
      readout := s.nomad.counts.map (fun y => (y.1, min y.2 0xFFFFFFFF)), counts := [], dieCounts := Vector.replicate 32 0
      windowAt := s.nomad.windowAt + 1880000, todo := [] } }) ∧
  (∀ s : State, s.now < s.nomad.windowAt + 1880000 → exec .nomadWindowEnd s = .next s) ∧
  (∀ (s : State) (code : Byte), (s.rollback code).nomad.op = none ∧ (s.rollback code).nomad.reason = code ∧
    (s.rollback code).nomad.rollbacks = (if s.nomad.rollbacks = 0xFFFF then 0xFFFF else s.nomad.rollbacks + 1))

/-! ## Events of start-up, identity, management and links (spec 17 to 21) -/

/-- Tier 1. Starts: a reset begins one from the reset values, measures stage 0 into M0 and keeps what is kept, a forced one enters minimal mode,
the watchdog restarts one that has not finished or has failed, a hand-off verifies and measures the next stage and sets INSERVICE once, from the
modules that have trained up, images and the fused minimum are written where they may be, and the SPDM responder answers with what has been
measured (R371 to R378, R387).  A failed start keeps its reason at the watchdog (log 78), memory reads zero after a reset (log 1), what the
non-volatile store holds at first is log 9, the codes of the SPDM requests are log 13, and when BOOTOK counts is log 104: the model's choices. -/
def Obligations.StartEvents : Prop :=
  (∀ s : State, ∃ t, exec .reset s = .next t ∧ t.hbm = [] ∧ t.now = 0 ∧ t.qps = [] ∧ t.launches = [] ∧ t.inService = 0 ∧ t.present = s.present ∧
    t.boot.bootok = false ∧ t.boot.fusedKey = s.boot.fusedKey ∧ t.boot.svnMin = s.boot.svnMin ∧
    t.boot.svnUse = s.boot.svnMin ∧ t.boot.m[(0 : Fin 3)] = Config.sha384 (beBytes 48 0 ++ beBytes 48 (Config.romDigest s.boot.fusedKey s.boot.svnMin).toNat) ∧
    t.boot.log = [(0, 0, Config.romDigest s.boot.fusedKey s.boot.svnMin)] ∧ t.boot.loaderA = s.boot.loaderA ∧ t.boot.runtimeB = s.boot.runtimeB ∧ t.mgmt.nvlog = s.mgmt.nvlog ∧ t.mgmt.log = [] ∧
    t.boot.failcnt = (if s.boot.failcnt = 15 then 15 else s.boot.failcnt + 1) ∧
    (t.boot.minimal = true ↔ 3 ≤ s.boot.failcnt.toNat) ∧
    (s.boot.failcnt.toNat < 3 → t.boot.slot = (if s.boot.try_ then !s.boot.active else s.boot.active) ∧ t.boot.try_ = false) ∧
    ∀ (d : DieId) (c : CoreId) (i : SlotId), t.group? ⟨d, c, i⟩ = (if c = 0 ∧ i = 31 then some (Group.builtin 0 0) else none)) ∧
  (∀ s : State, ∃ t, exec .forcemin s = .next t ∧ t.boot.minimal = true ∧ t.boot.stage = 3 ∧ t.boot.reason = 0x06) ∧
  (∀ s : State, s.boot.minimal = false → s.boot.bootok = false → s.boot.halted = false → 56400000000 ≤ s.now →
    exec .watchdog s = exec .reset { s with boot := { s.boot with reason := 0x03 } }) ∧
  (∀ s : State, s.boot.minimal = false → s.boot.bootok = false → s.boot.halted = true → 56400000000 ≤ s.now → exec .watchdog s = exec .reset s) ∧
  (∀ s : State, s.boot.minimal = true ∨ s.now < 56400000000 → exec .watchdog s = .next s) ∧
  (∀ s : State, s.boot.bootok = true → exec .watchdog s = .next s) ∧
  (∀ (s : State) (up : BitVec 32), s.boot.minimal = false → s.boot.halted = false →
    let b := s.boot.measureRom
    let u := s.enterService up
    (s.boot.stage = 0 → b.verify (b.images b.slot).1 = .good → exec (.stageHandoff true up) s = .next { s with
      boot := { b.extend 1 (imageDigest (b.images b.slot).1) with stage := 1 } }) ∧
    (s.boot.stage = 0 → b.verify (b.images b.slot).1 ≠ .good →
      (b.firstSlotFailed = false →
        ∃ t, exec (.stageHandoff true up) s = .next t ∧ t.boot.slot = !b.slot ∧ t.boot.stage = 0 ∧ t.boot.halted = false) ∧
      (b.firstSlotFailed = true → ∃ t, exec (.stageHandoff true up) s = .next t ∧ t.boot.halted = true ∧ t.boot.reason =
        (if b.rollbackSeen = true ∨ b.verify (b.images b.slot).1 = .oldVersion then 0x02 else 0x01))) ∧
    (s.boot.stage = 1 → exec (.stageHandoff false up) s = .next { s with boot := { s.boot with halted := true, reason := 0x04 } }) ∧
    (s.boot.stage = 1 → u.inService = 0 → exec (.stageHandoff true up) s = .next { u with boot := { u.boot with halted := true, reason := 0x05 } }) ∧
    (s.boot.stage = 1 → u.inService ≠ 0 → ∃ t, exec (.stageHandoff true up) s = .next t ∧ t.inService = u.inService ∧ t.boot = u.boot.toRuntime)) ∧
  (∀ (s : State) (up : BitVec 32), (s.boot.serviceSet = true → s.enterService up = s) ∧
    (s.boot.serviceSet = false → (s.enterService up).boot = { s.boot with serviceSet := true } ∧ ∀ d : DieId,
      ((s.enterService up).inService.getLsbD d.val = true ↔ s.present.getLsbD d.val = true ∧ ∃ m : Fin 4, m.val < 2 ∧
        ((s.dies[d].links[m]).state = 1 ∨ (s.dies[d].links[m]).state = 2 ∨ ((s.dies[d].links[m]).state = 0 ∧ up.getLsbD d.val = true))))) ∧
  (∀ b : Boot, (b.log = [] → b.measureRom = b.extend 0 (Config.romDigest b.fusedKey b.svnMin)) ∧ (b.log ≠ [] → b.measureRom = b)) ∧
  (∀ (b : Boot) (x : Image), b.verify x = .good → headerOk x = true ∧ b.svnUse.toNat ≤ (svnOf x).toNat ∧
    Config.ecdsaOk b.fusedKey (imageDigest x) ((x.drop 112).take 96) = true) ∧
  (∀ (b : Boot) (k : Fin 3) (x : BitVec 384), (b.extend k x).m[k] =
      Config.sha384 (beBytes 48 (b.m[k]).toNat ++ beBytes 48 x.toNat) ∧
    (b.extend k x).log = b.log ++ [(BitVec.ofNat 32 b.log.length, BitVec.ofNat 8 k.val, x)] ∧
    ∀ j : Fin 3, j ≠ k → (b.extend k x).m[j] = b.m[j]) ∧
  (∀ (s : State) (image : List Byte), s.boot.minimal = false →
    (s.boot.slot = true → exec (.imageWrite false false image) s = .next { s with boot := { s.boot with loaderA := image } }) ∧
    ∀ rt, exec (.imageWrite s.boot.slot rt image) s = .next s) ∧
  (∀ s : State, (s.boot.stage = 2 → s.boot.minimal = false → s.boot.halted = false →
      exec .bootok s = .next { s with boot := { s.boot with bootok := true, failcnt := 0, active := s.boot.slot } }) ∧
    ((s.boot.stage ≠ 2 ∨ s.boot.minimal = true ∨ s.boot.halted = true) → exec .bootok s = .next s)) ∧
  (∀ (s : State) (slotB rt : Bool) (image : List Byte), s.boot.minimal = true → ∃ t, exec (.imageWrite slotB rt image) s = .next t ∧
    t.boot.failcnt = 0 ∧ (if rt then (t.boot.images slotB).2 else (t.boot.images slotB).1) = image) ∧
  (∀ (s : State) (v : Word), s.boot.minimal = true → exec (.svnminWrite v) s = .next { s with served := s.served ++ [none] }) ∧
  (∀ (s : State) (v : Word), s.boot.minimal = false →
    let ok := s.boot.svnMin.toNat < v.toNat ∧ v.toNat ≤ (svnOf (s.boot.images s.boot.slot).1).toNat ∧
      v.toNat ≤ (svnOf (s.boot.images s.boot.slot).2).toNat
    (ok → exec (.svnminWrite v) s = .next { s with boot := { s.boot with svnMin := v } }) ∧
    (¬ ok → exec (.svnminWrite v) s = .next (s.log 0x0F oasisSource 1 0 (v.setWidth 64)))) ∧
  (∀ (s : State) (nonce : BitVec 256) (code : Byte),
    exec .getVersion s = .next { s with spdm := s.spdm ++ [.version 1 3] } ∧
    exec .getCapabilities s = .next { s with spdm := s.spdm ++ [.capabilities ⟨true, true, true, false, false⟩] } ∧
    exec .negotiateAlgorithms s = .next { s with spdm := s.spdm ++ [.algorithms .tpmAlgSha384 .storatilBrainpoolP384r1Ecdsa] } ∧
    exec .getDigests s = .next { s with spdm := s.spdm ++ [.digests (Config.sha384 Config.certificate)] } ∧
    exec .getCertificate s = .next { s with spdm := s.spdm ++ [.certificate Config.certificate] } ∧
    exec (.challenge nonce) s = .next { s with
      spdm := s.spdm ++ [.challengeAuth s.boot.stage s.boot.m.toList s.boot.log (s.boot.signed nonce)] } ∧
    exec (.getMeasurements nonce true) s = .next { s with
      spdm := s.spdm ++ [.measurements s.boot.stage s.boot.m.toList s.boot.log (s.boot.signed nonce)] } ∧
    exec (.getMeasurements nonce false) s = .next { s with spdm := s.spdm ++ [.measurements s.boot.stage s.boot.m.toList s.boot.log []] } ∧
    (code ∉ spdmSupported → exec (.unsupportedRequest code) s = .next { s with spdm := s.spdm ++ [.errorUnsupported code] }) ∧
    (code ∈ spdmSupported → exec (.unsupportedRequest code) s = .next s))

/-- Tier 1. Control registers take the fields that are writable, and in minimal mode BOOTCFG alone; the density window and the power manager
step, a thermal trip stops issue and loses the work in flight, ECC errors poison and are logged, flits are accepted in order or replayed, and a
training brings a module up, or down with its traffic on others (R60, R336, R354, R359, R368 to R371, R374, R376, R379 to R385).  That any
non-zero value clears a count is log 95, how the CRC of a flit runs and which module takes the traffic log 23, what a sensor reads log 17, and
the order within one write of BOOTCFG log 104: the model's choices. -/
def Obligations.ManagementEvents : Prop :=
  (∀ (s : State) (v : DWord), s.boot.minimal = false →
    exec (.registerWrite .astbase v) s = .next { s with xlat := { s.xlat with en := v.getLsbD 0, base := v.extractLsb' 12 40 } } ∧
    exec (.registerWrite .pcap v) s = .next { s with mgmt := { s.mgmt with cap := v.extractLsb' 0 12, capEn := v.getLsbD 12 } } ∧
    exec (.registerWrite .pgrid v) s = .next { s with pctl := { s.pctl with pgrid := v } } ∧
    exec (.registerWrite .hmap v) s = .next s ∧ exec (.registerWrite .bootstat v) s = .next s ∧
    (∀ d : DieId, exec (.registerWrite (.savecfgSize d) v) s = .next (s.modDie d (fun x => { x with saveSize := v.setWidth 32 })) ∧
      exec (.registerWrite (.dbgen d) v) s = .next (s.modDie d (fun x => { x with dbgen := v.getLsbD 0 })) ∧
      exec (.registerWrite (.dlim d) v) s = .next (s.modDie d (fun x => { x with dlim := { x.dlim with
        nextLimit := v.extractLsb' 0 13, nextWin := v.extractLsb' 13 3 } })))) ∧
  (∀ (s : State) (v : DWord) (r : RegName), s.boot.minimal = true → r ≠ .bootcfg →
    exec (.registerWrite r v) s = .next { s with served := s.served ++ [none] }) ∧
  (∀ (s : State) (v : DWord),
    let b : Boot := { s.boot with active := v.getLsbD 0, try_ := v.getLsbD 1 }
    let u : State := { s with boot := if v.getLsbD 2 = true ∧ b.stage = 2 ∧ b.minimal = false ∧ b.halted = false then
      { b with bootok := true, failcnt := 0, active := b.slot } else b }
    (v.getLsbD 3 = false → exec (.registerWrite .bootcfg v) s = .next u) ∧
    (v.getLsbD 3 = true → exec (.registerWrite .bootcfg v) s = exec .forcemin u)) ∧
  (∀ (s : State) (d : DieId) (c : CoreId) (v : Word), s.boot.minimal = true →
    exec (.cschedWrite d c v) s = .next { s with served := s.served ++ [none] }) ∧
  (∀ (s : State) (d : DieId) (c : CoreId) (v : Word), s.boot.minimal = false → ∃ t, exec (.cschedWrite d c v) s = .next t ∧
    (t.core d c).adm.admitf = v.extractLsb' 0 5 ∧ (t.core d c).adm.adapt = v.getLsbD 5 ∧ (t.core d c).adm.feff = min (v.toNat % 32) 24 ∧
    (t.core d c).adm.contcnt = (if v.toNat / 65536 = 0 then (s.core d c).adm.contcnt else 0)) ∧
  (∀ (s : State) (d : DieId), let y := s.dies[d].dlim
    (y.since + 2 * 2 ^ (4 + y.win.toNat) ≤ s.now → exec (.densityWindowEnd d) s = .next (s.modDie d (fun x => { x with dlim :=
      { x.dlim with
        limit := x.dlim.nextLimit, win := x.dlim.nextWin, since := y.since + 2 * 2 ^ (4 + y.win.toNat), count := 0, engaged := false } }))) ∧
    (s.now < y.since + 2 * 2 ^ (4 + y.win.toNat) → exec (.densityWindowEnd d) s = .next s)) ∧
  (∀ s : State, s.now < s.mgmt.sampleAt + 1880000 → exec .telemetrySample s = .next s) ∧
  (∀ s : State, s.mgmt.sampleAt + 1880000 ≤ s.now → ∃ t, exec .telemetrySample s = .next t ∧ t.mgmt.regs[(6 : Fin 7)] = s.mgmt.regs[(6 : Fin 7)] + 1 ∧
    t.mgmt.cap = s.mgmt.cap ∧ t.hbm = s.hbm ∧ t.fresh = s.fresh + 1 ∧
    ((∀ i : Fin 41, (Config.freeReading s.fresh (16 + i.val)).toNat < 1760) → (Config.freeReading s.fresh 3).toNat < 1680 → t.dies = s.dies ∧
      t.mgmt.powered = s.mgmt.powered) ∧
    (((∃ i : Fin 41, 1760 ≤ (Config.freeReading s.fresh (16 + i.val)).toNat) ∨ 1680 ≤ (Config.freeReading s.fresh 3).toNat) →
      t.dies = s.dies.map Die.lostFlight ∧ t.mgmt.powered = false)) ∧
  (∀ (e : Bool) (die hbm : Nat), ((1600 ≤ die ∨ 1520 ≤ hbm) → heatStep e die hbm = (.take, true)) ∧
    (die < 1600 → hbm < 1520 → (e = true ∧ (1520 ≤ die ∨ 1440 ≤ hbm) → heatStep e die hbm = (.stay, true)) ∧
      (¬ (e = true ∧ (1520 ≤ die ∨ 1440 ≤ hbm)) → heatStep e die hbm = (.undo, false)))) ∧
  (∀ m : Mgmt, (m.step .stay) = m ∧
    (1024 < m.limit → m.step .take = { m with limit := max 1024 (m.limit - 256) }) ∧
    (m.limit ≤ 1024 → m.step .take = { m with withheld := min 12 (m.withheld + 1) }) ∧
    (0 < m.withheld → m.step .undo = { m with withheld := m.withheld - 1 }) ∧
    (m.withheld = 0 → m.step .undo = { m with limit := min 4096 (m.limit + 256) })) ∧
  (∀ (s : State) (x : Fin 41) (hbm : Bool), ∃ t, exec (.thermalTrip x hbm) s = .next t ∧ t.mgmt.powered = false ∧ t.launches = [] ∧ t.held = [] ∧
    t.mgmt.loghead = s.mgmt.loghead + 1 ∧ t.dies = s.dies.map Die.lostFlight ∧ t.transfers = [] ∧ t.nvm = []) ∧
  (∀ (s : State) (u : Nat), ∃ t, exec (.eccUncorrectable (.memory u)) s = .next t ∧ t.poisonedAt (16 * u) = true ∧ t.hbm = s.hbm ∧
    t.mgmt.loghead = s.mgmt.loghead + 1) ∧
  (∀ (s : State) (d : DieId) (c : CoreId) (b : Fin 64) (u : Nat) (n : Fin 32),
    (∃ t, exec (.eccUncorrectable (.bankUnit d c b u)) s = .next t ∧ u ∈ ((t.core d c).banks[b]).poison ∧
      ((t.core d c).banks[b]).mem = ((s.core d c).banks[b]).mem) ∧
    (∃ t, exec (.eccUncorrectable (.slot d c n)) s = .next t ∧ (t.core d c).table[n] = ⟨((s.core d c).table[n]).entry, true⟩)) ∧
  (∀ (s : State) (x : Fin 41) (a : DWord), ∃ t, exec (.eccCorrected x a) s = .next t ∧ t.mgmt.loghead = s.mgmt.loghead + 1 ∧
    t.mgmt.nvhead = s.mgmt.nvhead ∧ t.mgmt.sourceSeq[x] = s.mgmt.sourceSeq[x] + 1) ∧
  (∀ (s : State) (d : DieId) (m : Fin 4) (flit : BitVec 2048), (s.dies[d].links[m].state = 1 ∨ s.dies[d].links[m].state = 2) →
    (flitCrcOk flit = true → flitSeq flit = s.dies[d].links[m].nextSeq → ∃ t, exec (.flitReceive d m flit) s = .next t ∧
      t.dies[d].links[m] =
        { (s.dies[d].links[m]).acked (flitAck flit) with nextSeq := s.dies[d].links[m].nextSeq + 1, replays := 0 }) ∧
    ((flitCrcOk flit = false ∨ flitSeq flit ≠ s.dies[d].links[m].nextSeq) → s.dies[d].links[m].replays < 4 →
      ∃ t, exec (.flitReceive d m flit) s = .next t ∧ t.dies[d].links[m].state = s.dies[d].links[m].state ∧
        t.dies[d].links[m].nextSeq = s.dies[d].links[m].nextSeq ∧ t.dies[d].links[m].replays = s.dies[d].links[m].replays + 1 ∧
        t.dies[d].links[m].asks = s.dies[d].links[m].asks ++ [s.dies[d].links[m].nextSeq] ∧
        t.dies[d].links[m].replay = (if s.dies[d].links[m].replay = 0xFFFFFFFF then 0xFFFFFFFF else s.dies[d].links[m].replay + 1)) ∧
    ((flitCrcOk flit = false ∨ flitSeq flit ≠ s.dies[d].links[m].nextSeq) → 4 ≤ s.dies[d].links[m].replays →
      ∃ t, exec (.flitReceive d m flit) s = .next t ∧ t.dies[d].links[m].state = 0 ∧ t.dies[d].links[m].replays = 0)) ∧
  (∀ (l : Link) (seq : BitVec 16) (x : BitVec 128 × BitVec 1792),
    (l.up = true → l.replayed seq = { l with wire := l.wire ++ l.unacked.dropWhile (fun f => flitSeq f != seq) }) ∧
    (l.up = true → l.unacked.length < 128 → l.backlog = [] → ∃ f, l.give x = { l with
        sendSeq := l.sendSeq + 1, unacked := l.unacked ++ [f], wire := l.wire ++ [f] } ∧
      flitCrcOk f = true ∧ flitSeq f = l.sendSeq ∧ flitAck f = l.nextSeq - 1 ∧ flitHeader f = x.1 ∧ flitPayload f = x.2) ∧
    ((l.up = false ∨ 128 ≤ l.unacked.length ∨ l.backlog ≠ []) → l.give x = { l with backlog := l.backlog ++ [x] })) ∧
  (∀ (s : State) (d : DieId) (m n : Fin 4) (rest : List (Fin 4)), s.dies[d].others d m = n :: rest → n ≠ m ∧
    (s.dies[d].links[n]).state ≠ 3 ∧ (s.shiftTraffic d m).dies[d].links[n] = (s.dies[d].links[m]).traffic.foldl Link.give s.dies[d].links[n] ∧
    ((s.shiftTraffic d m).dies[d].links[m]).traffic = []) ∧
  (∀ (s : State) (d : DieId) (m : Fin 4) (failed : List (Fin 64)), s.boot.minimal = false → s.dies[d].links[m].state = 0 →
    (∃ t, exec (.trainingComplete d m failed true) s = .next t ∧
      t.dies[d].links[m].state = (if 4 < failed.eraseDups.length then 2 else 1) ∧ t.dies[d].links[m].rep = repairLanes failed) ∧
    (s.dies[d].links[m].failedTrainings < 2 → ∃ t, exec (.trainingComplete d m failed false) s = .next t ∧
      t.dies[d].links[m] = { s.dies[d].links[m] with failedTrainings := s.dies[d].links[m].failedTrainings + 1 }) ∧
    (2 ≤ s.dies[d].links[m].failedTrainings → ∃ t, exec (.trainingComplete d m failed false) s = .next t ∧
      t.dies[d].links[m].state = 3)) ∧
  (∀ (s : State) (d : DieId), (s.loseDie d).inService.getLsbD d.val = false ∧ (s.loseDie d).dies[d].engines = [] ∧
    (s.loseDie d).dies[d].waitList = [] ∧ (s.loseDie d).dies[d].saved = [] ∧ ∀ c : CoreId, ((s.loseDie d).core d c).teams = [])
end

