-- ==== Sys2Proof/Laws/Cells.lean ====
section
/-! SUPPORT. Lists of bytes: every operation keeps rising addresses and, for a memory whose unlisted bytes read zero, the canonical form;
a byte reads as it was set, and every other address as before. -/

namespace Sys2Proof.Machine

/-! ## The form -/

theorem cellsSorted_cons (k : Nat) (x : Byte) (m : Cells) :
    cellsSorted ((k, x) :: m) = true ↔ (∀ y ∈ m, k < y.1) ∧ cellsSorted m = true := by
  simp [cellsSorted]

theorem cellsSorted_iff (m : Cells) : cellsSorted m = true ↔ m.Pairwise (fun x y => x.1 < y.1) := by
  induction m with
  | nil => simp [cellsSorted]
  | cons x m ih => obtain ⟨k, b⟩ := x; rw [cellsSorted_cons, ih, List.pairwise_cons]

theorem Memory.wf_iff (m : Cells) : Memory.wf m = true ↔ cellsSorted m = true ∧ ∀ x ∈ m, x.2 ≠ 0 := by
  simp [Memory.wf]

theorem mem_cellSet {m : Cells} {a : Nat} {b : Byte} {x : Nat × Byte} (h : x ∈ cellSet m a b) : x = (a, b) ∨ x ∈ m := by
  induction m with
  | nil => exact .inl (by simpa [cellSet] using h)
  | cons y m ih =>
    obtain ⟨k, z⟩ := y
    simp only [cellSet] at h
    split at h
    · simpa using h
    · split at h
      · rcases List.mem_cons.mp h with h | h
        · exact .inl h
        · exact .inr (List.mem_cons_of_mem _ h)
      · rcases List.mem_cons.mp h with h | h
        · exact .inr (by simp [h])
        · exact (ih h).imp id (List.mem_cons_of_mem _)

theorem cellSet_sorted {m : Cells} (a : Nat) (b : Byte) (h : cellsSorted m = true) : cellsSorted (cellSet m a b) = true := by
  induction m with
  | nil => simp [cellSet, cellsSorted]
  | cons y m ih =>
    obtain ⟨k, z⟩ := y
    rw [cellsSorted_cons] at h
    simp only [cellSet]
    split
    · rename_i hk
      rw [cellsSorted_cons, cellsSorted_cons]
      refine ⟨fun y hy => ?_, h⟩
      rcases List.mem_cons.mp hy with rfl | hy
      · exact hk
      · exact hk.trans (h.1 y hy)
    · split
      · rename_i e; subst e; rw [cellsSorted_cons]; exact h
      · rw [cellsSorted_cons]
        refine ⟨fun y hy => ?_, ih h.2⟩
        rcases mem_cellSet hy with rfl | hy
        · simp only; omega
        · exact h.1 y hy

theorem cellDel_sublist (m : Cells) (a : Nat) : (cellDel m a).Sublist m := by
  induction m with
  | nil => exact List.Sublist.refl _
  | cons y m ih =>
    obtain ⟨k, z⟩ := y
    simp only [cellDel]
    split
    · exact List.sublist_cons_self _ _
    · split
      · exact List.Sublist.refl _
      · exact ih.cons_cons _

/-- A list within a sorted one is sorted. -/
theorem cellsSorted_sublist {m n : Cells} (h : cellsSorted m = true) (hs : n.Sublist m) : cellsSorted n = true := by
  rw [cellsSorted_iff] at *; exact h.sublist hs

theorem cellDel_sorted {m : Cells} (a : Nat) (h : cellsSorted m = true) : cellsSorted (cellDel m a) = true :=
  cellsSorted_sublist h (cellDel_sublist m a)
theorem cellDrop_sorted {m : Cells} (p : Nat → Bool) (h : cellsSorted m = true) : cellsSorted (cellDrop m p) = true :=
  cellsSorted_sublist h List.filter_sublist
theorem cellKeep_sorted {m : Cells} (p : Nat → Bool) (h : cellsSorted m = true) : cellsSorted (cellKeep m p) = true :=
  cellsSorted_sublist h List.filter_sublist
theorem cellPut_sorted {m : Cells} (a : Nat) (b : Byte) (h : cellsSorted m = true) : cellsSorted (cellPut m a b) = true := by
  unfold cellPut; split
  · exact cellDel_sorted a h
  · exact cellSet_sorted a b h
theorem cellSetAll_sorted {m : Cells} (a : Nat) (bs : List Byte) (h : cellsSorted m = true) : cellsSorted (cellSetAll m a bs) = true := by
  induction bs generalizing m a with
  | nil => exact h
  | cons b bs ih => exact ih _ (cellSet_sorted a b h)
theorem cellMerge_sorted {m : Cells} (xs : Cells) (h : cellsSorted m = true) : cellsSorted (cellMerge xs m) = true := by
  unfold cellMerge
  induction xs generalizing m with
  | nil => exact h
  | cons x xs ih => exact ih (cellSet_sorted x.1 x.2 h)

/-- Cells set one after the other, each only under a condition. -/
theorem foldl_cellSet_sorted {α : Type} (xs : List α) (f : Cells → α → Cells) {m : Cells} (h : cellsSorted m = true)
    (hf : ∀ m x, cellsSorted m = true → cellsSorted (f m x) = true) : cellsSorted (xs.foldl f m) = true := by
  induction xs generalizing m with
  | nil => exact h
  | cons x xs ih => exact ih (hf m x h)

theorem cellPut_wf {m : Cells} (a : Nat) (b : Byte) (h : Memory.wf m = true) : Memory.wf (cellPut m a b) = true := by
  rw [Memory.wf_iff] at *
  refine ⟨cellPut_sorted a b h.1, fun x hx => ?_⟩
  unfold cellPut at hx
  split at hx
  · exact h.2 x ((cellDel_sublist m a).subset hx)
  · rename_i hb
    rcases mem_cellSet hx with rfl | hx
    · exact hb
    · exact h.2 x hx

theorem cellPutAll_wf {m : Cells} (a : Nat) (bs : List Byte) (h : Memory.wf m = true) : Memory.wf (cellPutAll m a bs) = true := by
  induction bs generalizing m a with
  | nil => exact h
  | cons b bs ih => exact ih _ (cellPut_wf a b h)

/-- Bytes put one after the other. -/
theorem foldl_cellPut_wf {α : Type} (xs : List α) (a : α → Nat) (b : α → Byte) {m : Cells} (h : Memory.wf m = true) :
    Memory.wf (xs.foldl (fun m x => cellPut m (a x) (b x)) m) = true := by
  induction xs generalizing m with
  | nil => exact h
  | cons x xs ih => exact ih (cellPut_wf _ _ h)

/-! ## Reading back -/

theorem cellGet_below {m : Cells} {a : Nat} (h : ∀ x ∈ m, a < x.1) : cellGet m a = none := by
  cases m with
  | nil => rfl
  | cons y m =>
    obtain ⟨k, z⟩ := y
    have hk : a < k := h (k, z) (by simp)
    simp [cellGet, hk, Nat.ne_of_gt hk]

theorem cellGet_eq_some {m : Cells} (hm : cellsSorted m = true) {a : Nat} {b : Byte} : cellGet m a = some b ↔ (a, b) ∈ m := by
  induction m with
  | nil => simp [cellGet]
  | cons y m ih =>
    obtain ⟨k, z⟩ := y
    rw [cellsSorted_cons] at hm
    simp only [cellGet, List.mem_cons, Prod.mk.injEq]
    split
    · rename_i e; subst e
      constructor
      · intro h; exact .inl ⟨rfl, (Option.some.inj h).symm⟩
      · rintro (⟨-, rfl⟩ | h)
        · rfl
        · exact absurd (hm.1 _ h) (Nat.lt_irrefl _)
    · rename_i hne
      split
      · rename_i hlt
        constructor
        · intro h; cases h
        · rintro (⟨e, -⟩ | h)
          · exact absurd e.symm hne
          · exact absurd (hm.1 _ h) (by simp only; omega)
      · rw [ih hm.2]
        constructor
        · exact .inr
        · rintro (⟨e, -⟩ | h)
          · exact absurd e.symm hne
          · exact h

theorem cellGet_eq_none {m : Cells} (hm : cellsSorted m = true) {a : Nat} : cellGet m a = none ↔ ∀ b, (a, b) ∉ m := by
  constructor
  · intro h b hb; rw [← cellGet_eq_some hm, h] at hb; cases hb
  · intro h
    cases e : cellGet m a with
    | none => rfl
    | some b => exact absurd ((cellGet_eq_some hm).mp e) (h b)

/-- A byte set at an address reads there, and every other address as before. -/
theorem cellGet_cellSet {m : Cells} (hm : cellsSorted m = true) (a c : Nat) (b : Byte) :
    cellGet (cellSet m a b) c = if c = a then some b else cellGet m c := by
  induction m with
  | nil =>
    simp only [cellSet, cellGet]
    by_cases h : c = a
    · simp [h]
    · by_cases h2 : c < a <;> simp [h, h2, Ne.symm h]
  | cons y m ih =>
    obtain ⟨k, z⟩ := y
    rw [cellsSorted_cons] at hm
    simp only [cellSet]
    split
    · rename_i hk
      simp only [cellGet]
      by_cases h : a = c
      · simp [h]
      · simp only [h, if_false, Ne.symm h]
        by_cases h2 : c < a
        · have : c < k := h2.trans hk
          simp [h2, this, Nat.ne_of_gt this]
        · simp [h2]
    · rename_i hk
      split
      · rename_i e; subst e
        simp only [cellGet]
        by_cases h : a = c
        · simp [h]
        · simp [h, Ne.symm h]
      · rename_i hne
        simp only [cellGet, ih hm.2]
        by_cases h : k = c
        · subst h; simp [Ne.symm hne]
        · by_cases h2 : c < k
          · have : c ≠ a := by omega
            simp [h, h2, this]
          · simp [h, h2]

theorem cellGet_cellDel {m : Cells} (hm : cellsSorted m = true) (a c : Nat) :
    cellGet (cellDel m a) c = if c = a then none else cellGet m c := by
  induction m with
  | nil => simp [cellDel, cellGet]
  | cons y m ih =>
    obtain ⟨k, z⟩ := y
    rw [cellsSorted_cons] at hm
    simp only [cellDel]
    split
    · rename_i e; subst e
      by_cases h : c = k
      · subst h; simp [cellGet_below hm.1]
      · simp only [h, if_false, cellGet, Ne.symm h]
        by_cases h2 : c < k
        · simp only [h2, if_true]; exact cellGet_below (fun x hx => h2.trans (hm.1 x hx))
        · simp [h2]
    · rename_i hne
      split
      · rename_i hlt
        by_cases h : c = a
        · subst h; simp [cellGet, hlt, hne]
        · simp [h]
      · rename_i hlt
        simp only [cellGet, ih hm.2]
        by_cases h : k = c
        · subst h; simp [hne]
        · by_cases h2 : c < k
          · have : c ≠ a := by omega
            simp [h, h2, this]
          · simp [h, h2]

/-- A byte put in a memory whose unlisted bytes read zero reads there, and every other address as before. -/
theorem cellGet_cellPut {m : Cells} (hm : cellsSorted m = true) (a c : Nat) (b : Byte) :
    (cellGet (cellPut m a b) c).getD 0 = if c = a then b else (cellGet m c).getD 0 := by
  unfold cellPut
  split
  · rename_i e; subst e
    rw [cellGet_cellDel hm]; by_cases h : c = a <;> simp [h]
  · rw [cellGet_cellSet hm]; by_cases h : c = a <;> simp [h]

theorem cellGet_filter {m : Cells} (hm : cellsSorted m = true) (p : Nat → Bool) (a : Nat) :
    cellGet (m.filter (fun x => p x.1)) a = if p a then cellGet m a else none := by
  have hs : cellsSorted (m.filter (fun x => p x.1)) = true := cellsSorted_sublist hm List.filter_sublist
  by_cases h : p a = true
  · rw [if_pos h]
    cases e : cellGet m a with
    | none =>
      rw [cellGet_eq_none hs]; rw [cellGet_eq_none hm] at e
      intro b hb; exact e b (List.mem_filter.mp hb).1
    | some b =>
      rw [cellGet_eq_some hm] at e
      rw [cellGet_eq_some hs]; exact List.mem_filter.mpr ⟨e, h⟩
  · rw [if_neg h, cellGet_eq_none hs]
    intro b hb; exact h (List.mem_filter.mp hb).2

/-- A dropped address reads as unlisted, and every other as before. -/
theorem cellGet_cellDrop {m : Cells} (hm : cellsSorted m = true) (p : Nat → Bool) (a : Nat) :
    cellGet (cellDrop m p) a = if p a then none else cellGet m a := by
  rw [cellDrop, cellGet_filter hm (fun x => !p x)]
  cases p a <;> rfl

/-- A kept address reads as before, and every other as unlisted. -/
theorem cellGet_cellKeep {m : Cells} (hm : cellsSorted m = true) (p : Nat → Bool) (a : Nat) :
    cellGet (cellKeep m p) a = if p a then cellGet m a else none := cellGet_filter hm p a

/-- Bytes set from an address read there, and every other address as before. -/
theorem cellGet_cellSetAll {m : Cells} (hm : cellsSorted m = true) (a c : Nat) (bs : List Byte) :
    cellGet (cellSetAll m a bs) c = if a ≤ c ∧ c < a + bs.length then bs[c - a]? else cellGet m c := by
  induction bs generalizing m a with
  | nil => simp [cellSetAll]
  | cons b bs ih =>
    rw [cellSetAll, ih (cellSet_sorted a b hm), cellGet_cellSet hm]
    by_cases h : c = a
    · subst h; simp
    · by_cases h2 : a + 1 ≤ c ∧ c < a + 1 + bs.length
      · have e : c - a = (c - (a + 1)) + 1 := by omega
        rw [if_pos h2, if_pos (by simp only [List.length_cons]; omega), e, List.getElem?_cons_succ]
      · rw [if_neg h2, if_neg h, if_neg (by simp only [List.length_cons]; omega)]

/-- A merged list reads first, and below it the list merged into. -/
theorem cellGet_cellMerge {xs m : Cells} (hx : cellsSorted xs = true) (hm : cellsSorted m = true) (a : Nat) :
    cellGet (cellMerge xs m) a = match cellGet xs a with | some b => some b | none => cellGet m a := by
  unfold cellMerge
  induction xs generalizing m with
  | nil => rfl
  | cons x xs ih =>
    obtain ⟨k, z⟩ := x
    rw [cellsSorted_cons] at hx
    rw [List.foldl_cons, ih hx.2 (cellSet_sorted k z hm), cellGet_cellSet hm]
    simp only [cellGet]
    by_cases h : k = a
    · subst h; simp [cellGet_below hx.1]
    · rw [if_neg h, if_neg (Ne.symm h)]
      by_cases h2 : a < k
      · rw [if_pos h2, cellGet_below (fun y hy => h2.trans (hx.1 y hy))]
      · rw [if_neg h2]

end Sys2Proof.Machine
end

