-- ==== Sys2Proof/Laws/State.lean ====
section
/-! SUPPORT. What the basic changes of a state leave unchanged: one lemma per field and change. -/

namespace Sys2Proof.Machine

/-! ## modDie -/

@[simp] theorem State.modDie_agenda (s : State) (d : DieId) (f : Die → Die) : (s.modDie d f).agenda = s.agenda := rfl
@[simp] theorem State.modDie_cur (s : State) (d : DieId) (f : Die → Die) : (s.modDie d f).cur = s.cur := rfl
@[simp] theorem State.modDie_curPair (s : State) (d : DieId) (f : Die → Die) : (s.modDie d f).curPair = s.curPair := rfl
@[simp] theorem State.modDie_deferred (s : State) (d : DieId) (f : Die → Die) : (s.modDie d f).deferred = s.deferred := rfl
@[simp] theorem State.modDie_fresh (s : State) (d : DieId) (f : Die → Die) : (s.modDie d f).fresh = s.fresh := rfl
@[simp] theorem State.modDie_now (s : State) (d : DieId) (f : Die → Die) : (s.modDie d f).now = s.now := rfl
@[simp] theorem State.modDie_uid (s : State) (d : DieId) (f : Die → Die) : (s.modDie d f).uid = s.uid := rfl
@[simp] theorem State.modDie_hbm (s : State) (d : DieId) (f : Die → Die) : (s.modDie d f).hbm = s.hbm := rfl
@[simp] theorem State.modDie_poison (s : State) (d : DieId) (f : Die → Die) : (s.modDie d f).poison = s.poison := rfl
@[simp] theorem State.modDie_aliases (s : State) (d : DieId) (f : Die → Die) : (s.modDie d f).aliases = s.aliases := rfl
@[simp] theorem State.modDie_llc (s : State) (d : DieId) (f : Die → Die) : (s.modDie d f).llc = s.llc := rfl
@[simp] theorem State.modDie_sharers (s : State) (d : DieId) (f : Die → Die) : (s.modDie d f).sharers = s.sharers := rfl
@[simp] theorem State.modDie_sealWatch (s : State) (d : DieId) (f : Die → Die) : (s.modDie d f).sealWatch = s.sealWatch := rfl
@[simp] theorem State.modDie_merges (s : State) (d : DieId) (f : Die → Die) : (s.modDie d f).merges = s.merges := rfl
@[simp] theorem State.modDie_xlat (s : State) (d : DieId) (f : Die → Die) : (s.modDie d f).xlat = s.xlat := rfl
@[simp] theorem State.modDie_nomad (s : State) (d : DieId) (f : Die → Die) : (s.modDie d f).nomad = s.nomad := rfl
@[simp] theorem State.modDie_present (s : State) (d : DieId) (f : Die → Die) : (s.modDie d f).present = s.present := rfl
@[simp] theorem State.modDie_inService (s : State) (d : DieId) (f : Die → Die) : (s.modDie d f).inService = s.inService := rfl
@[simp] theorem State.modDie_pctl (s : State) (d : DieId) (f : Die → Die) : (s.modDie d f).pctl = s.pctl := rfl
@[simp] theorem State.modDie_spaces (s : State) (d : DieId) (f : Die → Die) : (s.modDie d f).spaces = s.spaces := rfl
@[simp] theorem State.modDie_qps (s : State) (d : DieId) (f : Die → Die) : (s.modDie d f).qps = s.qps := rfl
@[simp] theorem State.modDie_replies (s : State) (d : DieId) (f : Die → Die) : (s.modDie d f).replies = s.replies := rfl
@[simp] theorem State.modDie_held (s : State) (d : DieId) (f : Die → Die) : (s.modDie d f).held = s.held := rfl
@[simp] theorem State.modDie_posted (s : State) (d : DieId) (f : Die → Die) : (s.modDie d f).posted = s.posted := rfl
@[simp] theorem State.modDie_outbound (s : State) (d : DieId) (f : Die → Die) : (s.modDie d f).outbound = s.outbound := rfl
@[simp] theorem State.modDie_regions (s : State) (d : DieId) (f : Die → Die) : (s.modDie d f).regions = s.regions := rfl
@[simp] theorem State.modDie_commands (s : State) (d : DieId) (f : Die → Die) : (s.modDie d f).commands = s.commands := rfl
@[simp] theorem State.modDie_nvm (s : State) (d : DieId) (f : Die → Die) : (s.modDie d f).nvm = s.nvm := rfl
@[simp] theorem State.modDie_launches (s : State) (d : DieId) (f : Die → Die) : (s.modDie d f).launches = s.launches := rfl
@[simp] theorem State.modDie_reserved (s : State) (d : DieId) (f : Die → Die) : (s.modDie d f).reserved = s.reserved := rfl
@[simp] theorem State.modDie_waiting (s : State) (d : DieId) (f : Die → Die) : (s.modDie d f).waiting = s.waiting := rfl
@[simp] theorem State.modDie_transfers (s : State) (d : DieId) (f : Die → Die) : (s.modDie d f).transfers = s.transfers := rfl
@[simp] theorem State.modDie_boot (s : State) (d : DieId) (f : Die → Die) : (s.modDie d f).boot = s.boot := rfl
@[simp] theorem State.modDie_spdm (s : State) (d : DieId) (f : Die → Die) : (s.modDie d f).spdm = s.spdm := rfl
@[simp] theorem State.modDie_mgmt (s : State) (d : DieId) (f : Die → Die) : (s.modDie d f).mgmt = s.mgmt := rfl
@[simp] theorem State.modDie_hubLinks (s : State) (d : DieId) (f : Die → Die) : (s.modDie d f).hubLinks = s.hubLinks := rfl
@[simp] theorem State.modDie_served (s : State) (d : DieId) (f : Die → Die) : (s.modDie d f).served = s.served := rfl

/-! ## modCore -/

@[simp] theorem State.modCore_agenda (s : State) (d : DieId) (c : CoreId) (f : Core → Core) : (s.modCore d c f).agenda = s.agenda := rfl
@[simp] theorem State.modCore_cur (s : State) (d : DieId) (c : CoreId) (f : Core → Core) : (s.modCore d c f).cur = s.cur := rfl
@[simp] theorem State.modCore_curPair (s : State) (d : DieId) (c : CoreId) (f : Core → Core) : (s.modCore d c f).curPair = s.curPair := rfl
@[simp] theorem State.modCore_deferred (s : State) (d : DieId) (c : CoreId) (f : Core → Core) : (s.modCore d c f).deferred = s.deferred := rfl
@[simp] theorem State.modCore_fresh (s : State) (d : DieId) (c : CoreId) (f : Core → Core) : (s.modCore d c f).fresh = s.fresh := rfl
@[simp] theorem State.modCore_now (s : State) (d : DieId) (c : CoreId) (f : Core → Core) : (s.modCore d c f).now = s.now := rfl
@[simp] theorem State.modCore_uid (s : State) (d : DieId) (c : CoreId) (f : Core → Core) : (s.modCore d c f).uid = s.uid := rfl
@[simp] theorem State.modCore_hbm (s : State) (d : DieId) (c : CoreId) (f : Core → Core) : (s.modCore d c f).hbm = s.hbm := rfl
@[simp] theorem State.modCore_poison (s : State) (d : DieId) (c : CoreId) (f : Core → Core) : (s.modCore d c f).poison = s.poison := rfl
@[simp] theorem State.modCore_aliases (s : State) (d : DieId) (c : CoreId) (f : Core → Core) : (s.modCore d c f).aliases = s.aliases := rfl
@[simp] theorem State.modCore_llc (s : State) (d : DieId) (c : CoreId) (f : Core → Core) : (s.modCore d c f).llc = s.llc := rfl
@[simp] theorem State.modCore_sharers (s : State) (d : DieId) (c : CoreId) (f : Core → Core) : (s.modCore d c f).sharers = s.sharers := rfl
@[simp] theorem State.modCore_sealWatch (s : State) (d : DieId) (c : CoreId) (f : Core → Core) : (s.modCore d c f).sealWatch = s.sealWatch := rfl
@[simp] theorem State.modCore_merges (s : State) (d : DieId) (c : CoreId) (f : Core → Core) : (s.modCore d c f).merges = s.merges := rfl
@[simp] theorem State.modCore_xlat (s : State) (d : DieId) (c : CoreId) (f : Core → Core) : (s.modCore d c f).xlat = s.xlat := rfl
@[simp] theorem State.modCore_nomad (s : State) (d : DieId) (c : CoreId) (f : Core → Core) : (s.modCore d c f).nomad = s.nomad := rfl
@[simp] theorem State.modCore_present (s : State) (d : DieId) (c : CoreId) (f : Core → Core) : (s.modCore d c f).present = s.present := rfl
@[simp] theorem State.modCore_inService (s : State) (d : DieId) (c : CoreId) (f : Core → Core) : (s.modCore d c f).inService = s.inService := rfl
@[simp] theorem State.modCore_pctl (s : State) (d : DieId) (c : CoreId) (f : Core → Core) : (s.modCore d c f).pctl = s.pctl := rfl
@[simp] theorem State.modCore_spaces (s : State) (d : DieId) (c : CoreId) (f : Core → Core) : (s.modCore d c f).spaces = s.spaces := rfl
@[simp] theorem State.modCore_qps (s : State) (d : DieId) (c : CoreId) (f : Core → Core) : (s.modCore d c f).qps = s.qps := rfl
@[simp] theorem State.modCore_replies (s : State) (d : DieId) (c : CoreId) (f : Core → Core) : (s.modCore d c f).replies = s.replies := rfl
@[simp] theorem State.modCore_held (s : State) (d : DieId) (c : CoreId) (f : Core → Core) : (s.modCore d c f).held = s.held := rfl
@[simp] theorem State.modCore_posted (s : State) (d : DieId) (c : CoreId) (f : Core → Core) : (s.modCore d c f).posted = s.posted := rfl
@[simp] theorem State.modCore_outbound (s : State) (d : DieId) (c : CoreId) (f : Core → Core) : (s.modCore d c f).outbound = s.outbound := rfl
@[simp] theorem State.modCore_regions (s : State) (d : DieId) (c : CoreId) (f : Core → Core) : (s.modCore d c f).regions = s.regions := rfl
@[simp] theorem State.modCore_commands (s : State) (d : DieId) (c : CoreId) (f : Core → Core) : (s.modCore d c f).commands = s.commands := rfl
@[simp] theorem State.modCore_nvm (s : State) (d : DieId) (c : CoreId) (f : Core → Core) : (s.modCore d c f).nvm = s.nvm := rfl
@[simp] theorem State.modCore_launches (s : State) (d : DieId) (c : CoreId) (f : Core → Core) : (s.modCore d c f).launches = s.launches := rfl
@[simp] theorem State.modCore_reserved (s : State) (d : DieId) (c : CoreId) (f : Core → Core) : (s.modCore d c f).reserved = s.reserved := rfl
@[simp] theorem State.modCore_waiting (s : State) (d : DieId) (c : CoreId) (f : Core → Core) : (s.modCore d c f).waiting = s.waiting := rfl
@[simp] theorem State.modCore_transfers (s : State) (d : DieId) (c : CoreId) (f : Core → Core) : (s.modCore d c f).transfers = s.transfers := rfl
@[simp] theorem State.modCore_boot (s : State) (d : DieId) (c : CoreId) (f : Core → Core) : (s.modCore d c f).boot = s.boot := rfl
@[simp] theorem State.modCore_spdm (s : State) (d : DieId) (c : CoreId) (f : Core → Core) : (s.modCore d c f).spdm = s.spdm := rfl
@[simp] theorem State.modCore_mgmt (s : State) (d : DieId) (c : CoreId) (f : Core → Core) : (s.modCore d c f).mgmt = s.mgmt := rfl
@[simp] theorem State.modCore_hubLinks (s : State) (d : DieId) (c : CoreId) (f : Core → Core) : (s.modCore d c f).hubLinks = s.hubLinks := rfl
@[simp] theorem State.modCore_served (s : State) (d : DieId) (c : CoreId) (f : Core → Core) : (s.modCore d c f).served = s.served := rfl

/-! ## setGroup -/

@[simp] theorem State.setGroup_agenda (s : State) (r : GRef) (g : Group) : (s.setGroup r g).agenda = s.agenda := rfl
@[simp] theorem State.setGroup_cur (s : State) (r : GRef) (g : Group) : (s.setGroup r g).cur = s.cur := rfl
@[simp] theorem State.setGroup_curPair (s : State) (r : GRef) (g : Group) : (s.setGroup r g).curPair = s.curPair := rfl
@[simp] theorem State.setGroup_deferred (s : State) (r : GRef) (g : Group) : (s.setGroup r g).deferred = s.deferred := rfl
@[simp] theorem State.setGroup_fresh (s : State) (r : GRef) (g : Group) : (s.setGroup r g).fresh = s.fresh := rfl
@[simp] theorem State.setGroup_now (s : State) (r : GRef) (g : Group) : (s.setGroup r g).now = s.now := rfl
@[simp] theorem State.setGroup_uid (s : State) (r : GRef) (g : Group) : (s.setGroup r g).uid = s.uid := rfl
@[simp] theorem State.setGroup_hbm (s : State) (r : GRef) (g : Group) : (s.setGroup r g).hbm = s.hbm := rfl
@[simp] theorem State.setGroup_poison (s : State) (r : GRef) (g : Group) : (s.setGroup r g).poison = s.poison := rfl
@[simp] theorem State.setGroup_aliases (s : State) (r : GRef) (g : Group) : (s.setGroup r g).aliases = s.aliases := rfl
@[simp] theorem State.setGroup_llc (s : State) (r : GRef) (g : Group) : (s.setGroup r g).llc = s.llc := rfl
@[simp] theorem State.setGroup_sharers (s : State) (r : GRef) (g : Group) : (s.setGroup r g).sharers = s.sharers := rfl
@[simp] theorem State.setGroup_sealWatch (s : State) (r : GRef) (g : Group) : (s.setGroup r g).sealWatch = s.sealWatch := rfl
@[simp] theorem State.setGroup_merges (s : State) (r : GRef) (g : Group) : (s.setGroup r g).merges = s.merges := rfl
@[simp] theorem State.setGroup_xlat (s : State) (r : GRef) (g : Group) : (s.setGroup r g).xlat = s.xlat := rfl
@[simp] theorem State.setGroup_nomad (s : State) (r : GRef) (g : Group) : (s.setGroup r g).nomad = s.nomad := rfl
@[simp] theorem State.setGroup_present (s : State) (r : GRef) (g : Group) : (s.setGroup r g).present = s.present := rfl
@[simp] theorem State.setGroup_inService (s : State) (r : GRef) (g : Group) : (s.setGroup r g).inService = s.inService := rfl
@[simp] theorem State.setGroup_pctl (s : State) (r : GRef) (g : Group) : (s.setGroup r g).pctl = s.pctl := rfl
@[simp] theorem State.setGroup_spaces (s : State) (r : GRef) (g : Group) : (s.setGroup r g).spaces = s.spaces := rfl
@[simp] theorem State.setGroup_qps (s : State) (r : GRef) (g : Group) : (s.setGroup r g).qps = s.qps := rfl
@[simp] theorem State.setGroup_replies (s : State) (r : GRef) (g : Group) : (s.setGroup r g).replies = s.replies := rfl
@[simp] theorem State.setGroup_held (s : State) (r : GRef) (g : Group) : (s.setGroup r g).held = s.held := rfl
@[simp] theorem State.setGroup_posted (s : State) (r : GRef) (g : Group) : (s.setGroup r g).posted = s.posted := rfl
@[simp] theorem State.setGroup_outbound (s : State) (r : GRef) (g : Group) : (s.setGroup r g).outbound = s.outbound := rfl
@[simp] theorem State.setGroup_regions (s : State) (r : GRef) (g : Group) : (s.setGroup r g).regions = s.regions := rfl
@[simp] theorem State.setGroup_commands (s : State) (r : GRef) (g : Group) : (s.setGroup r g).commands = s.commands := rfl
@[simp] theorem State.setGroup_nvm (s : State) (r : GRef) (g : Group) : (s.setGroup r g).nvm = s.nvm := rfl
@[simp] theorem State.setGroup_launches (s : State) (r : GRef) (g : Group) : (s.setGroup r g).launches = s.launches := rfl
@[simp] theorem State.setGroup_reserved (s : State) (r : GRef) (g : Group) : (s.setGroup r g).reserved = s.reserved := rfl
@[simp] theorem State.setGroup_waiting (s : State) (r : GRef) (g : Group) : (s.setGroup r g).waiting = s.waiting := rfl
@[simp] theorem State.setGroup_transfers (s : State) (r : GRef) (g : Group) : (s.setGroup r g).transfers = s.transfers := rfl
@[simp] theorem State.setGroup_boot (s : State) (r : GRef) (g : Group) : (s.setGroup r g).boot = s.boot := rfl
@[simp] theorem State.setGroup_spdm (s : State) (r : GRef) (g : Group) : (s.setGroup r g).spdm = s.spdm := rfl
@[simp] theorem State.setGroup_mgmt (s : State) (r : GRef) (g : Group) : (s.setGroup r g).mgmt = s.mgmt := rfl
@[simp] theorem State.setGroup_hubLinks (s : State) (r : GRef) (g : Group) : (s.setGroup r g).hubLinks = s.hubLinks := rfl
@[simp] theorem State.setGroup_served (s : State) (r : GRef) (g : Group) : (s.setGroup r g).served = s.served := rfl

/-! ## count -/

@[simp] theorem State.count_agenda (s : State) (d : DieId) (i : Fin 9) (n : Nat) : (s.count d i n).agenda = s.agenda := rfl
@[simp] theorem State.count_cur (s : State) (d : DieId) (i : Fin 9) (n : Nat) : (s.count d i n).cur = s.cur := rfl
@[simp] theorem State.count_curPair (s : State) (d : DieId) (i : Fin 9) (n : Nat) : (s.count d i n).curPair = s.curPair := rfl
@[simp] theorem State.count_deferred (s : State) (d : DieId) (i : Fin 9) (n : Nat) : (s.count d i n).deferred = s.deferred := rfl
@[simp] theorem State.count_fresh (s : State) (d : DieId) (i : Fin 9) (n : Nat) : (s.count d i n).fresh = s.fresh := rfl
@[simp] theorem State.count_now (s : State) (d : DieId) (i : Fin 9) (n : Nat) : (s.count d i n).now = s.now := rfl
@[simp] theorem State.count_uid (s : State) (d : DieId) (i : Fin 9) (n : Nat) : (s.count d i n).uid = s.uid := rfl
@[simp] theorem State.count_hbm (s : State) (d : DieId) (i : Fin 9) (n : Nat) : (s.count d i n).hbm = s.hbm := rfl
@[simp] theorem State.count_poison (s : State) (d : DieId) (i : Fin 9) (n : Nat) : (s.count d i n).poison = s.poison := rfl
@[simp] theorem State.count_aliases (s : State) (d : DieId) (i : Fin 9) (n : Nat) : (s.count d i n).aliases = s.aliases := rfl
@[simp] theorem State.count_llc (s : State) (d : DieId) (i : Fin 9) (n : Nat) : (s.count d i n).llc = s.llc := rfl
@[simp] theorem State.count_sharers (s : State) (d : DieId) (i : Fin 9) (n : Nat) : (s.count d i n).sharers = s.sharers := rfl
@[simp] theorem State.count_sealWatch (s : State) (d : DieId) (i : Fin 9) (n : Nat) : (s.count d i n).sealWatch = s.sealWatch := rfl
@[simp] theorem State.count_merges (s : State) (d : DieId) (i : Fin 9) (n : Nat) : (s.count d i n).merges = s.merges := rfl
@[simp] theorem State.count_xlat (s : State) (d : DieId) (i : Fin 9) (n : Nat) : (s.count d i n).xlat = s.xlat := rfl
@[simp] theorem State.count_nomad (s : State) (d : DieId) (i : Fin 9) (n : Nat) : (s.count d i n).nomad = s.nomad := rfl
@[simp] theorem State.count_present (s : State) (d : DieId) (i : Fin 9) (n : Nat) : (s.count d i n).present = s.present := rfl
@[simp] theorem State.count_inService (s : State) (d : DieId) (i : Fin 9) (n : Nat) : (s.count d i n).inService = s.inService := rfl
@[simp] theorem State.count_pctl (s : State) (d : DieId) (i : Fin 9) (n : Nat) : (s.count d i n).pctl = s.pctl := rfl
@[simp] theorem State.count_spaces (s : State) (d : DieId) (i : Fin 9) (n : Nat) : (s.count d i n).spaces = s.spaces := rfl
@[simp] theorem State.count_qps (s : State) (d : DieId) (i : Fin 9) (n : Nat) : (s.count d i n).qps = s.qps := rfl
@[simp] theorem State.count_replies (s : State) (d : DieId) (i : Fin 9) (n : Nat) : (s.count d i n).replies = s.replies := rfl
@[simp] theorem State.count_held (s : State) (d : DieId) (i : Fin 9) (n : Nat) : (s.count d i n).held = s.held := rfl
@[simp] theorem State.count_posted (s : State) (d : DieId) (i : Fin 9) (n : Nat) : (s.count d i n).posted = s.posted := rfl
@[simp] theorem State.count_outbound (s : State) (d : DieId) (i : Fin 9) (n : Nat) : (s.count d i n).outbound = s.outbound := rfl
@[simp] theorem State.count_regions (s : State) (d : DieId) (i : Fin 9) (n : Nat) : (s.count d i n).regions = s.regions := rfl
@[simp] theorem State.count_commands (s : State) (d : DieId) (i : Fin 9) (n : Nat) : (s.count d i n).commands = s.commands := rfl
@[simp] theorem State.count_nvm (s : State) (d : DieId) (i : Fin 9) (n : Nat) : (s.count d i n).nvm = s.nvm := rfl
@[simp] theorem State.count_launches (s : State) (d : DieId) (i : Fin 9) (n : Nat) : (s.count d i n).launches = s.launches := rfl
@[simp] theorem State.count_reserved (s : State) (d : DieId) (i : Fin 9) (n : Nat) : (s.count d i n).reserved = s.reserved := rfl
@[simp] theorem State.count_waiting (s : State) (d : DieId) (i : Fin 9) (n : Nat) : (s.count d i n).waiting = s.waiting := rfl
@[simp] theorem State.count_transfers (s : State) (d : DieId) (i : Fin 9) (n : Nat) : (s.count d i n).transfers = s.transfers := rfl
@[simp] theorem State.count_boot (s : State) (d : DieId) (i : Fin 9) (n : Nat) : (s.count d i n).boot = s.boot := rfl
@[simp] theorem State.count_spdm (s : State) (d : DieId) (i : Fin 9) (n : Nat) : (s.count d i n).spdm = s.spdm := rfl
@[simp] theorem State.count_mgmt (s : State) (d : DieId) (i : Fin 9) (n : Nat) : (s.count d i n).mgmt = s.mgmt := rfl
@[simp] theorem State.count_hubLinks (s : State) (d : DieId) (i : Fin 9) (n : Nat) : (s.count d i n).hubLinks = s.hubLinks := rfl
@[simp] theorem State.count_served (s : State) (d : DieId) (i : Fin 9) (n : Nat) : (s.count d i n).served = s.served := rfl

/-! ## freshened -/

@[simp] theorem State.freshened_agenda (s : State) : (s.freshened).agenda = s.agenda := rfl
@[simp] theorem State.freshened_cur (s : State) : (s.freshened).cur = s.cur := rfl
@[simp] theorem State.freshened_curPair (s : State) : (s.freshened).curPair = s.curPair := rfl
@[simp] theorem State.freshened_deferred (s : State) : (s.freshened).deferred = s.deferred := rfl
@[simp] theorem State.freshened_fresh (s : State) : s.freshened.fresh = s.fresh + 1 := rfl
@[simp] theorem State.freshened_now (s : State) : (s.freshened).now = s.now := rfl
@[simp] theorem State.freshened_uid (s : State) : (s.freshened).uid = s.uid := rfl
@[simp] theorem State.freshened_hbm (s : State) : (s.freshened).hbm = s.hbm := rfl
@[simp] theorem State.freshened_poison (s : State) : (s.freshened).poison = s.poison := rfl
@[simp] theorem State.freshened_aliases (s : State) : (s.freshened).aliases = s.aliases := rfl
@[simp] theorem State.freshened_llc (s : State) : (s.freshened).llc = s.llc := rfl
@[simp] theorem State.freshened_sharers (s : State) : (s.freshened).sharers = s.sharers := rfl
@[simp] theorem State.freshened_sealWatch (s : State) : (s.freshened).sealWatch = s.sealWatch := rfl
@[simp] theorem State.freshened_merges (s : State) : (s.freshened).merges = s.merges := rfl
@[simp] theorem State.freshened_xlat (s : State) : (s.freshened).xlat = s.xlat := rfl
@[simp] theorem State.freshened_nomad (s : State) : (s.freshened).nomad = s.nomad := rfl
@[simp] theorem State.freshened_present (s : State) : (s.freshened).present = s.present := rfl
@[simp] theorem State.freshened_inService (s : State) : (s.freshened).inService = s.inService := rfl
@[simp] theorem State.freshened_pctl (s : State) : (s.freshened).pctl = s.pctl := rfl
@[simp] theorem State.freshened_spaces (s : State) : (s.freshened).spaces = s.spaces := rfl
@[simp] theorem State.freshened_qps (s : State) : (s.freshened).qps = s.qps := rfl
@[simp] theorem State.freshened_replies (s : State) : (s.freshened).replies = s.replies := rfl
@[simp] theorem State.freshened_held (s : State) : (s.freshened).held = s.held := rfl
@[simp] theorem State.freshened_posted (s : State) : (s.freshened).posted = s.posted := rfl
@[simp] theorem State.freshened_outbound (s : State) : (s.freshened).outbound = s.outbound := rfl
@[simp] theorem State.freshened_regions (s : State) : (s.freshened).regions = s.regions := rfl
@[simp] theorem State.freshened_commands (s : State) : (s.freshened).commands = s.commands := rfl
@[simp] theorem State.freshened_nvm (s : State) : (s.freshened).nvm = s.nvm := rfl
@[simp] theorem State.freshened_launches (s : State) : (s.freshened).launches = s.launches := rfl
@[simp] theorem State.freshened_reserved (s : State) : (s.freshened).reserved = s.reserved := rfl
@[simp] theorem State.freshened_waiting (s : State) : (s.freshened).waiting = s.waiting := rfl
@[simp] theorem State.freshened_transfers (s : State) : (s.freshened).transfers = s.transfers := rfl
@[simp] theorem State.freshened_boot (s : State) : (s.freshened).boot = s.boot := rfl
@[simp] theorem State.freshened_spdm (s : State) : (s.freshened).spdm = s.spdm := rfl
@[simp] theorem State.freshened_mgmt (s : State) : (s.freshened).mgmt = s.mgmt := rfl
@[simp] theorem State.freshened_hubLinks (s : State) : (s.freshened).hubLinks = s.hubLinks := rfl
@[simp] theorem State.freshened_served (s : State) : (s.freshened).served = s.served := rfl
@[simp] theorem State.freshened_dies (s : State) : (s.freshened).dies = s.dies := rfl

/-! ## modGroup and modTeam -/

@[simp] theorem State.modGroup_agenda (s : State) (r : GRef) (f : Group → Group) : (s.modGroup r f).agenda = s.agenda := by
  unfold State.modGroup; split <;> rfl
@[simp] theorem State.modGroup_cur (s : State) (r : GRef) (f : Group → Group) : (s.modGroup r f).cur = s.cur := by
  unfold State.modGroup; split <;> rfl
@[simp] theorem State.modGroup_curPair (s : State) (r : GRef) (f : Group → Group) : (s.modGroup r f).curPair = s.curPair := by
  unfold State.modGroup; split <;> rfl
@[simp] theorem State.modGroup_deferred (s : State) (r : GRef) (f : Group → Group) : (s.modGroup r f).deferred = s.deferred := by
  unfold State.modGroup; split <;> rfl
@[simp] theorem State.modGroup_fresh (s : State) (r : GRef) (f : Group → Group) : (s.modGroup r f).fresh = s.fresh := by
  unfold State.modGroup; split <;> rfl
@[simp] theorem State.modGroup_now (s : State) (r : GRef) (f : Group → Group) : (s.modGroup r f).now = s.now := by
  unfold State.modGroup; split <;> rfl
@[simp] theorem State.modGroup_uid (s : State) (r : GRef) (f : Group → Group) : (s.modGroup r f).uid = s.uid := by
  unfold State.modGroup; split <;> rfl
@[simp] theorem State.modGroup_hbm (s : State) (r : GRef) (f : Group → Group) : (s.modGroup r f).hbm = s.hbm := by
  unfold State.modGroup; split <;> rfl
@[simp] theorem State.modGroup_poison (s : State) (r : GRef) (f : Group → Group) : (s.modGroup r f).poison = s.poison := by
  unfold State.modGroup; split <;> rfl
@[simp] theorem State.modGroup_aliases (s : State) (r : GRef) (f : Group → Group) : (s.modGroup r f).aliases = s.aliases := by
  unfold State.modGroup; split <;> rfl
@[simp] theorem State.modGroup_llc (s : State) (r : GRef) (f : Group → Group) : (s.modGroup r f).llc = s.llc := by
  unfold State.modGroup; split <;> rfl
@[simp] theorem State.modGroup_sharers (s : State) (r : GRef) (f : Group → Group) : (s.modGroup r f).sharers = s.sharers := by
  unfold State.modGroup; split <;> rfl
@[simp] theorem State.modGroup_sealWatch (s : State) (r : GRef) (f : Group → Group) : (s.modGroup r f).sealWatch = s.sealWatch := by
  unfold State.modGroup; split <;> rfl
@[simp] theorem State.modGroup_merges (s : State) (r : GRef) (f : Group → Group) : (s.modGroup r f).merges = s.merges := by
  unfold State.modGroup; split <;> rfl
@[simp] theorem State.modGroup_xlat (s : State) (r : GRef) (f : Group → Group) : (s.modGroup r f).xlat = s.xlat := by
  unfold State.modGroup; split <;> rfl
@[simp] theorem State.modGroup_nomad (s : State) (r : GRef) (f : Group → Group) : (s.modGroup r f).nomad = s.nomad := by
  unfold State.modGroup; split <;> rfl
@[simp] theorem State.modGroup_present (s : State) (r : GRef) (f : Group → Group) : (s.modGroup r f).present = s.present := by
  unfold State.modGroup; split <;> rfl
@[simp] theorem State.modGroup_inService (s : State) (r : GRef) (f : Group → Group) : (s.modGroup r f).inService = s.inService := by
  unfold State.modGroup; split <;> rfl
@[simp] theorem State.modGroup_pctl (s : State) (r : GRef) (f : Group → Group) : (s.modGroup r f).pctl = s.pctl := by
  unfold State.modGroup; split <;> rfl
@[simp] theorem State.modGroup_spaces (s : State) (r : GRef) (f : Group → Group) : (s.modGroup r f).spaces = s.spaces := by
  unfold State.modGroup; split <;> rfl
@[simp] theorem State.modGroup_qps (s : State) (r : GRef) (f : Group → Group) : (s.modGroup r f).qps = s.qps := by
  unfold State.modGroup; split <;> rfl
@[simp] theorem State.modGroup_replies (s : State) (r : GRef) (f : Group → Group) : (s.modGroup r f).replies = s.replies := by
  unfold State.modGroup; split <;> rfl
@[simp] theorem State.modGroup_held (s : State) (r : GRef) (f : Group → Group) : (s.modGroup r f).held = s.held := by
  unfold State.modGroup; split <;> rfl
@[simp] theorem State.modGroup_posted (s : State) (r : GRef) (f : Group → Group) : (s.modGroup r f).posted = s.posted := by
  unfold State.modGroup; split <;> rfl
@[simp] theorem State.modGroup_outbound (s : State) (r : GRef) (f : Group → Group) : (s.modGroup r f).outbound = s.outbound := by
  unfold State.modGroup; split <;> rfl
@[simp] theorem State.modGroup_regions (s : State) (r : GRef) (f : Group → Group) : (s.modGroup r f).regions = s.regions := by
  unfold State.modGroup; split <;> rfl
@[simp] theorem State.modGroup_commands (s : State) (r : GRef) (f : Group → Group) : (s.modGroup r f).commands = s.commands := by
  unfold State.modGroup; split <;> rfl
@[simp] theorem State.modGroup_nvm (s : State) (r : GRef) (f : Group → Group) : (s.modGroup r f).nvm = s.nvm := by
  unfold State.modGroup; split <;> rfl
@[simp] theorem State.modGroup_launches (s : State) (r : GRef) (f : Group → Group) : (s.modGroup r f).launches = s.launches := by
  unfold State.modGroup; split <;> rfl
@[simp] theorem State.modGroup_reserved (s : State) (r : GRef) (f : Group → Group) : (s.modGroup r f).reserved = s.reserved := by
  unfold State.modGroup; split <;> rfl
@[simp] theorem State.modGroup_waiting (s : State) (r : GRef) (f : Group → Group) : (s.modGroup r f).waiting = s.waiting := by
  unfold State.modGroup; split <;> rfl
@[simp] theorem State.modGroup_transfers (s : State) (r : GRef) (f : Group → Group) : (s.modGroup r f).transfers = s.transfers := by
  unfold State.modGroup; split <;> rfl
@[simp] theorem State.modGroup_boot (s : State) (r : GRef) (f : Group → Group) : (s.modGroup r f).boot = s.boot := by
  unfold State.modGroup; split <;> rfl
@[simp] theorem State.modGroup_spdm (s : State) (r : GRef) (f : Group → Group) : (s.modGroup r f).spdm = s.spdm := by
  unfold State.modGroup; split <;> rfl
@[simp] theorem State.modGroup_mgmt (s : State) (r : GRef) (f : Group → Group) : (s.modGroup r f).mgmt = s.mgmt := by
  unfold State.modGroup; split <;> rfl
@[simp] theorem State.modGroup_hubLinks (s : State) (r : GRef) (f : Group → Group) : (s.modGroup r f).hubLinks = s.hubLinks := by
  unfold State.modGroup; split <;> rfl
@[simp] theorem State.modGroup_served (s : State) (r : GRef) (f : Group → Group) : (s.modGroup r f).served = s.served := by
  unfold State.modGroup; split <;> rfl
@[simp] theorem State.modTeam_agenda (s : State) (d : DieId) (c : CoreId) (u : Nat) (f : Team → Team) :
    (s.modTeam d c u f).agenda = s.agenda := by unfold State.modTeam; split <;> rfl
@[simp] theorem State.modTeam_cur (s : State) (d : DieId) (c : CoreId) (u : Nat) (f : Team → Team) :
    (s.modTeam d c u f).cur = s.cur := by unfold State.modTeam; split <;> rfl
@[simp] theorem State.modTeam_curPair (s : State) (d : DieId) (c : CoreId) (u : Nat) (f : Team → Team) :
    (s.modTeam d c u f).curPair = s.curPair := by unfold State.modTeam; split <;> rfl
@[simp] theorem State.modTeam_deferred (s : State) (d : DieId) (c : CoreId) (u : Nat) (f : Team → Team) :
    (s.modTeam d c u f).deferred = s.deferred := by unfold State.modTeam; split <;> rfl
@[simp] theorem State.modTeam_fresh (s : State) (d : DieId) (c : CoreId) (u : Nat) (f : Team → Team) :
    (s.modTeam d c u f).fresh = s.fresh := by unfold State.modTeam; split <;> rfl
@[simp] theorem State.modTeam_now (s : State) (d : DieId) (c : CoreId) (u : Nat) (f : Team → Team) :
    (s.modTeam d c u f).now = s.now := by unfold State.modTeam; split <;> rfl
@[simp] theorem State.modTeam_uid (s : State) (d : DieId) (c : CoreId) (u : Nat) (f : Team → Team) :
    (s.modTeam d c u f).uid = s.uid := by unfold State.modTeam; split <;> rfl
@[simp] theorem State.modTeam_hbm (s : State) (d : DieId) (c : CoreId) (u : Nat) (f : Team → Team) :
    (s.modTeam d c u f).hbm = s.hbm := by unfold State.modTeam; split <;> rfl
@[simp] theorem State.modTeam_poison (s : State) (d : DieId) (c : CoreId) (u : Nat) (f : Team → Team) :
    (s.modTeam d c u f).poison = s.poison := by unfold State.modTeam; split <;> rfl
@[simp] theorem State.modTeam_aliases (s : State) (d : DieId) (c : CoreId) (u : Nat) (f : Team → Team) :
    (s.modTeam d c u f).aliases = s.aliases := by unfold State.modTeam; split <;> rfl
@[simp] theorem State.modTeam_llc (s : State) (d : DieId) (c : CoreId) (u : Nat) (f : Team → Team) :
    (s.modTeam d c u f).llc = s.llc := by unfold State.modTeam; split <;> rfl
@[simp] theorem State.modTeam_sharers (s : State) (d : DieId) (c : CoreId) (u : Nat) (f : Team → Team) :
    (s.modTeam d c u f).sharers = s.sharers := by unfold State.modTeam; split <;> rfl
@[simp] theorem State.modTeam_sealWatch (s : State) (d : DieId) (c : CoreId) (u : Nat) (f : Team → Team) :
    (s.modTeam d c u f).sealWatch = s.sealWatch := by unfold State.modTeam; split <;> rfl
@[simp] theorem State.modTeam_merges (s : State) (d : DieId) (c : CoreId) (u : Nat) (f : Team → Team) :
    (s.modTeam d c u f).merges = s.merges := by unfold State.modTeam; split <;> rfl
@[simp] theorem State.modTeam_xlat (s : State) (d : DieId) (c : CoreId) (u : Nat) (f : Team → Team) :
    (s.modTeam d c u f).xlat = s.xlat := by unfold State.modTeam; split <;> rfl
@[simp] theorem State.modTeam_nomad (s : State) (d : DieId) (c : CoreId) (u : Nat) (f : Team → Team) :
    (s.modTeam d c u f).nomad = s.nomad := by unfold State.modTeam; split <;> rfl
@[simp] theorem State.modTeam_present (s : State) (d : DieId) (c : CoreId) (u : Nat) (f : Team → Team) :
    (s.modTeam d c u f).present = s.present := by unfold State.modTeam; split <;> rfl
@[simp] theorem State.modTeam_inService (s : State) (d : DieId) (c : CoreId) (u : Nat) (f : Team → Team) :
    (s.modTeam d c u f).inService = s.inService := by unfold State.modTeam; split <;> rfl
@[simp] theorem State.modTeam_pctl (s : State) (d : DieId) (c : CoreId) (u : Nat) (f : Team → Team) :
    (s.modTeam d c u f).pctl = s.pctl := by unfold State.modTeam; split <;> rfl
@[simp] theorem State.modTeam_spaces (s : State) (d : DieId) (c : CoreId) (u : Nat) (f : Team → Team) :
    (s.modTeam d c u f).spaces = s.spaces := by unfold State.modTeam; split <;> rfl
@[simp] theorem State.modTeam_qps (s : State) (d : DieId) (c : CoreId) (u : Nat) (f : Team → Team) :
    (s.modTeam d c u f).qps = s.qps := by unfold State.modTeam; split <;> rfl
@[simp] theorem State.modTeam_replies (s : State) (d : DieId) (c : CoreId) (u : Nat) (f : Team → Team) :
    (s.modTeam d c u f).replies = s.replies := by unfold State.modTeam; split <;> rfl
@[simp] theorem State.modTeam_held (s : State) (d : DieId) (c : CoreId) (u : Nat) (f : Team → Team) :
    (s.modTeam d c u f).held = s.held := by unfold State.modTeam; split <;> rfl
@[simp] theorem State.modTeam_posted (s : State) (d : DieId) (c : CoreId) (u : Nat) (f : Team → Team) :
    (s.modTeam d c u f).posted = s.posted := by unfold State.modTeam; split <;> rfl
@[simp] theorem State.modTeam_outbound (s : State) (d : DieId) (c : CoreId) (u : Nat) (f : Team → Team) :
    (s.modTeam d c u f).outbound = s.outbound := by unfold State.modTeam; split <;> rfl
@[simp] theorem State.modTeam_regions (s : State) (d : DieId) (c : CoreId) (u : Nat) (f : Team → Team) :
    (s.modTeam d c u f).regions = s.regions := by unfold State.modTeam; split <;> rfl
@[simp] theorem State.modTeam_commands (s : State) (d : DieId) (c : CoreId) (u : Nat) (f : Team → Team) :
    (s.modTeam d c u f).commands = s.commands := by unfold State.modTeam; split <;> rfl
@[simp] theorem State.modTeam_nvm (s : State) (d : DieId) (c : CoreId) (u : Nat) (f : Team → Team) :
    (s.modTeam d c u f).nvm = s.nvm := by unfold State.modTeam; split <;> rfl
@[simp] theorem State.modTeam_launches (s : State) (d : DieId) (c : CoreId) (u : Nat) (f : Team → Team) :
    (s.modTeam d c u f).launches = s.launches := by unfold State.modTeam; split <;> rfl
@[simp] theorem State.modTeam_reserved (s : State) (d : DieId) (c : CoreId) (u : Nat) (f : Team → Team) :
    (s.modTeam d c u f).reserved = s.reserved := by unfold State.modTeam; split <;> rfl
@[simp] theorem State.modTeam_waiting (s : State) (d : DieId) (c : CoreId) (u : Nat) (f : Team → Team) :
    (s.modTeam d c u f).waiting = s.waiting := by unfold State.modTeam; split <;> rfl
@[simp] theorem State.modTeam_transfers (s : State) (d : DieId) (c : CoreId) (u : Nat) (f : Team → Team) :
    (s.modTeam d c u f).transfers = s.transfers := by unfold State.modTeam; split <;> rfl
@[simp] theorem State.modTeam_boot (s : State) (d : DieId) (c : CoreId) (u : Nat) (f : Team → Team) :
    (s.modTeam d c u f).boot = s.boot := by unfold State.modTeam; split <;> rfl
@[simp] theorem State.modTeam_spdm (s : State) (d : DieId) (c : CoreId) (u : Nat) (f : Team → Team) :
    (s.modTeam d c u f).spdm = s.spdm := by unfold State.modTeam; split <;> rfl
@[simp] theorem State.modTeam_mgmt (s : State) (d : DieId) (c : CoreId) (u : Nat) (f : Team → Team) :
    (s.modTeam d c u f).mgmt = s.mgmt := by unfold State.modTeam; split <;> rfl
@[simp] theorem State.modTeam_hubLinks (s : State) (d : DieId) (c : CoreId) (u : Nat) (f : Team → Team) :
    (s.modTeam d c u f).hubLinks = s.hubLinks := by unfold State.modTeam; split <;> rfl
@[simp] theorem State.modTeam_served (s : State) (d : DieId) (c : CoreId) (u : Nat) (f : Team → Team) :
    (s.modTeam d c u f).served = s.served := by unfold State.modTeam; split <;> rfl

/-! ## An issue that ends -/

@[simp] theorem Ctx.ended_agenda (c : Ctx) (s : State) (w : WinSlot) : (c.ended s w).agenda = s.agenda := by
  unfold Ctx.ended Ctx.counted; split <;> simp
@[simp] theorem Ctx.ended_cur (c : Ctx) (s : State) (w : WinSlot) : (c.ended s w).cur = s.cur := by
  unfold Ctx.ended Ctx.counted; split <;> simp
@[simp] theorem Ctx.ended_curPair (c : Ctx) (s : State) (w : WinSlot) : (c.ended s w).curPair = s.curPair := by
  unfold Ctx.ended Ctx.counted; split <;> simp
@[simp] theorem Ctx.ended_deferred (c : Ctx) (s : State) (w : WinSlot) : (c.ended s w).deferred = s.deferred := by
  unfold Ctx.ended Ctx.counted; split <;> simp
@[simp] theorem Ctx.ended_fresh (c : Ctx) (s : State) (w : WinSlot) : (c.ended s w).fresh = s.fresh := by
  unfold Ctx.ended Ctx.counted; split <;> simp
@[simp] theorem Ctx.ended_now (c : Ctx) (s : State) (w : WinSlot) : (c.ended s w).now = s.now := by
  unfold Ctx.ended Ctx.counted; split <;> simp
@[simp] theorem Ctx.ended_uid (c : Ctx) (s : State) (w : WinSlot) : (c.ended s w).uid = s.uid := by
  unfold Ctx.ended Ctx.counted; split <;> simp
@[simp] theorem Ctx.ended_hbm (c : Ctx) (s : State) (w : WinSlot) : (c.ended s w).hbm = s.hbm := by
  unfold Ctx.ended Ctx.counted; split <;> simp
@[simp] theorem Ctx.ended_poison (c : Ctx) (s : State) (w : WinSlot) : (c.ended s w).poison = s.poison := by
  unfold Ctx.ended Ctx.counted; split <;> simp
@[simp] theorem Ctx.ended_aliases (c : Ctx) (s : State) (w : WinSlot) : (c.ended s w).aliases = s.aliases := by
  unfold Ctx.ended Ctx.counted; split <;> simp
@[simp] theorem Ctx.ended_llc (c : Ctx) (s : State) (w : WinSlot) : (c.ended s w).llc = s.llc := by
  unfold Ctx.ended Ctx.counted; split <;> simp
@[simp] theorem Ctx.ended_sharers (c : Ctx) (s : State) (w : WinSlot) : (c.ended s w).sharers = s.sharers := by
  unfold Ctx.ended Ctx.counted; split <;> simp
@[simp] theorem Ctx.ended_sealWatch (c : Ctx) (s : State) (w : WinSlot) : (c.ended s w).sealWatch = s.sealWatch := by
  unfold Ctx.ended Ctx.counted; split <;> simp
@[simp] theorem Ctx.ended_merges (c : Ctx) (s : State) (w : WinSlot) : (c.ended s w).merges = s.merges := by
  unfold Ctx.ended Ctx.counted; split <;> simp
@[simp] theorem Ctx.ended_xlat (c : Ctx) (s : State) (w : WinSlot) : (c.ended s w).xlat = s.xlat := by
  unfold Ctx.ended Ctx.counted; split <;> simp
@[simp] theorem Ctx.ended_nomad (c : Ctx) (s : State) (w : WinSlot) : (c.ended s w).nomad = s.nomad := by
  unfold Ctx.ended Ctx.counted; split <;> simp
@[simp] theorem Ctx.ended_present (c : Ctx) (s : State) (w : WinSlot) : (c.ended s w).present = s.present := by
  unfold Ctx.ended Ctx.counted; split <;> simp
@[simp] theorem Ctx.ended_inService (c : Ctx) (s : State) (w : WinSlot) : (c.ended s w).inService = s.inService := by
  unfold Ctx.ended Ctx.counted; split <;> simp
@[simp] theorem Ctx.ended_pctl (c : Ctx) (s : State) (w : WinSlot) : (c.ended s w).pctl = s.pctl := by
  unfold Ctx.ended Ctx.counted; split <;> simp
@[simp] theorem Ctx.ended_spaces (c : Ctx) (s : State) (w : WinSlot) : (c.ended s w).spaces = s.spaces := by
  unfold Ctx.ended Ctx.counted; split <;> simp
@[simp] theorem Ctx.ended_qps (c : Ctx) (s : State) (w : WinSlot) : (c.ended s w).qps = s.qps := by
  unfold Ctx.ended Ctx.counted; split <;> simp
@[simp] theorem Ctx.ended_replies (c : Ctx) (s : State) (w : WinSlot) : (c.ended s w).replies = s.replies := by
  unfold Ctx.ended Ctx.counted; split <;> simp
@[simp] theorem Ctx.ended_held (c : Ctx) (s : State) (w : WinSlot) : (c.ended s w).held = s.held := by
  unfold Ctx.ended Ctx.counted; split <;> simp
@[simp] theorem Ctx.ended_posted (c : Ctx) (s : State) (w : WinSlot) : (c.ended s w).posted = s.posted := by
  unfold Ctx.ended Ctx.counted; split <;> simp
@[simp] theorem Ctx.ended_outbound (c : Ctx) (s : State) (w : WinSlot) : (c.ended s w).outbound = s.outbound := by
  unfold Ctx.ended Ctx.counted; split <;> simp
@[simp] theorem Ctx.ended_regions (c : Ctx) (s : State) (w : WinSlot) : (c.ended s w).regions = s.regions := by
  unfold Ctx.ended Ctx.counted; split <;> simp
@[simp] theorem Ctx.ended_commands (c : Ctx) (s : State) (w : WinSlot) : (c.ended s w).commands = s.commands := by
  unfold Ctx.ended Ctx.counted; split <;> simp
@[simp] theorem Ctx.ended_nvm (c : Ctx) (s : State) (w : WinSlot) : (c.ended s w).nvm = s.nvm := by
  unfold Ctx.ended Ctx.counted; split <;> simp
@[simp] theorem Ctx.ended_launches (c : Ctx) (s : State) (w : WinSlot) : (c.ended s w).launches = s.launches := by
  unfold Ctx.ended Ctx.counted; split <;> simp
@[simp] theorem Ctx.ended_reserved (c : Ctx) (s : State) (w : WinSlot) : (c.ended s w).reserved = s.reserved := by
  unfold Ctx.ended Ctx.counted; split <;> simp
@[simp] theorem Ctx.ended_waiting (c : Ctx) (s : State) (w : WinSlot) : (c.ended s w).waiting = s.waiting := by
  unfold Ctx.ended Ctx.counted; split <;> simp
@[simp] theorem Ctx.ended_transfers (c : Ctx) (s : State) (w : WinSlot) : (c.ended s w).transfers = s.transfers := by
  unfold Ctx.ended Ctx.counted; split <;> simp
@[simp] theorem Ctx.ended_boot (c : Ctx) (s : State) (w : WinSlot) : (c.ended s w).boot = s.boot := by
  unfold Ctx.ended Ctx.counted; split <;> simp
@[simp] theorem Ctx.ended_spdm (c : Ctx) (s : State) (w : WinSlot) : (c.ended s w).spdm = s.spdm := by
  unfold Ctx.ended Ctx.counted; split <;> simp
@[simp] theorem Ctx.ended_mgmt (c : Ctx) (s : State) (w : WinSlot) : (c.ended s w).mgmt = s.mgmt := by
  unfold Ctx.ended Ctx.counted; split <;> simp
@[simp] theorem Ctx.ended_hubLinks (c : Ctx) (s : State) (w : WinSlot) : (c.ended s w).hubLinks = s.hubLinks := by
  unfold Ctx.ended Ctx.counted; split <;> simp
@[simp] theorem Ctx.ended_served (c : Ctx) (s : State) (w : WinSlot) : (c.ended s w).served = s.served := by
  unfold Ctx.ended Ctx.counted; split <;> simp

end Sys2Proof.Machine
end

