-- ==== Sys2Proof/Laws/Group.lean ====
section
/-! SUPPORT. Reading back what the changes of a die, a core and a group have put, and the changes that follow one another. -/

namespace Sys2Proof.Machine

/-! ## Dies and cores -/

@[simp] theorem State.modDie_same (s : State) (d : DieId) (f : Die → Die) : (s.modDie d f).dies[d.val] = f s.dies[d.val] := by
  simp [State.modDie]

theorem State.modDie_other (s : State) (d e : DieId) (f : Die → Die) (h : d ≠ e) :
    (s.modDie d f).dies[e.val] = s.dies[e.val] := by
  have : d.val ≠ e.val := fun x => h (Fin.ext x)
  simp [State.modDie, this]

theorem State.modDie_modDie (s : State) (d : DieId) (f g : Die → Die) : (s.modDie d f).modDie d g = s.modDie d (fun x => g (f x)) := by
  simp [State.modDie]

/-- A change that leaves a die as it is leaves the state as it is. -/
theorem State.modDie_self (s : State) (d : DieId) (f : Die → Die) (h : f s.dies[d.val] = s.dies[d.val]) : s.modDie d f = s := by
  have e : s.dies.set d (f s.dies[d.val]) = s.dies := by rw [h]; simp
  show { s with dies := s.dies.set d (f s.dies[d.val]) } = s
  rw [e]

/-- Changes that give the same die give the same state. -/
theorem State.modDie_congr (s : State) (d : DieId) (f g : Die → Die) (h : f s.dies[d.val] = g s.dies[d.val]) :
    s.modDie d f = s.modDie d g := by
  show { s with dies := s.dies.set d (f s.dies[d.val]) } = { s with dies := s.dies.set d (g s.dies[d.val]) }
  rw [h]

theorem State.core_def (s : State) (d : DieId) (c : CoreId) : s.core d c = s.dies[d.val].cores[c.val] := rfl

@[simp] theorem State.core_modCore_same (s : State) (d : DieId) (c : CoreId) (f : Core → Core) :
    (s.modCore d c f).core d c = f (s.core d c) := by
  simp [State.core_def, State.modCore]

theorem State.core_modCore_other (s : State) (d e : DieId) (c b : CoreId) (f : Core → Core) (h : d ≠ e ∨ c ≠ b) :
    (s.modCore d c f).core e b = s.core e b := by
  by_cases hd : d = e
  · subst hd
    have hc : c.val ≠ b.val := fun x => (h.resolve_left (by simp)) (Fin.ext x)
    simp [State.core_def, State.modCore, hc]
  · simp [State.core_def, State.modCore, State.modDie_other _ _ _ _ hd]

theorem State.modCore_modCore (s : State) (d : DieId) (c : CoreId) (f g : Core → Core) :
    (s.modCore d c f).modCore d c g = s.modCore d c (fun k => g (f k)) := by
  simp [State.modCore, State.modDie_modDie]

theorem State.core_modDie (s : State) (d : DieId) (f : Die → Die) (e : DieId) (c : CoreId)
    (h : (f s.dies[d.val]).cores = s.dies[d.val].cores) : (s.modDie d f).core e c = s.core e c := by
  by_cases hd : d = e
  · subst hd; simp [State.core_def, h]
  · simp [State.core_def, State.modDie_other _ _ _ _ hd]

@[simp] theorem State.core_count (s : State) (d : DieId) (i : Fin 9) (n : Nat) (e : DieId) (c : CoreId) :
    (s.count d i n).core e c = s.core e c := State.core_modDie s d _ e c rfl

/-! ## Groups -/

@[simp] theorem State.group?_setGroup_same (s : State) (r : GRef) (g : Group) : (s.setGroup r g).group? r = some g := by
  simp [State.group?, State.setGroup]

theorem State.group?_setGroup_other (s : State) (r q : GRef) (g : Group) (h : r ≠ q) : (s.setGroup r g).group? q = s.group? q := by
  obtain ⟨rd, rc, rs⟩ := r
  obtain ⟨qd, qc, qs⟩ := q
  by_cases hc : rd = qd ∧ rc = qc
  · obtain ⟨rfl, rfl⟩ := hc
    have hs : rs.val ≠ qs.val := fun e => h (by rw [Fin.ext e])
    simp [State.group?, State.setGroup, hs]
  · have : rd ≠ qd ∨ rc ≠ qc := by
      by_cases hd : rd = qd
      · exact .inr (fun e => hc ⟨hd, e⟩)
      · exact .inl hd
    simp [State.group?, State.setGroup, State.core_modCore_other _ _ _ _ _ _ this]

@[simp] theorem State.setGroup_setGroup (s : State) (r : GRef) (a b : Group) : (s.setGroup r a).setGroup r b = s.setGroup r b := by
  simp [State.setGroup, State.modCore_modCore]

@[simp] theorem State.modGroup_setGroup (s : State) (r : GRef) (g : Group) (f : Group → Group) :
    (s.setGroup r g).modGroup r f = s.setGroup r (f g) := by
  simp [State.modGroup]

theorem State.modGroup_some (s : State) (r : GRef) (g : Group) (f : Group → Group) (h : s.group? r = some g) :
    s.modGroup r f = s.setGroup r (f g) := by
  simp [State.modGroup, h]

@[simp] theorem State.group?_count (s : State) (d : DieId) (i : Fin 9) (n : Nat) (r : GRef) :
    (s.count d i n).group? r = s.group? r := by
  simp [State.group?]

/-- A change of a die's core and one of its counters may be made in either order. -/
theorem State.count_setGroup (s : State) (d : DieId) (i : Fin 9) (n : Nat) (r : GRef) (g : Group) :
    (s.setGroup r g).count d i n = (s.count d i n).setGroup r g := by
  simp only [State.setGroup, State.count, State.modCore]
  by_cases hd : r.die = d
  · subst hd; simp [State.modDie_modDie]
  · have h1 : d ≠ r.die := fun e => hd e.symm
    have e1 : (d : Nat) ≠ (r.die : Nat) := fun e => h1 (Fin.ext e)
    have e2 : (r.die : Nat) ≠ (d : Nat) := fun e => hd (Fin.ext e)
    simp only [State.modDie, State.mk.injEq, true_and, and_true]
    rw [Vector.set_comm _ _ (by omega)]
    simp [e1, e2]

@[simp] theorem State.modGroup_count_setGroup (s : State) (d : DieId) (i : Fin 9) (n : Nat) (r : GRef) (g : Group) (f : Group → Group) :
    ((s.setGroup r g).count d i n).modGroup r f = (s.setGroup r (f g)).count d i n := by
  rw [State.count_setGroup, State.modGroup_setGroup, ← State.count_setGroup]

/-- An issue that ends, of a group that has just been put. -/
theorem Ctx.ended_setGroup (c : Ctx) (s : State) (g : Group) (w : WinSlot) :
    c.ended (s.setGroup c.r g) w = c.counted (s.setGroup c.r (c.timed (g.entered w))) := by
  unfold Ctx.ended Ctx.counted; split <;> simp

/-- A setGroup leaves the teams of every core as they are. -/
@[simp] theorem State.team?_setGroup (s : State) (r : GRef) (g : Group) (d : DieId) (c : CoreId) (u : Nat) :
    (s.setGroup r g).team? d c u = s.team? d c u := by
  by_cases h : r.die = d ∧ r.core = c
  · obtain ⟨rfl, rfl⟩ := h; simp [State.team?, State.setGroup]
  · have : r.die ≠ d ∨ r.core ≠ c := by
      by_cases hd : r.die = d
      · exact .inr (fun e => h ⟨hd, e⟩)
      · exact .inl hd
    simp [State.team?, State.setGroup, State.core_modCore_other _ _ _ _ _ _ this]

end Sys2Proof.Machine
end

