-- ==== Sys2Proof/Laws/Issue.lean ====
section
/-! SUPPORT. What an issue does, said once: the context it stands in, the checks before its meaning, and what each way of ending
leaves. -/

namespace Sys2Proof.Machine

/-- The PC and the run of an issue (R30, R31): those that were picked with the pair, or those of the group's run. -/
def State.picked? (s : State) (g : Group) : Option (DWord × Mask) :=
  match s.curPair with
  | some p => some (p.1, g.runAt p.1 &&& p.2)
  | none => g.runPc.map (fun pc => (pc, g.runAt pc))

/-- Everything that the context of an issue says. -/
theorem State.ctx?_spec {s : State} {f : Fields} {c : Ctx} (h : s.ctx? f = some c) :
    s.cur = some c.r ∧ s.group? c.r = some c.g ∧ s.team? c.r.die c.r.core c.g.team = some c.t ∧
    s.picked? c.g = some (c.pc, c.run) ∧ c.s0 = s ∧
    c.s = s.setGroup c.r { c.g with hold := none } ∧ c.f = f ∧ c.m = c.g.members f c.run := by
  unfold State.ctx? at h
  split at h
  · cases h
  · rename_i r hr
    split at h
    · cases h
    · rename_i g hg
      split at h
      · cases h
      · rename_i t ht
        split at h
        · cases h
        · rename_i pc run hp
          cases h
          exact ⟨hr, hg, ht, hp, rfl, rfl, rfl, rfl⟩

/-- Pops made one after the other on the state are the pops made on the group. -/
theorem foldl_popQ (ns : List (BitVec 4)) (s : State) (r : GRef) (g : Group) :
    ns.foldl (fun s n => s.modGroup r (fun g => g.popQ n)) (s.setGroup r g) = s.setGroup r (ns.foldl Group.popQ g) := by
  induction ns generalizing g with
  | nil => rfl
  | cons n ns ih => simp [ih]

/-- A row that is ready takes its effect. -/
theorem issueWith_ready {op : Op} {always : Bool} {f : Fields} {s : State} {c : Ctx} (h : Ready op always f s c) (body : Ctx → Act) :
    issueWith op always f s body = .next (c.settle (body (c.go op))) := by
  obtain ⟨-, -, -, -, h0, hs, hf, -⟩ := State.ctx?_spec h.issuing
  unfold issueWith
  rw [h.issuing]
  by_cases hm : c.m = 0
  · have ha : always = true := by
      cases e : always with
      | false => exact absurd hm (h.member e)
      | true => rfl
    have e : c.go op = c := by
      have : c.s0.setGroup c.r (c.popped op) = c.s := by rw [h0, hs, Ctx.popped, if_pos hm]
      show { c with s := c.s0.setGroup c.r (c.popped op) } = c
      rw [this]
    simp [Ctx.run1, h.allowed, hm, ha, e]
  · have hb : (c.m == 0) = false := by simpa using hm
    simp only [Ctx.run1, h.allowed, hb, Bool.false_and, Bool.false_eq_true, if_false, hf, h.operands hm, Bool.not_true, h.queues hm]
    rw [hs, foldl_popQ, Ctx.go, Ctx.popped, if_neg hm, hf, h0]

theorem issue_ready {op : Op} {f : Fields} {s : State} {c : Ctx} (h : Ready op false f s c) (body : Ctx → Act) :
    issue op f s body = .next (c.settle (body (c.go op))) := issueWith_ready h body

/-- A row that the mode refuses raises the privilege trap (R164, R345). -/
theorem issueWith_privileged {op : Op} {always : Bool} {f : Fields} {s : State} {c : Ctx} (h : s.ctx? f = some c)
    (hp : privileged op c.g.mode = true) (body : Ctx → Act) :
    issueWith op always f s body = .next ((c.charged s).raise c.r (c.info 0x03 0 0 0)) := by
  obtain ⟨-, -, -, -, h0, -⟩ := State.ctx?_spec h
  unfold issueWith
  rw [h]
  simp [Ctx.run1, hp, Ctx.trap, Ctx.settle, h0]

/-- A row with an operand that the group does not have raises the illegal-operand trap (R73). -/
theorem issueWith_illegal {op : Op} {always : Bool} {f : Fields} {s : State} {c : Ctx} (h : s.ctx? f = some c)
    (hp : privileged op c.g.mode = false) (hm : c.m ≠ 0) (ho : operandsOk op f c.g c.t = false) (body : Ctx → Act) :
    issueWith op always f s body = .next ((c.charged s).raise c.r (c.info 0x02 0 0 0)) := by
  obtain ⟨-, -, -, -, h0, -, hf, -⟩ := State.ctx?_spec h
  have hm' : (c.m == 0) = false := by simpa using hm
  unfold issueWith
  rw [h]
  simp only [Ctx.run1, hp, hm', Bool.false_and, Bool.false_eq_true, if_false, hf, ho, Bool.not_false, if_true, Ctx.illegal, Ctx.trap,
    Ctx.settle, h0]

/-- A row that pops an empty queue, or pushes a full one, raises the queue-stall trap (R81). -/
theorem issueWith_stall {op : Op} {always : Bool} {f : Fields} {s : State} {c : Ctx} (h : s.ctx? f = some c)
    (hp : privileged op c.g.mode = false) (hm : c.m ≠ 0) (ho : operandsOk op f c.g c.t = true)
    (hq : queueCheck c.g (opPops op f) (if always then none else opPushes op f) = .stall) (body : Ctx → Act) :
    issueWith op always f s body = .next ((c.charged s).raise c.r (c.info 0x09 0 0 0)) := by
  obtain ⟨-, -, -, -, h0, -, hf, -⟩ := State.ctx?_spec h
  have hm' : (c.m == 0) = false := by simpa using hm
  unfold issueWith
  rw [h]
  simp only [Ctx.run1, hp, hm', Bool.false_and, Bool.false_eq_true, if_false, hf, ho, Bool.not_true, hq, Ctx.trap, Ctx.settle, h0]

/-- What a completed issue leaves when its meaning has changed the group alone. -/
theorem Ctx.settle_done (c : Ctx) (g : Group) (slot : WinSlot) :
    c.settle (.done (c.s0.setGroup c.r g) slot) = c.after (c.stepped g slot) := by
  simp only [Ctx.settle, State.modGroup_setGroup, Ctx.ended_setGroup]
  rfl

/-- A 32-bit result (R166). -/
theorem Ctx.settle_result32 (c : Ctx) (op : Op) (x : Lane → Word) : c.settle ((c.go op).result32 x) = c.after32 op x := by
  simp only [Ctx.result32, Ctx.withGroup, Ctx.go, State.modGroup_setGroup, Ctx.after32]
  exact c.settle_done _ _

/-- A 64-bit result. -/
theorem Ctx.settle_result64 (c : Ctx) (op : Op) (x : Lane → DWord) : c.settle ((c.go op).result64 x) = c.after64 op x := by
  simp only [Ctx.result64, Ctx.withGroup, Ctx.go, State.modGroup_setGroup, Ctx.after64]
  exact c.settle_done _ _

/-- A result of the width that MOD gives. -/
theorem Ctx.settle_resultMod (c : Ctx) (op : Op) (x : Lane → DWord) : c.settle ((c.go op).resultMod x) = c.afterMod op x := by
  unfold Ctx.resultMod Ctx.afterMod
  have : (c.go op).f.md = c.f.md := rfl
  rw [this]
  split
  · exact c.settle_result64 op x
  · exact c.settle_result32 op _

/-- A change of the group alone, with the run advanced. -/
theorem Ctx.settle_withGroup (c : Ctx) (op : Op) (h : Group → Group) (slot : WinSlot) :
    c.settle (.done ((c.go op).withGroup h) slot) = c.after (c.stepped (h (c.popped op)) slot) := by
  simp only [Ctx.withGroup, Ctx.go, State.modGroup_setGroup]
  exact c.settle_done _ _

/-- A row that has done nothing. -/
theorem Ctx.settle_nothing (c : Ctx) (op : Op) (slot : WinSlot) :
    c.settle (.done (c.go op).s slot) = c.after (c.stepped (c.popped op) slot) := c.settle_done _ _

/-- A change of the group alone, its lanes where the meaning put them. -/
theorem Ctx.settle_placed (c : Ctx) (op : Op) (h : Group → Group) (slot : WinSlot) :
    c.settle (.placed ((c.go op).withGroup h) slot) = c.placed (h (c.popped op)) slot := by
  simp only [Ctx.withGroup, Ctx.go, State.modGroup_setGroup, Ctx.settle, Ctx.ended_setGroup, Ctx.placed, Ctx.after]
  rfl

/-- A precise trap (R165). -/
theorem Ctx.settle_trap (c : Ctx) (op : Op) {f : Fields} {s : State} (h : s.ctx? f = some c) (cause detail : Byte) (addr : DWord) :
    c.settle ((c.go op).trap cause detail addr) = (c.charged s).raise c.r (c.info cause detail addr 0) := by
  obtain ⟨-, -, -, -, rfl, -⟩ := State.ctx?_spec h
  rfl

/-- The context of an issue with its pops made differs in the state alone. -/
@[simp] theorem Ctx.go_s0 (c : Ctx) (op : Op) : (c.go op).s0 = c.s0 := rfl
@[simp] theorem Ctx.go_r (c : Ctx) (op : Op) : (c.go op).r = c.r := rfl
@[simp] theorem Ctx.go_g (c : Ctx) (op : Op) : (c.go op).g = c.g := rfl
@[simp] theorem Ctx.go_t (c : Ctx) (op : Op) : (c.go op).t = c.t := rfl
@[simp] theorem Ctx.go_f (c : Ctx) (op : Op) : (c.go op).f = c.f := rfl
@[simp] theorem Ctx.go_pc (c : Ctx) (op : Op) : (c.go op).pc = c.pc := rfl
@[simp] theorem Ctx.go_run (c : Ctx) (op : Op) : (c.go op).run = c.run := rfl
@[simp] theorem Ctx.go_m (c : Ctx) (op : Op) : (c.go op).m = c.m := rfl
theorem Ctx.go_state (c : Ctx) (op : Op) : (c.go op).s = c.s0.setGroup c.r (c.popped op) := rfl

/-- Pops change the queues alone. -/
theorem popAll_eq (ns : List (BitVec 4)) (g : Group) : ns.foldl Group.popQ g = { g with queues := (ns.foldl Group.popQ g).queues } := by
  induction ns generalizing g with
  | nil => rfl
  | cons n ns ih => rw [List.foldl_cons, ih]; rfl

/-- The group with its pops made differs from the group in its queues and its hold alone. -/
theorem Ctx.popped_eq (c : Ctx) (op : Op) : c.popped op = { c.g with hold := none, queues := (c.popped op).queues } := by
  unfold Ctx.popped
  split
  · rfl
  · rw [popAll_eq]

/-- An instruction that pops no queue. -/
theorem Ctx.popped_none (c : Ctx) (op : Op) (h : opPops op c.f = []) : c.popped op = { c.g with hold := none } := by
  simp [Ctx.popped, h]

end Sys2Proof.Machine
end

