-- ==== Sys2Proof/Laws/Memory.lean ====
section
/-! SUPPORT. Every operation over memory keeps every list of bytes in its canonical form: what the home slices, the L2 of the dies, the caches of
the cores and the banks hold. -/

namespace Sys2Proof.Machine

/-! ## Changes of a die, a core or a group -/

/-- The form depends on the home slices and the dies alone. -/
theorem State.memoryOk_congr {s t : State} (h : s.memoryOk) (hm : t.hbm = s.hbm) (hd : t.dies = s.dies) : t.memoryOk := by
  unfold State.memoryOk at *; rw [hm, hd]; exact h

theorem State.memoryOk_modDie {s : State} (h : s.memoryOk) (d : DieId) {f : Die → Die}
    (hf : s.dies[d.val].cellsOk → (f s.dies[d.val]).cellsOk) : (s.modDie d f).memoryOk := by
  refine ⟨h.1, fun e => ?_⟩
  by_cases x : d = e
  · subst x
    have : (s.modDie d f).dies[d] = f s.dies[d.val] := State.modDie_same s d f
    rw [this]; exact hf (h.2 d)
  · have : (s.modDie d f).dies[e] = s.dies[e] := State.modDie_other s d e f x
    rw [this]; exact h.2 e

/-- A change of a die that leaves its bytes as they are. -/
theorem Die.cellsOk_congr {x y : Die} (h : x.cellsOk) (h2 : y.l2 = x.l2) (hc : y.cores = x.cores) (hs : y.saved = x.saved) : y.cellsOk := by
  unfold Die.cellsOk at *; rw [h2, hc, hs]; exact h

/-- A change of a core that leaves its bytes as they are. -/
theorem Core.cellsOk_congr {k l : Core} (h : k.cellsOk) (h1 : l.l1 = k.l1) (h2 : l.l1Dirty = k.l1Dirty) (h3 : l.icache = k.icache)
    (h4 : l.ccache = k.ccache) (h5 : l.banks = k.banks) : l.cellsOk := by
  unfold Core.cellsOk at *; rw [h1, h2, h3, h4, h5]; exact h

theorem State.memoryOk_modCore {s : State} (h : s.memoryOk) (d : DieId) (c : CoreId) {f : Core → Core}
    (hf : (s.core d c).cellsOk → (f (s.core d c)).cellsOk) : (s.modCore d c f).memoryOk := by
  refine State.memoryOk_modDie h d fun x => ⟨x.1, fun b => ?_, x.2.2⟩
  by_cases hb : c = b
  · subst hb
    have e : (s.dies[d.val].cores.set c (f s.dies[d.val].cores[c]))[c] = f (s.core d c) := by simp [State.core_def]
    show Core.cellsOk (s.dies[d.val].cores.set c (f s.dies[d.val].cores[c]))[c]
    rw [e]; exact hf (x.2.1 c)
  · have hv : c.val ≠ b.val := fun e => hb (Fin.ext e)
    have e : (s.dies[d.val].cores.set c (f s.dies[d.val].cores[c]))[b] = s.dies[d.val].cores[b] := by simp [hv]
    show Core.cellsOk (s.dies[d.val].cores.set c (f s.dies[d.val].cores[c]))[b]
    rw [e]; exact x.2.1 b

/-- The core of a state in the form. -/
theorem State.memoryOk_core {s : State} (h : s.memoryOk) (d : DieId) (c : CoreId) : (s.core d c).cellsOk := (h.2 d).2.1 c

theorem State.memoryOk_setGroup {s : State} (h : s.memoryOk) (r : GRef) (g : Group) : (s.setGroup r g).memoryOk :=
  State.memoryOk_modCore h _ _ fun x => Core.cellsOk_congr x rfl rfl rfl rfl rfl

theorem State.memoryOk_modGroup {s : State} (h : s.memoryOk) (r : GRef) (f : Group → Group) : (s.modGroup r f).memoryOk := by
  unfold State.modGroup; split
  · exact State.memoryOk_setGroup h r _
  · exact h

theorem State.memoryOk_count {s : State} (h : s.memoryOk) (d : DieId) (i : Fin 9) (n : Nat) : (s.count d i n).memoryOk :=
  State.memoryOk_modDie h d fun x => Die.cellsOk_congr x rfl rfl rfl

/-- The form is kept through any list of changes that each keep it. -/
theorem State.memoryOk_foldl {α : Type} (xs : List α) (f : State → α → State) {s : State} (h : s.memoryOk)
    (hf : ∀ s x, s.memoryOk → (f s x).memoryOk) : (xs.foldl f s).memoryOk := by
  induction xs generalizing s with
  | nil => exact h
  | cons x xs ih => exact ih (hf s x h)

/-! ## Home slices and L2 -/

theorem State.memoryOk_homePut {s : State} (h : s.memoryOk) (a : Nat) (b : Byte) : (s.homePut a b).memoryOk :=
  ⟨cellPut_wf _ _ h.1, h.2⟩

theorem State.memoryOk_homePutCells {s : State} (h : s.memoryOk) (xs : Cells) : (s.homePutCells xs).memoryOk :=
  State.memoryOk_foldl xs _ (State.memoryOk_congr h rfl rfl) fun _ x hs => State.memoryOk_homePut hs x.1 x.2

theorem State.memoryOk_clearPoison {s : State} (h : s.memoryOk) (a n : Nat) : (s.clearPoison a n).memoryOk := h
theorem State.memoryOk_addPoison {s : State} (h : s.memoryOk) (us : List Nat) : (s.addPoison us).memoryOk := h
theorem State.memoryOk_freshened {s : State} (h : s.memoryOk) : s.freshened.memoryOk := h

/-- A change of the L2 of a die that keeps its order. -/
theorem State.memoryOk_l2 {s : State} (h : s.memoryOk) (d : DieId) {f : Cells → Cells}
    (hf : ∀ m, cellsSorted m = true → cellsSorted (f m) = true) : (s.modDie d (fun x => { x with l2 := f x.l2 })).memoryOk :=
  State.memoryOk_modDie h d fun x => ⟨hf _ x.1, x.2⟩

theorem State.memoryOk_l2Move {s : State} (h : s.memoryOk) (d : DieId) (p : Nat → Bool) : (s.l2Move d p).memoryOk := by
  unfold State.l2Move; simp only
  split
  · exact h
  · exact State.memoryOk_l2 (State.memoryOk_homePutCells h _) d fun _ => cellDrop_sorted p

theorem State.memoryOk_l2MoveOn {s : State} (h : s.memoryOk) (ds : List DieId) (p : Nat → Bool) : (s.l2MoveOn ds p).memoryOk :=
  State.memoryOk_foldl ds _ h fun _ d hs => State.memoryOk_l2Move hs d p

/-- A change of every die that keeps the bytes of each in their form. -/
theorem State.memoryOk_ofFn {s t : State} (h : s.memoryOk) (hm : t.hbm = s.hbm) (f : DieId → Die) (hd : t.dies = Vector.ofFn f)
    (hf : ∀ d, s.dies[d].cellsOk → (f d).cellsOk) : t.memoryOk := by
  refine ⟨hm ▸ h.1, fun d => ?_⟩
  have e : t.dies[d] = f d := by rw [hd]; simp
  rw [e]; exact hf d (h.2 d)

theorem State.memoryOk_takeBack {s : State} (h : s.memoryOk) (ds : List DieId) (lines : Nat → Bool) : (s.takeBack ds lines).memoryOk := by
  refine State.memoryOk_ofFn (State.memoryOk_l2MoveOn h ds _) rfl _ rfl fun d x => ?_
  split
  · exact Die.cellsOk_congr x rfl rfl rfl
  · exact x

theorem State.memoryOk_recall {s : State} (h : s.memoryOk) (keep : Option DieId) (a n : Nat) : (s.recall keep a n).memoryOk :=
  State.memoryOk_takeBack h _ _

theorem State.memoryOk_l2WriteBack {s : State} (h : s.memoryOk) (d : DieId) (p : Nat → Bool) : (s.l2WriteBack d p).memoryOk := by
  unfold State.l2WriteBack; simp only
  split
  · exact h
  · exact State.memoryOk_l2Move (State.memoryOk_takeBack h _ _) d p

/-- A die that takes a line keeps its bytes. -/
theorem State.memoryOk_l2Lines {s : State} (h : s.memoryOk) (d : DieId) (f : Die → List Nat) :
    (s.modDie d (fun x => { x with l2Lines := f x })).memoryOk :=
  State.memoryOk_modDie h d fun x => Die.cellsOk_congr x rfl rfl rfl

theorem State.memoryOk_l2Take {s : State} (h : s.memoryOk) (d : DieId) (line : Nat) : (s.l2Take d line).memoryOk := by
  unfold State.l2Take; simp only
  split
  · exact h
  · have h1 : ({ s with
        llc := llcEnter s.llc line, sharers := shareSet s.sharers line (shareOf s.sharers line ||| 1#32 <<< d.val) } : State).memoryOk :=
      State.memoryOk_congr h rfl rfl
    split
    · exact State.memoryOk_l2Lines (State.memoryOk_l2WriteBack h1 d _) d _
    · exact State.memoryOk_l2Lines h1 d _

theorem State.memoryOk_l2TakeAll {s : State} (h : s.memoryOk) (d : DieId) (lines : List Nat) : (s.l2TakeAll d lines).memoryOk :=
  State.memoryOk_foldl lines _ h fun _ l hs => State.memoryOk_l2Take hs d l

theorem State.memoryOk_writeHome {s : State} (h : s.memoryOk) (d : Option DieId) (a : Nat) (bs : List Byte) : (s.writeHome d a bs).memoryOk := by
  unfold State.writeHome; split
  · exact h
  · have h1 := State.memoryOk_clearPoison (State.memoryOk_recall h d a bs.length) a bs.length
    refine State.memoryOk_homePutCells ?_ _
    cases d with
    | none => exact h1
    | some d => exact State.memoryOk_l2 h1 d fun _ => cellDrop_sorted (fun k => a ≤ k && k < a + bs.length)

theorem State.memoryOk_writeDie {s : State} (h : s.memoryOk) (d : DieId) (a : Nat) (bs : List Byte) : (s.writeDie d a bs).memoryOk :=
  State.memoryOk_l2 (State.memoryOk_l2TakeAll (State.memoryOk_clearPoison h a bs.length) d _) d fun _ => cellSetAll_sorted a bs

/-! ## The L1 of a core -/

theorem Core.cellsOk_passThrough {k : Core} (h : k.cellsOk) (a : Nat) (bs : List Byte) : (k.passThrough a bs).cellsOk := by
  refine ⟨foldl_cellSet_sorted _ _ h.1 fun m x hm => ?_, h.2⟩
  split
  · exact cellSet_sorted _ _ hm
  · exact hm

theorem Core.cellsOk_writeL1 {k : Core} (h : k.cellsOk) (a : Nat) (bs : List Byte) : (k.writeL1 a bs).cellsOk :=
  ⟨cellDrop_sorted (fun x => a ≤ x && x < a + bs.length) h.1, cellSetAll_sorted a bs h.2.1, h.2.2⟩

theorem State.memoryOk_l1WriteBack {s : State} (h : s.memoryOk) (d : DieId) (c : CoreId) (p : Nat → Bool) :
    (s.l1WriteBack d c p).memoryOk := by
  unfold State.l1WriteBack; simp only
  split
  · exact h
  · exact State.memoryOk_modCore (State.memoryOk_l2 (State.memoryOk_l2TakeAll h d _) d fun _ => cellMerge_sorted _) d c fun x =>
      ⟨cellMerge_sorted _ x.1, cellDrop_sorted p x.2.1, x.2.2⟩

theorem State.memoryOk_sectorBack {s : State} (h : s.memoryOk) (d : DieId) (c : CoreId) (a : Nat) : (s.sectorBack d c a).memoryOk :=
  State.memoryOk_l1WriteBack h d c _

theorem State.memoryOk_lineHome {s : State} (h : s.memoryOk) (d : DieId) (c : CoreId) (a : Nat) : (s.lineHome d c a).memoryOk :=
  State.memoryOk_l2WriteBack (State.memoryOk_sectorBack h d c a) d _

theorem State.memoryOk_writeAt {s : State} (h : s.memoryOk) (d : DieId) (c : CoreId) (lvl : Level) (a : Nat) (bs : List Byte) :
    (s.writeAt d c lvl a bs).memoryOk := by
  cases lvl with
  | core => exact State.memoryOk_modCore (State.memoryOk_clearPoison h a bs.length) d c fun x => Core.cellsOk_writeL1 x a bs
  | die =>
    exact State.memoryOk_modCore (State.memoryOk_writeDie (State.memoryOk_sectorBack h d c a) d a bs) d c fun x => Core.cellsOk_passThrough x a bs
  | home =>
    exact State.memoryOk_modCore (State.memoryOk_writeHome (State.memoryOk_lineHome h d c a) (some d) a bs) d c fun x =>
      Core.cellsOk_passThrough x a bs

theorem State.memoryOk_fillSector {s : State} (h : s.memoryOk) (d : DieId) (c : CoreId) (sec : Nat) : (s.fillSector d c sec).memoryOk := by
  unfold State.fillSector; split
  · exact h
  · exact State.memoryOk_modCore (State.memoryOk_l2Take h d _) d c fun x =>
      ⟨foldl_cellSet_sorted _ _ x.1 fun _ _ hm => cellSet_sorted _ _ hm, x.2⟩

theorem State.memoryOk_performStore {s : State} (h : s.memoryOk) (d : DieId) (c : CoreId) (x : PendingStore) :
    (s.performStore d c x).memoryOk := by
  have key : ∀ t : State, t.memoryOk → ((t.writeAt d c .core x.pa x.bytes).modCore d c (fun k => k.recordCore (x.pa / 128))).memoryOk :=
    fun t ht => State.memoryOk_modCore (State.memoryOk_writeAt ht d c _ _ _) d c fun y => Core.cellsOk_congr y rfl rfl rfl rfl rfl
  unfold State.performStore; simp only
  split
  · exact key s h
  · split
    · split
      · exact key s h
      · exact key _ (State.memoryOk_foldl _ _ h fun _ _ ht => State.memoryOk_fillSector ht d c _)
    · exact State.memoryOk_writeAt h d c _ _ _

/-- A change of what waits in a core keeps its bytes. -/
theorem State.memoryOk_pending {s : State} (h : s.memoryOk) (d : DieId) (c : CoreId) (f : Core → List PendingStore) :
    (s.modCore d c (fun k => { k with pending := f k })).memoryOk :=
  State.memoryOk_modCore h d c fun x => Core.cellsOk_congr x rfl rfl rfl rfl rfl

theorem State.memoryOk_performStores {s : State} (h : s.memoryOk) (d : DieId) (c : CoreId) (p : PendingStore → Bool) :
    (s.performStores d c p).memoryOk := by
  unfold State.performStores; split
  · exact h
  · exact State.memoryOk_foldl _ _ (State.memoryOk_pending h d c _) fun _ x hs => State.memoryOk_performStore hs d c x

theorem State.memoryOk_performNth {s : State} (h : s.memoryOk) (d : DieId) (c : CoreId) (n : Nat) : (s.performNth d c n).memoryOk := by
  unfold State.performNth; simp only; split
  · exact h
  · split
    · exact h
    · exact State.memoryOk_performStore (State.memoryOk_pending h d c _) d c _

theorem State.memoryOk_performOwn {s : State} (h : s.memoryOk) (r : GRef) (as : List Nat) : (s.performOwn r as).memoryOk :=
  State.memoryOk_performStores h _ _ _

theorem State.memoryOk_performAll {s : State} (h : s.memoryOk) : s.performAll.memoryOk := by
  unfold State.performAll
  exact State.memoryOk_foldl _ _ h fun t d ht => State.memoryOk_foldl _ _ ht fun u c hu => State.memoryOk_performStores hu d c _

theorem State.memoryOk_releaseTo {s : State} (h : s.memoryOk) (d : DieId) (c : CoreId) (lvl : Level) : (s.releaseTo d c lvl).memoryOk := by
  have h1 := State.memoryOk_performStores h d c (fun _ => true)
  cases lvl with
  | core => exact h1
  | die => exact State.memoryOk_l1WriteBack h1 d c _
  | home => exact State.memoryOk_l2WriteBack (State.memoryOk_l1WriteBack h1 d c _) d _

theorem State.memoryOk_acquireAt {s : State} (h : s.memoryOk) (d : DieId) (c : CoreId) (lvl : Level) : (s.acquireAt d c lvl).memoryOk := by
  have key : ∀ l (xs : List Nat), (xs.foldl (fun t sec => t.fillSector d c sec)
      ((s.l1WriteBack d c ((s.core d c).narrower l)).modCore d c (fun k => { k with l1 := [] }))).memoryOk := fun l xs =>
    State.memoryOk_foldl _ _ (State.memoryOk_modCore (State.memoryOk_l1WriteBack h d c _) d c fun x => ⟨rfl, x.2⟩)
      fun _ _ ht => State.memoryOk_fillSector ht d c _
  cases lvl with
  | core => exact h
  | die => exact key .die _
  | home => exact key .home _

/-- A change of every die that keeps the order of its L2 and of each of its cores' bytes. -/
theorem State.memoryOk_mapDies {s t : State} (h : s.memoryOk) (hm : t.hbm = s.hbm) (f : Die → Die) (hd : t.dies = s.dies.map f)
    (hf : ∀ x : Die, x.cellsOk → (f x).cellsOk) : t.memoryOk := by
  refine ⟨hm ▸ h.1, fun d => ?_⟩
  have e : t.dies[d] = f s.dies[d] := by rw [hd]; simp
  rw [e]; exact hf _ (h.2 d)

/-- A die whose cores all change, each keeping the form of its bytes. -/
theorem Die.cellsOk_mapCores {x y : Die} (h : x.cellsOk) (f : Core → Core) (h2 : y.l2 = x.l2) (hs : y.saved = x.saved)
    (hc : y.cores = x.cores.map f) (hf : ∀ k, k.cellsOk → (f k).cellsOk) : y.cellsOk := by
  refine ⟨by rw [h2]; exact h.1, fun c => ?_, by rw [hs]; exact h.2.2⟩
  have e : y.cores[c] = f x.cores[c] := by rw [hc]; simp
  rw [e]; exact hf _ (h.2.1 c)

theorem State.memoryOk_dropCopies {s : State} (h : s.memoryOk) (p : Nat → Bool) : (s.dropCopies p).memoryOk := by
  unfold State.dropCopies
  refine State.memoryOk_mapDies h rfl _ rfl fun x hx => ?_
  exact Die.cellsOk_mapCores hx _ rfl rfl rfl fun k y => ⟨cellDrop_sorted p y.1, y.2⟩

theorem State.memoryOk_l1WriteBackAll {s : State} (h : s.memoryOk) (p : Nat → Bool) : (s.l1WriteBackAll p).memoryOk := by
  unfold State.l1WriteBackAll
  exact State.memoryOk_foldl _ _ h fun t d ht => State.memoryOk_foldl _ _ ht fun u c hu => State.memoryOk_l1WriteBack hu d c p

theorem State.memoryOk_flushEverywhere {s : State} (h : s.memoryOk) (p : Nat → Bool) : (s.flushEverywhere p).memoryOk :=
  State.memoryOk_dropCopies (State.memoryOk_l2MoveOn (State.memoryOk_l1WriteBackAll (State.memoryOk_performAll h) p) allDies p) p

theorem State.memoryOk_evictLine {s : State} (h : s.memoryOk) (d : DieId) (c : CoreId) (x : L1Line) (e : SlotId) :
    (s.evictLine d c x e).memoryOk :=
  State.memoryOk_modCore (State.memoryOk_l1WriteBack h d c _) d c fun y =>
    ⟨cellDrop_sorted (fun a => a / 128 == x.line) y.1, y.2⟩

theorem State.memoryOk_l1Miss {s : State} (h : s.memoryOk) (r : GRef) (line : Nat) : (s.l1Miss r line).memoryOk := by
  have h1 : ((s.count r.die 3 1).modCore r.die r.core (fun k =>
      { k with adm := { k.adm with misses := k.adm.misses + 1 }, victims := k.victims.filter (fun v => v.line != line) })).memoryOk :=
    State.memoryOk_modCore (State.memoryOk_count h _ _ _) _ _ fun x => Core.cellsOk_congr x rfl rfl rfl rfl rfl
  unfold State.l1Miss; simp only
  split
  · split
    · exact State.memoryOk_modGroup (State.memoryOk_count h1 _ _ _) _ _
    · exact State.memoryOk_modCore (State.memoryOk_count h1 _ _ _) _ _ fun x => Core.cellsOk_congr x rfl rfl rfl rfl rfl
  · exact h1

theorem State.memoryOk_l1Access {s : State} (h : s.memoryOk) (r : GRef) (line : Nat) (bytes : List Nat) (store : Bool) (hint : BitVec 2)
    (wrote : Option Nat) (lease miss : Bool) : (s.l1Access r line bytes store hint wrote lease miss).memoryOk := by
  have h0 : (if lease then s.modGroup r (fun g => { g with lease := g.lease.access line }) else s).memoryOk := by
    split
    · exact State.memoryOk_modGroup h _ _
    · exact h
  unfold State.l1Access
  generalize (if lease then s.modGroup r (fun g => { g with lease := g.lease.access line }) else s) = s0 at h0
  simp only
  generalize hc : (((s0.core r.die r.core).l1Lines.find? (fun x => x.line == line)).isSome && (s0.core r.die r.core).l1Has bytes || !miss) = b
  have h1 : (if b = true then s0 else s0.l1Miss r line).memoryOk := by
    split
    · exact h0
    · exact State.memoryOk_l1Miss h0 r line
  generalize (if b = true then s0 else s0.l1Miss r line) = s1 at h1
  split
  · exact h1
  · refine State.memoryOk_modCore (State.memoryOk_foldl _ _ ?_ fun t c ht => State.memoryOk_fillSector ht _ _ c) _ _
      fun x => Core.cellsOk_congr x rfl rfl rfl rfl rfl
    split
    · exact State.memoryOk_evictLine h1 _ _ _ _
    · exact h1

theorem State.memoryOk_l1Lookups {s : State} (h : s.memoryOk) (r : GRef) (as : List Nat) (store : Bool) (hint : BitVec 2)
    (noL1 : Nat → Bool) (wrote : Option Nat) (lease : Bool) : (s.l1Lookups r as store hint noL1 wrote lease).memoryOk :=
  State.memoryOk_foldl _ _ h fun _ _ ht => State.memoryOk_l1Access ht r _ _ _ _ _ _ _

/-- Reading now keeps the form (R94, R107). -/
theorem State.memoryOk_readNow {s : State} (h : s.memoryOk) (r : GRef) (x : LoadSpec) (m : Mask) : (s.readNow r x m).s.memoryOk :=
  State.memoryOk_l1Lookups (State.memoryOk_foldl _ _ (State.memoryOk_performOwn h r _) fun _ _ ht => State.memoryOk_lineHome ht _ _ _)
    r _ _ _ _ _ _

theorem State.memoryOk_readFlight {s : State} (h : s.memoryOk) (r : GRef) (x : Flight) : (s.readFlight r x).memoryOk := by
  unfold State.readFlight; split
  · exact h
  · exact State.memoryOk_modGroup (State.memoryOk_readNow h r _ _) r _

theorem State.memoryOk_readLate {s : State} (h : s.memoryOk) (r : GRef) (p : Flight → Bool) : (s.readLate r p).memoryOk := by
  unfold State.readLate; split
  · exact h
  · exact State.memoryOk_foldl _ _ h fun _ _ ht => State.memoryOk_readFlight ht r _

theorem State.memoryOk_l1Accesses {s : State} (h : s.memoryOk) (r : GRef) (as : List Nat) (store : Bool) (hint : BitVec 2)
    (noL1 : Nat → Bool) (wrote : Option Nat) (lease : Bool) : (s.l1Accesses r as store hint noL1 wrote lease).memoryOk :=
  State.memoryOk_l1Lookups (State.memoryOk_performOwn (State.memoryOk_readLate h r _) r as) r as _ _ _ _ _

theorem State.memoryOk_releaseBy {s : State} (h : s.memoryOk) (r : GRef) (lvl : Level) : (s.releaseBy r lvl).memoryOk :=
  State.memoryOk_releaseTo (State.memoryOk_readLate h r _) _ _ _

theorem State.memoryOk_settleAll {s : State} (h : s.memoryOk) : s.settleAll.memoryOk :=
  State.memoryOk_performAll (State.memoryOk_foldl _ _ h fun _ _ ht => State.memoryOk_foldl _ _ ht fun _ _ hu =>
    State.memoryOk_foldl _ _ hu fun _ _ hv => State.memoryOk_readLate hv _ _)

theorem State.memoryOk_adoptSectors {s : State} (h : s.memoryOk) (d : DieId) (c : CoreId) (sectors : List Nat) :
    (s.adoptSectors d c sectors).memoryOk := by
  refine State.memoryOk_foldl _ _ h fun t sec ht => ?_
  split
  · exact State.memoryOk_modCore ht d c fun x => ⟨foldl_cellSet_sorted _ _ x.1 fun _ _ hm => cellSet_sorted _ _ hm, x.2⟩
  · exact ht

theorem State.memoryOk_takeSector {s : State} (h : s.memoryOk) (d : DieId) (c : CoreId) (sec : Nat) : (s.takeSector d c sec).memoryOk := by
  unfold State.takeSector; simp only
  split
  · exact State.memoryOk_fillSector h d c sec
  · split
    · exact State.memoryOk_fillSector (State.memoryOk_modCore h d c fun x => Core.cellsOk_congr x rfl rfl rfl rfl rfl) d c sec
    · exact h

/-! ## The instruction and constant caches -/

theorem fillUnit_sorted {m : Cells} (u : Nat) (f : Nat → Byte) (h : cellsSorted m = true) : cellsSorted (fillUnit m u f) = true := by
  unfold fillUnit; split
  · exact h
  · exact foldl_cellSet_sorted _ _ h fun _ _ hm => cellSet_sorted _ _ hm

theorem State.memoryOk_fillI {s : State} (h : s.memoryOk) (d : DieId) (c : CoreId) (a n : Nat) : (s.fillI d c a n).memoryOk :=
  State.memoryOk_modCore (State.memoryOk_l2TakeAll h d _) d c fun x =>
    ⟨x.1, x.2.1, foldl_cellSet_sorted _ _ x.2.2.1 fun _ _ hm => fillUnit_sorted _ _ hm, x.2.2.2⟩

theorem State.memoryOk_fillC {s : State} (h : s.memoryOk) (d : DieId) (c : CoreId) (a n : Nat) (home : Bool) :
    (s.fillC d c a n home).memoryOk := by
  unfold State.fillC; simp only
  refine State.memoryOk_modCore ?_ d c fun x =>
    ⟨x.1, x.2.1, x.2.2.1, foldl_cellSet_sorted _ _ x.2.2.2.1 fun _ _ hm => fillUnit_sorted _ _ hm, x.2.2.2.2⟩
  split
  · exact h
  · exact State.memoryOk_l2TakeAll h d _

theorem State.memoryOk_dropUnit {s : State} (h : s.memoryOk) (d : DieId) (c : CoreId) (code : Bool) (u : Nat) :
    (s.dropUnit d c code u).memoryOk := by
  refine State.memoryOk_modCore h d c fun x => ?_
  cases code
  · exact ⟨x.1, x.2.1, x.2.2.1, cellDrop_sorted (fun a => a / 16 == u) x.2.2.2.1, x.2.2.2.2⟩
  · exact ⟨x.1, x.2.1, cellDrop_sorted (fun a => a / 16 == u) x.2.2.1, x.2.2.2⟩

theorem State.memoryOk_flushCode {s : State} (h : s.memoryOk) (d : DieId) (code const : Bool) : (s.flushCode d code const).memoryOk := by
  refine State.memoryOk_modDie h d fun x => Die.cellsOk_mapCores x _ rfl rfl rfl fun k y => ⟨y.1, y.2.1, ?_, ?_, y.2.2.2.2⟩
  · cases code
    · exact y.2.2.1
    · rfl
  · cases const
    · exact y.2.2.2.1
    · rfl

/-! ## The scratchpad and atomics -/

/-- A change of one bank that keeps its bytes in their form. -/
theorem Core.cellsOk_setBank {k : Core} (h : k.cellsOk) (b : Fin 64) {x : Bank} (hx : Memory.wf x.mem = true) :
    ({ k with banks := k.banks.set b x } : Core).cellsOk := by
  refine ⟨h.1, h.2.1, h.2.2.1, h.2.2.2.1, fun c => ?_⟩
  by_cases e : b = c
  · subst e
    have : (k.banks.set b x)[b] = x := by simp
    show Memory.wf ((k.banks.set b x)[b]).mem = true
    rw [this]; exact hx
  · have hv : b.val ≠ c.val := fun z => e (Fin.ext z)
    have : (k.banks.set b x)[c] = k.banks[c] := by simp [hv]
    show Memory.wf ((k.banks.set b x)[c]).mem = true
    rw [this]; exact h.2.2.2.2 c

theorem Core.cellsOk_spadPut {k : Core} (h : k.cellsOk) (t : Team) (a : Nat) (x : Byte) : (k.spadPut t a x).cellsOk := by
  unfold Core.spadPut; split
  · exact Core.cellsOk_setBank h _ (cellPut_wf _ _ (h.2.2.2.2 _))
  · exact h

theorem Core.cellsOk_spadMark {k : Core} (h : k.cellsOk) (t : Team) (a : Nat) (bad : Bool) : (k.spadMark t a bad).cellsOk := by
  unfold Core.spadMark; split
  · exact Core.cellsOk_setBank h _ (h.2.2.2.2 _)
  · exact h

theorem Core.cellsOk_foldl {α : Type} (xs : List α) (f : Core → α → Core) {k : Core} (h : k.cellsOk)
    (hf : ∀ k x, k.cellsOk → (f k x).cellsOk) : (xs.foldl f k).cellsOk := by
  induction xs generalizing k with
  | nil => exact h
  | cons x xs ih => exact ih (hf k x h)

theorem Core.cellsOk_spadWrite {k : Core} (h : k.cellsOk) (t : Team) (a : Nat) (bs : List Byte) : (k.spadWrite t a bs).cellsOk :=
  Core.cellsOk_foldl _ _ (Core.cellsOk_foldl _ _ h fun _ _ hk => Core.cellsOk_spadPut hk t _ _) fun _ _ hk => Core.cellsOk_spadMark hk t _ _

theorem State.memoryOk_spadWrite {s : State} (h : s.memoryOk) (d : DieId) (c : CoreId) (t : Team) (a : Nat) (bs : List Byte) :
    (s.spadWrite d c t a bs).memoryOk :=
  State.memoryOk_modCore h d c fun x => Core.cellsOk_spadWrite x t a bs

theorem State.memoryOk_atPoint {s : State} (h : s.memoryOk) (d : DieId) (c : CoreId) (lvl : Level) (a n : Nat) :
    (s.atPoint d c lvl a n).memoryOk := by
  cases lvl with
  | core => exact h
  | die => exact State.memoryOk_sectorBack h d c a
  | home => exact State.memoryOk_recall (State.memoryOk_lineHome h d c a) _ a n

theorem State.memoryOk_rmw {s : State} (h : s.memoryOk) (d : DieId) (c : CoreId) (lvl : Level) (a n : Nat) (op : Nat → Nat) :
    (s.rmw d c lvl a n op).2.memoryOk :=
  State.memoryOk_writeAt (State.memoryOk_atPoint h d c (s.atomLevel d c lvl a n) a n) d c _ a _

/-! ## Reset -/

theorem Core.reset_cellsOk : Core.reset.cellsOk := by
  have hb : ∀ b : Fin 64, Core.reset.banks[b] = Bank.zero := fun b => by simp [Core.reset]
  exact ⟨rfl, rfl, rfl, rfl, fun b => by rw [hb]; rfl⟩

theorem State.reset_memoryOk : State.reset.memoryOk := by
  refine ⟨rfl, fun d => ?_⟩
  have e : State.reset.dies[d] = Die.reset := by simp [State.reset]
  rw [e]
  refine ⟨rfl, fun c => ?_, fun v hv => by cases hv⟩
  by_cases hc : (0 : CoreId) = c
  · have : Die.reset.cores[c] = Core.resetFirst := by subst hc; simp [Die.reset]
    rw [this]; exact Core.cellsOk_congr Core.reset_cellsOk rfl rfl rfl rfl rfl
  · have hv : (0 : Nat) ≠ c.val := fun z => hc (Fin.ext z)
    have : Die.reset.cores[c] = Core.reset := by simp [Die.reset, hv]
    rw [this]; exact Core.reset_cellsOk

end Sys2Proof.Machine
end

