-- ==== Sys2Proof/Tests/Slice0.lean ====
section
/-! SUPPORT. Tests: words of the spec's encodings, ill-formed instructions, single steps with results worked out in the spec or by hand from
its rules, and a witness for the hypotheses of each statement. -/

namespace Sys2Proof.Tests

set_option Elab.async false

open Sys2Proof Sys2Proof.Machine

/-! ## Decoding -/

/-- A word with the row and the operands that it stands for: destination and the three sources. -/
structure Named where
  word : BitVec 128
  op : Op
  dst : Operand
  sa : Operand
  sb : Operand
  sx : Operand

/-- Whether the word decodes to the row with those operands. -/
def Named.decodes (x : Named) : Bool :=
  match decodeWord x.word with
  | .ok i =>
    match i.word? with
    | some (op, f) => op == x.op && f.dst == x.dst && f.sa == x.sa && f.sb == x.sb && f.sx == x.sx
    | none => false
  | .error _ => false

/-- Row 0x0, each word from the tables of spec 06 with the fields that its instruction has. -/
def words0 : List Named :=
  [
⟨0x7FF0100100481C00, .iadd, .v 9, .v 4, .v 8, .none⟩,
   ⟨0x51073440100485C05, .isub, .v 9, .v 4, .imm32, .none⟩,
   ⟨0x7FF8060109081C08, .imul, .o 1, .v 4, .u 3, .none⟩,
   ⟨0x7FF0060080081C0C, .imulh, .v 1, .v 2, .v 3, .none⟩,
   ⟨0x40060080081C10, .imad, .v 1, .v 2, .v 3, .v 4⟩,
   ⟨0x40060080301C14, .imadw, .v 6, .v 2, .v 3, .v 4⟩,
   ⟨0x7FF5FE0098101C18, .imin, .pred 2, .v 2, .inl 255, .none⟩,
   ⟨0x7FF00600A0281C1C, .imax, .u 5, .v 2, .v 3, .none⟩,
   ⟨0x7FFFFE0080085C20, .iabs, .v 1, .v 2, .none, .none⟩,
   ⟨0x7FF00C0100105C24, .iaddx, .v 2, .v 4, .v 6, .none⟩,
   ⟨0x400000000000470060080081C2A, .idot4, .v 1, .v 2, .v 3, .v 4⟩,
   ⟨0x40060080081C2C, .idot2, .v 1, .v 2, .v 3, .v 4⟩,
   ⟨0x20200C0100101C30, .lea, .v 2, .v 4, .v 6, .inl 2⟩,
   ⟨0x7FF3400098095C34, .icmp, .pred 1, .v 2, .zero, .none⟩,
   ⟨0x3010060080081C38, .isel, .v 1, .v 2, .v 3, .pred 1⟩,
   ⟨0x40060080081C3C, .iclamp, .v 1, .v 2, .v 3, .v 4⟩]

theorem test_decode_row_0 : words0.all Named.decodes = true := by decide +kernel

/-- Row 0x1, each word from the tables of spec 06 with the fields that its instruction has. -/
def words1 : List Named :=
  [
⟨0x7FF0060080081C40, .and, .v 1, .v 2, .v 3, .none⟩,
   ⟨0x7FF0060080081C44, .or, .v 1, .v 2, .v 3, .none⟩,
   ⟨0x7FF0060080081C48, .xor, .v 1, .v 2, .v 3, .none⟩,
   ⟨0x7FF0060080081C4C, .andn, .v 1, .v 2, .v 3, .none⟩,
   ⟨0x2C7FFE0100101C51, .not, .v 2, .v 4, .none, .none⟩,
   ⟨0x7FF4060080081C54, .shl, .v 1, .v 2, .inl 3, .none⟩,
   ⟨0x7FF4060080081C58, .shr, .v 1, .v 2, .inl 3, .none⟩,
   ⟨0x7FF4060080081C5C, .sar, .v 1, .v 2, .inl 3, .none⟩,
   ⟨0x40060080085C60, .shf, .v 1, .v 2, .v 3, .v 4⟩,
   ⟨0x40060080081C64, .bfext, .v 1, .v 2, .v 3, .v 4⟩,
   ⟨0x40060080081C68, .bfins, .v 1, .v 2, .v 3, .v 4⟩,
   ⟨0x7FFFFE0080081C6C, .popc, .v 1, .v 2, .none, .none⟩,
   ⟨0x7FFFFE0080081C70, .clz, .v 1, .v 2, .none, .none⟩,
   ⟨0x7FFFFE0080081C74, .ctz, .v 1, .v 2, .none, .none⟩,
   ⟨0x7FFFFE0080081C78, .brev, .v 1, .v 2, .none, .none⟩,
   ⟨0x40060080081C7C, .prmt, .v 1, .v 2, .v 3, .v 4⟩]

theorem test_decode_row_1 : words1.all Named.decodes = true := by decide +kernel

/-- Row 0x2, each word from the tables of spec 06 with the fields that its instruction has. -/
def words2 : List Named :=
  [
⟨0x7FF0100100481C80, .fadd, .v 9, .v 4, .v 8, .none⟩,
   ⟨0x7FF0060080081C84, .fsub, .v 1, .v 2, .v 3, .none⟩,
   ⟨0x7FF012023FFA1C88, .fmul, .none, .v 8, .v 9, .none⟩,
   ⟨0x400000000002470060080081C8E, .ffma, .v 1, .v 2, .v 3, .v 4⟩,
   ⟨0x7FF0060080081C90, .fmin, .v 1, .v 2, .v 3, .none⟩,
   ⟨0x7FF0060080081C94, .fmax, .v 1, .v 2, .v 3, .none⟩,
   ⟨0x7FF0060098199C98, .fcmp, .pred 3, .v 2, .v 3, .none⟩,
   ⟨0x7FFFFE0080081C9C, .fclass, .v 1, .v 2, .none, .none⟩,
   ⟨0x47FFE0080081CA1, .frnd, .v 1, .v 2, .none, .none⟩,
   ⟨0x7FF0060080081CA4, .fscale, .v 1, .v 2, .v 3, .none⟩,
   ⟨0x40060080081CA8, .hfma2, .v 1, .v 2, .v 3, .v 4⟩,
   ⟨0x4070060080081CAD, .hadd2, .v 1, .v 2, .v 3, .none⟩,
   ⟨0x7FF0060080081CB0, .hmul2, .v 1, .v 2, .v 3, .none⟩,
   ⟨0x40060080081CB4, .fdot2, .v 1, .v 2, .v 3, .v 4⟩]

theorem test_decode_row_2 : words2.all Named.decodes = true := by decide +kernel

/-- Row 0x3, each word from the tables of spec 06 with the fields that its instruction has. -/
def words3 : List Named :=
  [
⟨0x7FFFFE0080081CC0, .frcp, .v 1, .v 2, .none, .none⟩,
   ⟨0x7FFFFE0080081CC4, .frsq, .v 1, .v 2, .none, .none⟩,
   ⟨0x7FFFFE0080081CC8, .fsqrt, .v 1, .v 2, .none, .none⟩,
   ⟨0x7FFFFE0080081CCC, .fexp2, .v 1, .v 2, .none, .none⟩,
   ⟨0x7FFFFE0080081CD0, .flog2, .v 1, .v 2, .none, .none⟩,
   ⟨0x7FFFFE0080081CD4, .fsin, .v 1, .v 2, .none, .none⟩,
   ⟨0x7FFFFE0080081CD8, .fcos, .v 1, .v 2, .none, .none⟩,
   ⟨0x7FFFFE0080081CDC, .ftanh, .v 1, .v 2, .none, .none⟩,
   ⟨0x7FF0060080081CE0, .fdiv, .v 1, .v 2, .v 3, .none⟩]

theorem test_decode_row_3 : words3.all Named.decodes = true := by decide +kernel

/-- Row 0x4, each word from the tables of spec 06 with the fields that its instruction has. -/
def words4 : List Named :=
  [
⟨0x7FFFFF00C0081D00, .mov, .v 1, .u 3, .none, .none⟩,
   ⟨0x7007FFFFFC0081D05, .movi, .v 1, .none, .none, .none⟩,
   ⟨0x7FF0060080081D08, .movs, .v 1, .v 2, .v 3, .none⟩,
   ⟨0x87FFE01C0185D0D, .cvt, .v 3, .v 7, .none, .none⟩,
   ⟨0x7FF0060080081D10, .cvtq, .v 1, .v 2, .v 3, .none⟩,
   ⟨0x7FF0060080081D14, .pack, .v 1, .v 2, .v 3, .none⟩,
   ⟨0x7FFFFE0080081D18, .unpack, .v 1, .v 2, .none, .none⟩,
   ⟨0x7FFE0080081D1D, .mxq, .v 1, .v 2, .none, .none⟩,
   ⟨0x7FFE0080081D21, .mxdq, .v 1, .v 2, .none, .none⟩,
   ⟨0x7FFFFE8000081D24, .rdsr, .v 1, .inl 0, .none, .none⟩,
   ⟨0x7FF002883FF81D28, .wrsr, .none, .inl 32, .v 1, .none⟩]

theorem test_decode_row_4 : words4.all Named.decodes = true := by decide +kernel

/-- Row 0x5, each word from the tables of spec 06 with the fields that its instruction has. -/
def words5 : List Named :=
  [
⟨0x7FF606C09809DD40, .pop, .pred 1, .pred 2, .pred 3, .none⟩,
   ⟨0x7FFFFFFFC0081D44, .pmov, .v 1, .none, .none, .none⟩,
   ⟨0x7FFFFE007FF85D44, .pmovSet, .none, .v 1, .none, .none⟩,
   ⟨0x73420080081D49, .vote, .v 1, .v 2, .ones, .none⟩,
   ⟨0x73420080081D4D, .ballot, .v 1, .v 2, .ones, .none⟩,
   ⟨0x73420080081D51, .matchLanes, .v 1, .v 2, .ones, .none⟩,
   ⟨0x1A100000000000070060080081D56, .shfl, .v 1, .v 2, .v 3, .ones⟩,
   ⟨0x7FFE0080085D59, .nbr, .v 1, .v 2, .none, .none⟩,
   ⟨0x73420080081D5D, .redx, .v 1, .v 2, .ones, .none⟩,
   ⟨0xFF1073440080089D61, .scan, .v 1, .v 2, .imm32, .none⟩,
   ⟨0x1A100000000000070060080081D66, .segred, .v 1, .v 2, .v 3, .ones⟩,
   ⟨0x1A200000000FF0070060080281D6A, .segscan, .v 5, .v 2, .v 3, .imm32⟩]

theorem test_decode_row_5 : words5.all Named.decodes = true := by decide +kernel

/-- Row 0x6, each word from the tables of spec 06 with the fields that its instruction has. -/
def words6 : List Named :=
  [
⟨0x40007FFFFFFFF81D81, .bra, .none, .none, .none, .none⟩,
   ⟨0x7FFFFE00BFF81D84, .brx, .none, .v 2, .none, .none⟩,
   ⟨0x40007FFFFFC0101D89, .call, .v 2, .none, .none, .none⟩,
   ⟨0x7FFFFE0100105D88, .callInd, .v 2, .v 4, .none, .none⟩,
   ⟨0x7FFFFE00BFF81D8C, .ret, .none, .v 2, .none, .none⟩,
   ⟨0x7FFFFFFFFFF81D90, .exit, .none, .none, .none, .none⟩,
   ⟨0x40007FFFFFFFF85D95, .tkopen, .none, .none, .none, .none⟩,
   ⟨0x7FFFFFFFFFF85D98, .tkjoin, .none, .none, .none, .none⟩,
   ⟨0x7FFFFFFFFFF85D9C, .tkleave, .none, .none, .none, .none⟩,
   ⟨0x7FFFFFFFFFF81DA0, .yield, .none, .none, .none, .none⟩,
   ⟨0x7FFFFFFFFFF81DA4, .nop, .none, .none, .none, .none⟩,
   ⟨0x7FFFFE817FF81DA8, .trap, .none, .inl 5, .none, .none⟩,
   ⟨0x7FFFFE007FF81DAC, .sleep, .none, .v 1, .none, .none⟩,
   ⟨0x7FFFFFFFFFF81DB0, .brkpt, .none, .none, .none, .none⟩,
   ⟨0x7FFFFE807FF81DB4, .vgrow, .none, .inl 1, .none, .none⟩,
   ⟨0x7FFFFE807FF81DB8, .vshrink, .none, .inl 1, .none, .none⟩]

theorem test_decode_row_6 : words6.all Named.decodes = true := by decide +kernel

/-- Row 0x7, each word from the tables of spec 06 with the fields that its instruction has. -/
def words7 : List Named :=
  [
⟨0x7FFFFE80BFF81DC0, .barSync, .none, .inl 2, .none, .none⟩,
   ⟨0x7FFFFE80BFF85DC0, .barArrive, .none, .inl 2, .none, .none⟩,
   ⟨0x7FF00480BFF89DC0, .barWait, .none, .inl 2, .v 2, .none⟩,
   ⟨0x7FF004808008DDC0, .barTest, .v 1, .inl 2, .v 2, .none⟩,
   ⟨0x7FFFFE8080091DC0, .barPhase, .v 1, .inl 2, .none, .none⟩,
   ⟨0x7FFFFE80BFF95DC0, .barSyncOne, .none, .inl 2, .none, .none⟩,
   ⟨0x7FFFFE80BFF99DC0, .barArriveOne, .none, .inl 2, .none, .none⟩,
   ⟨0x7FF40880BFF81DC4, .barinit, .none, .inl 2, .inl 4, .none⟩,
   ⟨0x7FF5FE80BFF81DC8, .barexp, .none, .inl 2, .inl 255, .none⟩,
   ⟨0x6C7FFFFFFFF81DCD, .fenceAr, .none, .none, .none, .none⟩,
   ⟨0x747FFFFFFFF85DCD, .fenceSc, .none, .none, .none, .none⟩,
   ⟨0x7FFFFFFFFFF81DD0, .sstep, .none, .none, .none, .none⟩,
   ⟨0x7FF00800BFF81DD4, .spawn, .none, .v 2, .v 4, .none⟩,
   ⟨0x40007FFE013FF81DD9, .launch, .none, .v 4, .none, .none⟩,
   ⟨0x4000700800BFF85DDD, .reorder, .none, .v 2, .v 4, .none⟩,
   ⟨0x70040400081DE1, .pksend, .v 1, .v 16, .v 2, .none⟩,
   ⟨0x7FFFFFC0801DE5, .pkrecv, .v 16, .none, .none, .none⟩,
   ⟨0x7FFFFFC0801DE9, .pkpoll, .v 16, .none, .none, .none⟩,
   ⟨0x7FF0160500501DEC, .route, .v 10, .v 20, .v 11, .none⟩,
   ⟨0x7FFFFE80FFF81DF0, .gang, .none, .inl 3, .none, .none⟩,
   ⟨0x7FFFFFFFC0085DF0, .gangRd, .v 1, .none, .none, .none⟩,
   ⟨0x7FFFFE803FF81DF4, .lease, .none, .inl 0, .none, .none⟩]

theorem test_decode_row_7 : words7.all Named.decodes = true := by decide +kernel

/-- Row 0x8, each word from the tables of spec 06 with the fields that its instruction has. -/
def words8 : List Named :=
  [
⟨0x8007FFE0080091E01, .ld, .v 1, .v 2, .none, .none⟩,
   ⟨0x801700800BFF91E05, .st, .none, .v 2, .v 4, .none⟩,
   ⟨0x70080080315E09, .ldx, .v 6, .v 2, .v 4, .none⟩,
   ⟨0x70080080419E0D, .stx, .v 8, .v 2, .v 4, .none⟩,
   ⟨0x7FFE0080081E11, .lds, .v 1, .v 2, .none, .none⟩,
   ⟨0x700800BFF89E15, .sts, .none, .v 2, .v 4, .none⟩,
   ⟨0x7FFE00A0091E19, .ldc, .u 1, .v 2, .none, .none⟩,
   ⟨0x7FFE00BFF85E1D, .pf, .none, .v 2, .none, .none⟩,
   ⟨0x7FF0000000000007008008B085E22, .ldt, .t 1, .v 2, .v 4, .none⟩,
   ⟨0x161000000000000700800BFF85E26, .stt, .none, .v 2, .v 4, .t 1⟩,
   ⟨0x70065840081E29, .tmovRd, .v 1, .t 1, .v 3, .none⟩,
   ⟨0x7006008B085E29, .tmovWr, .t 1, .v 2, .v 3, .none⟩,
   ⟨0x70065840089E29, .tmovC8, .v 1, .t 1, .v 3, .none⟩,
   ⟨0x7006584008DE29, .tmovC16, .v 1, .t 1, .v 3, .none⟩,
   ⟨0x70065840091E29, .tmovC32, .v 1, .t 1, .v 3, .none⟩,
   ⟨0x70065840095E29, .tmovC4, .v 1, .t 1, .v 3, .none⟩,
   ⟨0x7006008B099E29, .tmovWc32, .t 1, .v 2, .v 3, .none⟩,
   ⟨0x7006008B09DE29, .tmovWc8, .t 1, .v 2, .v 3, .none⟩]

theorem test_decode_row_8 : words8.all Named.decodes = true := by decide +kernel

/-- Row 0x9, each word from the tables of spec 06 with the fields that its instruction has. -/
def words9 : List Named :=
  [
⟨0x1070080080081E41, .atom, .v 1, .v 2, .v 4, .none⟩,
   ⟨0x500000000000C70080080081E46, .atomcas, .v 1, .v 2, .v 4, .v 5⟩,
   ⟨0x700800BFF9DE49, .red, .none, .v 2, .v 4, .none⟩,
   ⟨0x7008008008DE4D, .atoms, .v 1, .v 2, .v 4, .none⟩,
   ⟨0x70080080091E51, .atomf, .v 1, .v 2, .v 4, .none⟩]

theorem test_decode_row_9 : words9.all Named.decodes = true := by decide +kernel

/-- Row 0xA, each word from the tables of spec 06 with the fields that its instruction has. -/
def wordsA : List Named :=
  [
⟨0x1005000000000000700800BFF81E82, .cpy, .none, .v 2, .v 4, .v 5⟩,
   ⟨0x8005000000000000700800BFF81E86, .cpyt, .none, .v 2, .v 4, .v 5⟩,
   ⟨0x7FFFFE803FF85E88, .cwait, .none, .inl 0, .none, .none⟩,
   ⟨0x7FFFFE8018105E8C, .ctest, .pred 2, .inl 0, .none, .none⟩,
   ⟨0x17FF000000000020700800BFF81E92, .xform, .none, .v 2, .v 4, .none⟩,
   ⟨0x1006000000000000700800BFF81E96, .seal, .none, .v 2, .v 4, .v 6⟩,
   ⟨0x1006000000000100700800BFF89E9A, .coll, .none, .v 2, .v 4, .v 6⟩,
   ⟨0x6000000000000700800BFF81E9E, .xsend, .none, .v 2, .v 4, .v 6⟩,
   ⟨0x7FFF000000000000745000BFF81EA2, .wload, .none, .v 2, .inl 40, .none⟩]

theorem test_decode_row_A : wordsA.all Named.decodes = true := by decide +kernel

/-- Row 0xB, each word from the tables of spec 06 with the fields that its instruction has. -/
def wordsB : List Named :=
  [
⟨0x7FFFFE8000085EC0, .balloc, .v 1, .inl 0, .none, .none⟩,
   ⟨0x7FFFFE803FF81EC4, .bfree, .none, .inl 0, .none, .none⟩,
   ⟨0x7004817FF81EC9, .bcfg, .none, .inl 5, .v 2, .none⟩,
   ⟨0x407FF0000000029007FFE814C181ECE, .bmac, .acc 3, .inl 5, .none, .none⟩,
   ⟨0x1A10000000029007FFE814C185ED2, .bmacs, .acc 3, .inl 5, .none, .ones⟩,
   ⟨0x7FF0000000029007FFE6040201ED6, .bdrain, .v 4, .acc 1, .none, .none⟩,
   ⟨0x29007FFFFFCC101ED9, .bclr, .acc 2, .none, .none, .none⟩,
   ⟨0x7FF8100000000007340013FF81EDE, .bfeed, .none, .v 4, .zero, .none⟩,
   ⟨0x7FFFFE8A00085EE0, .bstat, .v 1, .inl 40, .none, .none⟩,
   ⟨0x7FF40850BFF81EE8, .qcfg, .none, .q 2, .inl 4, .none⟩,
   ⟨0x7FFFFE5080081EEC, .qlen, .v 1, .q 2, .none, .none⟩,
   ⟨0x7FFFFE50BFF81EF0, .qdrain, .none, .q 2, .none, .none⟩]

theorem test_decode_row_B : wordsB.all Named.decodes = true := by decide +kernel

/-- Row 0xC, each word from the tables of spec 06 with the fields that its instruction has. -/
def wordsC : List Named :=
  [
⟨0x7FFFFFFFFFF81F00, .tret, .none, .none, .none, .none⟩,
   ⟨0x7FFFFFFFFFF85F00, .tretSkip, .none, .none, .none, .none⟩,
   ⟨0x7FF0048400081F04, .svcTransfer, .v 1, .inl 16, .v 2, .none⟩,
   ⟨0x7FFFFE8440081F04, .svcIcflush, .v 1, .inl 17, .none, .none⟩,
   ⟨0x500700800BFF85F09, .tlbinv, .none, .v 2, .v 4, .none⟩,
   ⟨0x7FFFFFFFF81F0D, .cflushI, .none, .none, .none, .none⟩,
   ⟨0x7FFFFFFFF85F0D, .cflushC, .none, .none, .none, .none⟩,
   ⟨0x700800BFF89F0D, .cflushWb, .none, .v 2, .v 4, .none⟩,
   ⟨0x7FFFFFFFFFF81F10, .idle, .none, .none, .none, .none⟩,
   ⟨0x700800BFF81F19, .bremap, .none, .v 2, .v 4, .none⟩,
   ⟨0x7FFE0080081F1D, .btest, .v 1, .v 2, .none, .none⟩]

theorem test_decode_row_C : wordsC.all Named.decodes = true := by decide +kernel

/-! ## Ill-formed instructions (Table K-37) -/

/-- An `iadd` of F64 with nothing but its operands. -/
def plain : Fields :=
  ⟨.f64, 7, false, 7, false, 0, false, false, .v 9, .v 4, .v 8, .none, 0, 0, 0, 0, 0, 0, false⟩

theorem test_wf_plain : (Instr.iadd plain).wf = true := by decide +kernel
theorem test_wf_form : (Instr.bra { plain with dst := .none, sa := .none, sb := .none }).wf = false ∧
    Op.check .bra { plain with dst := .none, sa := .none, sb := .none } = some .form := by decide +kernel
theorem test_wf_guard : Op.check .iadd { plain with gn := true } = some .reserved ∧ (Instr.iadd { plain with gn := true }).wf = false := by
  decide +kernel
theorem test_wf_hint : Op.check .iadd { plain with len := .f96, hint := 1 } = some .reserved ∧
    (Instr.iadd { plain with len := .f96, hint := 1 }).wf = false := by decide +kernel
theorem test_wf_pad : Op.check .nop { plain with sub := 7, dst := .none, sa := .none, sb := .none, yld := true } = some .reserved := by
  decide +kernel
theorem test_wf_sub : Op.check .iadd { plain with sub := 2 } = some .sub ∧ (Instr.iadd { plain with sub := 2 }).wf = false := by
  decide +kernel
theorem test_wf_class : Op.check .iadd { plain with sx := .v 1 } = some .cls ∧ (Instr.iadd { plain with sx := .v 1 }).wf = false := by
  decide +kernel
theorem test_wf_imm : Op.check .iadd { plain with sb := .imm32 } = some .cls := by decide +kernel
theorem test_wf_nw : Op.check .wrsr { plain with nw := true, dst := .none, sa := .inl 32 } = some .cls := by decide +kernel
theorem test_wf_mod : Op.check .iadd { plain with len := .f96, md := 0x1A } = some .md ∧
    (Instr.iadd { plain with len := .f96, md := 0x1A }).wf = false := by decide +kernel
theorem test_wf_field : Op.check .bfeed { plain with len := .f128, dst := .none, sb := .zero } = some .field ∧
    (Instr.bfeed { plain with len := .f128, dst := .none, sb := .zero }).wf = false := by decide +kernel
theorem test_wf_canonical : (Instr.iadd { plain with md := 4 }).wf = false := by decide +kernel

/-- The error that the decoder answers. -/
def errorOf (x : Except Illegal Instr) : Option Illegal := match x with | .ok _ => none | .error e => some e

/-- The examples of R165, and the three checks that a fetch makes besides. -/
theorem test_decode_refuses : [errorOf (decodeWord 3), errorOf (decodeWord 0xFFF4C80100480C00), errorOf (decodeWord 0x264C80100480C00),
    errorOf (decodeWord 0x7FF0060080081CB8), errorOf (decodeWord 0x7FFFFFFFFFF81D80),
    errorOf (decodeWord 0x6870060080081C01), errorOf (decodeWord 0x7FF00668C0081C00),
    errorOf (decodeAt 0x1002 0x7FF0100100481C00), errorOf (decodeAt 0x101C 0x7FF0100100481C00)] =
    [some .length, some .reserved, some .cls, some .opcode, some .form, some .md, some .specifier, some .pcAlign, some .fetchCross] := by
  decide +kernel

/-! ## Single steps -/

/-- A team of one group with every kind of register, octet 0 for storage and octet 1 for compute. -/
def testDesc : Descriptor := ⟨0x1000, 0x2000, 0, 1, 0, 30, 16, 8, 2, 1, 16, 2, false, false, 0, []⟩
def testRef : GRef := ⟨0, 0, 0⟩
def testTeam : Team :=
  { freshTeam 7 5 testDesc 0x3000 9 3 12 true 0 with
    slots := [0], landed := true, reserved := [0, 1], position := Vector.ofFn fun i => if i.val = 0 then some 0 else if i.val = 1 then some 1 else none }
def testGroup : Group := freshGroup 7 0 .consumer 30 0x1000 (Vector.replicate 1024 0) (freshLease 0) .user 0

/-- The device with that team on core 0 of die 0, its group issuing; the first 2 MiB of its address space lie at the same physical addresses,
every access admitted. -/
def testState (t : Team) (g : Group) : State :=
  let s : State := { State.reset with uid := 8, inService := 0xFFFFFFFF, cur := some testRef, xlat := { State.reset.xlat with en := true } }
  s.modCore 0 0 (fun k => { k with
    slots := k.slots.set 0 (some g), teams := [t], octets := (k.octets.set 0 ⟨some 7, .storage, []⟩).set 1 ⟨some 7, .compute, []⟩
    tlb := [⟨5, 0, 2097152, 0, ⟨true, true, true, 0, true, true, false, false⟩⟩] })

/-- The group with a vector register holding a value in each lane. -/
def setReg (g : Group) (n : Fin 256) (f : Nat → Word) : Group := { g with v := g.v.set n (Vector.ofFn fun i => f i.val) }
/-- The group with a pair of vector registers holding an address in each lane. -/
def setAddr (g : Group) (n : Fin 128) (f : Nat → Nat) : Group :=
  { g with v := (g.v.set (2 * n.val) (Vector.ofFn fun i => BitVec.ofNat 32 (f i.val))).set (2 * n.val + 1) (Vector.replicate 32 0) }

/-- The state after the instruction of a word. -/
def after (w : BitVec 128) (s : State) : Option State :=
  match decodeWord w with
  | .ok i => match exec i s with | .next t => some t | _ => none
  | .error _ => none
/-- The group after it. -/
def groupAfter (w : BitVec 128) (s : State) : Option Group := (after w s).bind (fun t => t.group? testRef)
/-- A vector register after the instruction of a word on the test team. -/
def regAfter (w : BitVec 128) (g : Group) (n : Fin 256) (i : Lane) : Option Word :=
  (groupAfter w (testState testTeam g)).map (fun x => x.v[n][i])
/-- What the youngest trap of the group says after the instruction: cause, detail, mask and address. -/
def trapAfter (w : BitVec 128) (s : State) : Option (Byte × Byte × Mask × DWord) :=
  match groupAfter w s with
  | some g => match g.traps with | x :: _ => some (x.info.cause, x.info.detail, x.info.mask, x.info.addr) | [] => none
  | none => none
/-- The test state with a trap handler for its address space. -/
def handled (s : State) : State := { s with spaces := [⟨5, 0x8000, 0, 0⟩] }

def abc (a b c : Word) : Group := setReg (setReg (setReg testGroup 2 fun _ => a) 3 fun _ => b) 4 fun _ => c

/-- Reduction modulo 2^32 (R169). -/
theorem test_iadd_wraps : regAfter 0x7FF0060080081C00 (abc 0xFFFFFFFF 2 0) 1 5 = some 1 := by decide +kernel
/-- `isub.sat.n32` of 3 - 5 gives 0 (R169). -/
theorem test_isub_sat : regAfter 0x1070060080085C05 (abc 3 5 0) 1 31 = some 0 := by decide +kernel
/-- The borderline cases of `iabs` and `imulh` in R169. -/
theorem test_iabs : regAfter 0x7FFFFE0080081C20 (abc 0x80000000 0 0) 1 0 = some 0x80000000 ∧
    regAfter 0x7FFFFE0080085C20 (abc 0x80000000 0 0) 1 0 = some 0x7FFFFFFF := by decide +kernel
theorem test_imulh : regAfter 0x7FF0060080081C0C (abc 0xFFFFFFFF 0xFFFFFFFF 0) 1 0 = some 0 ∧
    regAfter 0x1070060080081C0D (abc 0xFFFFFFFF 0xFFFFFFFF 0) 1 0 = some 0xFFFFFFFE := by decide +kernel
/-- The example of R170. -/
theorem test_idot4 : regAfter 0x40060080081C28 (abc 0x80FF0102 0x02020202 0) 1 0 = some 0xFFFFFF04 ∧
    regAfter 0x400000000000470060080081C2A (abc 0x80FF0102 0x02020202 0) 1 0 = some 0x304 := by decide +kernel
/-- The example of R174. -/
theorem test_prmt : regAfter 0x40060080081C7C (abc 0x44332211 0x88776655 0x0123) 1 0 = some 0x11223344 := by
  decide +kernel
/-- A rotate by `shf` with both words the same, and a field above bit 31 that reads the sign (R173). -/
theorem test_shf_rotates : regAfter 0x40040080081C60 (abc 0x80000001 0 1) 1 0 = some 0xC0000000 := by decide +kernel
theorem test_bfext_sign : regAfter 0x40060080081C64 (abc 0xF0000000 28 8) 1 0 = some 0xFFFFFFFF := by decide +kernel
/-- A shift by the width or more gives 0, and copies of the top bit under `sar` (Table K-40). -/
theorem test_shift_full : regAfter 0x7FF0060080081C54 (abc 0xFFFFFFFF 32 0) 1 0 = some 0 ∧
    regAfter 0x7FF0060080081C5C (abc 0x80000000 99 0) 1 0 = some 0xFFFFFFFF := by decide +kernel
/-- The first addition of the example of R287: a tie between 1.0 and the next value takes the even code, with NX. -/
theorem test_fadd_tie : (groupAfter 0x7FF0060080081C80 (testState testTeam (abc 0x3F800000 0x33800000 0))).map
    (fun g => (g.v[1][0], g.fpstat[0])) = some (0x3F800000, 0b10000) := by decide +kernel
/-- A division of a finite value by zero gives an infinity and DZ (R130). -/
theorem test_fdiv_zero : (groupAfter 0x7FF0060080081CE0 (testState testTeam (abc 0xBF800000 0 0))).map
    (fun g => (g.v[1][0], g.fpstat[0])) = some (0xFF800000, 0b00010) := by decide +kernel
/-- The example of R181: the two sides of a stochastic rounding. -/
theorem test_cvt_rs : regAfter 0x1870060080091D0D (abc 0x3E980000 0x7FFFFFFF 0) 1 0 = some 0x29 ∧
    regAfter 0x1870060080091D0D (abc 0x3E980000 0x80000000 0) 1 0 = some 0x2A := by decide +kernel
/-- A window slot read as a source is the result of that many issues before (R79). -/
theorem test_mov_window : regAfter 0x7FFFFE4040081D00
    { testGroup with window := [⟨1, .noResult⟩, ⟨0, .value (Vector.replicate 32 0x77)⟩], issues := 2 } 1 9 = some 0x77 := by decide +kernel
/-- `wrsr` to FPSTAT writes bits 4 to 0 alone (R186). -/
theorem test_wrsr_fpstat : (groupAfter 0x7FF004883FF81D28 (testState testTeam (abc 0xFFFFFFE3 0 0))).map
    (fun g => g.fpstat[4]) = some 0b00011 := by decide +kernel
/-- The example of R195: lanes 8 to 31 have exited, lane 5 has a false guard. -/
theorem test_segscan : (groupAfter 0x1A200000000FF007006008028056A (testState testTeam
      (setReg (setReg { testGroup with
          status := Vector.ofFn fun i => if i.val < 8 then .run else .exited
          p := Vector.ofFn fun i => if i.val = 5 then 0 else 2 } 2 fun i => [3, 1, 4, 1, 5, 9, 2, 6].getD i 0)
        3 fun i => [1, 0, 0, 1, 0, 0, 1, 0].getD i 0))).map (fun g => g.v[5].toList.take 8) = some [3, 4, 8, 1, 6, 0, 2, 8] := by
  decide +kernel
/-- A lane of the run with a false guard goes on; the members go to the target (R197). -/
theorem test_bra_diverges : (groupAfter 0xFFFFFFF0007FFFFFFFF80581 (testState testTeam
    { testGroup with p := Vector.ofFn fun i => if i.val < 4 then 2 else 0 })).map (fun g => (g.pcs[3], g.pcs[4])) =
    some (0xFF0, 0x100C) := by decide +kernel
/-- The example of R36: lanes 0 to 7 leave tk1 and, with it, the younger tk2, whose other members then join. -/
theorem test_tkleave : (groupAfter 0x7FFFFFFFFFF85D9C (testState testTeam { testGroup with
      status := Vector.ofFn fun i => if 8 ≤ i.val ∧ i.val < 16 then .parked 2 else .run
      pcs := Vector.ofFn fun i => if i.val < 8 then 0x1000 else 0x1800
      tokens := ((Vector.replicate 8 none).set 1 (some ⟨0xFFFFFFFF, 0x2000, 5⟩)).set 2 (some ⟨0xFFFF, 0x1400, 6⟩) })).map
    (fun g => (g.tokens[1], g.tokens[2], g.pcs[0], g.pcs[9], g.status[9])) =
    some (some ⟨0xFFFFFF00, 0x2000, 5⟩, none, 0x1008, 0x1400, .run) := by decide +kernel
/-- When the last lane exits the group ends, and with its last group the team, whose slot is free again (R8, R9). -/
theorem test_exit_ends_team : (after 0x7FFFFFFFFFF81D90 (testState testTeam testGroup)).map
    (fun s => ((s.core 0 0).teams.length, (s.group? testRef).isNone, (s.core 0 0).octets[0].owner)) = some (0, true, none) := by
  decide +kernel
/-- A software trap: the low half of its operand in TRINFO, the handler's address in every lane (R202, R347). -/
theorem test_trap_enters : (groupAfter 0x54321007FFE68BFF81DA9 (handled (testState testTeam testGroup))).map
    (fun g => (g.mode, g.pcs[7], g.traps.map (fun x => (x.info.cause, x.info.pc, x.info.info)))) =
    some (.trap, 0x8000, [(0x0B, 0x1000, 0x4321)]) := by decide +kernel
/-- `vshrink` returns granules, and what they held reads zero later (R204). -/
theorem test_vshrink : (groupAfter 0x7FFFFE877FF81DB8 (testState testTeam (setReg testGroup 8 fun _ => 5))).map
    (fun g => (g.budget, g.v[8][0])) = some (1, 0) := by decide +kernel
/-- The example of R209: `bar.arrive.one` at PHASE 4, EXPECT 2. -/
theorem test_bar_arrive : (after 0x7FFFFE8089019DC0 (testState
      { testTeam with barriers := testTeam.barriers.set 2 ⟨2, 0, 4, 0⟩ } testGroup)).map
    (fun s => ((s.core 0 0).teams.map (fun t => (t.barriers[2].count, t.barriers[2].phase)), (s.group? testRef).map (fun g => g.o[0][3]))) =
    some ([(1, 4)], some 4) := by decide +kernel
/-- A second arrival completes the phase (R206). -/
theorem test_bar_completes : (after 0x7FFFFE80BFF99DC0 (testState
      { testTeam with barriers := testTeam.barriers.set 2 ⟨2, 1, 4, 3⟩ } testGroup)).map
    (fun s => (s.core 0 0).teams.map (fun t => (t.barriers[2].expect, t.barriers[2].count, t.barriers[2].phase, t.barriers[2].pend))) =
    some [(2, 0, 5, 3)] := by decide +kernel
/-- The worked example of the routing chapter: lane 5 takes placement 5 mod 3. -/
theorem test_route : routeOf ⟨0x41, [(1203, [⟨7, 12⟩, ⟨19, 3⟩, ⟨26, 40⟩])], []⟩ 1203 5 = 0x00000002_0041281A := by decide +kernel
/-- A misaligned load traps for its lowest such lane, with the address (R224). -/
theorem test_ld_misaligned : trapAfter 0x7FFE0080091E01 (handled (testState testTeam
    (setAddr testGroup 1 fun i => if i < 3 then 4 * i else 4 * i + 2))) = some (0x20, 0, 0xFFFFFFFF, 14) := by decide +kernel
/-- A store to a page without W raises the access fault with detail WRITE (Table D-12), and stores nothing. -/
theorem test_st_denied : trapAfter 0x700800BFF91E05 (handled ((testState testTeam
      (setAddr testGroup 1 fun _ => 0x1000)).modCore 0 0 (fun k => { k with
        tlb := [⟨5, 0, 2097152, 0, ⟨true, false, false, 0, false, false, false, false⟩⟩] }))) = some (0x21, 0x05, 0xFFFFFFFF, 0x1000) := by
  decide +kernel
/-- A load puts its value in flight; the event writes it (R226), sign-extended from a byte under SUB 1 (Table K-53). -/
theorem test_ld_returns : ((after 0x7FFE0080085E01 { testState testTeam (setAddr testGroup 1 fun i => 0x40 + i) with
      hbm := [(0x40, 0x80), (0x41, 0x7F)] }).bind (fun s => match exec (.loadDataReturn testRef 8) s with | .next t => some t | _ => none)).map
    (fun s => (s.group? testRef).map (fun g => (g.v[1][0], g.v[1][1], g.v[1][2], g.flights.length))) =
    some (some (0xFFFFFF80, 0x7F, 0, 0)) := by decide +kernel
/-- The layout of scratchpad bytes (R86): the byte at 0x93 of position 0 lies in bank 1 of the octet, word 1, byte 3. -/
theorem test_sts_layout : (after 0x700600BFF80615 (testState testTeam
      { abc 0x93 0xAB 0 with p := Vector.ofFn fun i => if i.val = 0 then 2 else 0 })).map
    (fun s => ((s.core 0 0).banks[1].mem, (s.core 0 0).banks[0].mem)) = some ([(0x13, 0xAB)], []) := by decide +kernel
/-- A plain store stays in L1 (R96), little-endian (R2); a `.rel` store at die scope reaches L2 (R106). -/
theorem test_st_level : (after 0x700800BFF90605 (testState testTeam
      { setReg (setAddr testGroup 1 fun _ => 0x50) 4 fun _ => 0x0A0B0C0D with p := Vector.ofFn fun i => if i.val = 0 then 2 else 0 })).map
    (fun s => ((s.core 0 0).l1Dirty, s.dies[0].l2)) = some ([(0x50, 0x0D), (0x51, 0x0C), (0x52, 0x0B), (0x53, 0x0A)], []) ∧
    (after 0x4C700800BFF90605 (testState testTeam
      { setReg (setAddr testGroup 1 fun _ => 0x50) 4 fun _ => 0x0A0B0C0D with p := Vector.ofFn fun i => if i.val = 0 then 2 else 0 })).map
    (fun s => ((s.core 0 0).l1Dirty, s.dies[0].l2)) = some ([], [(0x50, 0x0D), (0x51, 0x0C), (0x52, 0x0B), (0x53, 0x0A)]) := by decide +kernel
/-- The example of R232: four lanes add 1 to 4 to a word of 10. -/
theorem test_atom_order : (after 0xC70080080080641 { testState testTeam
      { setReg (setAddr testGroup 1 fun _ => 0x80) 4 fun i => BitVec.ofNat 32 (i + 1) with
        p := Vector.ofFn fun i => if i.val < 4 then 2 else 0 } with hbm := [(0x80, 10)] }).map
    (fun s => (s.dieByte 0 0x80, (s.group? testRef).map (fun g => g.flights.map (fun x => x.vals.toList.take 4)))) =
    some (20, some [[10, 11, 13, 16]]) := by decide +kernel
/-- `cpy` raises PEND and queues its operation (R206, R235). -/
theorem test_cpy_forks : (after 0x1240000000000000700800BFF89E82 (testState
      { testTeam with barriers := testTeam.barriers.set 2 ⟨1, 0, 0, 0⟩ } (setAddr (setAddr testGroup 1 fun _ => 0x100) 2 fun _ => 0x200))).map
    (fun s => ((s.core 0 0).teams.map (fun t => t.barriers[2].pend), s.dies[0].engines.map (fun x => (x.src, x.dst, x.len)))) =
    some ([1], [(0x100, 0x200, 64)]) := by decide +kernel
/-- A `cpy` of length 0 arrives at once (R238). -/
theorem test_cpy_empty : (after 0x1200000000000000700800BFF89E82 (testState
      { testTeam with barriers := testTeam.barriers.set 2 ⟨1, 0, 0, 0⟩ } testGroup)).map
    (fun s => ((s.core 0 0).teams.map (fun t => (t.barriers[2].pend, t.barriers[2].phase)), s.dies[0].engines.length)) =
    some ([(0, 1)], 0) := by decide +kernel
/-- The example of R275: one entry, depth 4, two entries pending. -/
theorem test_qlen : regAfter 0x7FFFFE5080081EEC
    { testGroup with
      queues := testGroup.queues.set 2 ⟨4, [Vector.replicate 32 0], none⟩
      flights := [⟨5, false, 0, 16, .q 2, 2, 0xFFFFFFFF, 0, 0, Vector.replicate 32 0, [], some ⟨17, 0, 1, 0, none⟩, none, 0⟩] } 1 0 =
    some 0x00020401 := by decide +kernel
/-- `qcfg` in the dispatcher, and a pop of an empty queue that nothing will fill, trap (R274, R81). -/
theorem test_queue_stall : trapAfter 0x7FF0065080081C00 (handled (testState testTeam
    { testGroup with queues := testGroup.queues.set 2 ⟨4, [], none⟩ })) = some (0x09, 0, 0xFFFFFFFF, 0) := by decide +kernel
/-- A privileged row in user mode (R164). -/
theorem test_privileged : trapAfter 0x7FFFFFFFFFF81F10 (handled (testState testTeam testGroup)) = some (0x03, 0, 0xFFFFFFFF, 0) := by
  decide +kernel
/-- A register outside the budget (R73): 8 registers of one granule. -/
theorem test_illegal_operand : trapAfter 0x7FF0060080401C00 (handled (testState testTeam { testGroup with budget := 1 })) =
    some (0x02, 0, 0xFFFFFFFF, 0) := by decide +kernel
/-- `tret` goes back to user mode: to the trapping instruction, and past it after a software trap (R348). -/
theorem test_tret : (groupAfter 0x7FFFFFFFFFF81F00 (testState testTeam
      { testGroup with traps := [⟨.trap, ⟨0x20, 0, 0x1234, 12, 0xF, 0, 0, none⟩, []⟩] })).map (fun g => (g.mode, g.pcs[0], g.pcs[4])) =
    some (.user, 0x1234, 0x1000) ∧
    (groupAfter 0x7FFFFFFFFFF81F00 (testState testTeam
      { testGroup with traps := [⟨.trap, ⟨0x0B, 0, 0x1234, 12, 0xF, 0, 0, none⟩, []⟩] })).map (fun g => g.pcs[0]) = some 0x1240 := by decide +kernel

/-! ## Units -/

/-- The shares of the example of R49: 20 teams over six eligible dies. -/
theorem test_shares : (shares [0, 1, 2, 4, 5, 7] 20).map (fun x => (x.1.val, x.2.1, x.2.2)) =
    [(0, 0, 4), (1, 4, 4), (2, 8, 3), (4, 11, 3), (5, 14, 3), (7, 17, 3)] := by decide +kernel
/-- The accumulator row of the worked example of the bank chapter: one row of activations against an image of three bytes. -/
theorem test_bank_example :
    let bank : Bank := { Bank.zero with mem := [(2, 0x40), (66, 0x60), (16389, 0x7E)] }
    let row : ActRow := ⟨0xD3 :: List.replicate 127 0, List.replicate 8 0x7F⟩
    let op : BankOp := ⟨⟨false, 9, [9], [1, 0, 0, 0]⟩, true, [⟨0, [row]⟩], 7⟩
    let s := State.reset.modCore 0 0 (fun k => { k with banks := k.banks.set 9 bank, seq := [⟨3, true, true, MacRun.fresh, .mac op⟩] })
    (match exec (.bankOperationEnd 0 0 3) s with | .next t => some ((t.core 0 0).banks[9].acc[0])[5] | _ => none) = some 0xC0900000 := by
  decide +kernel
/-- A step fetches and runs the word placed for it (log 3). -/
theorem test_step_placed : (match step (State.reset.withFetchWord 96 0x7007FFFFFC0081D05) with
    | .next s => (s.group? probeRef).map (fun g => (g.v[1][0], g.pcs[0])) | _ => none) = some (7, 0x100C) := by decide +kernel
/-- A lane that sleeps wakes when its time has come, not before (R203). -/
theorem test_sleep_wakes : (match exec (.sleepExpiry testRef 3) { testState testTeam { testGroup with
      status := testGroup.status.set 3 (.asleep 10) } with now := 10 } with
    | .next s => (s.group? testRef).map (fun g => g.status[3]) | _ => none) = some .run ∧
    (match exec (.sleepExpiry testRef 3) { testState testTeam { testGroup with
      status := testGroup.status.set 3 (.asleep 10) } with now := 9 } with
    | .next s => (s.group? testRef).map (fun g => g.status[3]) | _ => none) = some (.asleep 10) := by decide +kernel

/-! ## Witnesses: states and operands that meet the hypotheses of the statements -/

/-- The instruction fields of a word. -/
def fieldsOf (w : BitVec 128) : Fields :=
  match decodeWord w with
  | .ok i => match i.word? with | some (_, f) => f | none => plain
  | .error _ => plain

/-- Whether a row is ready with a condition on its context. -/
def readyAt (op : Op) (always : Bool) (f : Fields) (s : State) (p : Ctx → Bool) : Bool :=
  match s.ctx? f with
  | none => false
  | some c => !privileged op c.g.mode && (if c.m == 0 then always else operandsOk op f c.g c.t &&
      queueCheck c.g (opPops op f) (if always then none else opPushes op f) == .ok) && p c

theorem ready_of {op : Op} {always : Bool} {f : Fields} {s : State} {p : Ctx → Bool} (h : readyAt op always f s p = true) :
    ∃ c, Ready op always f s c ∧ p c = true := by
  unfold readyAt at h
  split at h
  · cases h
  · rename_i c hc
    simp only [Bool.and_eq_true, Bool.not_eq_true'] at h
    obtain ⟨⟨h1, h2⟩, h3⟩ := h
    refine ⟨c, ⟨hc, h1, fun ha hm => ?_, fun hm => ?_, fun hm => ?_⟩, h3⟩
    · simp [hm, ha] at h2
    · simp only [beq_iff_eq, hm, if_false, Bool.and_eq_true] at h2; exact h2.1
    · simp only [beq_iff_eq, hm, if_false, Bool.and_eq_true] at h2; exact h2.2

/-- A group with an entry in its queue 2, in a mode. -/
def richGroup (mode : Mode) : Group :=
  { testGroup with base := mode, queues := testGroup.queues.set 2 ⟨4, [Vector.replicate 32 0], none⟩ }
/-- The device with it. -/
def richState (mode : Mode) : State := testState testTeam (richGroup mode)

/-- A row is ready somewhere with a condition. -/
def Meets (op : Op) (always : Bool) (p : Ctx → Prop) : Prop := ∃ f s c, Ready op always f s c ∧ p c

theorem meets {op : Op} {always : Bool} {p : Ctx → Prop} [DecidablePred p] (w : BitVec 128) (s : State)
    (h : readyAt op always (fieldsOf w) s (fun c => decide (p c)) = true) : Meets op always p := by
  obtain ⟨c, hc, hp⟩ := ready_of h
  exact ⟨_, _, c, hc, of_decide_eq_true hp⟩

/-- The same of fields that are given. -/
theorem meetsF {op : Op} {always : Bool} {p : Ctx → Prop} [DecidablePred p] (f : Fields) (s : State)
    (h : readyAt op always f s (fun c => decide (p c)) = true) : Meets op always p := by
  obtain ⟨c, hc, hp⟩ := ready_of h
  exact ⟨f, s, c, hc, of_decide_eq_true hp⟩

/-- Every row of a list of words is ready on the rich state. -/
def allReady (xs : List Named) (mode : Mode) : Bool :=
  xs.all (fun x => readyAt x.op false (fieldsOf x.word) (richState mode) (fun _ => true))

theorem ready_of_all {xs : List Named} {mode : Mode} (h : allReady xs mode = true) :
    ∀ x ∈ xs, ∃ f s c, Ready x.op false f s c := by
  intro x hx
  obtain ⟨c, hc, -⟩ := ready_of (List.all_eq_true.mp h x hx)
  exact ⟨_, _, c, hc⟩

theorem test_ready_rows_0_1 : ∀ x ∈ words0 ++ words1, ∃ f s c, Ready x.op false f s c := ready_of_all (mode := .user) (by decide +kernel)
theorem test_ready_rows_2_3 : ∀ x ∈ words2 ++ words3, ∃ f s c, Ready x.op false f s c := ready_of_all (mode := .user) (by decide +kernel)
theorem test_ready_rows_4_5 : ∀ x ∈ words4 ++ words5, ∃ f s c, Ready x.op false f s c := ready_of_all (mode := .user) (by decide +kernel)
theorem test_ready_rows_6_7 : ∀ x ∈ words6 ++ words7, ∃ f s c, Ready x.op false f s c := ready_of_all (mode := .user) (by decide +kernel)
theorem test_ready_rows_8_9 : ∀ x ∈ words8 ++ words9, ∃ f s c, Ready x.op false f s c := ready_of_all (mode := .user) (by decide +kernel)
theorem test_ready_rows_A_B : ∀ x ∈ wordsA ++ wordsB, ∃ f s c, Ready x.op false f s c := ready_of_all (mode := .user) (by decide +kernel)
theorem test_ready_row_C : ∀ x ∈ wordsC, ∃ f s c, Ready x.op false f s c := ready_of_all (mode := .firmware) (by decide +kernel)

/-! ### Encoding -/

theorem test_witness_DecodeOfEncode : (Instr.ofOp .iadd plain).wf = true ∧ (Instr.ofOp .bmac (fieldsOf 0x407FF0000000029007FFE814C181ECE)).wf = true := by
  decide +kernel
theorem test_witness_EncodeOfDecode : lenOf 0x7FF0100100481C00 = some .f64 ∧ (∃ i, decodeWord 0x7FF0100100481C00 = .ok i) :=
  ⟨by decide +kernel, ⟨_, rfl⟩⟩
theorem test_witness_DecoderChecks : (∃ i, decodeWord 0x7FF0100100481C00 = .ok i) ∧
    (lenOf 0x7FF0060080081CB8 = some .f64 ∧ opcAssigned (BitVec.extractLsb' 2 8 (0x7FF0060080081CB8 : BitVec 128)).toNat = false) ∧
    (lenOf 0x7FFFFFFFFFF81D80 = some .f64 ∧ opcAssigned (BitVec.extractLsb' 2 8 (0x7FFFFFFFFFF81D80 : BitVec 128)).toNat = true ∧
      opcTakes (BitVec.extractLsb' 2 8 (0x7FFFFFFFFFF81D80 : BitVec 128)).toNat .f64 = false) :=
  ⟨⟨_, rfl⟩, by decide +kernel, by decide +kernel⟩

/-! ### Rows 0x0 to 0x5 -/

/-- The test team with FPTRAP set. -/
def trapTeam : Team := { testTeam with desc := { testDesc with fptrap := true } }

theorem test_witness_IntegerResults : Meets .iabs false (fun c => c.f.md = 0) :=
  meets 0x7FFFFE0080081C20 (richState .user) (by decide +kernel)
/-- Values of F16 within its finite numbers, beyond them, and at the two sides of the midpoint above the largest (Table K-25, R129), and a value that
E4M3 does not reach. -/
theorem test_witness_FloatResults_rounding :
    |(Fx.num true 3 (-1) false).rat| ≤ fmtF16.rat fmtF16.maxCode ∧ fmtF16.rat fmtF16.maxCode < |(Fx.num false 65520 0 false).rat| ∧
    ((2 : ℚ) ^ (fmtF16.mbits + 2) - 1) * 2 ^ ((fmtF16.bias : Int) - fmtF16.mbits - 1) ≤ |(Fx.num false 65520 0 false).rat| ∧
    fmtF16.rat fmtF16.maxCode < |(Fx.num false 65519 0 false).rat| ∧
    |(Fx.num false 65519 0 false).rat| < ((2 : ℚ) ^ (fmtF16.mbits + 2) - 1) * 2 ^ ((fmtF16.bias : Int) - fmtF16.mbits - 1) ∧
    fmtF16.hasInf = true ∧ fmtE4M3.hasInf = false ∧ fmtE4M3.rat fmtE4M3.maxCode < |(Fx.num true 449 0 false).rat| := by
  decide +kernel
theorem test_witness_FloatResults : Meets .fsqrt false (fun c => c.arithTraps (fun l => (f32Out c.mode c.ftz (c.aF l).sqrt).2)) ∧
    Meets .fsqrt false (fun c => ¬ c.arithTraps (fun l => (f32Out c.mode c.ftz (c.aF l).sqrt).2)) :=
  ⟨meets 0x7FFFFE0080081CC8 (testState trapTeam (abc 0xBF800000 0 0)) (by decide +kernel),
   meets 0x7FFFFE0080081CC8 (testState trapTeam (abc 0x3F800000 0 0)) (by decide +kernel)⟩
/-- The values of a block, all zero and not, and codes of the formats that widen. -/
theorem test_witness_MoveResults_blocks : (∀ i : Lane, ∃ n m e, (fun _ : Lane => Fx.num false 0 0 false) i = .num n m e false) ∧
    (∀ i : Lane, ((fun _ : Lane => Fx.num false 0 0 false) i).rat = 0) ∧
    (∃ k : Lane, ((fun i : Lane => Fx.num true i.val 0 false) k).rat ≠ 0 ∧
      ∀ i : Lane, |((fun i : Lane => Fx.num true i.val 0 false) i).rat| ≤ |((fun i : Lane => Fx.num true i.val 0 false) k).rat|) ∧
    (∃ x ∈ [fmtF32.value 0x7FC00000], x.isNan = true ∨ x.isInf = true) ∧ (0x7E : Word).toNat % 2 ^ (fmtE4M3.width - 1) ≤ fmtE4M3.maxCode ∧
    Meets .mxq false (fun c => c.f.sx = .none) ∧ (∃ c : Ctx, c.f.sx ≠ .none) :=
  ⟨fun _ => ⟨_, _, _, rfl⟩, by decide +kernel, ⟨31, by decide +kernel⟩, by decide +kernel, by decide +kernel,
   meets 0x7FFE0080081D1D (richState .user) (by decide +kernel),
   ⟨⟨State.reset, State.reset, testRef, testGroup, testTeam, { plain with sx := .v 4 }, 0, 0, 0⟩, by decide +kernel⟩⟩
theorem test_witness_MoveResults : Meets .movs false (fun c => c.f.sb ≠ .none) ∧
    Meets .movs false (fun c => c.f.sb = .none ∧ lowest c.m = some 0) :=
  ⟨meets 0x7FF0060080081D08 (richState .user) (by decide +kernel),
   meets 0x7FFFFE0080081D08 (richState .user) (by decide +kernel)⟩
/-- `rdsr` and `wrsr` with a register number, and what `wrsr` writes. -/
def rdsrOf (n : Nat) : Fields := { fieldsOf 0x800007FFE6880081D25 with imm := BitVec.ofNat 32 n }
def wrsrOf (n : Nat) (b : Operand) : Fields := { fieldsOf 0x100000700468BFF81D29 with imm := BitVec.ofNat 32 n, sb := b }
/-- A group that stands in a handler, and in firmware entered from one. -/
def handlerGroup (mode : Mode) : Group := { testGroup with traps := [⟨mode, ⟨0x20, 0, 0x1234, 12, 0xF, 0, 0, none⟩, []⟩] }

theorem test_witness_SystemRegisters : Meets .rdsr false (fun c => c.srNumber = 0) ∧ Meets .rdsr false (fun c => 0xFFF < c.srNumber) ∧
    Meets .rdsr false (fun c => c.srNumber = 0x00D ∧ srAbsent c.srNumber) ∧ Meets .rdsr false (fun c => c.srNumber = 0x7FF ∧ srAbsent c.srNumber) ∧
    Meets .rdsr false (fun c => c.srNumber = 0x070 ∧ c.g.traps = []) ∧
    Meets .rdsr false (fun c => c.srNumber = 0x076 ∧ c.g.traps.map TrapCtx.mode = [.firmware]) ∧
    Meets .rdsr false (fun c => c.srNumber = 0x071 ∧ c.g.traps.map TrapCtx.mode = [.trap]) ∧
    Meets .rdsr false (fun c => c.srNumber = 0x801 ∧ c.g.mode = .firmware) ∧ Meets .rdsr false (fun c => c.srNumber = 0x800 ∧ c.g.mode = .firmware) ∧
    Meets .rdsr false (fun c => 0x800 ≤ c.srNumber ∧ c.srNumber ≤ 0xFFF ∧ c.g.mode ≠ .firmware) ∧
    Meets .rdsr false (fun c => c.srNumber = 0x034 ∧ c.t.dispatcher = true) ∧
    Meets .rdsr false (fun c => 0x030 ≤ c.srNumber ∧ c.srNumber ≤ 0x034 ∧ c.t.dispatcher = false) :=
  ⟨meets 0x7FFFFE8000081D24 (richState .user) (by decide +kernel),
   meets 0x1000007FFE6880081D25 (richState .user) (by decide +kernel),
   meetsF (rdsrOf 0x00D) (richState .user) (by decide +kernel),
   meetsF (rdsrOf 0x7FF) (richState .user) (by decide +kernel),
   meetsF (rdsrOf 0x070) (richState .user) (by decide +kernel),
   meetsF (rdsrOf 0x076) (testState testTeam (handlerGroup .firmware)) (by decide +kernel),
   meetsF (rdsrOf 0x071) (testState testTeam (handlerGroup .trap)) (by decide +kernel),
   meetsF (rdsrOf 0x801) (richState .firmware) (by decide +kernel),
   meetsF (rdsrOf 0x800) (richState .firmware) (by decide +kernel),
   meets 0x800007FFE6880081D25 (richState .user) (by decide +kernel),
   meetsF (rdsrOf 0x034) (testState { testTeam with dispatcher := true } testGroup) (by decide +kernel),
   meets 0x7FFFFE8D00081D24 (richState .user) (by decide +kernel)⟩
theorem test_witness_SystemRegisters_writes : Meets .wrsr false (fun c => c.srNumber = 0x020) ∧
    Meets .wrsr false (fun c => c.srNumber = 0x030 ∧ c.t.dispatcher = true) ∧ Meets .wrsr false (fun c => c.srNumber = 0x033 ∧ c.t.dispatcher = true) ∧
    Meets .wrsr false (fun c => c.srNumber = 0x04F ∧ c.writesValid) ∧ Meets .wrsr false (fun c => c.srNumber = 0x05A ∧ c.writesValid) ∧
    Meets .wrsr false (fun c => c.srNumber = 0x050 ∧ c.writesValid) ∧
    Meets .wrsr false (fun c => c.srNumber = 0x057 ∧ ¬ c.writesValid) ∧ Meets .wrsr false (fun c => c.srNumber = 0x05A ∧ ¬ c.writesValid) ∧
    Meets .wrsr false (fun c => c.srNumber = 0x800 ∧ c.g.mode = .firmware) ∧ Meets .wrsr false (fun c => c.srNumber = 0x801 ∧ c.g.mode = .firmware) ∧
    Meets .wrsr false (fun c => c.srNumber = 0x012 ∧ srReadOnly c.srNumber) ∧ Meets .wrsr false (fun c => c.srNumber = 0x076 ∧ srReadOnly c.srNumber) ∧
    Meets .wrsr false (fun c => c.srNumber = 0x034 ∧ c.t.dispatcher = true) ∧ Meets .wrsr false (fun c => c.srNumber = 0x05B ∧ srAbsent c.srNumber) ∧
    Meets .wrsr false (fun c => 0xFFF < c.srNumber) ∧ Meets .wrsr false (fun c => 0x030 ≤ c.srNumber ∧ c.srNumber ≤ 0x034 ∧ c.t.dispatcher = false) ∧
    Meets .wrsr false (fun c => 0x800 ≤ c.srNumber ∧ c.srNumber ≤ 0xFFF ∧ c.g.mode ≠ .firmware) :=
  ⟨meets 0x7FF004883FF81D28 (richState .user) (by decide +kernel),
   meetsF (wrsrOf 0x030 .zero) (testState { testTeam with dispatcher := true } testGroup) (by decide +kernel),
   meetsF (wrsrOf 0x033 .zero) (testState { testTeam with dispatcher := true } testGroup) (by decide +kernel),
   meetsF (wrsrOf 0x04F .ones) (richState .user) (by decide +kernel),
   meetsF (wrsrOf 0x05A .ones) (richState .user) (by decide +kernel),
   meets 0x7FF342943FF81D28 (richState .user) (by decide +kernel),
   meets 0x7FF34095FFF81D28 (richState .user) (by decide +kernel),
   meetsF (wrsrOf 0x05A .zero) (richState .user) (by decide +kernel),
   meetsF (wrsrOf 0x800 .zero) (richState .firmware) (by decide +kernel),
   meetsF (wrsrOf 0x801 .zero) (richState .firmware) (by decide +kernel),
   meets 0x7FF00484BFF81D28 (richState .user) (by decide +kernel),
   meetsF (wrsrOf 0x076 .zero) (richState .user) (by decide +kernel),
   meetsF (wrsrOf 0x034 .zero) (testState { testTeam with dispatcher := true } testGroup) (by decide +kernel),
   meetsF (wrsrOf 0x05B .zero) (richState .user) (by decide +kernel),
   meets 0x100000700468BFF81D29 (richState .user) (by decide +kernel),
   meetsF (wrsrOf 0x030 .zero) (richState .user) (by decide +kernel),
   meets 0xFFF00700468BFF81D29 (richState .user) (by decide +kernel)⟩

/-- A second group of the test team in slot 1. -/
def pairTeam : Team := { testTeam with slots := [0, 1], desc := { testDesc with ncons := 2 } }
def pairState (g h : Group) : State :=
  (testState pairTeam g).modCore 0 0 (fun k => { k with slots := k.slots.set 1 (some { h with gix := 1 }) })

theorem test_witness_LaneRows :
    Meets .nbr false (fun c => c.f.sub = 0 ∧ c.g.hasSource c.f.sa = true ∧ (c.s0.besideGroup c.r c.g c.t true).isSome = true) ∧
    Meets .nbr false (fun c => c.f.sub = 0 ∧ c.s0.besideGroup c.r c.g c.t true = none) ∧
    Meets .nbr false (fun c => c.f.sub ≠ 0 ∧ (c.s0.besideGroup c.r c.g c.t false).isSome = true) ∧
    Meets .nbr false (fun c => c.f.sub ≠ 0 ∧ c.s0.besideGroup c.r c.g c.t false = none) :=
  ⟨meets 0x7FFE0080081D59 (pairState testGroup testGroup) (by decide +kernel),
   meets 0x7FFE0080081D59 (richState .user) (by decide +kernel),
   meets 0x7FFE0080085D59 { pairState testGroup testGroup with cur := some ⟨0, 0, 1⟩ } (by decide +kernel),
   meets 0x7FFE0080085D59 (richState .user) (by decide +kernel)⟩

/-- A group of which only the lanes below 8 stand at the PC, the others above it. -/
def splitGroup : Group := { testGroup with pcs := Vector.ofFn fun i => if i.val < 8 then 0x1000 else 0x1100 }
/-- The same where the other lanes wait at the PC of a group-wide operation that names every lane. -/
def waitGroup (mask : Mask) : Group :=
  { testGroup with
    status := Vector.ofFn fun i => if i.val < 8 then .run else .waiting
    gw := [⟨0x1000, mask, 0xFFFFFF00, 0xFFFFFF00, Vector.replicate 32 0, Vector.replicate 32 0⟩] }

/-- The operation as its first run makes it. -/
def arrival (c : Ctx) (mask : Mask) (a : Lane → DWord) (b : Lane → Word) : GroupWide := ⟨c.pc, mask, c.run, c.m, lanes a, lanes b⟩
theorem joins_first {c : Ctx} {mask : Mask} {a : Lane → DWord} {b : Lane → Word}
    (h : c.run &&& ~~~mask = 0 ∧ c.g.gw.find? (fun x => x.pc == c.pc) = none ∧ mask ≠ 0 ∧
      ∀ i : Lane, inMask mask i = true → c.g.status[i] ≠ .exited) : c.Joins mask a b (arrival c mask a b) :=
  ⟨h.1, rfl, rfl, .inl ⟨h.2.1, h.2.2.1, h.2.2.2, rfl⟩⟩

/-- The operation of `waitGroup` with the run's lanes arrived. -/
def waited (mask : Mask) : GroupWide := ⟨0x1000, mask, 0xFFFFFF00, 0xFFFFFF00, Vector.replicate 32 0, Vector.replicate 32 0⟩
def arrivalAt (c : Ctx) (v : GroupWide) (mask : Mask) (a : Lane → DWord) (b : Lane → Word) : GroupWide :=
  ⟨v.pc, mask, v.arrived ||| c.run, v.contrib ||| c.m, lanes fun i => if inMask c.run i then a i else v.srcA[i],
    lanes fun i => if inMask c.run i then b i else v.srcB[i]⟩
theorem joins_next {c : Ctx} {v : GroupWide} {mask : Mask} {a : Lane → DWord} {b : Lane → Word}
    (h : c.run &&& ~~~mask = 0 ∧ v.pc = c.pc ∧ c.g.gw.find? (fun x => x.pc == c.pc) = some v ∧ v.mask = mask) :
    c.Joins mask a b (arrivalAt c v mask a b) :=
  ⟨h.1, h.2.1, rfl, .inr ⟨v, h.2.2.1, h.2.2.2, rfl⟩⟩

theorem test_witness_GroupWideResults :
    (∃ f s c w, Ready .vote true f s c ∧ c.Joins (c.g.read32 c.f c.f.sb 0) (fun i => (c.a32 i).setWidth 64) (fun _ => 0) w ∧
      ∃ l : Lane, inMask w.mask l = true ∧ inMask w.arrived l = false) ∧
    (∃ f s c w, Ready .vote true f s c ∧ c.Joins (c.g.read32 c.f c.f.sb 0) (fun i => (c.a32 i).setWidth 64) (fun _ => 0) w ∧
      (∀ l : Lane, inMask w.mask l = true → inMask w.arrived l = true) ∧ ¬ c.gwFull .vote w ∧ c.t.desc.fptrap = false) ∧
    (∃ f s c w, Ready .shfl true f s c ∧ c.Joins (c.g.read32 c.f c.f.sx 0) (fun i => (c.a32 i).setWidth 64) c.b32 w ∧
      (∀ l : Lane, inMask w.mask l = true → inMask w.arrived l = true) ∧ ¬ c.gwFull .shfl w) := by
  refine ⟨?_, ?_, ?_⟩
  · obtain ⟨f, s, c, h, h1, h2⟩ := meets (op := .vote) (always := true)
      (p := fun c => (c.run &&& ~~~(c.g.read32 c.f c.f.sb 0) = 0 ∧ c.g.gw.find? (fun x => x.pc == c.pc) = none ∧
        c.g.read32 c.f c.f.sb 0 ≠ 0 ∧ ∀ i : Lane, inMask (c.g.read32 c.f c.f.sb 0) i = true → c.g.status[i] ≠ .exited) ∧
        ∃ l : Lane, inMask (c.g.read32 c.f c.f.sb 0) l = true ∧ inMask c.run l = false)
      0x73420080081D49 (testState testTeam splitGroup) (by decide +kernel)
    exact ⟨f, s, c, _, h, joins_first h1, h2⟩
  · obtain ⟨f, s, c, h, h1, h2, h3, h4⟩ := meets (op := .vote) (always := true)
      (p := fun c => (c.run &&& ~~~(c.g.read32 c.f c.f.sb 0) = 0 ∧ c.g.gw.find? (fun x => x.pc == c.pc) = none ∧
        c.g.read32 c.f c.f.sb 0 ≠ 0 ∧ ∀ i : Lane, inMask (c.g.read32 c.f c.f.sb 0) i = true → c.g.status[i] ≠ .exited) ∧
        (∀ l : Lane, inMask (c.g.read32 c.f c.f.sb 0) l = true → inMask c.run l = true) ∧ c.f.dst = .v 1 ∧ c.t.desc.fptrap = false)
      0x73420080081D49 (testState testTeam testGroup) (by decide +kernel)
    exact ⟨f, s, c, _, h, joins_first h1, h2, (by rintro ⟨-, n, hn, -⟩; rw [h3] at hn; cases hn), h4⟩
  · obtain ⟨f, s, c, h, h1, h2, h3⟩ := meets (op := .shfl) (always := true)
      (p := fun c => (c.run &&& ~~~(c.g.read32 c.f c.f.sx 0) = 0 ∧ (waited 0xFFFFFFFF).pc = c.pc ∧
        c.g.gw.find? (fun x => x.pc == c.pc) = some (waited 0xFFFFFFFF) ∧ (waited 0xFFFFFFFF).mask = c.g.read32 c.f c.f.sx 0) ∧
        (∀ l : Lane, inMask (c.g.read32 c.f c.f.sx 0) l = true → inMask ((waited 0xFFFFFFFF).arrived ||| c.run) l = true) ∧ c.f.dst = .v 1)
      0x1A100000000000070060080081D56 (testState testTeam (waitGroup 0xFFFFFFFF)) (by decide +kernel)
    exact ⟨f, s, c, _, h, joins_next h1, h2, (by rintro ⟨-, n, hn, -⟩; rw [h3] at hn; cases hn)⟩

/-- A run in which no lane's guard is true reaches the operation too (R37, R191). -/
theorem test_witness_GroupWideResults_none : Meets .ballot true (fun c => c.m = 0 ∧ c.run = 0xFFFFFFFF ∧ c.g.gw = []) :=
  meetsF { fieldsOf 0x73420080081D4D with guard := 1 } (testState testTeam testGroup) (by decide +kernel)

theorem test_witness_GroupWideTrapCases :
    Meets .vote true (fun c => c.g.gw.find? (fun v => v.pc == c.pc) = none ∧ c.g.read32 c.f c.f.sb 0 = 0) ∧
    Meets .vote true (fun c => c.g.gw.any (fun v => v.pc == c.pc && c.g.read32 c.f c.f.sb 0 != v.mask) = true) ∧
    Meets .matchLanes true (fun c => c.g.gw.find? (fun v => v.pc == c.pc) = none ∧ c.g.read32 c.f c.f.sb 0 = 0) ∧
    Meets .segred true (fun c => c.g.gw.find? (fun v => v.pc == c.pc) = none ∧
      ∃ l : Lane, inMask (c.g.read32 c.f c.f.sx 0) l = true ∧ c.g.status[l] = .exited) ∧
    Meets .segscan true (fun c => c.g.gw = [] ∧ c.run = 0xFFFFFFFF ∧ c.g.read32 c.f c.f.sx 0 = 0xFFFFFFFF ∧ c.f.dst = .q 3 ∧ c.m = 1 ∧
      ((c.popped .segscan).queue 3).depth ≤ ((c.popped .segscan).queue 3).items.length) ∧
    Meets .shfl true (fun c => c.run &&& ~~~(c.g.read32 c.f c.f.sx 0) ≠ 0 ∧ ¬ (c.g.gw.find? (fun v => v.pc == c.pc) = none ∧
      ∃ l : Lane, inMask (c.g.read32 c.f c.f.sx 0) l = true ∧ c.g.status[l] = .exited)) ∧
    Meets .redx true (fun c => c.g.gw.find? (fun v => v.pc == c.pc) = none ∧
      ∃ l : Lane, inMask (c.g.read32 c.f c.f.sb 0) l = true ∧ c.g.status[l] = .exited) ∧
    Meets .redx true (fun c => c.g.gw = [] ∧ c.run = 0xFFFFFFFF ∧ c.g.read32 c.f c.f.sb 0 = 0xFFFFFFFF ∧ c.f.dst = .q 3 ∧
      ((c.popped .redx).queue 3).depth ≤ ((c.popped .redx).queue 3).items.length) ∧
    Meets .redx true (fun c => c.g.gw = [] ∧ c.run = 0xFFFFFFFF ∧ c.g.read32 c.f c.f.sb 0 = 0xFFFFFFFF ∧ c.t.desc.fptrap = true ∧
      (foldOf 0 2 false (allLanes.map c.a32)).2 &&& 7 ≠ 0) :=
  ⟨meets 0x74000080081D49 (richState .user) (by decide +kernel),
   meets 0x73420080081D49 (testState testTeam (waitGroup 0x7FFFFFFF)) (by decide +kernel),
   meetsF { fieldsOf 0x73420080081D51 with sb := .zero } (richState .user) (by decide +kernel),
   meetsF { fieldsOf 0x1A100000000000070060080081D66 with sx := .ones }
    (testState testTeam { testGroup with status := testGroup.status.set 31 .exited }) (by decide +kernel),
   meetsF { fieldsOf 0x1A200000000FF0070060080281D6A with sx := .ones, dst := .q 3, guard := 1 } (testState testTeam
    { testGroup with queues := testGroup.queues.set 3 ⟨1, [Vector.replicate 32 0], none⟩, p := testGroup.p.set 0 2 }) (by decide +kernel),
   meets 0x27F00000000000070060080081D56 (richState .user) (by decide +kernel),
   meets 0x73420080081D5D (testState testTeam { testGroup with status := testGroup.status.set 31 .exited }) (by decide +kernel),
   meets 0x7342008A181D5D (testState testTeam { testGroup with queues := testGroup.queues.set 3 ⟨1, [Vector.replicate 32 0], none⟩ })
    (by decide +kernel),
   meets 0x873420080081D5D (testState trapTeam (setReg testGroup 2 fun i => if i = 0 then 0x7F800000 else 0xFF800000))
    (by decide +kernel)⟩

/-! ### Rows 0x6 and 0x7 -/

/-- The test group with token 1 open for some lanes, joining at 0x1040. -/
def tokenGroup (mask : Mask) : Group := { testGroup with tokens := testGroup.tokens.set 1 (some ⟨mask, 0x1040, 5⟩) }

theorem test_witness_Branches : Meets .bra false (fun c => c.m = 0xFFFFFFFF) ∧ Meets .callInd false (fun c => c.f.dst = .v 2) :=
  ⟨meets 0x40007FFFFFFFF81D81 (richState .user) (by decide +kernel),
   meets 0x7FFFFE0100105D88 (richState .user) (by decide +kernel)⟩
theorem test_witness_Tokens :
    Meets .tkopen false (fun c => c.g.tokens[c.f.sub.toFin] = none) ∧
    Meets .tkopen false (fun c => c.g.tokens[c.f.sub.toFin] = some ⟨0xFF, 0x1040, 5⟩ ∧ (0x1040 : DWord) = c.pc + c.f.imm.signExtend 64) ∧
    Meets .tkopen false (fun c => c.g.tokens[c.f.sub.toFin] = some ⟨0xFF, 0x1040, 5⟩ ∧ (0x1040 : DWord) ≠ c.pc + c.f.imm.signExtend 64) ∧
    Meets .tkjoin false (fun c => c.g.tokens[c.f.sub.toFin] = none) ∧
    Meets .tkjoin false (fun c => c.g.tokens[c.f.sub.toFin] = some ⟨0xFFFFFFFF, 0x1040, 5⟩ ∧
      ∃ i : Lane, inMask 0xFFFFFFFF i = true ∧ inMask c.m i = false ∧ c.g.status[i] ≠ .parked c.f.sub.toFin) ∧
    Meets .tkjoin false (fun c => c.g.tokens[c.f.sub.toFin] = some ⟨0xFF, 0x1040, 5⟩ ∧
      ∀ i : Lane, inMask 0xFF i = true → inMask c.m i = true ∨ c.g.status[i] = .parked c.f.sub.toFin) ∧
    Meets .tkleave false (fun c => c.g.tokens[c.f.sub.toFin] = some ⟨0xFF, 0x1040, 5⟩) :=
  ⟨meets 0x40007FFFFFFFF85D95 (richState .user) (by decide +kernel),
   meets 0x40007FFFFFFFF85D95 (testState testTeam (tokenGroup 0xFF)) (by decide +kernel),
   meets 0x44007FFFFFFFF85D95 (testState testTeam (tokenGroup 0xFF)) (by decide +kernel),
   meets 0x7FFFFFFFFFF89D98 (testState testTeam (tokenGroup 0xFF)) (by decide +kernel),
   meets 0x7FFFFFFFFFF85D98 (testState testTeam { splitGroup with tokens := (tokenGroup 0xFFFFFFFF).tokens }) (by decide +kernel),
   meets 0x7FFFFFFFFFF85D98 (testState testTeam { splitGroup with tokens := (tokenGroup 0xFF).tokens }) (by decide +kernel),
   meets 0x7FFFFFFFFFF85D9C (testState testTeam (tokenGroup 0xFF)) (by decide +kernel)⟩
theorem test_witness_ExitEndsLanes : Meets .exit false (fun c => c.g.traps = [] ∧ c.g.gw = []) ∧
    Meets .exit false (fun c => ∃ x ∈ c.g.traps, c.g.traps = [x] ∧ c.g.gw = [] ∧ (∀ i : Lane, inMask x.info.mask i = true → inMask c.m i = true) ∧
      ∃ i : Lane, inMask c.m i = false ∧ c.g.status[i] = .run) ∧
    Meets .exit false (fun c => c.g.traps = [] ∧ c.g.gw = [⟨0x1000, 0xFFFFFFFF, 0xFFFFFF00, 0xFFFFFF00, Vector.replicate 32 0,
      Vector.replicate 32 0⟩] ∧ ∃ i : Lane, inMask (0xFFFFFFFF &&& ~~~0xFFFFFF00) i = true ∧ inMask c.m i = true) :=
  ⟨meets 0x7FFFFFFFFFF81D90 (richState .user) (by decide +kernel),
   meets 0x7FFFFFFFFFF81D90 (testState testTeam { splitGroup with traps := (handlerGroup .trap).traps }) (by decide +kernel),
   meets 0x7FFFFFFFFFF81D90 (testState testTeam (waitGroup 0xFFFFFFFF)) (by decide +kernel)⟩
theorem test_witness_WaitsAndNops : Meets .sleep false (fun c => c.a32 0 = 0x200000) ∧ Meets .nop false (fun c => c.f.sub ≠ 7) ∧
    ((testState testTeam testGroup).ctx? (fieldsOf 0x7FFFFFFFFFF9DDA4)).isSome = true ∧
    (fieldsOf 0x7FFFFFFFFFF9DDA4).sub = 7 :=
  ⟨meets 0x7FFFFE007FF81DAC (testState testTeam (setReg testGroup 1 fun _ => 0x200000)) (by decide +kernel),
   meets 0x7FFFFFFFFFF81DA4 (richState .user) (by decide +kernel), by decide +kernel, by decide +kernel⟩
theorem test_witness_SoftwareTrapEntry :
    Meets .trap false (fun c => c.g.hold = none ∧ c.g.mode = .user ∧ c.s0.owes c.r c.g = false ∧ c.g.pendingTrap = none ∧ c.s0.handler c.t.asid ≠ 0 ∧ c.g.gangMask = 0) ∧
    Meets .brkpt false (fun c => c.g.hold = none ∧ c.g.mode = .user ∧ c.s0.owes c.r c.g = false ∧ c.g.pendingTrap = none ∧ c.s0.handler c.t.asid ≠ 0 ∧ c.g.gangMask = 0 ∧
      c.s0.dies[c.r.die].dbgen = false) :=
  ⟨meets 0x7FFFFE817FF81DA8 (handled (richState .user)) (by decide +kernel),
   meets 0x7FFFFFFFFFF81DB0 (handled (richState .user)) (by decide +kernel)⟩

/-- The test state with a second team whose group holds some granules. -/
def crowded (budget : Nat) (g : Group) : State :=
  (testState testTeam g).modCore 0 0 (fun k => { k with
    slots := k.slots.set 1 (some { testGroup with team := 6, budget := budget }), teams := k.teams ++ [{ testTeam with uid := 6, slots := [1] }] })
/-- What `vgrow` asks of the granules. -/
abbrev growRoom (c : Ctx) : Prop := ¬ c.fixedBudget ∧ c.aLevel ≠ 0 ∧ c.g.budget + c.aLevel.toNat ≤ 32 ∧
  c.s0.teamGranules c.r.die c.r.core c.t + c.aLevel.toNat ≤ coreGranules c.r.core

theorem test_witness_RegisterBudgets : Meets .vgrow false (fun c => ¬ c.fixedBudget ∧ c.aLevel = 0) ∧
    Meets .vgrow false (fun c => growRoom c ∧ c.g.budget + c.aLevel.toNat = 32 ∧ c.aLevel.toNat = c.s0.freeGranules c.r.die c.r.core ∧
      ∀ i : SlotId, i ≠ c.r.slot → (match c.s0.group? ⟨c.r.die, c.r.core, i⟩ with | some g => g.growing | none => false) = false) ∧
    Meets .vgrow false (fun c => growRoom c ∧ c.s0.freeGranules c.r.die c.r.core < c.aLevel.toNat) ∧
    Meets .vgrow false (fun c => growRoom c ∧ c.aLevel.toNat ≤ c.s0.freeGranules c.r.die c.r.core ∧
      (match c.s0.group? ⟨c.r.die, c.r.core, 1⟩ with | some g => g.growing | none => false) = true) ∧
    Meets .vgrow false (fun c => c.aLevel ≠ 0 ∧ c.g.budget + c.aLevel.toNat ≤ 32 ∧
      coreGranules c.r.core < c.s0.teamGranules c.r.die c.r.core c.t + c.aLevel.toNat) ∧
    Meets .vgrow false (fun c => c.fixedBudget) ∧ Meets .vgrow false (fun c => c.g.budget + c.aLevel.toNat = 33 ∧ c.aLevel ≠ 0) ∧
    Meets .vshrink false (fun c => ¬ c.fixedBudget ∧ c.aLevel = 0) ∧
    Meets .vshrink false (fun c => ¬ c.fixedBudget ∧ c.aLevel ≠ 0 ∧ c.aLevel.toNat + 1 = c.g.budget) ∧
    Meets .vshrink false (fun c => c.aLevel ≠ 0 ∧ c.g.budget = c.aLevel.toNat) :=
  ⟨meets 0x7FFFFE803FF81DB4 (testState testTeam testGroup) (by decide +kernel),
   meets 0x7FFFFE80BFF81DB4 (crowded 472 testGroup) (by decide +kernel),
   meets 0x7FFFFE80BFF81DB4 (crowded 473 testGroup) (by decide +kernel),
   meets 0x7FFFFE80BFF81DB4 ((crowded 1 testGroup).modGroup ⟨0, 0, 1⟩ (fun g => { g with hold := some (.vgrow 1) })) (by decide +kernel),
   meets 0x7FFFFE80BFF81DB4 (pairState testGroup { testGroup with budget := 474 }) (by decide +kernel),
   meets 0x7FFFFE803FF81DB4 (richState .user) (by decide +kernel),
   meets 0x7FFFFE80FFF81DB4 (testState testTeam testGroup) (by decide +kernel),
   meets 0x7FFFFE803FF81DB8 (testState testTeam testGroup) (by decide +kernel),
   meets 0x7FFFFE877FF81DB8 (testState testTeam testGroup) (by decide +kernel),
   meets 0x7FFFFE87BFF81DB8 (testState testTeam testGroup) (by decide +kernel)⟩

/-- The test state with barrier register 2 as given. -/
def barState (expect count : Nat) (phase : BitVec 16) (pend : Nat) : State :=
  testState { testTeam with barriers := testTeam.barriers.set 2 ⟨expect, count, phase, pend⟩ } testGroup
/-- An arrival that barrier register 2 takes, with the count it leaves. -/
abbrev arrives2 (one : Bool) (c : Ctx) : Prop :=
  c.Names 2 ∧ c.t.barriers[2].expect ≠ 0 ∧ c.t.barriers[2].count + c.arriving one ≤ c.t.barriers[2].expect

theorem test_witness_BarrierRows :
    Meets .barArrive false (fun c => arrives2 false c ∧ c.arriving false = 32) ∧ Meets .barArriveOne false (arrives2 true) ∧
    Meets .barSync false (arrives2 false) ∧ Meets .barSyncOne false (arrives2 true) ∧
    Meets .barArrive false (fun c => c.aLevel.toNat = 16) ∧ Meets .barArriveOne false (fun c => c.Names 2 ∧ c.t.barriers[2].expect = 0) ∧
    Meets .barSyncOne false (fun c => c.Names 2 ∧ c.t.barriers[2].expect < c.t.barriers[2].count + c.arriving true) ∧
    Meets .barWait false (fun c => c.Names 2 ∧ c.t.barriers[2].phase ≠ c.bLevel.setWidth 16) ∧
    Meets .barWait false (fun c => c.Names 2 ∧ c.t.barriers[2].phase = c.bLevel.setWidth 16 ∧ c.t.barriers[2].expect ≠ 0) ∧
    Meets .barWait false (fun c => c.Names 2 ∧ c.t.barriers[2].phase = c.bLevel.setWidth 16 ∧ c.t.barriers[2].expect = 0) ∧
    Meets .barTest false (fun c => c.Names 2 ∧ c.t.barriers[2].phase ≠ c.bLevel.setWidth 16) ∧
    Meets .barTest false (fun c => c.Names 2 ∧ c.t.barriers[2].phase = c.bLevel.setWidth 16) ∧ Meets .barPhase false (fun c => c.Names 2) :=
  ⟨meets 0x7FFFFE80BFF85DC0 (barState 32 0 0 0) (by decide +kernel),
   meets 0x7FFFFE80BFF99DC0 (barState 2 1 0xFFFF 1) (by decide +kernel),
   meets 0x7FFFFE80BFF81DC0 (barState 33 0 0 0) (by decide +kernel),
   meets 0x7FFFFE80BFF95DC0 (barState 1 0 0 0) (by decide +kernel),
   meets 0x7FFFFE843FF85DC0 (barState 32 0 0 0) (by decide +kernel),
   meets 0x7FFFFE80BFF99DC0 (barState 0 0 0 0) (by decide +kernel),
   meets 0x7FFFFE80BFF95DC0 (barState 1 1 0 0) (by decide +kernel),
   meets 0x7FF40680BFF89DC0 (barState 1 0 4 0) (by decide +kernel),
   meets 0x7FF40880BFF89DC0 (barState 1 0 4 0) (by decide +kernel),
   meets 0x7FF40880BFF89DC0 (barState 0 0 4 0) (by decide +kernel),
   meets 0x7FF406808008DDC0 (barState 1 0 4 0) (by decide +kernel),
   meets 0x7FF408808008DDC0 (barState 1 0 4 0) (by decide +kernel),
   meets 0x7FFFFE8080091DC0 (barState 0 0 4 0) (by decide +kernel)⟩
theorem test_witness_BarrierRows_settings :
    Meets .barinit false (fun c => c.Names 2 ∧ c.t.barriers[2].count = 0 ∧ c.bLevel.toNat = 65535 ∧ (c.bLevel = 0 → c.t.barriers[2].pend = 0)) ∧
    Meets .barinit false (fun c => c.Names 2 ∧ c.t.barriers[2].count ≠ 0) ∧ Meets .barinit false (fun c => c.Names 2 ∧ 65535 < c.bLevel.toNat) ∧
    Meets .barinit false (fun c => c.Names 2 ∧ c.bLevel = 0 ∧ c.t.barriers[2].pend ≠ 0) ∧
    Meets .barexp false (fun c => c.Names 2 ∧ (c.t.barriers[2].expect : Int) + c.bLevel.toInt = (1 : Nat) ∧ 1 ≤ c.t.barriers[2].count) ∧
    Meets .barexp false (fun c => c.Names 2 ∧ (c.t.barriers[2].expect : Int) + c.bLevel.toInt = (65535 : Nat)) ∧
    Meets .barexp false (fun c => c.Names 2 ∧ (c.t.barriers[2].expect : Int) + c.bLevel.toInt < 1) ∧
    Meets .barexp false (fun c => c.Names 2 ∧ 65535 < (c.t.barriers[2].expect : Int) + c.bLevel.toInt) :=
  ⟨meets 0xFFFF00734480BFF81DC5 (barState 1 0 4 1) (by decide +kernel),
   meets 0x7FF40880BFF81DC4 (barState 2 1 4 0) (by decide +kernel),
   meets 0x1000000734480BFF81DC5 (barState 1 0 4 0) (by decide +kernel),
   meets 0x7FF40080BFF81DC4 (barState 1 0 4 1) (by decide +kernel),
   meets 0x7FF5FE80BFF81DC8 (barState 2 1 4 0) (by decide +kernel),
   meets 0x7FF40280BFF81DC8 (barState 65534 1 4 0) (by decide +kernel),
   meets 0x7FF5FE80BFF81DC8 (barState 1 0 4 0) (by decide +kernel),
   meets 0x7FF40280BFF81DC8 (barState 65535 1 4 0) (by decide +kernel)⟩
theorem test_witness_BarrierRelease : ∃ (s : State) (t : Team) (g : Group), s.team? 0 0 t.uid = some t ∧ t.desc.halo = false ∧
    (testRef, g) ∈ s.groupsOf 0 0 t ∧ g.status[(3 : Lane)] = .barHold 2 7 :=
  ⟨testState testTeam { testGroup with status := testGroup.status.set 3 (.barHold 2 7) }, testTeam,
    { testGroup with status := testGroup.status.set 3 (.barHold 2 7) }, rfl, rfl, List.mem_of_getElem? (i := 0) rfl, rfl⟩
theorem test_witness_FencesAndSupersteps :
    Meets .fenceAr false (fun c => scopeLevel (c.f.md.toNat % 8) = .core) ∧ Meets .fenceSc false (fun c => scopeLevel (c.f.md.toNat % 8) = .core) ∧
    Meets .fenceAr false (fun c => scopeLevel (c.f.md.toNat % 8) ≠ .core) ∧ Meets .fenceSc false (fun c => scopeLevel (c.f.md.toNat % 8) ≠ .core) ∧
    (richState .user).NoneWaits testRef ∧
    Meets .sstep false (fun c => c.t.inRange = true ∧ c.t.packed = false) ∧ Meets .sstep false (fun c => c.t.inRange = false) :=
  ⟨meets 0x687FFFFFFFF81DCD (richState .user) (by decide +kernel),
   meets 0x607FFFFFFFF85DCD (richState .user) (by decide +kernel),
   meets 0x6C7FFFFFFFF81DCD (richState .user) (by decide +kernel),
   meets 0x747FFFFFFFF85DCD (richState .user) (by decide +kernel), ⟨by decide +kernel, fun g h => by cases h; nofun⟩,
   meets 0x7FFFFFFFFFF81DD0 (richState .user) (by decide +kernel),
   meets 0x7FFFFFFFFFF81DD0 (testState { testTeam with inRange := false } testGroup) (by decide +kernel)⟩

/-- The test team as the dispatcher of its die. -/
def dispTeam : Team := { testTeam with dispatcher := true, desc := { testDesc with ncons := 1 } }
/-- The device with it, SPASID 5 set, `n` teams waiting, and a descriptor at the address in v2. -/
def dispState (n : Nat) (box : List Packet) : State :=
  { (testState dispTeam (setAddr testGroup 1 fun _ => 0x100)).modDie 0 (fun x =>
      { x with waitList := List.replicate n testTeam, box := box, disp := { x.disp with spasid := some 5 } }) with
    hbm := [(0x111, 1), (0x113, 1), (0x118, 1)] }
theorem test_witness_WorkCreation :
    Meets .spawn false (fun c => c.t.dispatcher = true ∧ c.s0.dies[c.r.die].disp.spasid = some 5 ∧
      (match c.descriptors 5 with | .ok xs => decide (c.s0.dies[c.r.die].waitCount + xs.length = 256) | .error _ => false) = true) ∧
    Meets .spawn false (fun c => c.t.dispatcher = true ∧ c.s0.dies[c.r.die].disp.spasid = some 5 ∧
      (match c.descriptors 5 with | .ok xs => decide (256 < c.s0.dies[c.r.die].waitCount + xs.length) | .error _ => false) = true) ∧
    Meets .spawn false (fun c => c.t.dispatcher = false) ∧
    Meets .spawn false (fun c => c.t.dispatcher = true ∧ c.s0.dies[c.r.die].disp.spasid = none) ∧
    Meets .spawn false (fun c => c.t.dispatcher = true ∧ c.s0.dies[c.r.die].disp.spasid = some 5 ∧
      (match c.descriptors 5 with | .ok _ => false | .error _ => true) = true) ∧ (0x101 : DWord).toNat % 128 ≠ 0 ∧
    Meets .launch false (fun c => (c.s0.core c.r.die c.r.core).children.length + (lanesOf c.m).length = 32 ∧ c.s0.launchPlaces c.r.die c.r.core = []) ∧
    Meets .launch false (fun c => (match c.s0.group? ⟨c.r.die, c.r.core, 1⟩ with | some g => g.hold | none => none) = some (.launch 7) ∧
      7 < c.launchPlace) ∧
    Meets .reorder false (fun c => c.t.desc.nprod = 0 ∧ c.t.label = none) ∧ Meets .reorder false (fun c => c.t.desc.nprod ≠ 0) ∧
    Meets .reorder false (fun c => c.t.label = some 0x2000 ∧ (0x2000 : DWord) ≠ c.pc + c.f.imm.signExtend 64) :=
  ⟨meets 0x7FF00800BFF81DD4 { dispState 224 [] with cur := some testRef } (by decide +kernel),
   meets 0x7FF00800BFF81DD4 (dispState 225 []) (by decide +kernel),
   meets 0x7FF00800BFF81DD4 (richState .user) (by decide +kernel),
   meets 0x7FF00800BFF81DD4 (testState dispTeam testGroup) (by decide +kernel),
   meets 0x7FF004013FF81DD4 (dispState 0 []) (by decide +kernel), by decide,
   meets 0x40007FFE013FF81DD9 (richState .user) (by decide +kernel),
   meets 0x40007FFE013FF81DD9 (pairState testGroup { testGroup with hold := some (.launch 7) }) (by decide +kernel),
   meets 0x4000700800BFF85DDD (richState .user) (by decide +kernel),
   meets 0x4000700800BFF85DDD (testState { testTeam with desc := { testDesc with nprod := 1 } } testGroup) (by decide +kernel),
   meets 0x4000700800BFF85DDD (testState { testTeam with label := some 0x2000 } testGroup) (by decide +kernel)⟩
/-- 4,096 items of a core, and none to spare. -/
theorem test_witness_WorkCreation_full : Meets .launch false (fun c => 4096 < (c.s0.core c.r.die c.r.core).children.length + (lanesOf c.m).length) :=
  meets 0x40007FFE013FF81DD9 ((testState testTeam testGroup).modCore 0 0 (fun k => { k with
    children := List.replicate 4096 ⟨0, [], 7, 5, testDesc, 0, 0, 0, 0, 0⟩ })) (by decide +kernel)
theorem test_witness_Packets :
    Meets .pksend false (fun c => c.Sends ∧ c.packets ≠ [] ∧
      (((c.go .pksend).s.releaseBy c.r .home).sendAll c.r.die c.t.asid c.packets).2 = []) ∧
    Meets .pksend false (fun c => c.Sends ∧ (((c.go .pksend).s.releaseBy c.r .home).sendAll c.r.die c.t.asid c.packets).2.length = 31) ∧
    Meets .pksend false (fun c => ∀ i : Lane, inMask c.m i = true → (c.b32 i).toNat ≤ 31 ∧ routedOk (c.packet i) = true ∧
      c.s0.inPlay (Fin.ofNat 32 (c.b32 i).toNat) = false) ∧
    Meets .pksend false (fun c => ∃ i : Lane, inMask c.m i = true ∧ (31 < (c.b32 i).toNat ∨ routedOk (c.packet i) = false)) ∧
    Meets .pkrecv false (fun c => c.t.dispatcher = true ∧ c.s0.dies[c.r.die].box ≠ []) ∧
    Meets .pkpoll false (fun c => c.t.dispatcher = true ∧ c.s0.dies[c.r.die].box ≠ []) ∧ Meets .pkpoll false (fun c => c.t.dispatcher = false) ∧
    Meets .pkrecv false (fun c => c.t.dispatcher = true ∧ c.s0.dies[c.r.die].box = []) ∧ pktKind (0 : BitVec 512) ≠ 2 :=
  ⟨meets 0x70040400081DE1 (richState .user) (by decide +kernel),
   meets 0x70040400081DE1 ((richState .user).modDie 0 (fun x => { x with box := List.replicate 1023 ⟨0, 5, .die 3, none⟩ })) (by decide +kernel),
   meets 0x70040400081DE1 { richState .user with inService := 0xFFFFFFFE } (by decide +kernel),
   meets 0x70040400081DE1 (testState testTeam (setReg testGroup 2 fun i => if i = 5 then 32 else 0)) (by decide +kernel),
   meets 0x7FFFFFC0801DE5 (dispState 0 [⟨0, 5, .die 3, none⟩]) (by decide +kernel),
   meets 0x7FFFFFC0801DE9 (dispState 0 [⟨0, 5, .die 3, none⟩]) (by decide +kernel),
   meets 0x7FFFFFC0801DE9 (richState .user) (by decide +kernel),
   meets 0x7FFFFFC0801DE5 (dispState 0 []) (by decide +kernel), by decide +kernel⟩
theorem test_witness_RouteGangLease :
    Meets .route false (fun c => c.a32 0 = 4095 ∧ ∀ i : Lane, inMask c.m i = true → (c.a32 i).toNat ≤ 4095) ∧
    Meets .route false (fun c => ∃ i : Lane, inMask c.m i = true ∧ c.a32 i = 4096) ∧
    Meets .gang false (fun c => (lanesOf c.aLevel).length = 2 ∧ (∀ i : Lane, inMask c.aLevel i = true → i.val < c.t.slots.length) ∧
      c.t.latch = none) ∧
    Meets .gang false (fun c => (lanesOf c.aLevel).length = 2 ∧ (∀ i : Lane, inMask c.aLevel i = true → i.val < c.t.slots.length) ∧
      c.t.latch ≠ none) ∧
    Meets .gang false (fun c => (lanesOf c.aLevel).length = 1) ∧ Meets .gang false (fun c => (lanesOf c.aLevel).length = 9) ∧
    Meets .gang false (fun c => (lanesOf c.aLevel).length = 2 ∧ ∃ i : Lane, inMask c.aLevel i = true ∧ c.t.slots.length ≤ i.val) ∧
    Meets .lease false (fun c => c.t.dispatcher = true) ∧ Meets .lease false (fun c => c.t.dispatcher = false ∧ c.aLevel = 0) ∧
    Meets .lease false (fun c => c.t.dispatcher = false ∧ c.aLevel.toNat = 128) ∧
    Meets .lease false (fun c => c.t.dispatcher = false ∧ c.aLevel.toNat = 129) :=
  ⟨meets 0x7FFFFE0040501DEC (testState testTeam (setReg testGroup 1 fun _ => 4095)) (by decide +kernel),
   meets 0x7FFFFE0040501DEC (testState testTeam (setReg testGroup 1 fun i => if i = 31 then 4096 else 0)) (by decide +kernel),
   meets 0x7FFFFE80FFF81DF0 (pairState testGroup testGroup) (by decide +kernel),
   meets 0x7FFFFE80FFF81DF0 (testState { pairTeam with latch := some ⟨0x1000, [], none⟩ } testGroup) (by decide +kernel),
   meets 0x7FFFFE807FF81DF0 (pairState testGroup testGroup) (by decide +kernel),
   meets 0x1FF007FFE68BFF81DF1 (pairState testGroup testGroup) (by decide +kernel),
   meets 0x7FFFFE80FFF81DF0 (richState .user) (by decide +kernel),
   meets 0x7FFFFE803FF81DF4 (dispState 0 []) (by decide +kernel),
   meets 0x7FFFFE803FF81DF4 (richState .user) (by decide +kernel),
   meets 0x80007FFE68BFF81DF5 (richState .user) (by decide +kernel),
   meets 0x81007FFE68BFF81DF5 (richState .user) (by decide +kernel)⟩

/-! ### Rows 0x8 to 0xA -/

/-- The translations of the member lanes' accesses. -/
def reach (c : Ctx) (kind : AccessKind) (ea : Lane → DWord) : List (Lane × Translated) :=
  (lanesOf c.m).filterMap (fun i => match c.translate (ea i) kind with | .ok x => some (i, x) | .error _ => none)
/-- The translations of the 32 rows of a tile access. -/
def reachTile (c : Ctx) (kind : AccessKind) : List Translated :=
  (List.range 32).filterMap (fun r => match c.translate (c.tileRow r) kind with | .ok x => some x | .error _ => none)
/-- Every row of a tile access translated. -/
abbrev TileReaches (c : Ctx) (kind : AccessKind) : Prop :=
  (c.tileRow 0).toNat % 32 = 0 ∧ c.bLevel.toNat % 32 = 0 ∧ (reachTile c kind).length = 32 ∧
    ∀ r, r < 32 → ∃ x, (reachTile c kind)[r]? = some x ∧ c.translate (c.tileRow r) kind = .ok x
/-- The effective address with the index that `ldx` and `stx` add. -/
def eaOf (indexed : Bool) (c : Ctx) (i : Lane) : DWord :=
  c.a64 i + c.f.imm.signExtend 64 + (if indexed then (c.b32 i).signExtend 64 * BitVec.ofNat 64 (widthOf c.f.sub) else 0)
/-- The test state at addresses in v2 (lane by lane), with register v4 as an index. -/
def atAddr (a : Nat → Nat) (x : Nat → Word) : State := testState testTeam (setReg (setAddr testGroup 1 a) 4 x)

theorem memoryOk_test (t : Team) (g : Group) : (testState t g).memoryOk := by
  unfold testState
  apply State.memoryOk_modCore
  · exact State.memoryOk_congr State.reset_memoryOk rfl rfl
  · exact fun x => Core.cellsOk_congr x rfl rfl rfl rfl rfl

theorem test_witness_LoadIssues :
    Meets .ld false (fun c => c.Reaches .read (widthOf c.f.sub) (eaOf false c) (reach c .read (eaOf false c))) ∧
    Meets .ldx false (fun c => c.Reaches .read (widthOf c.f.sub) (eaOf true c) (reach c .read (eaOf true c))) ∧
    Meets .lds false (fun c => (c.a32 0 + c.f.imm).toNat = 131071 ∧
      ∀ i : Lane, inMask c.m i = true → (c.a32 i + c.f.imm).toNat % widthOf c.f.sub = 0 ∧
        (c.s0.core c.r.die c.r.core).spadFault c.t (c.a32 i + c.f.imm).toNat = none) ∧
    Meets .ldc false (fun c => c.Reaches .read (widthOf c.f.sub) (eaOf false c) (reach c .read (eaOf false c))) ∧
    Meets .ldt false (fun c => c.f.sub = 1 ∧ (c.tileRowSpad 0).toNat % 32 = 0 ∧ c.bLevel.toNat % 32 = 0 ∧
      ∀ r, r < 32 → (c.s0.core c.r.die c.r.core).spadFault c.t (c.tileRowSpad r).toNat = none) ∧
    Meets .ldt false (fun c => c.f.sub ≠ 1 ∧ TileReaches c .read) :=
  ⟨meets 0x7FFE0080091E01 (atAddr (fun i => 4 * i) (fun _ => 0)) (by decide +kernel),
   meets 0x70080080315E09 (atAddr (fun _ => 64) (fun i => BitVec.ofNat 32 i)) (by decide +kernel),
   meets 0x7FFE0080081E11 (atAddr (fun _ => 131071) (fun _ => 0)) (by decide +kernel),
   meets 0x7FFE00A0091E19 (atAddr (fun _ => 64) (fun _ => 0)) (by decide +kernel),
   meets 0x7FF0000000000007008008B085E22 (atAddr (fun _ => 64) (fun _ => 32)) (by decide +kernel),
   meets 0x7FF0000000000007008008B081E22 (atAddr (fun _ => 64) (fun _ => 32)) (by decide +kernel)⟩
/-- Tables that map the first 512 GiB of address space 5, and states whose entry of level 5 is of other kinds. -/
def walkState : State := { testState testTeam testGroup with hbm := [(80, 1), (81, 0x10), (0x1000, 1), (0x1001, 0x20), (0x2000, 0xF)] }
def topState (e : Byte) : State := { testState testTeam testGroup with hbm := [(80, 1), (81, 0x10), (0x1000, e)] }
theorem hasRoot_walk : walkState.HasRoot 0 5 0x1000 :=
  ⟨by decide +kernel, by decide +kernel, ⟨0x1001, by decide +kernel⟩, by decide +kernel⟩
theorem test_witness_AccessTraps_walk : walkState.HasRoot 0 5 0x1000 ∧ walkState.LeadsTo 0 0x123456 1 5 0x1000 0x2000 ∧
    walkState.poisonedIn (entryPlace 0x123456 4 0x2000) 8 = false ∧
    GoodLeaf (walkState.entryAt 0 (entryPlace 0x123456 4 0x2000)) 4 (0x123456 / 2 ^ (12 + 9 * (4 - 1)) % 512) 1 :=
  ⟨hasRoot_walk, ⟨by decide +kernel, by decide +kernel, by show _ = 0x2000; decide +kernel⟩, by decide +kernel,
   { valid := by decide +kernel, leaf := by decide +kernel, notTop := by decide +kernel, mustBeZero := by decide +kernel
     writeNeedsRead := by decide +kernel, cache := by decide +kernel, contig := .inl (by decide +kernel), aligned := by decide +kernel
     based := ⟨0, by decide +kernel⟩, resident := by decide +kernel, inside := by decide +kernel }⟩
theorem test_witness_AccessTraps_ends : (∀ e ∈ ([0, 3, 5] : List Byte), (topState e).HasRoot 0 5 0x1000 ∧ (topState e).LeadsTo 0 0 0 5 0x1000 0x1000) ∧
    { topState 0 with poison := [0x1000 / 16] }.poisonedIn (entryPlace 0 5 0x1000) 8 = true ∧
    ((topState 0).entryAt 0 (entryPlace 0 5 0x1000)).getLsbD 0 = false ∧
    (((topState 3).entryAt 0 (entryPlace 0 5 0x1000)).getLsbD 1 = true ∧
      ∀ n, ¬ GoodLeaf ((topState 3).entryAt 0 (entryPlace 0 5 0x1000)) 5 (0 / 2 ^ (12 + 9 * (5 - 1)) % 512) n) ∧
    (((topState 5).entryAt 0 (entryPlace 0 5 0x1000)).getLsbD 1 = false ∧ ¬ TableEntry ((topState 5).entryAt 0 (entryPlace 0 5 0x1000)) 5) := by
  have h : ∀ e ∈ ([0, 3, 5] : List Byte), (topState e).xlat.en = true ∧ (topState e).poisonedIn ((topState e).xlat.base.toNat * 4096 / 65536 * 65536 + 16 * (5 : BitVec 12).toNat) 16 = false ∧
      (topState e).entryAt 0 ((topState e).xlat.base.toNat * 4096 / 65536 * 65536 + 16 * (5 : BitVec 12).toNat) = 0x1001 ∧
      (topState e).entryAt 0 ((topState e).xlat.base.toNat * 4096 / 65536 * 65536 + 16 * (5 : BitVec 12).toNat + 8) = 0 := by decide +kernel
  exact ⟨fun e he => ⟨⟨(h e he).1, (h e he).2.1, ⟨0x1001, (h e he).2.2.1, by decide⟩, (h e he).2.2.2⟩, rfl⟩,
    by decide +kernel, by decide +kernel, ⟨by decide +kernel, fun n x => x.notTop rfl⟩, by decide +kernel, by decide +kernel⟩
/-- A page that admits nothing. -/
def shutPage : TlbEntry := ⟨5, 0, 2097152, 0, ⟨false, false, false, 0, false, false, true, false⟩⟩
theorem test_witness_AccessTraps_translate : canonical 0x200000000000000 = false ∧ canonical 0x1234 = true ∧ State.reset.xlat.en = false ∧
    (match walkState.lookup 0 none 5 (va57 0x8000000000000) with | .ok _ => false | .error _ => true) = true ∧
    (match walkState.lookup 0 none 5 (va57 0x1234) with | .ok y => decide (y.attrs.r = true) && !y.attrs.x | .error _ => false) = true ∧
    walkState.released 5 0x1234 = false ∧ tlbFind (walkState.core 0 0).tlb 5 0x1234 ≠ none ∧ tlbFind (walkState.core 0 1).tlb 5 0x1234 = none ∧
    tlbFind walkState.dies[0].tlb 5 0x1234 = none ∧
    tlbFind (walkState.modDie 0 (fun x => { x with tlb := [shutPage] })).dies[0].tlb 5 0x1234 = some shutPage ∧
    ∀ k ∈ [AccessKind.fetch, .read, .wload, .write, .atomic], (⟨true, true, true, 0, true, true, false, false⟩ : Attrs).x = true ∨ k ≠ .fetch := by
  decide +kernel
/-- The members of a run below a lane reach their addresses, and the lane does not. -/
abbrev BadAt (indexed : Bool) (kind : AccessKind) (i : Lane) (c : Ctx) : Prop :=
  inMask c.m i = true ∧ ∀ j : Lane, j < i → inMask c.m j = true → (eaOf indexed c j).toNat % widthOf c.f.sub = 0 ∧
    (match c.translate (eaOf indexed c j) kind with | .ok _ => true | .error _ => false) = true
/-- The same for an access of n bytes of an atomic, and of the scratchpad. -/
abbrev AtomAt (n : Nat) (i : Lane) (c : Ctx) : Prop :=
  inMask c.m i = true ∧ ∀ j : Lane, j < i → inMask c.m j = true → (eaOf false c j).toNat % n = 0 ∧
    (match c.translate (eaOf false c j) .atomic with | .ok _ => true | .error _ => false) = true
abbrev SpadAt (n : Nat) (i : Lane) (c : Ctx) : Prop :=
  inMask c.m i = true ∧ ∀ j : Lane, j < i → inMask c.m j = true → (c.a32 j + c.f.imm).toNat % n = 0 ∧
    (match (c.s0.core c.r.die c.r.core).spadPlace c.t (c.a32 j + c.f.imm).toNat with | .ok _ => true | .error _ => false) = true
/-- The rows of a tile access below a row reach their places, and the row does not. -/
abbrev RowAt (kind : AccessKind) (r : Nat) (c : Ctx) : Prop :=
  c.f.sub ≠ 1 ∧ c.TileAligned ∧ (match c.translate (c.tileRow r) kind with | .ok _ => false | .error _ => true) = true ∧
    ∀ q ∈ List.range r, (match c.translate (c.tileRow q) kind with | .ok _ => true | .error _ => false) = true
abbrev RowAtSpad (e : Byte) (r : Nat) (c : Ctx) : Prop :=
  c.f.sub = 1 ∧ c.TileAlignedSpad ∧ (c.s0.core c.r.die c.r.core).spadPlace c.t (c.tileRowSpad r).toNat = .error e ∧
    ∀ q ∈ List.range r, (match (c.s0.core c.r.die c.r.core).spadPlace c.t (c.tileRowSpad q).toNat with | .ok _ => true | .error _ => false) = true

theorem test_witness_AccessTraps :
    Meets .ld false (fun c => BadAt false .read 3 c ∧ (eaOf false c 3).toNat % widthOf c.f.sub ≠ 0) ∧
    Meets .ldx false (fun c => BadAt true .read 3 c ∧ (eaOf true c 3).toNat % widthOf c.f.sub = 0 ∧
      c.translate (eaOf true c 3) .read = .error .nonCanonical) ∧
    Meets .ldc false (fun c => BadAt false .read 31 c ∧ (eaOf false c 31).toNat % widthOf c.f.sub ≠ 0) ∧
    Meets .st false (fun c => BadAt false .write 0 c ∧ (eaOf false c 0).toNat % widthOf c.f.sub ≠ 0) ∧
    Meets .stx false (fun c => BadAt true .write 0 c ∧ (eaOf true c 0).toNat % widthOf c.f.sub ≠ 0) ∧
    Meets .atom false (fun c => AtomAt 4 2 c ∧ (eaOf false c 2).toNat % 4 ≠ 0) ∧
    Meets .red false (fun c => AtomAt 4 1 c ∧ (eaOf false c 1).toNat % 4 ≠ 0) ∧
    Meets .atomf false (fun c => AtomAt 4 2 c ∧ (eaOf false c 2).toNat % 4 = 0 ∧
      (match c.translate (eaOf false c 2) .atomic with | .ok _ => false | .error _ => true) = true) ∧
    Meets .atomcas false (fun c => c.f.sub.getLsbD 2 = false ∧ c.f.sub.getLsbD 0 = true ∧ AtomAt 8 1 c ∧ (eaOf false c 1).toNat % 8 = 4) ∧
    Meets .lds false (fun c => SpadAt (widthOf c.f.sub) 3 c ∧ (c.a32 3 + c.f.imm).toNat % widthOf c.f.sub ≠ 0) ∧
    Meets .sts false (fun c => SpadAt (widthOf c.f.sub) 2 c ∧ (c.a32 2 + c.f.imm).toNat % widthOf c.f.sub = 0 ∧
      (c.s0.core c.r.die c.r.core).spadPlace c.t (c.a32 2 + c.f.imm).toNat = .error 0x22) ∧
    Meets .sts false (fun c => SpadAt (widthOf c.f.sub) 0 c ∧
      (c.s0.core c.r.die c.r.core).spadPlace c.t (c.a32 0 + c.f.imm).toNat = .error 0x23) ∧
    Meets .atoms false (fun c => SpadAt 4 1 c ∧ (c.a32 1 + c.f.imm).toNat % 4 ≠ 0) ∧
    Meets .atomcas false (fun c => c.f.sub.getLsbD 2 = true ∧ c.f.sub.getLsbD 0 = true ∧ SpadAt 8 1 c ∧ (c.a32 1 + c.f.imm).toNat % 8 = 4) ∧
    Meets .ldt false (fun c => c.f.sub ≠ 1 ∧ ¬ c.TileAligned) ∧ Meets .stt false (fun c => c.f.sx = .t 1 ∧ c.f.sub ≠ 1 ∧ ¬ c.TileAligned) ∧
    Meets .ldt false (RowAt .read 2) ∧ Meets .stt false (fun c => c.f.sx = .t 1 ∧ RowAt .write 2 c) ∧
    Meets .ldt false (fun c => c.f.sub = 1 ∧ ¬ c.TileAlignedSpad) ∧ Meets .stt false (fun c => c.f.sx = .t 1 ∧ c.f.sub = 1 ∧ ¬ c.TileAlignedSpad) ∧
    Meets .ldt false (RowAtSpad 0x23 2) ∧ Meets .stt false (fun c => c.f.sx = .t 1 ∧ RowAtSpad 0x22 0 c) ∧
    testTeam.octetAt 7 = none ∧ (testTeam.octetAt 1 = some 1 ∧ ((testState testTeam testGroup).core 0 0).octets[1].mode = .compute) :=
  ⟨meets 0x7FFE0080091E01 (atAddr (fun i => if i < 3 then 4 else 6) (fun _ => 0)) (by decide +kernel),
   meets 0x70080080091E09
    (testState testTeam (setReg (setAddr testGroup 1 fun _ => 4) 3 fun i => if i < 3 then 0 else 0x80000000)) (by decide +kernel),
   meets 0x7FFE00A0091E19 (atAddr (fun i => if i < 31 then 64 else 65) (fun _ => 0)) (by decide +kernel),
   meets 0x700800BFF91E05 (atAddr (fun _ => 2) (fun _ => 0)) (by decide +kernel),
   meets 0x70080080419E0D (atAddr (fun _ => 66) (fun i => BitVec.ofNat 32 i)) (by decide +kernel),
   meets 0x1070080080081E41 (atAddr (fun i => if i = 2 then 66 else 64) (fun _ => 1)) (by decide +kernel),
   meets 0x700800BFF9DE49 (atAddr (fun i => 64 + i) (fun _ => 1)) (by decide +kernel),
   meets 0x70080080091E51 (atAddr (fun i => if i < 2 then 64 else 2097152) (fun _ => 1)) (by decide +kernel),
   meets 0x800000000000C70080080305E46 (atAddr (fun i => 64 + 4 * i) (fun _ => 1)) (by decide +kernel),
   meets 0x7FFE0080091E11 (atAddr (fun i => if i < 3 then 4 else 2) (fun _ => 0)) (by decide +kernel),
   meets 0x700800BFF91E15 (atAddr (fun i => if i < 2 then 16 else 262144) (fun _ => 0)) (by decide +kernel),
   meets 0x700800BFF91E15 (atAddr (fun _ => 131072) (fun _ => 0)) (by decide +kernel),
   meets 0x7008008008DE4D (atAddr (fun i => 64 + i) (fun _ => 1)) (by decide +kernel),
   meets 0x800000000000070080080315E46 (atAddr (fun i => 64 + 4 * i) (fun _ => 1)) (by decide +kernel),
   meets 0x7FF0000000000007008008B081E22 (atAddr (fun _ => 64) (fun _ => 33)) (by decide +kernel),
   meets 0x161000000000000700800BFF81E26 (atAddr (fun _ => 65) (fun _ => 32)) (by decide +kernel),
   meets 0x7FF0000000000007008008B081E22 (atAddr (fun _ => 2097088) (fun _ => 32)) (by decide +kernel),
   meets 0x161000000000000700800BFF81E26 (atAddr (fun _ => 2097088) (fun _ => 32)) (by decide +kernel),
   meets 0x7FF0000000000007008008B085E22 (atAddr (fun _ => 64) (fun _ => 33)) (by decide +kernel),
   meets 0x161000000000000700800BFF85E26 (atAddr (fun _ => 65) (fun _ => 32)) (by decide +kernel),
   meets 0x7FF0000000000007008008B085E22 (atAddr (fun _ => 131008) (fun _ => 32)) (by decide +kernel),
   meets 0x161000000000000700800BFF85E26 (atAddr (fun _ => 262144) (fun _ => 32)) (by decide +kernel),
   by decide +kernel, by decide +kernel⟩
theorem test_witness_LoadFrame : (atAddr (fun i => 4 * i) (fun _ => 0)).memoryOk ∧
    ((atAddr (fun i => 4 * i) (fun _ => 0)).core 0 0).pending = [] ∧
    (match after 0x7FFE0080091E01 (atAddr (fun i => 4 * i) (fun _ => 0)) with
      | some t => decide (t.dies[0].l2Lines.length < l2SliceLines) | none => false) = true ∧
    Meets .ld false (fun c => c.Reaches .read (widthOf c.f.sub) (eaOf false c) (reach c .read (eaOf false c)) ∧
      (∀ y ∈ c.g.flights, y.late = none) ∧ widthOf c.f.sub = 4 ∧ ∀ y ∈ reach c .read (eaOf false c), y.2.attrs.cache ≠ 2) ∧
    Meets .ld false (fun c => c.Reaches .read (widthOf c.f.sub) (eaOf false c) (reach c .read (eaOf false c)) ∧
      (∀ y ∈ c.g.flights, y.late = none) ∧ c.s0.deferred = true ∧ c.f.md.getLsbD 3 = false) :=
  ⟨memoryOk_test _ _, by decide +kernel, by decide +kernel, meets 0x7FFE0080091E01 (atAddr (fun i => 4 * i) (fun _ => 0)) (by decide +kernel),
   meets 0x7FFE0080091E01 { atAddr (fun i => 4 * i) (fun _ => 0) with deferred := true } (by decide +kernel)⟩
theorem test_witness_StoreIssues :
    Meets .st false (fun c => c.Reaches .write (widthOf c.f.sub) (eaOf false c) (reach c .write (eaOf false c))) ∧
    Meets .stx false (fun c => c.Reaches .write (widthOf c.f.sub) (eaOf true c) (reach c .write (eaOf true c))) ∧
    Meets .sts false (fun c => ∀ i : Lane, inMask c.m i = true → (c.a32 i + c.f.imm).toNat % widthOf c.f.sub = 0 ∧
        (c.s0.core c.r.die c.r.core).spadFault c.t (c.a32 i + c.f.imm).toNat = none) ∧
    Meets .stt false (fun c => c.f.sx = .t 1 ∧ c.f.sub = 1 ∧ (c.tileRowSpad 0).toNat % 32 = 0 ∧ c.bLevel.toNat % 32 = 0 ∧
      ∀ r, r < 32 → (c.s0.core c.r.die c.r.core).spadFault c.t (c.tileRowSpad r).toNat = none) ∧
    Meets .stt false (fun c => c.f.sx = .t 1 ∧ c.f.sub ≠ 1 ∧ TileReaches c .write) :=
  ⟨meets 0x700800BFF91E05 (atAddr (fun i => 4 * i) (fun _ => 0)) (by decide +kernel),
   meets 0x70080080419E0D (atAddr (fun _ => 64) (fun i => BitVec.ofNat 32 i)) (by decide +kernel),
   meets 0x700800BFF81E15 (atAddr (fun _ => 131071) (fun _ => 0)) (by decide +kernel),
   meets 0x161000000000000700800BFF85E26 (atAddr (fun _ => 64) (fun _ => 32)) (by decide +kernel),
   meets 0x161000000000000700800BFF81E26 (atAddr (fun _ => 64) (fun _ => 32)) (by decide +kernel)⟩
/-- The test group with lane 5 alone a member of a row guarded by p1. -/
def oneLane (g : Group) : Group := { g with p := Vector.ofFn fun i => if i.val = 5 then 2 else 0 }
theorem test_witness_StoreFrame : (testState testTeam (oneLane testGroup)).memoryOk ∧
    Meets .st false (fun c => c.s0.deferred = true ∧ ∃ x ∈ (reach c .write (eaOf false c)).map Prod.snd, c.Reaches .write (widthOf c.f.sub) (eaOf false c) [(5, x)] ∧
      (∀ y ∈ c.g.flights, y.late = none) ∧ c.f.md.getLsbD 4 = false ∧ x.attrs.cache ≠ 2) ∧
    Meets .stx false (fun c => c.s0.deferred = false ∧ ∃ x ∈ (reach c .write (eaOf true c)).map Prod.snd, c.Reaches .write (widthOf c.f.sub) (eaOf true c) [(5, x)] ∧
      c.f.md.getLsbD 4 = false ∧ x.attrs.cache ≠ 2) :=
  ⟨memoryOk_test _ _, meets 0x700800BFF98605 { testState testTeam (oneLane testGroup) with deferred := true } (by decide +kernel),
   meets 0x7008008041060D (testState testTeam (oneLane testGroup)) (by decide +kernel)⟩
theorem test_witness_ScratchpadStoreFrame : (testState testTeam (oneLane testGroup)).memoryOk ∧
    Meets .sts false (fun c => c.f.md.getLsbD 4 = false ∧ c.m = 1#32 <<< 5 ∧ ∀ i : Lane, inMask c.m i = true →
      (c.a32 i + c.f.imm).toNat % widthOf c.f.sub = 0 ∧
        (match (c.s0.core c.r.die c.r.core).spadPlace c.t (c.a32 i + c.f.imm).toNat with | .ok _ => true | .error _ => false) = true) ∧
    Meets .sts false (fun c => c.f.md.getLsbD 4 = true ∧ scopeLevel (c.f.md.toNat % 8) = .core ∧ c.g.flights = [] ∧
      (c.s0.core c.r.die c.r.core).pending = [] ∧ ∀ i : Lane, inMask c.m i = true → (c.a32 i + c.f.imm).toNat % widthOf c.f.sub = 0 ∧
        (match (c.s0.core c.r.die c.r.core).spadPlace c.t (c.a32 i + c.f.imm).toNat with | .ok _ => true | .error _ => false) = true) :=
  ⟨memoryOk_test _ _, meets 0x700800BFF90615 (testState testTeam (oneLane testGroup)) (by decide +kernel),
   meetsF { fieldsOf 0x700800BFF90615 with md := 0x12 } (testState testTeam (oneLane testGroup)) (by decide +kernel)⟩
theorem test_witness_PrefetchAndTiles : (richState .user).memoryOk ∧ Meets .pf false (fun c => c.f.sub = 1 ∧ (lanesOf c.m).filterMap c.pfTarget ≠ []) ∧
    Meets .pf false (fun c => ∀ i : Lane, c.pfTarget i = none) ∧
    Meets .pf false (fun c => c.f.sub ≠ 1 ∧ (lanesOf c.m).filterMap c.pfTarget ≠ []) ∧
    Meets .tmovC4 false (fun c => c.f.sa = .t 1) ∧ Meets .tmovWr false (fun c => c.f.dst = .t 1) :=
  ⟨memoryOk_test _ _, meets 0x7FFE00BFF85E1D (richState .user) (by decide +kernel),
   meets 0x7FFE00BFF81E1D (atAddr (fun _ => 2097152) (fun _ => 0)) (by decide +kernel),
   meets 0x7FFE00BFF81E1D (richState .user) (by decide +kernel),
   meets 0x70065840095E29 (richState .user) (by decide +kernel),
   meets 0x7006008B085E29 (richState .user) (by decide +kernel)⟩
theorem test_witness_AtomicIssues :
    Meets .atom false (fun c => c.Reaches .atomic 4 (eaOf false c) (reach c .atomic (eaOf false c))) ∧
    Meets .red false (fun c => c.Reaches .atomic 4 (eaOf false c) (reach c .atomic (eaOf false c))) ∧
    Meets .atomf false (fun c => c.Reaches .atomic 4 (eaOf false c) (reach c .atomic (eaOf false c))) ∧
    Meets .atomcas false (fun c => c.f.sub.getLsbD 2 = false ∧
      c.Reaches .atomic (if c.f.sub.getLsbD 0 then 8 else 4) (eaOf false c) (reach c .atomic (eaOf false c))) ∧
    Meets .atoms false (fun c => ∀ i : Lane, inMask c.m i = true → (c.a32 i + c.f.imm).toNat % 4 = 0 ∧
        (c.s0.core c.r.die c.r.core).spadFault c.t (c.a32 i + c.f.imm).toNat = none) ∧
    Meets .atomcas false (fun c => c.f.sub.getLsbD 2 = true ∧ ∀ i : Lane, inMask c.m i = true → (c.a32 i + c.f.imm).toNat % 8 = 0 ∧
        (c.s0.core c.r.die c.r.core).spadFault c.t (c.a32 i + c.f.imm).toNat = none) :=
  ⟨meets 0x1070080080081E41 (atAddr (fun _ => 64) (fun _ => 1)) (by decide +kernel),
   meets 0x700800BFF9DE49 (atAddr (fun _ => 64) (fun _ => 1)) (by decide +kernel),
   meets 0x70080080091E51 (atAddr (fun _ => 64) (fun _ => 1)) (by decide +kernel),
   meets 0x800000000000C70080080305E46 (atAddr (fun _ => 64) (fun _ => 1)) (by decide +kernel),
   meets 0x7008008008DE4D (atAddr (fun _ => 64) (fun _ => 1)) (by decide +kernel),
   meets 0x800000000000070080080315E46 (atAddr (fun _ => 64) (fun _ => 1)) (by decide +kernel)⟩
theorem test_witness_AtomicAtDie : State.reset.memoryOk ∧ (0 : Nat) < 4 ∧ (128 + 4 - 1) / 32 = 128 / 32 ∧
    (State.reset.rmw 0 0 .die 128 4 id).2.dies[0].l2Lines.length < l2SliceLines := ⟨State.reset_memoryOk, by decide, by decide, by decide +kernel⟩

/-- The test state with barrier register 2 initialised, addresses in v2 and v4, a length in v6, and engine operations queued. -/
def forkAt (a b n : Nat) (ops : List EngineOp) : State :=
  (testState { testTeam with barriers := testTeam.barriers.set 2 ⟨1, 0, 0, 0⟩ }
    (setReg (setAddr (setAddr testGroup 1 fun _ => a) 2 fun _ => b) 6 fun _ => BitVec.ofNat 32 n)).modDie 0 (fun x => { x with engines := ops })
def forkState (n : Nat) (kind : EngKind) : State :=
  forkAt 4096 8192 4096 (List.replicate n ⟨1, kind, .input, 5, 0, 7, 0, 9, 0, 0, 0, 0, 0, 0⟩)
/-- The fork state with a second group of its team that holds. -/
def beside (h : Hold) : State :=
  ((forkState 0 .input).modTeam 0 0 7 (fun t => { t with slots := [0, 1] })).modCore 0 0 (fun k =>
    { k with slots := k.slots.set 1 (some { testGroup with gix := 1, hold := some h }) })
/-- The fork state whose group holds, and whose team has no octet. -/
def forkHeld (h : Hold) : State := (forkState 0 .input).modGroup testRef (fun g => { g with hold := some h, heldRun := 0xFFFFFFFF })
def forkBare : State := (forkState 0 .input).modTeam 0 0 7 (fun t => { t with desc := { t.desc with octets := 0 } })
theorem test_witness_EngineIssues :
    Meets .cpy false (fun c => c.CpyOk ∧ c.Arrives 2 ∧ c.HasRoom .caravan 1 ∧ ¬ c.HasRoom .caravan 2 ∧ c.cLevel ≠ 0 ∧
      c.blockedOn (c.cpyOctets 2) = false) ∧
    Meets .cpy false (fun c => c.CpyOk ∧ c.Arrives 2 ∧ c.cLevel = 0) ∧
    Meets .xform false (fun c => c.Arrives 2 ∧ c.HasRoom .sirocco 1 ∧ c.xfSrc.toNat % 64 = 0 ∧ c.xfDst.toNat % 64 = 0 ∧
      c.blockedOn (c.xfOctets 2) = false) ∧
    Meets .seal false (fun c => c.Arrives 2 ∧ c.HasRoom .sirocco 1 ∧ c.xfSrc.toNat % 4096 = 0 ∧ c.xfDst ≠ 0 ∧ c.xfDst.toNat % 4096 = 0 ∧
      c.f.sx = .none) ∧
    Meets .coll false (fun c => c.Arrives 2 ∧ c.t.inRange = true ∧ c.t.packed = false ∧ c.HasRoom .coll 1 ∧ c.xfSrc.toNat % 16 = 0 ∧
      c.xfDst.toNat % 16 = 0 ∧ (c.cLevel.toNat * collSize c.f.md) % 16 = 0 ∧ c.cLevel.toNat * collSize c.f.md ≤ 268435456) ∧
    Meets .xsend false (fun c => c.XsendOk ∧ c.HasRoom .caravan 1 ∧ c.blockedOn (c.engineOctets (c.xsendOp c.s0)) = false) ∧
    Meets .wload false (fun c => c.WloadOk 2 9 ∧ c.HasRoom .caravan 1 ∧ c.g.hold = none ∧ c.blockedOn [Fin.ofNat 8 (9 / 8)] = false) ∧
    Meets .wload false (fun c => c.WloadOk 2 9 ∧ ¬ c.HasRoom .caravan 1 ∧ c.g.hold = none ∧ c.blockedOn [Fin.ofNat 8 (9 / 8)] = false) ∧
    Meets .wload false (fun c => c.WloadOk 2 9 ∧ c.HasRoom .caravan 1 ∧ c.g.hold = some (.wload 3)) ∧
    Meets .cpyt false (fun c => c.f.ctag.toNat = 1 ∧ c.CpytOk ∧ c.HasRoom .caravan (lanesOf c.m).length ∧
      c.g.tags[1] + (lanesOf c.m).length ≤ 1023 ∧ c.blockedOn c.cpytOctets = false) :=
  ⟨meets 0x1006000000000000700800BFF89E82 (forkState 255 (.cpy 2)) (by decide +kernel),
   meets 0x1200000000000000700800BFF89E82 (forkState 256 (.cpy 2)) (by decide +kernel),
   meets 0x17FF000000000000700800BFF81E92 (forkState 0 .input) (by decide +kernel),
   meets 0x17FF000000000000700800BFF81E96 (forkState 0 .input) (by decide +kernel),
   meets 0x1006000000000100700800BFF85E9A (forkState 0 .input) (by decide +kernel),
   meets 0x6000000000000700800BFF81E9E (forkState 0 .input) (by decide +kernel),
   meets 0x17FF000000000000741200BFF81EA2 (forkState 0 .input) (by decide +kernel),
   meets 0x17FF000000000000741200BFF81EA2 (forkState 256 (.cpy 2)) (by decide +kernel),
   meets 0x17FF000000000000741200BFF81EA2 (forkHeld (.wload 3)) (by decide +kernel),
   meets 0x8220000000000000700800BFF89E86 (forkState 0 .input) (by decide +kernel)⟩
theorem test_witness_EngineIssues_held :
    Meets .cpy false (fun c => c.CpyOk ∧ c.Arrives 2 ∧ ¬ c.HasRoom .caravan 1 ∧ c.cLevel ≠ 0 ∧ c.blockedOn (c.cpyOctets 2) = false) ∧
    Meets .cpy false (fun c => c.CpyOk ∧ c.Arrives 2 ∧ c.cLevel ≠ 0 ∧ c.blockedOn (c.cpyOctets 2) = true) ∧
    Meets .cpy false (fun c => c.CpyOk ∧ c.Arrives 2 ∧ c.cLevel ≠ 0 ∧ c.blockedOn (c.cpyOctets 2) = true) ∧
    Meets .cpyt false (fun c => c.CpytOk ∧ 1023 < c.g.tags[c.f.ctag.toFin] + (lanesOf c.m).length) :=
  ⟨meets 0x1006000000000000700800BFF89E82 (forkState 256 (.cpy 2)) (by decide +kernel),
   meets 0x1006000000000000700800BFF81E82 (beside (.octet 0)) (by decide +kernel),
   meets 0x1006000000000000700800BFF81E82 (beside (.busy 3 [0])) (by decide +kernel),
   meets 0x8220000000000000700800BFF89E86 ((forkState 0 .input).modGroup testRef (fun g => { g with tags := g.tags.set 1 992 })) (by decide +kernel)⟩
theorem test_witness_EngineIssues_refused :
    Meets .cpy false (fun c => c.cpySrc.toNat % 16 ≠ 0) ∧ Meets .cpy false (fun c => c.cpySrc.toNat % 16 = 0 ∧ c.cpyDst.toNat % 16 ≠ 0) ∧
    Meets .cpy false (fun c => c.cpySrc.toNat % 16 = 0 ∧ c.cpyDst.toNat % 16 = 0 ∧ c.cLevel.toNat % 16 ≠ 0) ∧
    Meets .cpy false (fun c => c.cpySrc.toNat % 16 = 0 ∧ c.cpyDst.toNat % 16 = 0 ∧ c.cLevel.toNat % 16 = 0 ∧ c.f.sub ≠ 2 ∧ c.t.desc.octets = 0) ∧
    Meets .cpy false (fun c => c.CpyOk ∧ ∀ b, ¬ c.Arrives b) ∧ Meets .xform false (fun c => c.xfSrc.toNat % 64 ≠ 0) ∧
    Meets .xform false (fun c => c.xfSrc.toNat % 64 = 0 ∧ c.xfDst.toNat % 64 = 0 ∧ ∀ b, ¬ c.Arrives b) ∧
    Meets .seal false (fun c => c.xfSrc.toNat % 4096 = 0 ∧ c.xfDst.toNat % 4096 ≠ 0) ∧
    Meets .xsend false (fun c => (c.levelAddr (c.f.sub != 1) c.f.sa).toNat % 16 = 0 ∧ ¬ c.XsendOk) ∧
    Meets .cpyt false (fun c => (∀ i : Lane, inMask c.m i = true → (c.laneAddr (dirSrcGlobal c.f.sub) c.f.sa i).toNat % 16 = 0 ∧
      (c.laneAddr (dirDstGlobal c.f.sub) c.f.sb i).toNat % 16 = 0) ∧ ¬ c.CpytOk) ∧
    Meets .wload false (fun c => c.xfSrc.toNat % 64 ≠ 0) ∧
    Meets .wload false (fun c => c.Arrives 2 ∧ c.bLevel.toNat = 9 ∧ c.xfSrc.toNat % 64 = 0 ∧ c.wloadFault c.xfSrc ≠ none ∧
      (c.s0.core c.r.die c.r.core).octets[1].owner = some c.t.uid) ∧
    Meets .coll false (fun c => c.t.inRange = false ∨ c.t.packed = true) :=
  ⟨meets 0x1006000000000000700800BFF89E82 (forkAt 8 8192 4096 []) (by decide +kernel),
   meets 0x1006000000000000700800BFF89E82 (forkAt 4096 8200 4096 []) (by decide +kernel),
   meets 0x1006000000000000700800BFF89E82 (forkAt 4096 8192 40 []) (by decide +kernel),
   meets 0x1006000000000000700800BFF81E82 forkBare (by decide +kernel),
   meets 0x1806000000000000700800BFF89E82 (forkState 0 .input) (by decide +kernel),
   meets 0x17FF000000000000700800BFF81E92 (forkAt 32 64 0 []) (by decide +kernel),
   meets 0x7FFF000000000000700800BFF81E92 (testState { testTeam with desc := { testDesc with barriers := 15 } } testGroup) (by decide +kernel),
   meets 0x17FF000000000000700800BFF81E96 (forkAt 4096 64 0 []) (by decide +kernel),
   meets 0x6000000000000700800BFF81E9E (forkAt 4096 8192 40 []) (by decide +kernel),
   meetsF { fieldsOf 0x8220000000000000700800BFF89E86 with sx := .inl 33 } (forkState 0 .input) (by decide +kernel),
   meets 0x17FF000000000000741200BFF81EA2 (forkAt 32 64 0 []) (by decide +kernel),
   meets 0x17FF000000000000741200BFF81EA2 (forkAt 2097152 64 0 []) (by decide +kernel),
   meets 0x1006000000000100700800BFF85E9A (testState { testTeam with packed := true } testGroup) (by decide +kernel)⟩
theorem test_witness_QueuedWork : ∃ c, (richState .user).ctx? plain = some c ∧ c.t.desc.halo = false := ⟨_, rfl, rfl⟩

/-- The test group with a depth of copy tag 1 and a queue 2. -/
def tagGroup (tag : Nat) (q : Queue) : Group := { testGroup with tags := testGroup.tags.set 1 tag, queues := testGroup.queues.set 2 q }
theorem test_witness_TagsAndQueues :
    Meets .cwait false (fun c => c.f.sub.toNat = 1 ∧ c.g.tags[1] = c.aLevel.toNat) ∧
    Meets .cwait false (fun c => c.f.sub.toNat = 1 ∧ c.aLevel.toNat + 1 = c.g.tags[1]) ∧
    Meets .ctest false (fun c => c.f.sub.toNat = 1 ∧ c.g.tags[1] = c.aLevel.toNat) ∧
    Meets .ctest false (fun c => c.f.sub.toNat = 1 ∧ c.aLevel.toNat + 1 = c.g.tags[1]) ∧
    Meets .qcfg false (fun c => c.f.sa = .q 2 ∧ c.bLevel.toNat = 16 ∧ (c.g.queue 2).items = [] ∧ c.g.drainInto 2 = false ∧
      c.t.dispatcher = false ∧ (c.g.depthWith 2 c.bLevel.toNat + 7) / 8 < c.g.budget) ∧
    Meets .qcfg false (fun c => c.f.sa = .q 2 ∧ c.bLevel.toNat = 17) ∧ Meets .qcfg false (fun c => c.f.sa = .q 2 ∧ (c.g.queue 2).items ≠ []) ∧
    Meets .qcfg false (fun c => c.f.sa = .q 2 ∧ c.g.budget = (c.g.depthWith 2 c.bLevel.toNat + 7) / 8) ∧
    Meets .qlen false (fun c => c.f.sa = .q 2 ∧ (c.g.queue 2).depth = 0) ∧ Meets .qlen false (fun c => c.f.sa = .q 2 ∧ (c.g.queue 2).depth ≠ 0) ∧
    Meets .qdrain false (fun c => c.f.sa = .q 2 ∧ (c.g.queue 2).depth ≠ 0 ∧ c.g.drainInto 2 = false) ∧
    Meets .qdrain false (fun c => c.f.sa = .q 2 ∧ (c.g.queue 2).depth = 0) :=
  ⟨meets 0x7FFFFE80FFF85E88 (testState testTeam (tagGroup 3 Queue.empty)) (by decide +kernel),
   meets 0x7FFFFE80FFF85E88 (testState testTeam (tagGroup 4 Queue.empty)) (by decide +kernel),
   meets 0x7FFFFE80D8105E8C (testState testTeam (tagGroup 3 Queue.empty)) (by decide +kernel),
   meets 0x7FFFFE80D8105E8C (testState testTeam (tagGroup 4 Queue.empty)) (by decide +kernel),
   meets 0x7FF42050BFF81EE8 (testState testTeam (tagGroup 0 Queue.empty)) (by decide +kernel),
   meets 0x7FF42250BFF81EE8 (testState testTeam (tagGroup 0 Queue.empty)) (by decide +kernel),
   meets 0x7FF40850BFF81EE8 (richState .user) (by decide +kernel),
   meets 0x7FF42050BFF81EE8 (testState testTeam { testGroup with budget := 2 }) (by decide +kernel),
   meets 0x7FFFFE5080081EEC (testState testTeam testGroup) (by decide +kernel),
   meets 0x7FFFFE5080081EEC (richState .user) (by decide +kernel),
   meets 0x7FFFFE50BFF81EF0 (richState .user) (by decide +kernel),
   meets 0x7FFFFE50BFF81EF0 (testState testTeam testGroup) (by decide +kernel)⟩

/-! ### Row 0xB -/

theorem test_witness_OctetRows :
    Meets .balloc false (fun c => c.aLevel.toNat = 1 ∧ (1 : Fin 8) ∈ c.t.reserved ∧ c.t.positionOf 1 = some 1 ∧
      c.s0.octetBusy c.r.die c.r.core c.t 1 = false) ∧
    Meets .balloc false (fun c => c.aLevel.toNat = 2 ∧ (2 : Fin 8) ∈ c.t.reserved ∧ c.t.positionOf 2 = none ∧ c.t.freePosition = some 2) ∧
    Meets .balloc false (fun c => c.aLevel.toNat = 1 ∧ (1 : Fin 8) ∈ c.t.reserved ∧ c.t.positionOf 1 ≠ none ∧
      c.s0.octetBusy c.r.die c.r.core c.t 1 = true) ∧
    Meets .balloc false (fun c => ∀ o : Fin 8, o ∈ c.t.reserved → c.aLevel.toNat ≠ o.val) ∧
    Meets .bfree false (fun c => c.aLevel.toNat = 2 ∧ (2 : Fin 8) ∈ c.t.reserved ∧ c.t.positionOf 2 = none) ∧
    Meets .bfree false (fun c => c.aLevel.toNat = 1 ∧ (1 : Fin 8) ∈ c.t.reserved ∧ c.t.positionOf 1 = some 1 ∧
      c.s0.octetBusy c.r.die c.r.core c.t 1 = false) ∧
    Meets .bfree false (fun c => c.aLevel.toNat = 1 ∧ (1 : Fin 8) ∈ c.t.reserved ∧ c.t.positionOf 1 ≠ none ∧
      c.s0.octetBusy c.r.die c.r.core c.t 1 = true) ∧
    Meets .bfree false (fun c => ∀ o : Fin 8, o ∈ c.t.reserved → c.aLevel.toNat ≠ o.val) :=
  ⟨meets 0x7FFFFE8040085EC0 (richState .user) (by decide +kernel),
   meets 0x7FFFFE8080081EC0 (testState { testTeam with reserved := [0, 1, 2] } testGroup) (by decide +kernel),
   meets 0x7FFFFE8040085EC0 ((richState .user).modCore 0 0 (fun k => { k with seq := [seqItem 3 (.wload 9)] })) (by decide +kernel),
   meets 0x7FFFFE8080085EC0 (richState .user) (by decide +kernel),
   meets 0x7FFFFE80BFF81EC4 (testState { testTeam with reserved := [0, 1, 2] } testGroup) (by decide +kernel),
   meets 0x7FFFFE807FF81EC4 (richState .user) (by decide +kernel),
   meets 0x7FFFFE807FF81EC4 ((richState .user).modCore 0 0 (fun k => { k with seq := [seqItem 3 (.wload 9)] })) (by decide +kernel),
   meets 0x7FFFFE80BFF81EC4 (richState .user) (by decide +kernel)⟩

/-- A state-table entry for bank 9 with a chain of that bank, one row of activations, and the test state that holds both. -/
def testEntry : Entry := ⟨false, 9, [9], [1, 0, 0, 0]⟩
def testRow : ActRow := ⟨List.replicate 128 0, List.replicate 8 0x7F⟩
def bankState (t : Team) (g h : Group) (seq : List SeqItem) : State :=
  { (testState t g).modCore 0 0 (fun k =>
    { k with
      slots := k.slots.set 1 (some { h with gix := 1 }), table := k.table.set 5 ⟨some testEntry, false⟩, seq := seq
      octets := k.octets.set 1 ⟨some 7, .compute, [⟨0, testRow⟩, ⟨1, testRow⟩]⟩ }) with
    hbm := [(0x100, 0x19), (0x101, 1), (0x102, 9), (0x104, 9)] }
/-- Operations of another team that the sequencer holds. -/
def fullSeq (n : Nat) : List SeqItem := List.replicate n (seqItem 1 (.mac ⟨testEntry, false, [], 6⟩))

theorem test_witness_BankRows :
    Meets .bcfg false (fun c => c.aLevel.toNat = 5 ∧ c.Computes 1 ∧ c.queuedOn [Fin.ofNat 8 (5 / 4)] = false ∧
      (match (c.go .bcfg).readEntry with | .ok x => (parseEntry x.2).isSome | .error _ => false) = true) ∧
    Meets .bfeed false (fun c => c.f.mcast = 2 ∧ ∀ o : Fin 8, c.f.mcast.getLsbD o.val = true →
      c.Computes o.val ∧ (c.s0.core c.r.die c.r.core).octets[o].feed.length < 64) ∧
    Meets .bfeed false (fun c => c.f.mcast = 2 ∧ ∀ o : Fin 8, c.f.mcast.getLsbD o.val = true →
      c.Computes o.val ∧ (c.s0.core c.r.die c.r.core).octets[o].feed.length = 64) ∧
    Meets .bcfg false (fun c => c.aLevel.toNat = 32) ∧
    Meets .bdrain false (fun c => c.Computes (c.bankOf.val / 8) ∧ c.blockedOn [Fin.ofNat 8 (c.bankOf.val / 8)] = false ∧ c.f.dst = .q 2 ∧ drainW c.f.sub = (c.g.queue 2).depth) ∧
    Meets .bdrain false (fun c => c.Computes (c.bankOf.val / 8) ∧ c.f.dst = .t 2 ∧
      128 * drainW c.f.sub * ((if c.f.sx = .none then 0 else c.cLevel.toNat % 8) + 1) = 1024) ∧
    Meets .bdrain false (fun c => c.Computes (c.bankOf.val / 8) ∧ c.blockedOn [Fin.ofNat 8 (c.bankOf.val / 8)] = true ∧ c.f.dst = .v 4) ∧
    Meets .bclr false (fun c => c.Computes (c.bankOf.val / 8) ∧ (c.f.sub = 1 → rowOf c.f.dst = 0) ∧
      c.queuedOn [Fin.ofNat 8 (c.bankOf.val / 8)] = false) ∧
    Meets .bstat false (fun c => c.aLevel.toNat = 9 ∧ c.Computes 1 ∧ c.f.sub.getLsbD 2 = false ∧ c.f.sub.extractLsb' 0 2 ≠ 0) ∧
    Meets .bdrain false (fun c => (c.s0.core c.r.die c.r.core).octets[c.bankOf.val / 8].owner ≠ some c.t.uid) ∧
    Meets .bclr false (fun c => (c.s0.core c.r.die c.r.core).octets[c.bankOf.val / 8].owner = some c.t.uid ∧
      (c.s0.core c.r.die c.r.core).octets[c.bankOf.val / 8].mode = .storage) :=
  ⟨meets 0x7004817FF81EC9 (bankState testTeam (setAddr testGroup 1 fun _ => 0x100) testGroup []) (by decide +kernel),
   meets 0x7FF0200000000007340013FF81EDE (bankState testTeam testGroup testGroup []) (by decide +kernel),
   meets 0x7FF0200000000007340013FF81EDE ((bankState testTeam testGroup testGroup []).modCore 0 0 (fun k => { k with
     octets := k.octets.set 1 ⟨some 7, .compute, List.replicate 64 ⟨0, testRow⟩⟩ })) (by decide +kernel),
   meets 0x7004883FF81EC9 (bankState testTeam testGroup testGroup []) (by decide +kernel),
   meets 0x7FF0000000009007FFE604A101ED6 (bankState testTeam (richGroup .user) testGroup []) (by decide +kernel),
   meets 0x2010000000009007FFE604B101ED6 (bankState testTeam testGroup testGroup []) (by decide +kernel),
   meets 0x7FF0000000009007FFE6040201ED6 (bankState pairTeam testGroup { testGroup with hold := some (.octet 1) } []) (by decide +kernel),
   meets 0x9007FFFFFCC005ED9 (bankState testTeam testGroup testGroup []) (by decide +kernel),
   meets 0x7FFFFE8240085EE0 (bankState testTeam testGroup testGroup []) (by decide +kernel),
   meets 0x7FF0000000029007FFE6040201ED6 (bankState testTeam testGroup testGroup []) (by decide +kernel),
   meets 0x7007FFFFFCC081ED9 (bankState testTeam testGroup testGroup []) (by decide +kernel)⟩

/-- The arrival of the whole group at a gang operation. -/
def wholeArrival : GroupWide := ⟨0x1000, 0xFFFFFFFF, 0xFFFFFFFF, 0xFFFFFFFF, Vector.replicate 32 0, Vector.replicate 32 5⟩
/-- The test team with a gang of its two groups, and a latch. -/
def gangTeam (l : Option Latch) : Team := { pairTeam with gang := 3, latch := l }
/-- The other group's arrival. -/
def otherLatch : Latch := ⟨0x1000, [⟨1, 1, true, 5, 9, 2, false, 0x1010⟩], none⟩
/-- What the rendezvous asks of an arrival whose lanes are all there. -/
def gangChecks (c : Ctx) : Bool :=
  decide (∀ l : Lane, inMask wholeArrival.mask l = true → inMask wholeArrival.arrived l = true) &&
  c.t.gang.getLsbD c.g.gix.val && (match c.t.latch with | some l => decide (l.pc = c.pc) | none => true) &&
  decide (c.Computes (c.bankOf.val / 8)) && decide (c.SlotHolds wholeArrival.slotValue testEntry) &&
  decide (∀ b ∈ testEntry.chain, c.Computes (b.val / 8)) && decide (testEntry.accBank = c.bankOf) &&
  ((c.s0.core c.r.die c.r.core).takeRows c.r.slot testEntry).isSome &&
  c.gangSlots.all (fun i => match c.s0.group? ⟨c.r.die, c.r.core, i⟩ with | some g => !g.ended | none => false)
/-- The first run of an operation that names every lane, with slot 5. -/
abbrev gangFirst (c : Ctx) : Prop := c.run &&& ~~~0xFFFFFFFF = 0 ∧ c.g.gw = [] ∧ c.g.read32 c.f c.f.sx 0 = 0xFFFFFFFF ∧
  (∀ i : Lane, c.g.status[i] ≠ .exited) ∧ c.pc = 0x1000
/-- What an operation of one group asks besides: no `bfree` waits for an octet of it. -/
abbrev freeFor (c : Ctx) (sparse : Bool) : Prop := c.blockedOn (c.macOctets c.aLevel.toNat (c.oneMac testEntry sparse [testRow])) = false
/-- The last arrival of the gang, with one operation to make, for whose octets a `bfree` waits or not. -/
def lastArrival (c : Ctx) (sparse held : Bool) : Bool :=
  gangChecks c && (c.gangSlots.all fun i => (c.latchWith wholeArrival).arrivals.any (fun a => a.slot == i)) &&
  ((c.latchWith wholeArrival).arrivals.all fun a => a.table == wholeArrival.slotValue && a.bank == c.bankOf.val) &&
  c.blockedOn (c.macOctets 5 (c.s0.gangOp c.r.die c.r.core c.t.uid (c.latchWith wholeArrival) testEntry sparse)) == held
theorem test_witness_Multiplies :
    Meets .bmac false (fun c => c.f.sub ≠ 1 ∧ c.Multiplies testEntry [testRow] ∧ freeFor c false ∧
      (∀ x ∈ (c.s0.core c.r.die c.r.core).seq, x.accepted = true) ∧ (c.s0.core c.r.die c.r.core).macsHeld = 31) ∧
    Meets .bmacs false (fun c => c.f.sub ≠ 1 ∧ c.Multiplies testEntry [testRow] ∧ freeFor c true ∧
      (∀ x ∈ (c.s0.core c.r.die c.r.core).seq, x.accepted = true) ∧ (c.s0.core c.r.die c.r.core).macsHeld = 31) ∧
    Meets .bmac false (fun c => c.f.sub ≠ 1 ∧ c.Multiplies testEntry [testRow] ∧ freeFor c false ∧ (c.s0.core c.r.die c.r.core).macsHeld = 32) ∧
    Meets .bmac false (fun c => c.f.sub ≠ 1 ∧ c.Multiplies testEntry [testRow] ∧ freeFor c false ∧
      ∃ x ∈ (c.s0.core c.r.die c.r.core).seq, x.accepted = false) ∧
    Meets .bmac false (fun c => c.f.sub ≠ 1 ∧ c.Multiplies testEntry [testRow] ∧
      c.blockedOn (c.macOctets c.aLevel.toNat (c.oneMac testEntry false [testRow])) = true) ∧
    Meets .bmac true (fun c => c.f.sub = 1 ∧ gangFirst c ∧ ∃ l : Lane, inMask 0xFFFFFFFF l = true ∧ inMask c.run l = false) ∧
    Meets .bmac true (fun c => c.f.sub = 1 ∧ gangFirst c ∧ c.run = 0xFFFFFFFF ∧ (∀ i : Lane, c.a32 i = 5) ∧ gangChecks c = true ∧
      ∃ i ∈ c.gangSlots, (c.latchWith wholeArrival).arrivals.all (fun a => a.slot != i) = true) ∧
    Meets .bmacs true (fun c => c.f.sub = 1 ∧ gangFirst c ∧ c.run = 0xFFFFFFFF ∧ (∀ i : Lane, c.a32 i = 5) ∧ lastArrival c true false = true ∧
      (∀ x ∈ (c.s0.core c.r.die c.r.core).seq, x.accepted = true) ∧ (c.s0.core c.r.die c.r.core).macsHeld < 32) ∧
    Meets .bmacs true (fun c => c.f.sub = 1 ∧ gangFirst c ∧ c.run = 0xFFFFFFFF ∧ (∀ i : Lane, c.a32 i = 5) ∧ lastArrival c true false = true ∧
      32 ≤ (c.s0.core c.r.die c.r.core).macsHeld) ∧
    Meets .bmacs true (fun c => c.f.sub = 1 ∧ gangFirst c ∧ c.run = 0xFFFFFFFF ∧ (∀ i : Lane, c.a32 i = 5) ∧ lastArrival c true true = true) ∧
    Meets .bmac true (fun c => c.f.sub = 1 ∧ gangFirst c ∧ c.run = 0xFFFFFFFF ∧ c.m = 0 ∧ c.gangSlots = [0, 1] ∧
      (match c.s0.group? ⟨c.r.die, c.r.core, 1⟩ with | some g => g.ended | none => false) = true) :=
  ⟨meets 0x7FF0000000009007FFE814C181ECE (bankState testTeam testGroup testGroup (fullSeq 31)) (by decide +kernel),
   meets 0x407FF0000000009007FFE814C181ED2 (bankState testTeam testGroup testGroup (fullSeq 31)) (by decide +kernel),
   meets 0x7FF0000000009007FFE814C181ECE (bankState testTeam testGroup testGroup (fullSeq 32)) (by decide +kernel),
   meets 0x7FF0000000009007FFE814C181ECE (bankState testTeam testGroup testGroup
     [{ seqItem 1 (.mac ⟨testEntry, false, [], 6⟩) with accepted := false }]) (by decide +kernel),
   meets 0x7FF0000000009007FFE814C181ECE (bankState pairTeam testGroup { testGroup with hold := some (.octet 1) } []) (by decide +kernel),
   meets 0x1A10000000009007FFE814C185ECE (bankState (gangTeam none) splitGroup testGroup []) (by decide +kernel),
   meets 0x1A10000000009007FFE814C185ECE (bankState (gangTeam none) testGroup testGroup []) (by decide +kernel),
   meets 0x1A10000000009007FFE814C185ED2 (bankState (gangTeam (some otherLatch)) testGroup testGroup []) (by decide +kernel),
   meets 0x1A10000000009007FFE814C185ED2 (bankState (gangTeam (some otherLatch)) testGroup testGroup (fullSeq 32)) (by decide +kernel),
   meets 0x1A10000000009007FFE814C185ED2 (bankState (gangTeam (some otherLatch)) testGroup { testGroup with hold := some (.octet 1) } []) (by decide +kernel),
   meetsF { fieldsOf 0x1A10000000009007FFE814C185ECE with guard := 1 } (bankState (gangTeam none) testGroup { testGroup with ended := true } [])
     (by decide +kernel)⟩

/-! ### Row 0xC, fetching and traps -/

/-- The test group in a handler, with one entry of a cause. -/
def inHandler (cause : Byte) : Group := { testGroup with traps := [⟨.trap, ⟨cause, 0, 0x1234, 12, 0xF, 0, 0, none⟩, []⟩] }
/-- The device in firmware mode, issuing. -/
def firmState : State := { testState testTeam { (setAddr (setAddr testGroup 1 fun _ => 0x100) 2 fun _ => 128) with base := .firmware } with
  hbm := [(0x100, 3), (0x101, 2), (0x102, 1), (0x118, 16)] }
theorem test_witness_TrapReturns :
    Meets .tret false (fun c => c.g.traps = [⟨.trap, ⟨0x20, 0, 0x1234, 12, 0xF, 0, 0, none⟩, []⟩]) ∧
    Meets .tretSkip false (fun c => c.g.traps = [⟨.trap, ⟨0x20, 0, 0x1234, 12, 0xF, 0, 0, none⟩, []⟩]) ∧
    Meets .tret false (fun c => c.g.traps = [⟨.trap, ⟨0x08, 0, 0x1234, 12, 0xF, 0, 0, none⟩, []⟩] ∧ c.t.dispatcher = false) ∧
    Meets .tret false (fun c => c.g.traps = []) :=
  ⟨meets 0x7FFFFFFFFFF81F00 (testState testTeam (inHandler 0x20)) (by decide +kernel),
   meets 0x7FFFFFFFFFF85F00 (testState testTeam (inHandler 0x20)) (by decide +kernel),
   meets 0x7FFFFFFFFFF81F00 (testState testTeam (inHandler 0x08)) (by decide +kernel),
   meets 0x7FFFFFFFFFF81F00 firmState (by decide +kernel)⟩
theorem test_witness_ServiceRows :
    Meets .svcIcflush false (fun c => c.f.svcNumber = 0x11) ∧
    Meets .svcTransfer false (fun c => c.f.svcNumber = 0x10 ∧ (c.g.level64 c.f c.f.sb c.m).toNat % 64 = 0 ∧
      c.s0.transfers.length < 4096 ∧ (match c.translate (c.g.level64 c.f c.f.sb c.m) .read with | .ok _ => true | .error _ => false) = true) ∧
    Meets .svcTransfer false (fun c => c.f.svcNumber ≠ 0x10) ∧
    Meets .cflushWb false (fun c => (c.g.level64 c.f c.f.sa c.m).toNat % 128 = 0 ∧ c.bLevel.toNat % 128 = 0) ∧
    Meets .cflushWb false (fun c => (c.g.level64 c.f c.f.sa c.m).toNat % 128 ≠ 0) ∧
    Meets .tlbinv false (fun c => c.s0.xlat.busy = false ∧ c.f.sub.toNat % 4 = 3) ∧
    Meets .tlbinv false (fun c => c.s0.xlat.busy = false ∧ c.f.sub.toNat % 4 ≠ 3) ∧ Meets .tlbinv false (fun c => c.s0.xlat.busy = true) ∧
    Meets .idle false (fun c => c.g.mode = .firmware) ∧
    Meets .bremap false (fun c => c.aLevel.toNat = 64 * 4 + 0 ∧ (c.s0.core c.r.die 4).octets[octetOf 0].owner = none ∧ c.bLevel.toNat < 8192 ∧
      (c.s0.core c.r.die 4).banks[0].remap = []) ∧
    Meets .btest false (fun c => c.aLevel.toNat = 64 * 4 + 0 ∧ (c.s0.core c.r.die 4).octets[octetOf 0].owner = none) ∧
    Meets .btest false (fun c => 3072 = c.aLevel.toNat) :=
  ⟨meets 0x7FFFFE8440081F04 (richState .user) (by decide +kernel),
   meets 0x7FF0048400081F04 firmState (by decide +kernel),
   meets 0x7FFFFE8480081F04 (richState .user) (by decide +kernel),
   meets 0x7008013FF89F0D firmState (by decide +kernel),
   meets 0x700801BFF89F0D { firmState with cur := some testRef, dies := (testState testTeam
     { setAddr testGroup 3 (fun _ => 64) with base := .firmware }).dies } (by decide +kernel),
   meets 0x500700800BFF8DF09 firmState (by decide +kernel),
   meets 0x500700800BFF85F09 firmState (by decide +kernel),
   meets 0x500700800BFF85F09 { firmState with xlat := ⟨true, 0, 0, true, none⟩ } (by decide +kernel),
   meets 0x7FFFFFFFFFF81F10 firmState (by decide +kernel),
   meets 0x700800BFF81F19 firmState (by decide +kernel),
   meets 0x7FFE0080081F1D firmState (by decide +kernel),
   meets 0xC00007FFE6880081F1D firmState (by decide +kernel)⟩

/-- A block that asks a peer for 16 bytes, for a peer handle that has a queue pair. -/
theorem test_witness_ServiceRows_block (n : Nat) (h : Config.peerQp 1 = some n) :
    transferOk ([3, 2, 1] ++ List.replicate 21 0 ++ [16] ++ List.replicate 39 0) = true := by
  have e : (parseTransfer ([3, 2, 1] ++ List.replicate 21 0 ++ [16] ++ List.replicate 39 0)).granule = some 16 := by
    show (Config.peerQp 1).map (fun _ => 16) = some 16
    rw [h]; rfl
  unfold transferOk
  simp only [e]
  decide +kernel

/-- A condition on an issue that is under way, whatever the checks say. -/
def Under (p : Fields → Ctx → Prop) : Prop := ∃ (f : Fields) (s : State) (c : Ctx), s.ctx? f = some c ∧ p f c
theorem under {p : Fields → Ctx → Prop} [∀ f, DecidablePred (p f)] (w : BitVec 128) (s : State)
    (h : (match s.ctx? (fieldsOf w) with | some c => decide (p (fieldsOf w) c) | none => false) = true) : Under p := by
  split at h
  · rename_i c hc; exact ⟨_, _, c, hc, of_decide_eq_true h⟩
  · cases h
/-- The same for fields that are given. -/
theorem underF {p : Fields → Ctx → Prop} [∀ f, DecidablePred (p f)] (f : Fields) (s : State)
    (h : (match s.ctx? f with | some c => decide (p f c) | none => false) = true) : Under p := by
  split at h
  · rename_i c hc; exact ⟨_, _, c, hc, of_decide_eq_true h⟩
  · cases h
/-- The test group with an empty queue 2 and a drain in flight into it. -/
def drained : Group := { tagGroup 0 ⟨1, [], none⟩ with
  flights := [⟨5, false, 0, 16, .q 2, 1, 0xFFFFFFFF, 0, 0, Vector.replicate 32 0, [], some ⟨17, 0, 0, 0, none⟩, none, 0⟩] }
theorem test_witness_IssueChecks : ¬ padRow .iadd plain ∧ State.reset.ctx? plain = none ∧
    Under (fun _ c => Forbidden .idle c.g.mode) ∧ Under (fun f c => ¬ Forbidden .iadd c.g.mode ∧ c.m = 0 ∧ groupWideOp .iadd f = false) ∧
    Under (fun f c => c.m ≠ 0 ∧ operandsOk .iadd f c.g c.t = false) ∧
    Under (fun f c => c.m ≠ 0 ∧ operandsOk .iadd f c.g c.t = true ∧
      ∃ n ∈ opPops .iadd f, (c.g.queue n).items = [] ∧ c.g.drainInto n = false) ∧
    Under (fun f c => c.m ≠ 0 ∧ operandsOk .iadd f c.g c.t = true ∧ opPops .iadd f = [] ∧ opPushes .iadd f = some 2 ∧
      (c.g.queue 2).claim = none ∧ (c.g.queue 2).depth ≤ (c.g.queue 2).items.length - 0) ∧
    Under (fun f c => c.m ≠ 0 ∧ operandsOk .iadd f c.g c.t = true ∧ opPops .iadd f = [2] ∧ opPushes .iadd f = some 3 ∧ (c.g.queue 2).items = [] ∧
      c.g.drainInto 2 = true ∧ (c.g.queue 3).claim = none ∧ (c.g.queue 3).depth ≤ (c.g.queue 3).items.length - 0) ∧
    Under (fun f c => c.m ≠ 0 ∧ operandsOk .iadd f c.g c.t = true ∧ opPops .iadd f = [2] ∧ (c.g.queue 2).items = [] ∧
      c.g.drainInto 2 = true) :=
  ⟨by decide, rfl, under 0x7FFFFFFFFFF81F10 (richState .user) (by decide +kernel),
   under 0x7FF0060080080400 (richState .user) (by decide +kernel),
   under 0x7FF0060087801C00 (richState .user) (by decide +kernel),
   under 0x7FF0065080081C00 (testState testTeam (tagGroup 0 ⟨1, [], none⟩)) (by decide +kernel),
   under 0x7FF006008A101C00 (testState testTeam (tagGroup 0 ⟨1, [Vector.replicate 32 0], none⟩)) (by decide +kernel),
   underF { fieldsOf 0x7FF0065080081C00 with dst := .q 3 } (testState testTeam { drained with
     queues := drained.queues.set 3 ⟨1, [Vector.replicate 32 0], none⟩ }) (by decide +kernel),
   under 0x7FF0065080081C00 (testState testTeam drained) (by decide +kernel)⟩

/-- The state of a placed word. -/
def placed : State := State.reset.withFetchWord 64 0x7FFFFE0080081D00
/-- Whether the parts of `StandsAt` hold for a group. -/
def standsAt (s : State) (r : GRef) (g : Group) (t : Team) (pc : DWord) (op : Op) (f : Fields) : Bool :=
  g.runPc == some pc && pc.toNat % 4 == 0 &&
  match s.fetchPa r g t pc with
  | .error _ => false
  | .ok pa =>
    (match decodeAt pc (s.fetchBits r pa (32 - pc.toNat % 32)) with | .ok i => i == Instr.ofOp op f | .error _ => false) &&
    !s.poisonedIn pa (min (lenBytes (lenOf (s.fetchBits r pa (32 - pc.toNat % 32)))) (32 - pc.toNat % 32))
theorem stands_of {s : State} {r : GRef} {g : Group} {t : Team} {pc : DWord} {op : Op} {f : Fields}
    (h : standsAt s r g t pc op f = true) : StandsAt s r g t pc op f := by
  unfold standsAt at h
  simp only [Bool.and_eq_true, beq_iff_eq] at h
  obtain ⟨⟨h1, h2⟩, h3⟩ := h
  split at h3
  · cases h3
  · rename_i pa hpa
    simp only [Bool.and_eq_true, Bool.not_eq_true'] at h3
    obtain ⟨h4, h5⟩ := h3
    split at h4
    · rename_i i hi
      exact ⟨h1, h2, pa, hpa, hi.trans (congrArg _ (eq_of_beq h4)), h5⟩
    · cases h4
/-- Whether a group fetches an instruction that is no pad. -/
def fetchesAt (s : State) (r : GRef) (op : Op) (f : Fields) : Bool :=
  match s.group? r with
  | none => false
  | some g0 =>
    match s.team? r.die r.core g0.team with
    | none => false
    | some t =>
      match s.fetchRun r t padRun g0 with
      | some (g, pc, .instr i) => g0.mayIssue t s.now && !s.withheldFor r && !s.pctl.todo.contains (r.die, t.uid) && s.mgmt.powered &&
        i == Instr.ofOp op f && decide (¬ padRow op f) && g.operandsReady op f (g.runAt pc)
      | _ => false
theorem fetches_of {s : State} {r : GRef} {op : Op} {f : Fields} (h : fetchesAt s r op f = true) :
    ∃ g0 g t pc, Fetches s r g0 g t pc op f := by
  unfold fetchesAt at h
  split at h
  · cases h
  · rename_i g0 h0
    split at h
    · cases h
    · rename_i t ht
      split at h
      · rename_i g pc i hp
        simp only [Bool.and_eq_true, Bool.not_eq_true', decide_eq_true_eq, beq_iff_eq] at h
        obtain ⟨⟨⟨⟨⟨⟨h1, h7⟩, h2⟩, h3⟩, h4⟩, h5⟩, h6⟩ := h
        exact ⟨g0, g, t, pc, h0, ht, h1, h7, by simpa using h2, h3, h4 ▸ hp, h5, h6⟩
      · cases h
theorem test_witness_StepRunsDecoded : placed.agenda = [.issue probeRef] ∧
    (∃ g0 g t pc, Fetches { placed with agenda := [] } probeRef g0 g t pc .mov (fieldsOf 0x7FFFFE0080081D00)) ∧
    StandsAt placed probeRef { testGroup with base := .firmware } testTeam 0x1000 .mov (fieldsOf 0x7FFFFE0080081D00) ∧
    StandsAt (State.reset.withFetchWord 64 0x7FFFFFFFFFF9DDA4) probeRef { testGroup with base := .firmware } testTeam 0x1000 .nop
      (fieldsOf 0x7FFFFFFFFFF9DDA4) ∧
    ¬ padRow .mov (fieldsOf 0x7FFFFE0080081D00) ∧ padRow .nop (fieldsOf 0x7FFFFFFFFFF9DDA4) :=
  ⟨rfl, fetches_of (by decide +kernel), stands_of (by decide +kernel), stands_of (by decide +kernel), by decide +kernel, by decide +kernel⟩
theorem test_witness_RegisterRowFrame : Meets .iadd false (fun c => c.t.desc.fptrap = false) ∧ Op.opc .iadd < 0x49 :=
  ⟨meets 0x7FF0060080081C00 (richState .user) (by decide +kernel), by decide⟩
theorem test_witness_UniformRegisters : lowest 0xC = some 2 ∧ (3 : BitVec 10) ≠ 4 := by decide +kernel
theorem test_witness_Predicates : testGroup.pred 7 3 = true ∧ testGroup.pred 1 3 = false := by decide +kernel
/-- A breakpoint in firmware that DBGEN has sent there, and what firmware then does with it. -/
def debugged : State :=
  { handled (testState testTeam { testGroup with traps := [⟨.firmware, ⟨0x0C, 0, 0x1000, 8, 0xF, 0, 0, none⟩, []⟩] }) with
    agenda := [.passTrap testRef] }
theorem test_witness_TrapEntry :
    (∃ g t, (handled (testState testTeam testGroup)).Delivers testRef g t ⟨0x20, 0, 0x1000, 12, 0xF, 2, 0, none⟩ ∧
      (handled (testState testTeam testGroup)).owes testRef g = false ∧ g.pendingTrap = none) ∧
    (let s := testState testTeam { testGroup with flights := [⟨5, false, 0, 16, .v 2, 1, 1, 0, 0, Vector.replicate 32 0, [], none, none, 0⟩] }
     ∃ g, s.group? testRef = some g ∧ s.owes testRef g = true ∧ g.pendingTrap = none) ∧
    (∃ g t, (testState testTeam testGroup).group? testRef = some g ∧ (testState testTeam testGroup).team? 0 0 g.team = some t ∧
      (testState testTeam testGroup).owes testRef g = false ∧ g.pendingTrap = none ∧ t.dispatcher = false ∧
      (testState testTeam testGroup).handler t.asid = 0) ∧
    (let s := (testState testTeam testGroup).modDie 0 (fun x => { x with dbgen := true })
     ∃ g t, s.group? testRef = some g ∧ s.team? 0 0 g.team = some t ∧ s.owes testRef g = false ∧ g.pendingTrap = none ∧ g.mode = .user ∧
      (s.dies[0]).dbgen = true) ∧
    (debugged.agenda = [.passTrap testRef] ∧ ∃ g t x, debugged.group? testRef = some g ∧ debugged.team? 0 0 g.team = some t ∧
      g.traps = [x] ∧ x.mode = .firmware ∧ g.ended = false ∧ debugged.owes testRef g = false ∧ g.pendingTrap = none ∧ g.hold = none ∧
      { g with traps := [] }.mode = .user ∧ debugged.handler t.asid ≠ 0) := by
  refine ⟨⟨testGroup, testTeam, ⟨rfl, rfl, rfl, by decide +kernel, fun h => absurd h.1 (by decide), by decide⟩, by decide +kernel, rfl⟩,
    ⟨_, rfl, by decide +kernel, rfl⟩, ⟨testGroup, testTeam, rfl, rfl, by decide +kernel, rfl, rfl, by decide +kernel⟩,
    ⟨testGroup, testTeam, rfl, rfl, by decide +kernel, rfl, rfl, by decide +kernel⟩,
    rfl, _, testTeam, _, rfl, rfl, rfl, rfl, rfl, by decide +kernel, rfl, rfl, rfl, by decide +kernel⟩
/-- An access fault of a read at address 64, whose page the core's TLB holds and, in `walkState`, a walk finds. -/
def faultInfo : TrapInfo := ⟨0x21, 0x02, 0x1000, 12, 0xF, 64, 0, none⟩
theorem test_witness_TrapEntry_fault : walkState.group? testRef = some testGroup ∧ walkState.team? 0 0 testGroup.team = some testTeam ∧
    faultInfo.cause = 0x21 ∧ faultInfo.detail = 0x02 ∧ canonical faultInfo.addr = true ∧ walkState.owes testRef testGroup = false ∧
    testGroup.pendingTrap = none ∧ testGroup.mode ≠ .firmware ∧
    tlbFind (walkState.core 0 0).tlb (faultInfo.asid testTeam) (va57 faultInfo.addr) ≠ none ∧
    ∃ y, (walkState.faulted testRef faultInfo).walk 0 (faultInfo.asid testTeam) (va57 faultInfo.addr) = .ok y := by
  refine ⟨rfl, rfl, rfl, rfl, by decide, by decide +kernel, rfl, by decide, by decide +kernel, ?_⟩
  have h : (match (walkState.faulted testRef faultInfo).walk 0 (faultInfo.asid testTeam) (va57 faultInfo.addr) with
    | .ok _ => true | .error _ => false) = true := by decide +kernel
  split at h
  · exact ⟨_, by assumption⟩
  · cases h
theorem test_witness_MemoryFormKept : (testState testTeam testGroup).memoryOk ∧ ∃ t, step (testState testTeam testGroup) = .next t :=
  ⟨memoryOk_test _ _, _, rfl⟩

/-! ### Events -/

/-- The test state at a time. -/
def later (g : Group) (now : Nat) : State := { testState testTeam g with now := now }
/-- The test group held as a whole. -/
def heldBy (h : Hold) : Group := { testGroup with hold := some h }
/-- A load in flight to v9, poisoned in some lanes. -/
def flightOf (bad : Mask) : Flight := ⟨5, false, 0x1000, 12, .v 9, 1, 0xFFFFFFFF, bad, 64, Vector.replicate 32 3, [], none, none, 0⟩
/-- One that has yet to read address 64 in lane 0. -/
def lateFlight : Flight := { flightOf 0 with mask := 1, late := some ⟨4, 4, 0, false, false, [⟨0, 64, 64, 0⟩]⟩ }
/-- A group that waits with one packet for die 1. -/
def sending : Hold := .pksend [(0, 1, 0)] 0 1 plain
/-- The device where it stands, and die 1 with a full mailbox or an empty one. -/
def sendState (full : Bool) : State :=
  (later (heldBy sending) 0).modDie 1 (fun x => { x with box := if full then List.replicate 4096 ⟨0, 5, .die 3, none⟩ else [] })

theorem test_witness_GroupEvents :
    (∃ g, (later { testGroup with status := testGroup.status.set 3 (.asleep 10) } 10).group? testRef = some g ∧ g.status[3] = .asleep 10) ∧
    (∃ g, (later { testGroup with sched := { testGroup.sched with yieldAt := some 6 } } 70).group? testRef = some g ∧
      g.sched.yieldAt = some 6 ∧ 6 + 64 ≤ 70) ∧
    (later (heldBy (.fence 3 true)) 0).holdOf testRef = some (.fence 3 true) ∧
    (later (heldBy (.fence 3 false)) 0).holdOf testRef = some (.fence 3 false) ∧
    (sendState false).holdOf testRef = some sending ∧
    ((sendState false).sendAll 0 ((sendState false).asidOf testRef) [(0, 1, 0)]).2 = [] ∧ (sendState true).holdOf testRef = some sending ∧
    ((sendState true).sendAll 0 ((sendState true).asidOf testRef) [(0, 1, 0)]).2 ≠ [] ∧
    (∃ g, (later { testGroup with flights := [flightOf 0] } 0).group? testRef = some g ∧ (9 : BitVec 8).toNat < g.vLimit ∧
      g.flights.find? (fun y => y.id == 5 && y.atomic == false && y.drain.isNone) = some (flightOf 0) ∧ ∀ y ∈ g.flights, y.late = none) ∧
    (∃ g, (later { testGroup with flights := [lateFlight] } 0).group? testRef = some g ∧ g.flights.filter (fun y => y.id == 5) = [lateFlight] ∧
      lateFlight.drain = none ∧ lateFlight.late ≠ none) ∧
    (∃ g, (later { testGroup with flights := [flightOf 6] } 0).group? testRef = some g ∧ g.pendingTrap = none ∧ g.ended = false ∧
      ∃ i : Lane, inMask (flightOf 6).poisoned i = true ∧ g.status[i] ≠ .exited) ∧
    (let s := later { testGroup with pendingTrap := some ⟨0x30, 1, 0x1000, 12, 6, 64, 0, none⟩ } 0
     ∃ g, s.group? testRef = some g ∧ s.owes testRef g = false ∧ g.pendingTrap ≠ none ∧ g.ended = false) ∧
    (∃ g, (later (heldBy .queue) 256).group? testRef = some g ∧ g.ended = false ∧ g.allHeld = true ∧ g.sched.lastIssue + 256 ≤ 256) ∧
    (∃ g, (later { testGroup with lease := { testGroup.lease with accesses := 4096 } } 0).group? testRef = some g ∧ g.lease.measured = true ∧
      4096 ≤ g.lease.accesses) ∧
    (∃ g, ({ placed with now := 4096 }).group? probeRef = some g ∧ ({ placed with now := 4096 }).eligible probeRef = true ∧
      g.sched.since + 4096 ≤ 4096) :=
  ⟨⟨_, rfl, by decide +kernel⟩, ⟨_, rfl, rfl, by decide⟩, by decide +kernel, by decide +kernel, by decide +kernel, by decide +kernel,
   by decide +kernel, by decide +kernel, ⟨_, rfl, by decide +kernel, by decide +kernel, by decide +kernel⟩,
   ⟨_, rfl, by decide +kernel, rfl, by decide⟩,
   ⟨_, rfl, rfl, rfl, 1, by decide +kernel, by decide +kernel⟩,
   ⟨_, rfl, by decide +kernel, by decide +kernel, rfl⟩, ⟨_, rfl, rfl, by decide +kernel, by decide⟩, ⟨_, rfl, rfl, by decide⟩,
   ⟨_, rfl, by decide +kernel, by decide⟩⟩

/-- A superstep that every team of its only range has reached. -/
theorem test_witness_GroupEvents_superstep :
    let l : Launch := ⟨1, 1, 0, 5, 9, 0, [(0, 3, 1)], [], none, 0⟩
    let s := { later { testGroup with status := Vector.replicate 32 .sstepHold } 0 with launches := [l] }
    (s.launches.find? (fun x => x.asid == 5 && x.grid == 9) = some l ∧ l.ranges ≠ [] ∧
      ∀ x ∈ l.ranges, s.stepArrived ⟨5, 9⟩ l x = true ∧ s.dies[x.1].stepSent ⟨5, 9⟩ l.step = true) := by decide +kernel

/-- A saved team of die 0 that waits to be restored on core 0, the place of its record given. -/
def savedTeam (resume : Bool) (addr : Nat) : Saved :=
  { team := { testTeam with uid := 9 }, groups := [(1, { testGroup with team := 9 })], banks := [], octets := [], table := [], seq := [], core := 0
    swap := true, addr := addr, bytes := 112, corrupt := false, resume := resume }
/-- The device at the time of a swap-out: nothing of core 0 has issued for long, and a saved team is bound for it. -/
def stuckState : State := { (testState testTeam testGroup).modDie 0 (fun x => { x with saved := [savedTeam true 0] }) with now := 65536 }
/-- Two teams of core 0 whose groups wait for granules, with `n` granules free. -/
def growing (n : Nat) : State :=
  (testState testTeam (heldBy (.vgrow 2))).modCore 0 0 (fun k => { k with
    slots := k.slots.set 1 (some { heldBy (.vgrow 1) with team := 6, budget := 474 - n })
    teams := k.teams ++ [{ testTeam with uid := 6, age := 20, slots := [1] }] })
theorem test_witness_SchedulerEvents :
    (∃ x y, ((growing 2).workGroups 0 0).filter (fun y => y.2.2.growing) = [x, y] ∧
      ([x, y].insertionSort (fun y z => olderGroup y z = true)).head?.map (fun x => x.2.1) = some testRef ∧
      (growing 2).teamGranules 0 0 x.1 + x.2.2.wants ≤ coreGranules 0 ∧ x.2.2.wants = 2 ∧ x.2.2.wants ≤ (growing 2).freeGranules 0 0) ∧
    (∃ x y, ((growing 1).workGroups 0 0).filter (fun y => y.2.2.growing) = [x, y] ∧ (growing 1).freeGranules 0 0 < x.2.2.wants ∧
      (∀ z ∈ (growing 1).workGroups 0 0, z.2.2.growing = true) ∧ y.1.uid ≠ x.1.uid) ∧
    ((testState testTeam testGroup).core 0 0).gateAt + 64 ≤ (later testGroup 64).now ∧
    testGroup.sched.dormant = false ∧ (0 + testGroup.lease.units ≤ 64 ∨ false = false) ∧
    ((testState testTeam testGroup).core 0 0).adm.epochAt + 16384 ≤ (later testGroup 16384).now ∧
    Admission.reset.adapt = true ∧ Admission.reset.misses ≤ 32 * Admission.reset.contentions ∧
    (let x : Child := ⟨0x1000, [], 7, 5, testDesc, 0, 0, 0, 0, 0⟩
     let s := (later testGroup 1024).modCore 0 0 (fun k => { k with children := [x] })
     (s.core 0 0).children.find? (fun y => y.label == 0x1000) = some x ∧ s.dies[0].waitCount < 256 ∧ x.since + 1024 ≤ s.now) ∧
    (let s := testState { testTeam with label := some 0x1000, deposits := [⟨1, []⟩] } { testGroup with ended := true }
     ∃ t, s.team? 0 0 7 = some t ∧ t.label = some 0x1000 ∧ t.deposits ≠ [] ∧
      ∀ p ∈ s.groupsOf 0 0 t, p.2.ended = true ∧ p.2.flights = [] ∧ ∀ i : Fin 8, p.2.tags[i] = 0) ∧
    (let s := (State.reset.startDispatcher 0 (some (5, testDesc))).modGroup (dispatcherRef 0) (fun g => { g with ended := true })
     ∃ g, s.group? (dispatcherRef 0) = some g ∧ g.ended = true ∧ s.dies[0].disp.pending = []) ∧
    ((later testGroup 0).modDie 0 (fun x => { x with dieEventPending := true })).dies[0].dieEventPending = true := by
  refine ⟨⟨(testTeam, testRef, heldBy (.vgrow 2)), _, rfl, by decide +kernel, by decide +kernel, by decide +kernel, by decide +kernel⟩,
    ⟨(testTeam, testRef, heldBy (.vgrow 2)), _, rfl, by decide +kernel, by decide +kernel, by decide⟩,
    by decide +kernel, rfl, .inl (by decide), by decide +kernel, rfl, by decide,
    ⟨by decide +kernel, by decide +kernel, by decide⟩, ⟨_, rfl, rfl, by decide +kernel, by decide +kernel⟩, ⟨_, rfl, rfl, by decide +kernel⟩,
    by decide +kernel⟩
theorem test_witness_SchedulerEvents_bound :
    (((stuckState.allocWalk 0).bound.find? (fun x => x.2.contains 0)).isSome = true ∧
      (∀ u ∈ (stuckState.core 0 0).accounted, ∀ p ∈ stuckState.groupsOf 0 0 u, p.2.sched.lastIssue + 65536 ≤ stuckState.now) ∧
      ((stuckState.core 0 0).accounted.insertionSort (fun a b => swapBefore a b = true)).length ≠ 0) ∧
    (State.reset.dies[0].saved = [] ∧ testTeam.desc.halo = false ∧ (State.reset.core 0 0).fits 0 (State.reset.core 0 0).accounted testTeam.desc = true) ∧
    ((testState testTeam testGroup).dies[0].saved = [] ∧
      (let d := { testDesc with octets := 8 }
       ((testState testTeam testGroup).core 0 0).fits 0 ((testState testTeam testGroup).core 0 0).accounted d = false)) ∧
    ((let s := later { testGroup with hold := some (.vgrow 500) } 0
      ((s.workGroups 0 0).filter (fun y => y.2.2.growing)).map (fun y => y.2.1) = [testRef] ∧
        coreGranules 0 < s.teamGranules 0 0 testTeam + 500)) ∧
    (growing 1).swaps 0 0 { testTeam with uid := 6, age := 20, slots := [1] } = false ∧
    ((growing 1).modDie 0 (fun x => { x with saveSize := 0x100000 })).swaps 0 0 { testTeam with uid := 6, age := 20, slots := [1] } = true := by
  refine ⟨⟨?_, ?_, ?_⟩, ?_, ?_, ?_, ?_, ?_⟩ <;> decide +kernel

/-- An engine operation of the test team, every chunk sent. -/
def opOf (kind : EngKind) (done : Completion) (src dst : DWord) (len : Nat) : EngineOp :=
  ⟨3, kind, done, 5, 0, 7, 0, 9, 0, src, dst, len, 17408, 0⟩
/-- The test state with an engine operation, barrier register 2 forked, a launch of its grid on die 0, and layout records at 0x100 and 0x200. -/
def engState (op : EngineOp) : State :=
  { (testState { testTeam with barriers := testTeam.barriers.set 2 ⟨1, 0, 0, 1⟩ } testGroup).modDie 0 (fun x =>
      { x with engines := [op], tlb := [⟨5, 0, 2097152, 0, ⟨true, true, true, 0, true, true, false, false⟩⟩] }) with
    launches := [⟨1, 1, 0, 5, 9, 0, [(0, 0, 1)], [], none, 0⟩]
    hbm := [(0x108, 0x10), (0x109, 1), (0x10C, 1), (0x208, 0x10), (0x209, 1), (0x20C, 1)] }
theorem test_witness_EngineCompletions :
    (let op := opOf (.cpy 2) (.bar 2) 0x100 0x108 16
     (engState op).engine? 0 op.id = some op ∧ (engState op).CopyFails 0 op 2 0x05) ∧
    (let op := opOf (.cpy 0) (.bar 2) 0x100 131072 16
     (engState op).engine? 0 op.id = some op ∧ (engState op).stopped 0 op = false ∧ ∃ e, (engState op).CopyFails 0 op 0 e) ∧
    (let op := opOf (.cpy 0) (.bar 2) 0x100 131056 16
     (engState op).engine? 0 op.id = some op ∧ (engState op).stopped 0 op = false ∧ (engState op).CopyGoes 0 op 0 ∧ op.moved = true) ∧
    (let op := opOf .input .input 0x100 0 16
     (engState op).engine? 0 op.id = some op ∧ (engState op).stopped 0 op = false ∧ (engState op).CopyGoes 0 op 0 ∧ op.moved = true) ∧
    (let op := opOf .input .input 0x100 131072 16
     (engState op).engine? 0 op.id = some op ∧ (engState op).stopped 0 op = false ∧ ∃ e, (engState op).CopyFails 0 op 0 e) ∧
    (let op := opOf (.cpyt 2) (.tag 1) 0x100 0x200 16
     (engState op).engine? 0 op.id = some op ∧ op.moved = true) ∧
    (let op := opOf (.xform 0 0 0) (.bar 2) 0x300 0x200 0
     (engState op).engine? 0 op.id = some op ∧ (match (engState op).readRecord 0 5 op.src with | .ok _ => false | .error _ => true) = true) ∧
    (let op := opOf (.xform 0 0 0) (.bar 2) 0x100 0x300 0
     (engState op).engine? 0 op.id = some op ∧ (match (engState op).readRecord 0 5 op.src, (engState op).readRecord 0 5 op.dst with
       | .ok _, .error _ => true | _, _ => false) = true) ∧
    (let op := opOf (.xform 0 0 0) (.bar 2) 0x100 0x200 0
     (engState op).engine? 0 op.id = some op ∧ (engState op).stopped 0 op = false ∧
      (match (engState op).readRecord 0 5 op.src, (engState op).readRecord 0 5 op.dst with | .ok _, .ok _ => true | _, _ => false) = true) ∧
    (let op := opOf (.wload 9) (.bar 2) 0x100 0 17408
     ∃ t, (engState op).engine? 0 op.id = some op ∧ (engState op).wloadWaits 0 op 9 = false ∧ op.moved = true ∧
      (engState op).opTeam? 0 op = some t ∧ ((engState op).core 0 0).octetMode t 1 = some .compute) ∧
    (let op := opOf (.wload 7) (.bar 2) 0x100 0 17408
     ∃ t, (engState op).engine? 0 op.id = some op ∧ (engState op).wloadWaits 0 op 7 = false ∧ op.moved = true ∧
      (engState op).opTeam? 0 op = some t ∧ ((engState op).core 0 0).octetMode t 0 ≠ some .compute) ∧
    (let op := opOf (.xsend false 1 0) .interval 0x100 0 16
     (engState op).engine? 0 op.id = some op ∧ (1 : DieId) ∉ (engState op).stepSet ⟨5, 9⟩) ∧
    (let op := opOf (.xsend true 0 0) .interval 0x100 0 16
     (engState op).engine? 0 op.id = some op ∧ (engState op).stopped 0 op = false ∧ (0 : DieId) ∈ (engState op).stepSet ⟨5, 9⟩ ∧
      op.moved = true) := by
  refine ⟨⟨?_, .inl ?_⟩, ⟨?_, ?_, 0x03, .inr (.inr ?_)⟩, ?_, ?_, ⟨?_, ?_, 0x03, .inr (.inr ?_)⟩, ?_, ?_, ?_, ?_,
    ⟨_, by decide +kernel, by decide +kernel, by decide, rfl, by decide +kernel⟩,
    ⟨_, by decide +kernel, by decide +kernel, by decide, rfl, by decide +kernel⟩, ?_, ?_⟩ <;> decide +kernel
/-- A collective of the test team's grid. -/
def collOp (kind : BitVec 3) (n : Word) (m : Nat) (done : Option Byte) : EngineOp := opOf (.coll kind 0 n m done) (.bar 2) 0x1000 0x2000 16
theorem test_witness_EngineCompletions_coll :
    ((engState (collOp 1 0 0 (some 0))).engine? 0 3 = some (collOp 1 0 0 (some 0))) ∧
    ((engState (collOp 1 0 0 none)).engine? 0 3 = some (collOp 1 0 0 none) ∧ (0 : DieId) ∈ (engState (collOp 1 0 0 none)).participants ⟨5, 9⟩ 1 0 0 ∧
      (∀ x ∈ (engState (collOp 1 0 0 none)).participants ⟨5, 9⟩ 1 0 0, ((engState (collOp 1 0 0 none)).collOf x ⟨5, 9⟩ 0).isSome = true) ∧
      ((((engState (collOp 1 0 0 none)).collPerform 1 0 0 [(0, collOp 1 0 0 none)] true).engine? 0 3).any (fun o =>
        match o.kind with | .coll _ _ _ _ (some _) => true | _ => false)) = true) ∧
    ((engState (collOp 3 7 0 none)).engine? 0 3 = some (collOp 3 7 0 none) ∧ (engState (collOp 3 7 0 none)).outsider 0 ⟨5, 9⟩ 3 0 7 = true) ∧
    (engState (collOp 3 7 0 none)).mergeOf ⟨5, 9⟩ 0 (expertOf 7) = none ∧
    ({ engState (collOp 3 7 0 none) with merges := [⟨⟨5, 9⟩, 0, 7, [0], [0], true⟩] }).mergeOf ⟨5, 9⟩ 0 (expertOf 7) ≠ none ∧
    (let op := opOf (.cpy 2) (.bar 2) 0x100 0x108 16
     ∃ t, (engState op).team? 0 0 7 = some t ∧ t.desc.halo = false ∧ (t.berr[2]).getLsbD 31 = false) := by
  refine ⟨?_, ?_, ?_, ?_, ?_, ⟨_, rfl, rfl, by decide +kernel⟩⟩ <;> decide +kernel

/-- A seal of a page of an address space whose first page is one of 4 KiB, or the first of a page of 2 MiB. -/
def sealOp (read : Option SealRead) : EngineOp := opOf (.seal none true read) (.bar 2) 0x0 0 4096
def mapped (large : Bool) (read : Option SealRead) : State :=
  { engState (sealOp read) with
    xlat := ⟨true, 0, 0, false, none⟩
    sealWatch := read.map (fun _ => [])
    hbm := [(80, 1), (82, 1), (0x10000, 1), (0x10001, 0x10), (0x10002, 1), (0x11000, 1), (0x11001, 0x20), (0x11002, 1), (0x12000, 1),
      (0x12001, 0x30), (0x12002, 1)] ++ (if large then [(0x13000, 0x9F)] else [(0x13000, 1), (0x13001, 0x40), (0x13002, 1), (0x14000, 0x9F)])
    dies := Vector.replicate 32 { Die.reset with engines := [sealOp read] } }
/-- What the check of the seal finds: nothing, or a code. -/
def sealFinds (large : Bool) (read : Option SealRead) : Option Byte :=
  match (mapped large read).sealCheck 0 5 0 4096 none with | .ok _ => none | .error e => some e
theorem test_witness_EngineCompletions_seal :
    ((mapped false none).engine? 0 3 = some (sealOp none) ∧ sealFinds false none = none) ∧
    ((mapped true none).engine? 0 3 = some (sealOp none) ∧ sealFinds true none = some codeLayout) ∧
    ((mapped false (some ⟨0, []⟩)).engine? 0 3 = some (sealOp (some ⟨0, []⟩)) ∧ sealFinds false (some ⟨0, []⟩) = none) ∧
    ((mapped true (some ⟨0, []⟩)).engine? 0 3 = some (sealOp (some ⟨0, []⟩)) ∧ sealFinds true (some ⟨0, []⟩) = some codeLayout) := by decide +kernel

/-- An operation on bank 9, as an item of bank order, and a drain of row 1 of bank 9 to v4 to v7, not yet read or read. -/
def macOp : BankOp := ⟨testEntry, false, [⟨3, [testRow]⟩], 7⟩
def macItem (accepted running : Bool) : SeqItem := ⟨4, accepted, running, MacRun.fresh, .mac macOp⟩
def drainFlight (read : Option (List Byte)) : Flight :=
  ⟨5, false, 0x1000, 16, .v 4, 4, 0xFFFFFFFF, 0, 0, Vector.replicate 32 0, [], some ⟨9, 1, 0, 0, read⟩, none, 0⟩
theorem test_witness_BankEvents :
    (let s := bankState testTeam (heldBy (.bank 4 true)) testGroup (fullSeq 31 ++ [macItem false false])
     ∃ g, s.group? testRef = some g ∧ g.hold = some (.bank 4 true) ∧ (s.core 0 0).nextAccepted = some (macItem false false) ∧
      (s.core 0 0).macsHeld = 31) ∧
    (let s := bankState testTeam (heldBy (.bank 4 true)) testGroup (fullSeq 32 ++ [macItem false false])
     (s.core 0 0).macsHeld = 32) ∧
    (let s := bankState (gangTeam (some ⟨0x1000, [], some 4⟩)) testGroup testGroup [macItem false false]
     ∃ g t, s.group? testRef = some g ∧ g.hold = none ∧ s.team? 0 0 g.team = some t ∧ t.latch = some ⟨0x1000, [], some 4⟩ ∧
      (s.core 0 0).nextAccepted = some (macItem false false) ∧ (s.core 0 0).macsHeld < 32) ∧
    (let s := bankState testTeam (heldBy (.feed [1] testRow)) testGroup []
     ∃ g, s.group? testRef = some g ∧ g.hold = some (.feed [1] testRow) ∧
      (∀ o ∈ ([1] : List (Fin 8)).filter ((s.core 0 0).feeds g.team), (s.core 0 0).feedRoom o = true)) ∧
    (let s := (bankState testTeam (heldBy (.feed [1] testRow)) testGroup []).modCore 0 0 (fun k => { k with
       octets := k.octets.set 1 ⟨some 7, .compute, List.replicate 64 ⟨0, testRow⟩⟩ })
     ∃ g, s.group? testRef = some g ∧ g.hold = some (.feed [1] testRow) ∧
      ∃ o ∈ ([1] : List (Fin 8)).filter ((s.core 0 0).feeds g.team), (s.core 0 0).feedRoom o = false) ∧
    (let s := bankState testTeam testGroup testGroup [macItem true false]
     (s.core 0 0).seq.find? (fun x => x.id == 4) = some (macItem true false) ∧ (s.core 0 0).banksBlocked (macItem true false) = false ∧
      (s.core 0 0).rowsBlocked (macItem true false) = false ∧
      ∀ b ∈ macOp.entry.chain, (s.core 0 0).banks[b].failed = false ∧ (s.core 0 0).banks[b].quarantined = false) ∧
    (let s := (bankState testTeam testGroup testGroup [macItem true false]).modCore 0 0 (fun k => k.modBank 9 (fun b => { b with failed := true }))
     (s.core 0 0).banksBlocked (macItem true false) = false ∧ (s.core 0 0).rowsBlocked (macItem true false) = false ∧
      ∃ b ∈ macOp.entry.chain, (s.core 0 0).banks[b].failed = true) ∧
    (let s := bankState testTeam testGroup testGroup [macItem true true]
     (s.core 0 0).seq.find? (fun x => x.id == 4) = some (macItem true true) ∧
      (((s.runOut 0 4 macOp.cycles).core 0 0).seq.find? (fun x => x.id == 4)).isSome = true) ∧
    (let s := bankState testTeam { testGroup with flights := [drainFlight none] } testGroup [seqItem 5 (.drain testRef 9 1)]
     ∃ g y, s.group? testRef = some g ∧ g.drain? 5 = some (drainFlight none, y) ∧ y.read = none ∧
      (s.core 0 0).rowsBlocked (seqItem 5 (.drain testRef y.bank y.row)) = false ∧ 4 + 4 ≤ g.vLimit) ∧
    (let s := bankState testTeam { testGroup with flights := [drainFlight (some [])] } testGroup []
     ∃ g y, s.group? testRef = some g ∧ g.drain? 5 = some (drainFlight (some []), y) ∧ y.read = some [] ∧
      g.drainRoom (drainFlight (some [])) = true) := by
  refine ⟨⟨_, rfl, rfl, by decide +kernel, by decide +kernel⟩, ?_, ⟨_, _, rfl, rfl, rfl, rfl, by decide +kernel, by decide +kernel⟩,
    ⟨_, rfl, rfl, by decide +kernel⟩, ⟨_, rfl, rfl, by decide +kernel⟩, ?_, ?_, ?_,
    ⟨_, _, rfl, rfl, rfl, by decide +kernel, by decide +kernel⟩, ⟨_, _, rfl, rfl, rfl, by decide +kernel⟩⟩ <;> decide +kernel

/-- One block term of an operation, and an operation of FP4 and of INT8 whose first block is not skipped or is. -/
theorem test_witness_BankEvents_terms :
    (let run : MacRun := { MacRun.fresh with terms := [⟨0, 0, 0, Vector.replicate 128 0x3F800000, none⟩] }
     let k := (bankState testTeam testGroup testGroup []).core 0 0
     macOp.members = [⟨3, [testRow]⟩] ∧ k.banks[macOp.entry.accBank].accPoison[(3 : Fin 8)] = none ∧ (∀ t ∈ run.terms, t.poison = none) ∧
      (127 : Nat) < (if macOp.entry.i8 then 64 else 128)) ∧
    macOp.absent 0 0 3 = false ∧ macOp.act? (0 / 8) 0 = some testRow ∧ macOp.skipped testRow 0 (0 % 8) = true ∧
    macOp.skipped ⟨List.replicate 128 0x11, List.replicate 8 0x7F⟩ 0 (0 % 8) = false ∧ (0x3F800000 : Word).extractLsb' 23 8 ≠ 0xFF ∧
    (0x7F800001 : Word).extractLsb' 23 8 = 0xFF ∧ (0x7F800001 : Word).extractLsb' 0 23 ≠ 0 ∧ (0xFF800000 : Word).extractLsb' 0 23 = 0 := by
  decide +kernel

/-- A saved team with the record at 0x200 that its header checks: MAGIC, VERSION, no body beyond 512 zeros, and the CRC of the rest. -/
def recordState (corrupt : Bool) : State :=
  State.reset.modDie 0 (fun x => { x with saved := [{ savedTeam true 0x200 with corrupt := corrupt }] })
/-- The device in minimal mode. -/
def minimalState : State := { State.reset with boot := { Boot.reset with minimal := true, stage := 3 } }
/-- A HALT-SAVE that has yet to save team 9 of die 0, whose save area is of a size, and the team where it waits or was saved. -/
def halting (size : Nat) (saved : Bool) : State :=
  { State.reset.modDie 0 (fun x => { x with
      saveSize := BitVec.ofNat 32 size, waitList := if saved then [] else [{ testTeam with uid := 9 }], saved := if saved then [savedTeam true 0] else [] }) with
    pctl := ⟨1, true, 0, 0, [(0, 9)]⟩ }
/-- A team saved before it was placed, whose record is not sound. -/
def waitingSaved : Saved := { savedTeam true 0x200 with groups := [], corrupt := true }
theorem test_witness_PreemptionAndTranslation_waiting :
    ((0, 9) ∈ (halting 0x100000 false).pctl.todo ∧ (halting 0x100000 false).homeOf 0 9 = none ∧
      ((halting 0x100000 false).dies[0].waitList.find? (fun x => x.uid == 9)).isSome = true ∧ (halting 0x100000 false).dies[0].saveRoom 1 = true ∧
      ((halting 0x100000 false).dies[0].saveAt 1).isSome = true) ∧
    ((halting 100 false).homeOf 0 9 = none ∧ (halting 100 false).dies[0].saveRoom 1 = false) ∧
    ((0, 9) ∈ (halting 0x100000 true).pctl.todo ∧ (halting 0x100000 true).homeOf 0 9 = none ∧ ∀ t ∈ (halting 0x100000 true).dies[0].waitList, t.uid ≠ 9) ∧
    (waitingSaved.groups.length = 0 ∧ State.reset.recordGood waitingSaved = false) ∧
    ((stuckState.dies[0].saved.map (fun x => x.team.uid)).Nodup ∧ ∀ x ∈ stuckState.dies[0].saved, x.groups.length ≠ 0) := by
  refine ⟨?_, ?_, ?_, ?_, ?_⟩ <;> decide +kernel
theorem test_witness_PreemptionAndTranslation :
    minimalState.boot.minimal = true ∧ State.reset.boot.minimal = false ∧ State.reset.pctl.busy = false ∧ (0x00000001_00000001 : DWord).toNat % 4 = 1 ∧ (0x00000001_00000001 : DWord).toNat / 4 % 4 ≠ 3 ∧
    (let s := (testState testTeam testGroup).modDie 0 (fun x => { x with saveSize := 112 })
     pctlDie 0x00000001_00000001 0 = true ∧ 112 ≤ s.dies[0].saveSize.toNat ∧ 7 ∈ s.selected 0 0x00000001_00000001) ∧
    (∃ x ∈ (stuckState.dies[0]).saved, pctlDie 0x00000001_00000002 0 = true ∧ pctlSelects 0x00000001_00000002 0 x.team = true ∧ x.groups ≠ []) ∧
    (0x0000000C : DWord).toNat / 4 % 4 = 3 ∧
    (let s := { (testState testTeam testGroup).modDie 0 (fun x => { x with saveSize := 0x100000 }) with pctl := ⟨1, true, 0, 0, [(0, 7)]⟩ }
     (0, testTeam.uid) ∈ s.pctl.todo ∧ s.homeOf 0 testTeam.uid = some (0, testTeam) ∧
      (∀ x ∈ s.unit 0 0 testTeam, s.teamQuiet 0 x.1 x.2 = true) ∧ s.dies[0].saveRoom (s.unit 0 0 testTeam).length = true) ∧
    (let s := { (testState testTeam testGroup).modDie 0 (fun x => { x with saveSize := 100 }) with pctl := ⟨1, true, 0, 0, [(0, 7)]⟩ }
     s.dies[0].saveRoom (s.unit 0 0 testTeam).length = false) ∧
    (testTeam ∈ ((testState testTeam testGroup).core 0 0).teams) ∧
    (let s := recordState true
     ∃ v, s.dies[0].saved.find? (fun x => x.team.uid == 9) = some v ∧ v.resume = true ∧ v.team.desc.halo = false ∧
      s.recordGood v = false ∧ (0, 9) ∉ s.pctl.todo ∧ s.restoreTurn 0 v = true) ∧
    (let s := recordState false
     ∃ v, s.dies[0].saved.find? (fun x => x.team.uid == 9) = some v ∧ v.resume = true ∧ v.team.desc.halo = false ∧
      (s.core 0 v.core).fitsSaved v.core v = true ∧ s.restoreTurn 0 v = true) ∧
    (3 : BitVec 128).toNat % 4 = 3 ∧ (⟨true, 0, 0, true, none⟩ : Xlat).busy = true ∧ canonical 0x1000 = true ∧
    (match (mapped true none).walk 0 5 (va57 0x1000) with | .ok e => decide (e.size = 2097152) | .error _ => false) = true := by
  refine ⟨rfl, rfl, rfl, by decide, by decide, ?_, ⟨savedTeam true 0, List.mem_of_getElem? (i := 0) rfl, by decide +kernel, by decide +kernel, by simp [savedTeam]⟩,
    by decide, ⟨by decide +kernel, rfl, by decide +kernel, by decide +kernel⟩, ?_, List.mem_of_getElem? (i := 0) rfl,
    ⟨_, rfl, rfl, rfl, by decide +kernel, by decide +kernel, by decide +kernel⟩, ⟨_, rfl, rfl, rfl, by decide +kernel, by decide +kernel⟩, by decide, rfl, by decide, ?_⟩
    <;> decide +kernel

/-- A queue pair of a role in address space 5, with slots for MAILBOX and COMMAND. -/
def qpOf (role : BitVec 3) : QueuePair := ⟨⟨4, role, 5, 0, 0, 4095, 0x1000, 2, 0x1F00, 0⟩, false, [], 0, 0, [], none, false⟩
/-- A transfer of the test team: its number, its operation, what is sent of it, and the status of a command that failed. -/
def transferOf (id : Nat) (op : Byte) (sent : Nat) (failed : Option (BitVec 16)) : Transfer :=
  ⟨id, op, 5, 0, 0, 7, 2, 1, 0, 0x1000, 16, 0, 9, sent, failed⟩
/-- The mapped device with the queue pair, a region of key 3, a command of it to an NVM device, and transfers. -/
def hostState (role : BitVec 3) : State :=
  { mapped true none with
    qps := [qpOf role], regions := [⟨3, 5⟩], nvm := [⟨2, 8, 4, [], false⟩]
    transfers := [transferOf 8 1 16 none, transferOf 9 3 16 none, transferOf 10 1 16 none, transferOf 11 2 0 (some 0x4004), transferOf 12 4 16 none] }
/-- A packet of kind ROUTED for expert 7 at version 0. -/
def routedPacket : Packet := ⟨BitVec.ofNat 512 (2 + 7 * 2 ^ 128), 5, .die 3, none⟩
/-- A table of version 0 that places expert 7 on die 1 alone, and the device with a packet for it on its way at die 0, and with as many packets
at die 1 as are given. -/
def movedTable : ReplicaTable := ⟨0, [(7, [⟨1, 3⟩])], []⟩
def moving (n : Nat) : State :=
  (State.reset.modDie 0 (fun x => { x with replicas := movedTable, transit := [routedPacket] })).modDie 1 (fun x => { x with
    box := List.replicate n ⟨0, 5, .die 3, none⟩ })
/-- Where the packet goes. -/
def goesTo (t : ReplicaTable) (d : DieId) (x : BitVec 512) : Option DieId := match routingOf t d x with | .redirect e _ => some e | _ => none
theorem test_witness_MailboxAndRdma_redirect :
    (firstOfSource (moving 0).dies[0].transit 0 routedPacket = true ∧ goesTo (moving 0).dies[0].replicas 0 routedPacket.bits = some 1 ∧
      (moving 0).dies[1].packetRoom = true ∧ (moving 1024).dies[1].packetRoom = false) ∧
    pktKind routedPacket.bits = 2 ∧ BitVec.ofNat 16 (pktVersion routedPacket.bits) - movedTable.version ≠ 1 ∧
    movedTable.places (pktExpert routedPacket.bits) = [⟨1, 3⟩] ∧ pktHops routedPacket.bits = 0 ∧
    (∀ p ∈ movedTable.places (pktExpert routedPacket.bits), ¬ (p.die = 0 ∧ p.slot = pktSlot routedPacket.bits)) ∧
    pktHops (pktPut routedPacket.bits 1 1 2) = 2 ∧ goesTo movedTable 0 (pktPut routedPacket.bits 1 1 1) = some 1 ∧
    (let p : Packet := ⟨0, 5, .distributor, none⟩
     let s := (moving 1024).modDie 1 (fun x => { x with transit := [p] })
     firstOfSource s.dies[1].transit 0 p = true ∧ routingOf s.dies[1].replicas 1 p.bits = .deliver ∧ s.dies[1].packetRoom = false) := by
  refine ⟨?_, ?_, ?_, ?_, ?_, ?_, ?_, ?_, ?_⟩ <;> decide +kernel
/-- The device with an admin queue, and n other pairs of storage. -/
def storageState (n : Nat) : State :=
  { State.reset with qps := { qpOf 3 with admin := true } :: (List.range n).map (fun k => { qpOf 3 with spec := { (qpOf 3).spec with qp := 5 + k } }) }
theorem test_witness_MailboxAndRdma_admin :
    (∀ q ∈ State.reset.qps, q.spec.role ≠ 3) ∧ ((qpOf 3).spec.mtu ≠ 3 ∧ 4 ≤ ({ (qpOf 3).spec with ringLog := 4 }).ringLog.toNat) ∧
    ((∃ q ∈ (storageState 63).qps, q.spec.role = 3 ∧ q.admin = true) ∧ (storageState 63).qp? 100 = none ∧
      ((storageState 63).qps.filter (fun q => q.spec.role == 3 && !q.admin)).length < 64) ∧
    ((storageState 64).qp? 100 = none ∧ (storageState 64).qps.length < 16384 ∧
      64 ≤ ((storageState 64).qps.filter (fun q => q.spec.role == 3 && !q.admin)).length) := by
  refine ⟨?_, ?_, ?_, ?_⟩ <;> decide +kernel
theorem test_witness_MailboxAndRdma :
    (let s := State.reset.modDie 0 (fun x => { x with transit := [⟨0, 5, .die 3, none⟩, routedPacket] })
     s.dies[0].transit[0]? = some ⟨0, 5, .die 3, none⟩ ∧ firstOfSource s.dies[0].transit 0 ⟨0, 5, .die 3, none⟩ = true ∧
      routingOf s.dies[0].replicas 0 0 = .deliver ∧ firstOfSource s.dies[0].transit 1 routedPacket = false ∧
      routingOf s.dies[0].replicas 0 routedPacket.bits = .discard) ∧
    routingOf ⟨0xFFFF, [], []⟩ 0 routedPacket.bits = .waits ∧
    (let s := { hostState 1 with inService := 1 }
     s.qp? 4 = some (qpOf 1) ∧ s.regionOk 3 5 = true ∧ (qpOf 1).role = some .mailbox ∧ (List.replicate 64 (0 : Byte)).length = 64 ∧
      (List.replicate 64 (0 : Byte)).headD 0 ≠ 0x01 ∧ s.inPlay 0 = true ∧
      s.reservedAgainst 0 5 = false ∧ 4095 ∉ s.dies[0].hostSlots ∧ 4095 ≤ (qpOf 1).spec.slotHi.toNat) ∧
    ({ hostState 1 with inService := 0 }).inPlay 0 = false ∧
    (let s := ({ hostState 1 with inService := 1 }).modDie 0 (fun x => { x with hostSlots := [3] })
     s.inPlay 0 = true ∧ 3 ∈ s.dies[0].hostSlots) ∧
    ((hostState 0).qp? 4 = some (qpOf 0) ∧ (hostState 0).boot.minimal = false ∧ (qpOf 0).error = false ∧ (qpOf 0).role = some .command ∧ (hostState 0).commands = []) ∧
    ((hostState 2).qp? 4 = some (qpOf 2) ∧ (qpOf 2).role = some .data ∧ (hostState 2).regionOk 3 5 = true ∧ (hostState 2).regionOk 3 6 = false ∧
      ((hostState 2).rdmaPieces 5 0x1000 16 Attrs.rdmaWritable).isSome = true ∧
      (hostState 2).rdmaPieces 5 0x200000 16 Attrs.rdmaWritable = none ∧
      ((hostState 2).rdmaPieces 5 0x1000 16 Attrs.rdmaReadable).isSome = true ∧ (qpOf 2).reads.length < 16 ∧ (hostState 2).poison = []) ∧
    ((hostState 3).qp? 4 = some (qpOf 3) ∧ (qpOf 3).role = some .storage ∧ (qpOf 2).role ≠ some .storage ∧
      ((hostState 3).nvm.find? (fun y => y.id == 2 && y.qp == 4 && !y.done)).isSome = true ∧
      (hostState 3).nvm.find? (fun y => y.id == 7 && y.qp == 4 && !y.done) = none) ∧
    (State.reset.qp? 4 = none ∧ State.reset.qps.length < 16384) ∧
    ((hostState 3).nvmOver (transferOf 10 1 16 none) = true ∧ (hostState 3).transfer? 10 = some (transferOf 10 1 16 none) ∧
      (hostState 3).nvmOver (transferOf 11 2 0 (some 0x4004)) = true ∧ (hostState 3).nvmOver (transferOf 8 1 16 none) = false) ∧
    (hostState 4).transfer? 9 = some (transferOf 9 3 16 none) ∧ (hostState 4).transfer? 12 = some (transferOf 12 4 16 none) := by
  refine ⟨?_, ?_, ?_, ?_, ?_, ?_, ?_, ?_, ?_, ?_, ?_, ?_⟩ <;> decide +kernel
/-- With a peer handle that names queue pair 4, the pair of a transfer to it. -/
theorem test_witness_MailboxAndRdma_peer (h : Config.peerQp 1 = some 4) : ((hostState 4).peerPair (transferOf 12 4 16 none)).isSome = true := by
  unfold State.peerPair
  simp only [show (transferOf 12 4 16 none).target = 1 from rfl, h, show (hostState 4).qp? 4 = some (qpOf 4) by decide +kernel]
  rfl

/-- A command with an operation and its fields. -/
def cmdOf (op a b n mask : Nat) : BitVec 512 := BitVec.ofNat 512 (op + a * 2 ^ 64 + b * 2 ^ 128 + n * 2 ^ 192 + mask * 2 ^ 224)
/-- The mapped device with a COMMAND queue pair, a command pending in slot 2, and a descriptor at 0x400. -/
def cmdState (cmd : BitVec 512) : State :=
  { hostState 0 with
    inService := 1, launches := [], transfers := [], nvm := [], commands := [⟨4, 2, cmd⟩]
    hbm := [(80, 1), (82, 1), (0x411, 1), (0x413, 1), (0x418, 1), (0x10000, 1), (0x10001, 0x10), (0x10002, 1), (0x11000, 1), (0x11001, 0x20),
      (0x11002, 1), (0x12000, 1), (0x12001, 0x30), (0x12002, 1), (0x13000, 0x9F)]
    dies := Vector.replicate 32 Die.reset }
/-- Whether a pending command is taken. -/
def takes (cmd : BitVec 512) (op : Nat) : Bool := ((cmdState cmd).command? 4 cmd op).isSome
/-- The same device with changes of dispatcher asked of die 0. -/
def askedState (xs : List (Option (BitVec 12 × Descriptor))) : State :=
  (cmdState 0).modDie 0 (fun x => { x with disp := { x.disp with pending := xs } })
theorem test_witness_HostCommands :
    takes (cmdOf 1 0x400 9 4 1) 1 = true ∧
    (match (cmdState 0).checkLaunch 5 0x400 9 4 1 with | .ok xs => xs == [(0, 0, 4)] | .error _ => false) = true ∧
    (match (cmdState 0).checkLaunch 5 0x401 9 4 1 with | .ok _ => false | .error e => e == 0x04) = true ∧
    (let l : Launch := ⟨1, 4, 0, 5, 9, 0x400, [(0, 0, 1)], [(0, 0)], none, 0⟩
     let s := { cmdState 0 with launches := [l] }
     s.launches.find? (fun y => y.asid == 5 && y.grid == 9) = some l ∧ l.over = true ∧ s.engineOpen l = false ∧ ({ l with ended := [] }).over = false ∧
      ({ s with transfers := [transferOf 8 1 0 none] }).engineOpen l = true) ∧
    takes (cmdOf 2 0x400 0 0 1) 2 = true ∧
    (match (cmdState 0).homeDescriptor 5 0x400 with | some x => dispatcherOk x | none => false) = true ∧ dispatcherOk testDesc = false ∧
    takes (cmdOf 3 0 0 0 1) 3 = true ∧ takes (cmdOf 4 0 0 0 0) 4 = true ∧
    takes (cmdOf 5 0x8000 0x9000 65536 0) 5 = true ∧ cmdField (cmdOf 5 0x8000 0x9000 65536 0) 24 4 = 65536 ∧
    cmdField (cmdOf 5 0x8002 0x9000 0 0) 8 8 % 4 ≠ 0 ∧ takes (cmdOf 5 0x8002 0x9000 0 0) 5 = true ∧
    ((askedState [none]).dispatcherFree 0 = true ∧ (askedState [none]).dies[0].disp.pending = [none]) ∧
    ((askedState [none, some (5, testDesc)]).dispatcherFree 0 = true) ∧
    ((askedState [some (5, testDesc)]).dispatcherFree 0 = true ∧ (askedState [some (5, testDesc)]).dies[0].disp.pending = [some (5, testDesc)]) ∧
    (((cmdState (cmdOf 7 0 0 0 0)).taken? 4 (cmdOf 7 0 0 0 0)).isSome = true ∧ cmdReserved (cmdOf 7 0 0 0 0) = false) ∧
    (let s := { cmdState 0 with held := [⟨4, 0, 0, 0, 0⟩] }
     s.qp? 4 = some (qpOf 0) ∧ s.held.find? (fun x => x.qp == 4) = some ⟨4, 0, 0, 0, 0⟩ ∧ s.ringRoom (qpOf 0) 3 = true ∧
      s.ringRoom (qpOf 0) 4 = false) := by
  refine ⟨?_, ?_, ?_, ?_, ?_, ?_, ?_, ?_, ?_, ?_, ?_, ?_, ?_, ?_, ?_, ?_, ?_, ?_⟩ <;> decide +kernel

/-- The device with Nomad enabled, expert 7 on die 0 and, with a second placement, on die 1, and an operation in progress. -/
def nomadState (two : Bool) (op : Option NomadOp) : State :=
  { cmdState 0 with
    inService := 7
    nomad := { Nomad.reset with
      en := true, nxtab := 0x20000, op := op
      table := ⟨0, [(7, [⟨0, 2⟩] ++ if two then [⟨1, 3⟩] else [])], []⟩ } }
/-- A NCMD value. -/
def ncmdOf (op e d slot k : Nat) : DWord := BitVec.ofNat 64 (op + 4 * e + 16384 * d + 524288 * slot + 33554432 * k)
/-- An operation of Nomad for expert 7. -/
def nomadOpOf (add : Bool) (ph : NomadPhase) : NomadOp := ⟨add, 7, 1, 5, 1, ph, ⟨1, [], []⟩, [0, 1], 3, true, false, ⟨0, 0x100000, 8192⟩, none⟩
/-- An ADD that prepares, its copy in Caravan with what it has sent, or none. -/
def preparing (copy : Option Nat) (full : Bool) : State :=
  (nomadState false (some { nomadOpOf true .prepare with copy := copy.map (fun _ => 3) })).modDie 1 (fun x => { x with
    engines := (match copy with | some n => [{ prepareOp 3 0 ⟨0, 0x100000, 8192⟩ with sent := n }] | none => []) ++
      if full then List.replicate 256 (prepareOp 4 0 ⟨0, 0x100000, 8192⟩) else [] })
theorem test_witness_NomadEvents_prepare :
    ((preparing none false).inPlay 1 = true ∧ ((preparing none false).expertRecord 7).isSome = true ∧
      (preparing none false).dies[1].engineRoom .caravan 0 1 = true ∧ (preparing none true).dies[1].engineRoom .caravan 0 1 = false) ∧
    (((preparing (some 0) false).engine? 1 3).any (fun e => e.code == 0 && !e.moved && ((preparing (some 0) false).refusedOp 1 e).isNone)) = true ∧
    (((preparing (some 8192) false).engine? 1 3).any (fun e =>
      e.code == 0 && e.moved && ((preparing (some 8192) false).refusedOp 1 e).isNone)) = true ∧
    ({ preparing (some 0) false with inService := 1 }.inPlay 1 = false ∧
      { preparing (some 0) false with poison := [(0x20000 + 448) / 16] }.expertRecord 7 = none) ∧ minimalState.boot.minimal = true := by
  refine ⟨?_, ?_, ?_, ?_, rfl⟩ <;> decide +kernel
theorem test_witness_NomadEvents :
    ((nomadState false none).nomad.en = true ∧ (nomadState false none).nomad.op = none ∧ (ncmdOf 1 7 1 5 0).toNat % 4 = 1 ∧
      (ncmdOf 1 7 1 5 0).toNat / 4 % 4096 = 7 ∧
      ((nomadState false none).expertRecord 7).isSome = true ∧ (1 : DieId).val = (ncmdOf 1 7 1 5 0).toNat / 16384 % 32 ∧
      (nomadState false none).inPlay 1 = true ∧ (nomadState false none).nomad.table.places 7 = [⟨0, 2⟩]) ∧
    (nomadState false none).inPlay 3 = false ∧ (nomadState true none).nomad.table.places 8 = [] ∧
    (({ nomadState false none with poison := [(0x20000 + 448) / 16] }).expertRecord 7 = none) ∧
    ((ncmdOf 2 7 0 0 1).toNat % 4 = 2 ∧ (ncmdOf 2 7 0 0 1).toNat / 33554432 % 8 = 1 ∧ (nomadState true none).nomad.table.places 7 = [⟨0, 2⟩, ⟨1, 3⟩]) ∧
    (let s := nomadState false (some (nomadOpOf true .verify))
     ∃ x, s.expertRecord 7 = some x ∧ (s.replicaBytes x 1).map (crc32c 0) = some x.wcrc) ∧
    (let s := nomadState false (some (nomadOpOf true .commit))
     0 ∈ (nomadOpOf true .commit).waiting ∧ s.inPlay 0 = true ∧ s.mergeOpen 7 = false ∧
      ∃ x ∈ (nomadOpOf true .commit).waiting, x ≠ 0 ∧ s.inPlay x = true) ∧
    (let s := { nomadState false (some (nomadOpOf true .commit)) with inService := 1 }
     ∀ x ∈ (nomadOpOf true .commit).waiting, x ≠ 0 → s.inPlay x = false) ∧
    (nomadState false (some (nomadOpOf true .drain))).inFlight 0 = false ∧
    ((nomadState false (some (nomadOpOf true .drain))).modDie 0 (fun x => { x with transit := [routedPacket] })).inFlight 0 = true ∧
    (∀ x ∈ (nomadOpOf false .drain).next.departing, x.1 ≠ (nomadOpOf false .drain).expert) ∧
    (∀ t ∈ (nomadState false none).liveTeams 1 ++ (nomadState false none).dies[1].saved.map Saved.team, 3 ≤ t.retireAge) ∧
    (∃ t ∈ ((nomadState false none).modDie 1 (fun x => { x with waitList := [{ testTeam with uid := 1, age := 1 }] })).liveTeams 1, t.retireAge < 3) ∧
    (nomadOpOf false .waitMerge).merged = true ∧ (nomadState false none).nomad.auto = false ∧
    (nomadState false none).nomad.windowAt + 1880000 ≤ ({ nomadState false none with now := 1880000 }).now := by
  refine ⟨?_, ?_, ?_, ?_, ?_, ⟨_, rfl, by decide +kernel⟩, ?_, ?_, ?_, ?_, ?_, ?_,
    ⟨{ testTeam with uid := 1, age := 1 }, by decide +kernel, by decide +kernel⟩, ?_, ?_, ?_⟩ <;> decide +kernel

/-- A start in stage 1, and one in stage 2 with images of security version 0x01010101 in the slot that it runs from. -/
def bootStage1 : State := { State.reset with boot := { Boot.reset with stage := 1 } }
def bootRunning : Boot := { Boot.reset with stage := 2, loaderA := List.replicate 64 1, runtimeA := List.replicate 64 1, serviceSet := true }
theorem test_witness_StartEvents : State.reset.boot.failcnt.toNat < 3 ∧ State.reset.boot.minimal = false ∧ State.reset.boot.bootok = false ∧
    56400000000 ≤ ({ State.reset with now := 56400000000 }).now ∧ ({ State.reset with boot := { Boot.reset with bootok := true } }).boot.bootok = true ∧
    State.reset.boot.halted = false ∧ ({ Boot.reset with halted := true }).halted = true ∧ State.reset.boot.stage = 0 ∧
    State.reset.boot.measureRom.verify (State.reset.boot.measureRom.images State.reset.boot.measureRom.slot).1 ≠ .good ∧
    State.reset.boot.measureRom.firstSlotFailed = false ∧ ({ Boot.reset with firstSlotFailed := true }).measureRom.firstSlotFailed = true ∧
    State.reset.boot.log = [] ∧ ({ Boot.reset with log := [(0, 0, 0)] }).log ≠ [] ∧ ({ Boot.reset with slot := true }).slot = true ∧ (1 : Fin 3) ≠ 0 := by
  refine ⟨by decide, rfl, rfl, by decide, rfl, rfl, rfl, rfl, ?_, rfl, rfl, rfl, by decide, rfl, by decide⟩
  have h : headerOk (State.reset.boot.measureRom.images State.reset.boot.measureRom.slot).1 = false := by
    simp only [Boot.measureRom, State.reset, Boot.reset, List.isEmpty_nil, if_true, Boot.extend, Boot.images]
    decide +kernel
  simp [Boot.verify, h]
theorem test_witness_StartEvents_service : bootStage1.boot.stage = 1 ∧ (bootStage1.enterService 0).inService = 0 ∧
    (bootStage1.enterService 1).inService ≠ 0 ∧ bootStage1.boot.serviceSet = false ∧ bootRunning.serviceSet = true ∧
    (bootRunning.stage = 2 ∧ bootRunning.minimal = false ∧ bootRunning.halted = false) ∧ minimalState.boot.stage ≠ 2 ∧
    (bootRunning.svnMin.toNat < (1 : Word).toNat ∧ (1 : Word).toNat ≤ (svnOf (bootRunning.images bootRunning.slot).1).toNat ∧
      (1 : Word).toNat ≤ (svnOf (bootRunning.images bootRunning.slot).2).toNat) ∧ ¬ Boot.reset.svnMin.toNat < (0 : Word).toNat ∧
    (0xE2 : Byte) ∉ spdmSupported ∧ (0xE0 : Byte) ∈ spdmSupported := by
  refine ⟨rfl, ?_, ?_, rfl, rfl, ?_, ?_, ?_, ?_, ?_, ?_⟩ <;> decide +kernel

/-- A flit of zeros with a sequence number, its CRC computed. -/
def testFlit (seq : BitVec 16) (crc : BitVec 64) : BitVec 2048 := (BitVec.ofNat 2048 crc.toNat <<< 1920) ||| (BitVec.ofNat 2048 seq.toNat <<< 1984)
theorem crc64_zeros (n : Nat) : crc64 (List.replicate n 0) = 0 := by
  unfold crc64
  induction n with
  | zero => rfl
  | succ n ih => rw [List.replicate_succ, List.foldl_cons, show crc64Byte 0 0 = 0 by decide +kernel]; exact ih
theorem test_flit_zeros : flitCrcOk (testFlit 3 0) = true := by
  have h : (List.range 240).map (flitByte (testFlit 3 0)) = List.replicate 240 0 := by decide +kernel
  unfold flitCrcOk
  rw [h, crc64_zeros]
  decide +kernel
/-- A module that is up with a flit in its replay buffer, and a die of which module 0 is DOWN. -/
def linkUp : Link := { Link.reset with state := 1, unacked := [testFlit 3 0] }
def dieDown : State := State.reset.modDie 1 (fun x => { x with links := (x.links.set 0 { linkUp with state := 3 }).set 1 linkUp })
theorem test_witness_ManagementEvents_links : (linkUp.up = true ∧ linkUp.unacked.length < 128 ∧ linkUp.backlog = []) ∧
    (Link.reset.up = false ∧ 128 ≤ (List.replicate 128 (testFlit 3 0)).length) ∧
    ((dieDown.dies[1].others 1 0).length ≠ 0 ∧ dieDown.dies[1].links[0].traffic.length ≠ 0) ∧
    (State.reset.boot.minimal = false ∧ State.reset.dies[1].links[0].state = 0 ∧ State.reset.dies[1].links[0].failedTrainings < 2 ∧
      2 ≤ ({ Link.reset with failedTrainings := 2 }).failedTrainings) := by
  refine ⟨?_, ?_, ?_, ?_⟩ <;> decide +kernel
/-- What BOOTCFG writes and heat: a value that reports BOOTOK and one that forces minimal mode, and sensors at the limit, between the two, and
below. -/
theorem test_witness_ManagementEvents_values : (0x4 : DWord).getLsbD 2 = true ∧ (0x4 : DWord).getLsbD 3 = false ∧ (0x8 : DWord).getLsbD 3 = true ∧
    (bootRunning.stage = 2 ∧ bootRunning.minimal = false ∧ bootRunning.halted = false) ∧ RegName.pcap ≠ .bootcfg ∧ minimalState.boot.minimal = true ∧
    (1600 ≤ 1600 ∨ 1520 ≤ 0) ∧ (1599 < 1600 ∧ 1519 < 1520 ∧ (true = true ∧ (1520 ≤ 1599 ∨ 1440 ≤ 1519))) ∧
    ¬ (false = true ∧ (1520 ≤ 1599 ∨ 1440 ≤ 1519)) := by decide
theorem test_witness_ManagementEvents : State.reset.boot.minimal = false ∧ ({ State.reset with boot := { Boot.reset with minimal := true } }).boot.minimal = true ∧
    (State.reset.now < State.reset.mgmt.sampleAt + 1880000 ∧ State.reset.mgmt.sampleAt + 1880000 ≤ ({ State.reset with now := 1880000 }).now) ∧
    (let y := State.reset.dies[0].dlim
     y.since + 2 * 2 ^ (4 + y.win.toNat) ≤ ({ State.reset with now := 128 }).now ∧ State.reset.now < y.since + 2 * 2 ^ (4 + y.win.toNat)) ∧
    1024 < Mgmt.reset.limit ∧ ({ Mgmt.reset with limit := 1024 }).limit ≤ 1024 ∧ 0 < ({ Mgmt.reset with withheld := 1 }).withheld ∧
    Mgmt.reset.withheld = 0 ∧
    (let s := State.reset.modDie 0 (fun x => { x with links := x.links.set 1 { Link.reset with state := 1, nextSeq := 3, replays := 4 } })
     (s.dies[0]).links[1].state = 1 ∧ flitSeq (testFlit 3 0) = (s.dies[0]).links[1].nextSeq ∧
      flitSeq (testFlit 2 0) ≠ (s.dies[0]).links[1].nextSeq ∧ 4 ≤ (s.dies[0]).links[1].replays ∧ (s.dies[0]).links[0].replays < 4 ∧
      (s.dies[0]).links[0].state = 0 ∧ (s.dies[0]).links[0].failedTrainings < 2) := by
  refine ⟨rfl, rfl, by decide, by decide +kernel, by decide, by decide, by decide, rfl, ?_⟩
  decide +kernel

end Sys2Proof.Tests
end

section
/-! PROOF. The commands of a host (spec 02 R48 to R50, spec 16 R321 to R323, R390, Table D-5): the fields of a LAUNCH packet, the shares of
a launch, what each command does to a state in which it is taken, and the posting of completion records. -/

namespace Sys2Proof.Machine.HostCommands

/-! ## Fields of a packet (Table K-3) -/

/-- A field replaced in a number: what lies above it, its new value, and what lies below it. -/
theorem toNat_pktPut (x : BitVec 512) (a n v : Nat) (h : a + n ≤ 64) :
    (pktPut x a n v).toNat = x.toNat / 256 ^ (a + n) * 256 ^ (a + n) + v % 256 ^ n * 256 ^ a + x.toNat % 256 ^ a := by
  have hsplit : x.toNat = x.toNat / 256 ^ (a + n) * 256 ^ (a + n) + pktField x a n * 256 ^ a + x.toNat % 256 ^ a := by
    have h1 := Nat.div_add_mod x.toNat (256 ^ a)
    have h2 := Nat.div_add_mod (x.toNat / 256 ^ a) (256 ^ n)
    rw [Nat.div_div_eq_div_mul, ← pow_add] at h2
    unfold pktField
    rw [pow_add, mul_comm (256 ^ a) (256 ^ n), ← mul_assoc, ← add_mul, ← pow_add, add_comm n a, mul_comm _ (256 ^ n), h2, mul_comm, h1]
  have hv : v % 256 ^ n * 256 ^ a + 256 ^ a ≤ 256 ^ (a + n) := by
    have : v % 256 ^ n + 1 ≤ 256 ^ n := Nat.mod_lt _ (by positivity)
    calc v % 256 ^ n * 256 ^ a + 256 ^ a = (v % 256 ^ n + 1) * 256 ^ a := by ring
      _ ≤ 256 ^ n * 256 ^ a := Nat.mul_le_mul_right _ this
      _ = 256 ^ (a + n) := by rw [pow_add, mul_comm]
  have hsize : (2 : Nat) ^ 512 = 256 ^ 64 := by decide +kernel
  have hhi : x.toNat / 256 ^ (a + n) * 256 ^ (a + n) + 256 ^ (a + n) ≤ 2 ^ 512 := by
    have hlt : x.toNat / 256 ^ (a + n) < 256 ^ (64 - (a + n)) := by
      rw [Nat.div_lt_iff_lt_mul (by positivity), ← pow_add, show 64 - (a + n) + (a + n) = 64 by omega]
      have := x.isLt
      omega
    calc _ = (x.toNat / 256 ^ (a + n) + 1) * 256 ^ (a + n) := by ring
      _ ≤ 256 ^ (64 - (a + n)) * 256 ^ (a + n) := Nat.mul_le_mul_right _ hlt
      _ = 2 ^ 512 := by rw [← pow_add, show 64 - (a + n) + (a + n) = 64 by omega, hsize]
  have hlo : x.toNat % 256 ^ a < 256 ^ a := Nat.mod_lt _ (by positivity)
  rw [pktPut, BitVec.toNat_ofNat, Nat.mod_eq_of_lt] <;> omega

/-- What lies below a field that is replaced stays. -/
theorem pktPut_mod (x : BitVec 512) (a n v : Nat) (h : a + n ≤ 64) : (pktPut x a n v).toNat % 256 ^ a = x.toNat % 256 ^ a := by
  rw [toNat_pktPut x a n v h, pow_add, mul_comm (256 ^ a), ← mul_assoc, ← add_mul, Nat.mul_add_mod_self_right, Nat.mod_mod]

/-- From the place of a field that is replaced on. -/
theorem pktPut_div (x : BitVec 512) (a n v : Nat) (h : a + n ≤ 64) :
    (pktPut x a n v).toNat / 256 ^ a = x.toNat / 256 ^ (a + n) * 256 ^ n + v % 256 ^ n := by
  have hlo : x.toNat % 256 ^ a < 256 ^ a := Nat.mod_lt _ (by positivity)
  rw [toNat_pktPut x a n v h, pow_add, mul_comm (256 ^ a), ← mul_assoc, ← add_mul, mul_comm _ (256 ^ a), Nat.mul_add_div (by positivity),
    Nat.div_eq_of_lt hlo, add_zero]

/-- A field reads as it was put. -/
theorem pktField_pktPut_same (x : BitVec 512) (a n v : Nat) (h : a + n ≤ 64) : pktField (pktPut x a n v) a n = v % 256 ^ n := by
  rw [pktField, pktPut_div x a n v h, Nat.mul_add_mod_self_right, Nat.mod_mod]

/-- A field below the one that is replaced. -/
theorem pktField_pktPut_below (x : BitVec 512) (a n v b m : Nat) (h : a + n ≤ 64) (hb : b + m ≤ a) :
    pktField (pktPut x a n v) b m = pktField x b m := by
  have low : ∀ y : Nat, y / 256 ^ b % 256 ^ m = y % 256 ^ a % 256 ^ (b + m) / 256 ^ b := fun y => by
    rw [Nat.mod_mod_of_dvd _ (pow_dvd_pow _ hb), pow_add, Nat.mod_mul_right_div_self]
  rw [pktField, low, pktPut_mod x a n v h, ← low, pktField]

/-- A field above the one that is replaced. -/
theorem pktField_pktPut_above (x : BitVec 512) (a n v b m : Nat) (h : a + n ≤ 64) (hb : a + n ≤ b) :
    pktField (pktPut x a n v) b m = pktField x b m := by
  have high : (pktPut x a n v).toNat / 256 ^ (a + n) = x.toNat / 256 ^ (a + n) := by
    rw [pow_add, ← Nat.div_div_eq_div_mul, pktPut_div x a n v h, mul_comm, Nat.mul_add_div (by positivity),
      Nat.div_eq_of_lt (Nat.mod_lt _ (by positivity)), add_zero, ← pow_add]
  obtain ⟨k, rfl⟩ := Nat.exists_eq_add_of_le hb
  rw [pktField, pow_add, ← Nat.div_div_eq_div_mul, high, Nat.div_div_eq_div_mul, ← pow_add, pktField]

/-- A field of a packet that does not meet the one that is replaced. -/
theorem pktField_pktPut_other (x : BitVec 512) (a n v b m : Nat) (h : a + n ≤ 64 ∧ (b + m ≤ a ∨ a + n ≤ b)) :
    pktField (pktPut x a n v) b m = pktField x b m :=
  h.2.elim (pktField_pktPut_below x a n v b m h.1) (pktField_pktPut_above x a n v b m h.1)

/-! ## LAUNCH (R48 to R50, R390) -/

/-- The fields of a LAUNCH packet (Table K-3). -/
theorem launchPacket_fields (desc grid : DWord) (first k n : Nat) (mask : Word) (seq : Nat) :
    let b := launchPacket desc grid first k n mask seq
    pktField b 0 1 = 1 ∧ pktField b 8 8 = seq % 2 ^ 64 ∧ pktField b 16 8 = desc.toNat ∧ pktField b 24 8 = grid.toNat ∧
    pktField b 32 4 = first % 2 ^ 32 ∧ pktField b 36 4 = k % 2 ^ 32 ∧ pktField b 40 4 = n % 2 ^ 32 ∧ pktField b 44 4 = mask.toNat := by
  have h1 : 1 % 256 ^ 1 = 1 := rfl
  have h4 : (256 : Nat) ^ 4 = 2 ^ 32 := rfl
  have h8 : (256 : Nat) ^ 8 = 2 ^ 64 := rfl
  refine ⟨?_, ?_, ?_, ?_, ?_, ?_, ?_, ?_⟩ <;>
    simp (disch := omega) only [launchPacket, List.foldl, pktField_pktPut_same, pktField_pktPut_other, h1, h4, h8,
      BitVec.toNat_mod_cancel]

/-- A LAUNCH packet sent to a die carries what was launched, the share of the die, and the count of those sent before. -/
theorem sendLaunch_packet (s : State) (asid : BitVec 12) (desc grid : DWord) (n : Nat) (mask : Word) (d : DieId) (first k : Nat) :
    s.sendLaunch asid desc grid n mask (d, first, k) = s.modDie d (fun y => { y with
      launchSent := y.launchSent + 1
      transit := y.transit ++ [⟨launchPacket desc grid first k n mask s.dies[d].launchSent, asid, .distributor, none⟩] }) :=
  State.modDie_congr s d _ _ rfl

theorem sum_filter_ne_zero {α : Type} (xs : List α) (f : α → Nat) : ((xs.filter (fun x => f x != 0)).map f).sum = (xs.map f).sum := by
  induction xs with
  | nil => rfl
  | cons x xs ih => by_cases h : f x = 0 <;> simp [h, ih]

/-- An even part for each of e dies, and one more for each of the first r of them. -/
theorem sum_parts (q r e : Nat) (h : r ≤ e) : ((List.range e).map (fun i => q + if i < r then 1 else 0)).sum = e * q + r := by
  have ones : ∀ k, ((List.range k).map (fun i => if i < r then 1 else 0)).sum = min k r := fun k => by
    induction k with
    | zero => simp
    | succ k ih => rw [List.range_succ, List.map_append, List.sum_append, ih]; simp; split <;> omega
  rw [List.sum_map_add, ones, Nat.min_eq_right h]
  simp

/-- The shares of a launch have as many teams as the launch (R49). -/
theorem sum_shares (ds : List DieId) (n : Nat) (h : ds ≠ []) : ((shares ds n).map (fun x => x.2.2)).sum = n := by
  have he : 0 < ds.length := List.length_pos_of_ne_nil h
  have index : (ds.zipIdx.map (fun p => n / ds.length + if p.2 < n % ds.length then 1 else 0)) =
      (List.range ds.length).map (fun i => n / ds.length + if i < n % ds.length then 1 else 0) := by
    rw [List.range_eq_range', ← List.zipIdx_map_snd 0 ds, List.map_map]; rfl
  rw [shares, sum_filter_ne_zero, List.map_map]
  calc _ = (ds.zipIdx.map (fun p => n / ds.length + if p.2 < n % ds.length then 1 else 0)).sum := rfl
    _ = ds.length * (n / ds.length) + n % ds.length := by rw [index, sum_parts _ _ _ (Nat.mod_lt _ he).le]
    _ = n := Nat.div_add_mod n ds.length

/-- A launch of no teams is refused (R390). -/
theorem checkLaunch_none (s : State) (asid : BitVec 12) (desc grid : DWord) (mask : Word) : s.checkLaunch asid desc grid 0 mask = .error 0x04 := by
  simp [State.checkLaunch]

/-- A LAUNCH that fails a check completes with the status of that check. -/
theorem exec_launchCmd_refused {s u : State} {qp : Nat} {q : QueuePair} {cmd : BitVec 512} {st : Byte} (h : s.command? qp cmd 1 = some (q, u))
    (hc : u.checkLaunch q.spec.asid (BitVec.ofNat 64 (cmdField cmd 8 8)) (BitVec.ofNat 64 (cmdField cmd 16 8)) (cmdField cmd 24 4)
      (BitVec.ofNat 32 (cmdField cmd 28 4)) = .error st) :
    exec (.launchCmd qp cmd) s = .next ({ u with uid := u.uid + 1 }.completeCmd qp (cmdTag cmd) st 0) := by
  show execLaunchCmd qp cmd s = _
  simp only [execLaunchCmd, h, hc]

/-- A LAUNCH that passes the checks is recorded with its shares, the counts of its grid start anew, and its packets are sent. -/
theorem exec_launchCmd_sent {s u : State} {qp : Nat} {q : QueuePair} {cmd : BitVec 512} {xs : List (DieId × Nat × Nat)} {asid : BitVec 12}
    {desc grid : DWord} {n : Nat} {mask : Word} (h : s.command? qp cmd 1 = some (q, u)) (ha : asid = q.spec.asid)
    (hd : desc = BitVec.ofNat 64 (cmdField cmd 8 8)) (hg : grid = BitVec.ofNat 64 (cmdField cmd 16 8)) (hn : n = cmdField cmd 24 4)
    (hm : mask = BitVec.ofNat 32 (cmdField cmd 28 4)) (hc : u.checkLaunch asid desc grid n mask = .ok xs) :
    exec (.launchCmd qp cmd) s = .next (xs.foldl (fun v x => v.sendLaunch asid desc grid n mask x) { u with
      uid := u.uid + 1, launches := u.launches ++ [⟨u.uid, qp, cmdTag cmd, asid, grid, desc, xs, [], none, 0⟩]
      dies := u.dies.map (fun x => x.freshGrid ⟨asid, grid⟩), merges := u.merges.filter (fun x => x.key != ⟨asid, grid⟩) }) := by
  subst ha hd hg hn hm
  show execLaunchCmd qp cmd s = _
  simp only [execLaunchCmd, h, hc]

/-- A launch of a grid whose teams and engine operations have ended completes, what it wrote released on each of its dies (R321). -/
theorem exec_launchComplete_over {s : State} {asid : BitVec 12} {grid : DWord} {l : Launch}
    (h : s.launches.find? (fun y => y.asid == asid && y.grid == grid) = some l) (ho : l.over = true) (he : s.engineOpen l = false) :
    exec (.launchComplete asid.toNat grid) s = .next (let u := l.ranges.foldl (fun v x => v.releaseDie x.1) s
      State.completeCmd { u with launches := u.launches.filter (fun y => y.id != l.id) } l.qp l.tag (l.status.getD (0, 0)).1
        (l.status.getD (0, 0)).2) := by
  show execLaunchComplete asid.toNat grid s = _
  simp [execLaunchComplete, h, ho, he]

/-- A launch waits for its teams and for the engine operations that they have started (R321). -/
theorem exec_launchComplete_open {s : State} {asid : BitVec 12} {grid : DWord} {l : Launch}
    (h : s.launches.find? (fun y => y.asid == asid && y.grid == grid) = some l) (ho : l.over = false ∨ s.engineOpen l = true) :
    exec (.launchComplete asid.toNat grid) s = .next s := by
  show execLaunchComplete asid.toNat grid s = _
  rcases ho with ho | ho <;> simp [execLaunchComplete, h, ho]

/-! ## INSTALL and UNINSTALL (R323) -/

/-- A good INSTALL reserves the named dies and asks them for the change. -/
theorem exec_install_good {s u : State} {qp : Nat} {q : QueuePair} {cmd : BitVec 512} {x : Descriptor} (h : s.command? qp cmd 2 = some (q, u))
    (hx : u.homeDescriptor q.spec.asid (BitVec.ofNat 64 (cmdField cmd 8 8)) = some x) (ho : dispatcherOk x = true) :
    let ds := u.eligibleDies (BitVec.ofNat 32 (cmdField cmd 28 4))
    exec (.install qp cmd) s = .next
      (State.askDispatcher { u with reserved := ds.map (fun d => (d, q.spec.asid)) ++ u.reserved.filter (fun r => !ds.contains r.1) }
        qp (cmdTag cmd) ds (some (q.spec.asid, x))) := by
  show execInstall qp cmd s = _
  simp only [execInstall, h, hx, ho, Bool.not_true, Bool.false_eq_true, if_false]

/-- An INSTALL of a descriptor that is no dispatcher's completes with status 0x04. -/
theorem exec_install_bad {s u : State} {qp : Nat} {q : QueuePair} {cmd : BitVec 512} {x : Descriptor} (h : s.command? qp cmd 2 = some (q, u))
    (hx : u.homeDescriptor q.spec.asid (BitVec.ofNat 64 (cmdField cmd 8 8)) = some x) (ho : dispatcherOk x = false) :
    exec (.install qp cmd) s = .next ({ u with uid := u.uid + 1 }.completeCmd qp (cmdTag cmd) 0x04 0) := by
  show execInstall qp cmd s = _
  simp only [execInstall, h, hx, ho, Bool.not_false, if_true]

theorem exec_uninstall {s u : State} {qp : Nat} {q : QueuePair} {cmd : BitVec 512} (h : s.command? qp cmd 3 = some (q, u)) :
    exec (.uninstall qp cmd) s = .next (u.askDispatcher qp (cmdTag cmd) (u.eligibleDies (BitVec.ofNat 32 (cmdField cmd 28 4))) none) := by
  show execUninstall qp cmd s = _
  simp only [execUninstall, h]

/-- A free dispatcher makes the oldest change asked for; the reservation is lifted with the last UNINSTALL. -/
theorem exec_dispatcherReplace {s : State} {d : DieId} {x : Option (BitVec 12 × Descriptor)} {rest : List (Option (BitVec 12 × Descriptor))}
    (hf : s.dispatcherFree d = true) (hp : s.dies[d].disp.pending = x :: rest) :
    exec (.dispatcherReplace d) s = .next
      ((if x.isNone && !rest.any Option.isSome then
          { s.startDispatcher d x with reserved := (s.startDispatcher d x).reserved.filter (fun r => r.1 != d) }
        else s.startDispatcher d x : State).dieChanged d) := by
  show execDispatcherReplace d s = _
  simp only [execDispatcherReplace, hp, hf, Bool.not_true, Bool.false_eq_true, if_false]

/-- No INSTALL waits exactly when every change asked for is an UNINSTALL. -/
theorem any_isSome_eq_false {α : Type} (xs : List (Option α)) : xs.any Option.isSome = false ↔ ∀ x ∈ xs, x = none := by
  simp [List.any_eq_false]

/-! ## The other commands (Table D-5, R350) -/

theorem exec_fence {s u : State} {qp : Nat} {q : QueuePair} {cmd : BitVec 512} (h : s.command? qp cmd 4 = some (q, u)) :
    let v : State := { u with uid := u.uid + 1, waiting := u.waiting ++ [⟨u.uid, qp, cmdTag cmd, []⟩] }
    exec (.fence qp cmd) s = .next (v.settleFences v.waiting) := by
  show execFence qp cmd s = _
  simp only [execFence, h]

/-- A SPACE whose addresses are aligned and whose directory is no longer than 65,536 entries takes the place of the one before. -/
theorem exec_space_good {s u : State} {q : QueuePair} {cmd : BitVec 512} (h : s.command? q.spec.qp cmd 5 = some (q, u))
    (hg : cmdField cmd 8 8 % 4 = 0 ∧ cmdField cmd 16 8 % 16 = 0 ∧ cmdField cmd 24 4 ≤ 65536) :
    exec (.space q.spec.qp cmd) s = .next (State.completeCmd { u with
        uid := u.uid + 1
        spaces := ⟨q.spec.asid, BitVec.ofNat 64 (cmdField cmd 8 8), BitVec.ofNat 64 (cmdField cmd 16 8), cmdField cmd 24 4⟩ ::
          u.spaces.filter (fun y => y.asid != q.spec.asid) }
      q.spec.qp (cmdTag cmd) 0 0) := by
  show execSpace q.spec.qp cmd s = _
  obtain ⟨hh, hl, hn⟩ := hg
  simp [execSpace, h, hh, hl, Nat.not_lt.mpr hn]

theorem exec_space_bad {s u : State} {q : QueuePair} {cmd : BitVec 512} (h : s.command? q.spec.qp cmd 5 = some (q, u))
    (hb : ¬ (cmdField cmd 8 8 % 4 = 0 ∧ cmdField cmd 16 8 % 16 = 0 ∧ cmdField cmd 24 4 ≤ 65536)) :
    exec (.space q.spec.qp cmd) s = .next ({ u with uid := u.uid + 1 }.completeCmd q.spec.qp (cmdTag cmd) 0x04 0) := by
  have hc : cmdField cmd 8 8 % 4 ≠ 0 ∨ cmdField cmd 16 8 % 16 ≠ 0 ∨ 65536 < cmdField cmd 24 4 := by omega
  show execSpace q.spec.qp cmd s = _
  simp only [execSpace, h]
  rw [if_pos (by simpa [or_assoc] using hc)]

theorem exec_badCommand {s u : State} {qp : Nat} {q : QueuePair} {cmd : BitVec 512} (h : s.taken? qp cmd = some (q, u))
    (hb : cmdReserved cmd = false ∨ s.boot.minimal = true) :
    exec (.badCommand qp cmd) s = .next ({ u with uid := u.uid + 1 }.completeCmd qp (cmdTag cmd) 0x04 0) := by
  show execBadCommand qp cmd s = _
  rcases hb with hb | hb <;> simp [execBadCommand, h, hb]

/-- A command that is taken stands in the window for a queue pair of role COMMAND, and its slot is free from then on. -/
theorem taken?_spec {s u : State} {qp : Nat} {q : QueuePair} {cmd : BitVec 512} (h : s.taken? qp cmd = some (q, u)) :
    s.qp? qp = some q ∧ q.role = some .command ∧
      ∃ x ∈ s.commands, x.qp = qp ∧ x.bits = cmd ∧ u = { s with commands := s.commands.filter (fun y => y.slot != x.slot) } := by
  unfold State.taken? at h
  split at h
  · rename_i p x hp hx
    split at h
    · rename_i hc
      obtain ⟨hr, hb⟩ := by simpa using hc
      cases h
      exact ⟨hp, hr, x, List.mem_of_find?_eq_some hx, by simpa using List.find?_some hx, hb, rfl⟩
    · cases h
  · cases h

theorem command?_taken {s : State} {qp : Nat} {cmd : BitVec 512} {n : Nat} {p : QueuePair × State} (h : s.command? qp cmd n = some p) :
    s.taken? qp cmd = some p := by
  unfold State.command? at h
  split at h
  · exact h
  · cases h

/-! ## Completion records (R322) -/

/-- The oldest record of a ring is posted in its place when the ring has room. -/
theorem exec_completionRecordPost_room {s : State} {q : QueuePair} {r : Record} (hq : s.qp? q.spec.qp = some q)
    (hr : s.held.find? (fun x => x.qp == q.spec.qp) = some r) (h : s.ringRoom q r.seq = true) :
    exec (.completionRecordPost q.spec.qp) s = .next
      (State.sendRecord { s with held := s.held.filter (fun x => !(x.qp == q.spec.qp && x.seq == r.seq)) } q r) := by
  show execCompletionRecordPost q.spec.qp s = _
  simp only [execCompletionRecordPost, hq, hr, h, if_true]

theorem exec_completionRecordPost_full {s : State} {q : QueuePair} {r : Record} (hq : s.qp? q.spec.qp = some q)
    (hr : s.held.find? (fun x => x.qp == q.spec.qp) = some r) (h : s.ringRoom q r.seq = false) :
    exec (.completionRecordPost q.spec.qp) s = .next s := by
  show execCompletionRecordPost q.spec.qp s = _
  simp only [execCompletionRecordPost, hq, hr, h, Bool.false_eq_true, if_false]

/-! ## The statement -/

/-- Settles O57: one lemma per command and outcome. -/
theorem hostCommands : Obligations.HostCommands := by
  unfold Obligations.HostCommands
  refine ⟨?launch, ?packet, checkLaunch_none, fun ds n h => sum_shares ds n h, ?complete, ?install, fun s u q cmd h => exec_uninstall h, ?replace,
    fun s u q cmd h => exec_fence h, ?space, fun s u q cmd h hb => exec_badCommand h hb, fun s u qp q cmd n h => taken?_spec (command?_taken h),
    ?post⟩
  case launch =>
    exact fun s u q cmd h => ⟨fun st hc => exec_launchCmd_refused h hc, fun xs hc => exec_launchCmd_sent h rfl rfl rfl rfl rfl hc⟩
  case packet =>
    exact fun s asid desc grid n mask d first k =>
      ⟨_, sendLaunch_packet s asid desc grid n mask d first k, launchPacket_fields desc grid first k n mask _⟩
  case complete =>
    exact fun s asid grid l h => ⟨fun ho he => exec_launchComplete_over h ho he, fun ho => exec_launchComplete_open h ho⟩
  case install =>
    exact fun s u q cmd x h hx => ⟨fun ho => exec_install_good h hx ho, fun ho => exec_install_bad h hx ho⟩
  case replace =>
    intro s d rest hf
    refine ⟨fun x hp => exec_dispatcherReplace hf hp, fun hp => ⟨fun hn => ?_, fun hs => ?_⟩⟩
    · rw [exec_dispatcherReplace hf hp, (any_isSome_eq_false rest).mpr hn]; rfl
    · have : rest.any Option.isSome = true := by
        rw [← Bool.not_eq_false, any_isSome_eq_false]; simpa using hs
      rw [exec_dispatcherReplace hf hp, this]; rfl
  case space =>
    exact fun s u q cmd h => ⟨fun hg => exec_space_good h hg, fun hb => exec_space_bad h hb⟩
  case post =>
    exact fun s q r hq hr => ⟨fun h => exec_completionRecordPost_room hq hr h, fun h => exec_completionRecordPost_full hq hr h⟩

end Sys2Proof.Machine.HostCommands
end

section
/-! PROOF. The die links (spec 19 R368 to R371): no operation over memory and no end of an engine operation changes a link module, so a die that
leaves service keeps its modules; a flit carries the fields that it was made of; what a flit and a training do to a module. -/

namespace Sys2Proof.Machine.Fabric

/-! ## The modules of a die, and what leaves them as they are -/

/-- The link modules of a die. -/
def linksOf (s : State) (d : DieId) : Vector Link 4 := s.dies[d].links

theorem linksOf_congr {s t : State} (h : t.dies = s.dies) : linksOf t = linksOf s := by
  funext d; simp only [linksOf, h]

theorem linksOf_foldl {α : Type} (xs : List α) (f : State → α → State) (s : State) (h : ∀ t x, linksOf (f t x) = linksOf t) :
    linksOf (xs.foldl f s) = linksOf s := by
  induction xs generalizing s with
  | nil => rfl
  | cons x xs ih => rw [List.foldl_cons, ih, h]

/-- A change of a die that leaves its modules. -/
theorem linksOf_modDie (s : State) (d : DieId) (f : Die → Die) (h : ∀ x, (f x).links = x.links) : linksOf (s.modDie d f) = linksOf s := by
  funext e
  by_cases hd : d = e
  · subst hd
    exact (congrArg Die.links (State.modDie_same s d f)).trans (h _)
  · exact congrArg Die.links (State.modDie_other s d e f hd)

@[simp] theorem linksOf_modCore (s : State) (d : DieId) (c : CoreId) (f : Core → Core) : linksOf (s.modCore d c f) = linksOf s :=
  linksOf_modDie s d _ fun _ => rfl

@[simp] theorem linksOf_setGroup (s : State) (r : GRef) (g : Group) : linksOf (s.setGroup r g) = linksOf s := linksOf_modCore s _ _ _

@[simp] theorem linksOf_modGroup (s : State) (r : GRef) (f : Group → Group) : linksOf (s.modGroup r f) = linksOf s := by
  unfold State.modGroup; split
  · exact linksOf_setGroup s _ _
  · rfl

@[simp] theorem linksOf_rouse (s : State) (r : GRef) (f : Group → Group) : linksOf (s.rouse r f) = linksOf s := by
  unfold State.rouse; split
  · rfl
  · exact linksOf_setGroup s _ _

@[simp] theorem linksOf_modTeam (s : State) (d : DieId) (c : CoreId) (uid : Nat) (f : Team → Team) :
    linksOf (s.modTeam d c uid f) = linksOf s := by
  unfold State.modTeam; split
  · exact linksOf_modCore s _ _ _
  · exact linksOf_modDie s d _ fun _ => rfl

/-! ### Memory -/

@[simp] theorem linksOf_homePutCells (s : State) (xs : Cells) : linksOf (s.homePutCells xs) = linksOf s := by
  unfold State.homePutCells
  rw [linksOf_foldl]
  · rfl
  · exact fun _ _ => rfl

@[simp] theorem linksOf_l2Move (s : State) (d : DieId) (p : Nat → Bool) : linksOf (s.l2Move d p) = linksOf s := by
  unfold State.l2Move
  simp only
  split
  · rfl
  · rw [linksOf_modDie, linksOf_homePutCells]; exact fun _ => rfl

@[simp] theorem linksOf_takeBack (s : State) (ds : List DieId) (lines : Nat → Bool) : linksOf (s.takeBack ds lines) = linksOf s := by
  have moved : linksOf (s.l2MoveOn ds (fun a => lines (a / 128))) = linksOf s := linksOf_foldl ds _ s fun t d => linksOf_l2Move t d _
  rw [← moved]
  funext d
  simp only [linksOf, State.takeBack, Fin.getElem_fin, Vector.getElem_ofFn]
  split <;> rfl

@[simp] theorem linksOf_l2WriteBack (s : State) (d : DieId) (p : Nat → Bool) : linksOf (s.l2WriteBack d p) = linksOf s := by
  unfold State.l2WriteBack
  simp only
  split
  · rfl
  · rw [linksOf_l2Move, linksOf_takeBack]

@[simp] theorem linksOf_l2Take (s : State) (d : DieId) (line : Nat) : linksOf (s.l2Take d line) = linksOf s := by
  unfold State.l2Take
  simp only
  split
  · rfl
  · split
    · rw [linksOf_modDie, linksOf_l2WriteBack]
      · rfl
      · exact fun _ => rfl
    · exact linksOf_modDie _ _ _ fun _ => rfl

@[simp] theorem linksOf_l2TakeAll (s : State) (d : DieId) (lines : List Nat) : linksOf (s.l2TakeAll d lines) = linksOf s :=
  linksOf_foldl lines _ s fun t l => linksOf_l2Take t d l

@[simp] theorem linksOf_l1WriteBack (s : State) (d : DieId) (c : CoreId) (p : Nat → Bool) : linksOf (s.l1WriteBack d c p) = linksOf s := by
  unfold State.l1WriteBack
  simp only
  split
  · rfl
  · rw [linksOf_modCore, linksOf_modDie, linksOf_l2TakeAll]; exact fun _ => rfl

@[simp] theorem linksOf_fillSector (s : State) (d : DieId) (c : CoreId) (sec : Nat) : linksOf (s.fillSector d c sec) = linksOf s := by
  unfold State.fillSector; split
  · rfl
  · rw [linksOf_modCore, linksOf_l2Take]

@[simp] theorem linksOf_acquireAt (s : State) (d : DieId) (c : CoreId) (lvl : Level) : linksOf (s.acquireAt d c lvl) = linksOf s := by
  have fill : ∀ (secs : List Nat) (p : Nat → Bool) (f : Core → Core),
      linksOf (secs.foldl (fun t sec => t.fillSector d c sec) ((s.l1WriteBack d c p).modCore d c f)) = linksOf s := fun secs p f => by
    rw [linksOf_foldl secs _ _ fun t sec => linksOf_fillSector t d c sec, linksOf_modCore, linksOf_l1WriteBack]
  cases lvl with
  | core => rfl
  | die | home => exact fill _ _ _

/-! ### The end of an engine operation -/

@[simp] theorem linksOf_putBarOne (s : State) (d : DieId) (c : CoreId) (uid : Nat) (b : Fin 16) (x : Barrier) :
    linksOf (s.putBarOne d c uid b x) = linksOf s := by
  unfold State.putBarOne
  simp only
  split
  · exact linksOf_modTeam s _ _ _ _
  · split <;> simp [linksOf_foldl]

@[simp] theorem linksOf_putBar (s : State) (d : DieId) (c : CoreId) (t : Team) (b : Fin 16) (x : Barrier) :
    linksOf (s.putBar d c t b x) = linksOf s :=
  linksOf_foldl _ _ s fun u p => linksOf_putBarOne u d p.1 p.2 b x

@[simp] theorem linksOf_arriveEngine (s : State) (d : DieId) (c : CoreId) (uid : Nat) (b : Fin 16) (code : Byte) :
    linksOf (s.arriveEngine d c uid b code) = linksOf s := by
  unfold State.arriveEngine; split
  · rfl
  · rw [linksOf_putBar, linksOf_modTeam]

@[simp] theorem linksOf_tagDone (s : State) (d : DieId) (op : EngineOp) (n : Fin 8) (code : Byte) :
    linksOf (s.tagDone d op n code) = linksOf s := by
  have saved : ∀ f : Die → List Saved, linksOf (s.modDie d (fun x => { x with saved := f x })) = linksOf s := fun f =>
    linksOf_modDie s d _ fun _ => rfl
  unfold State.tagDone
  simp only
  rw [apply_ite linksOf, linksOf_rouse, saved, ite_self]

@[simp] theorem linksOf_landTeam (s : State) (d : DieId) (c : CoreId) (t : Team) : linksOf (s.landTeam d c t) = linksOf s := by
  unfold State.landTeam
  rw [linksOf_foldl, linksOf_modTeam]
  exact fun u p => linksOf_modGroup u p.1 _

@[simp] theorem linksOf_noteEnd (s : State) (d : DieId) (t : Team) (status : Option (Byte × Word)) :
    linksOf (s.noteEnd d t status) = linksOf s := by
  unfold State.noteEnd; split <;> rfl

@[simp] theorem linksOf_endTeam (s : State) (d : DieId) (c : CoreId) (t : Team) (status : Option (Byte × Word)) :
    linksOf (s.endTeam d c t status) = linksOf s := by
  rw [State.endTeam, linksOf_noteEnd, linksOf_modCore]

@[simp] theorem linksOf_inputDone (s : State) (d : DieId) (op : EngineOp) (code : Byte) : linksOf (s.inputDone d op code) = linksOf s := by
  unfold State.inputDone
  simp only
  split
  · rfl
  · split
    · exact linksOf_endTeam s _ _ _ _
    · split <;> simp

@[simp] theorem linksOf_complete (s : State) (d : DieId) (op : EngineOp) (lvl : Level) (code : Byte) :
    linksOf (s.complete d op lvl code) = linksOf s := by
  have acquired : linksOf ((s.dropEngine d op.id).acquireAt d op.core lvl) = linksOf s :=
    (linksOf_acquireAt _ _ _ _).trans (linksOf_modDie s d _ fun _ => rfl)
  unfold State.complete
  simp only
  split
  · exact acquired
  · rw [linksOf_arriveEngine, acquired]
  · rw [linksOf_tagDone, acquired]
  · rw [linksOf_inputDone, acquired]
  · rw [linksOf_modDie, acquired]; exact fun _ => rfl

@[simp] theorem linksOf_noteMerge (s : State) (d : DieId) (k : GridKey) (m : Nat) (code : Byte) :
    linksOf (s.noteMerge d k m code) = linksOf s := by
  unfold State.noteMerge
  simp only
  split
  · split <;> exact linksOf_congr rfl
  · exact linksOf_congr rfl

@[simp] theorem linksOf_timeoutOp (s : State) (e : DieId) (x : EngineOp) : linksOf (s.timeoutOp e x) = linksOf s := by
  unfold State.timeoutOp State.collArrive
  split <;> simp

@[simp] theorem linksOf_timeoutToward (s : State) (d : DieId) : linksOf (s.timeoutToward d) = linksOf s :=
  linksOf_foldl _ _ s fun t e => linksOf_foldl _ _ t fun u x => linksOf_timeoutOp u e x

/-! ## A die that leaves service (R371) -/

theorem addRecord_keeps (s : State) (qp : Nat) (tag : DWord) (status : Byte) (detail : Word) :
    (s.addRecord qp tag status detail).dies = s.dies ∧ (s.addRecord qp tag status detail).inService = s.inService := by
  unfold State.addRecord; split
  · exact ⟨rfl, rfl⟩
  · split <;> exact ⟨rfl, rfl⟩

theorem settleFences_keeps (s : State) (ws : List Waiting) :
    (s.settleFences ws).dies = s.dies ∧ (s.settleFences ws).inService = s.inService := by
  induction ws generalizing s with
  | nil => exact ⟨rfl, rfl⟩
  | cons w ws ih =>
    unfold State.settleFences; split
    · rw [(ih _).1, (ih _).2]; exact addRecord_keeps _ _ _ _ _
    · exact ih s

/-- A command that completes changes no die and takes none out of service. -/
theorem completeCmd_keeps (s : State) (qp : Nat) (tag : DWord) (status : Byte) (detail : Word) :
    (s.completeCmd qp tag status detail).dies = s.dies ∧ (s.completeCmd qp tag status detail).inService = s.inService := by
  unfold State.completeCmd
  rw [(settleFences_keeps _ _).1, (settleFences_keeps _ _).2]
  exact addRecord_keeps s _ _ _ _

theorem foldl_completeCmd_keeps (ws : List Waiting) (s : State) :
    (ws.foldl (fun s w => s.completeCmd w.qp w.tag 0 0) s).dies = s.dies ∧
    (ws.foldl (fun s w => s.completeCmd w.qp w.tag 0 0) s).inService = s.inService := by
  induction ws generalizing s with
  | nil => exact ⟨rfl, rfl⟩
  | cons w ws ih => rw [List.foldl_cons, (ih _).1, (ih _).2]; exact completeCmd_keeps s _ _ _ _

/-- What a die's loss leaves of the dies: its own emptied, and those that had operations in flight toward it with these ended. -/
theorem loseDie_dies (s : State) (d : DieId) : (s.loseDie d).dies = ((s.timeoutToward d).modDie d Die.emptied).dies :=
  (foldl_completeCmd_keeps _ _).1

theorem loseDie_inService (s : State) (d : DieId) :
    (s.loseDie d).inService = (s.timeoutToward d).inService &&& ~~~(1#32 <<< d.val) :=
  (foldl_completeCmd_keeps _ _).2

/-- A die that leaves service is out of service, without work and without teams. -/
theorem loseDie_emptied (s : State) (d : DieId) : (s.loseDie d).inService.getLsbD d.val = false ∧ (s.loseDie d).dies[d].engines = [] ∧
    (s.loseDie d).dies[d].waitList = [] ∧ (s.loseDie d).dies[d].saved = [] ∧ ∀ c : CoreId, ((s.loseDie d).core d c).teams = [] := by
  have hd : (s.loseDie d).dies[d] = Die.emptied (s.timeoutToward d).dies[d] := by
    simp only [loseDie_dies]; exact State.modDie_same _ d _
  refine ⟨?_, ?_, ?_, ?_, fun c => ?_⟩
  · simp [loseDie_inService]
  · rw [hd]; rfl
  · rw [hd]; rfl
  · rw [hd]; rfl
  · show ((s.loseDie d).dies[d].cores[c]).teams = []
    rw [hd]; simp [Die.emptied, Core.reset]

@[simp] theorem linksOf_loseDie (s : State) (d : DieId) : linksOf (s.loseDie d) = linksOf s := by
  rw [linksOf_congr (loseDie_dies s d), linksOf_modDie, linksOf_timeoutToward]; exact fun _ => rfl

@[simp] theorem linksOf_settleService (s : State) (d : DieId) : linksOf (s.settleService d) = linksOf s := by
  unfold State.settleService; split
  · exact linksOf_loseDie s d
  · rfl

@[simp] theorem linksOf_log (s : State) (type : Byte) (source : Fin 41) (sev unit : Nat) (detail : DWord) :
    linksOf (s.log type source sev unit detail) = linksOf s := rfl

/-! ## A change of one module -/

@[simp] theorem linksOf_modLink_same (s : State) (d : DieId) (m : Fin 4) (f : Link → Link) :
    (linksOf (s.modLink d m f) d)[m] = f (linksOf s d)[m] := by
  simp [linksOf, State.modLink]

theorem linksOf_modLink_other (s : State) (d : DieId) (m n : Fin 4) (f : Link → Link) (h : m ≠ n) :
    (linksOf (s.modLink d m f) d)[n] = (linksOf s d)[n] := by
  have hv : m.val ≠ n.val := fun e => h (Fin.ext e)
  simp [linksOf, State.modLink, hv]

/-! ## Flits (R368, R369, Table D-24) -/

/-- What a flit has below its CRC is its payload and its header. -/
theorem flitOf_body (header : BitVec 128) (payload : BitVec 1792) (seq ack : BitVec 16) (i n : Nat) (h : i + n ≤ 1920) :
    (flitOf header payload seq ack).extractLsb' i n = (payload ++ header).extractLsb' i n :=
  BitVec.extractLsb'_append_eq_of_add_le h

/-- What a flit has above its body. -/
theorem flitOf_tail (header : BitVec 128) (payload : BitVec 1792) (seq ack : BitVec 16) (i n : Nat) (h : 1920 ≤ i) :
    (flitOf header payload seq ack).extractLsb' i n =
      (0#32 ++ ack ++ seq ++ crc64 ((List.range 240).map (fun n => (payload ++ header).extractLsb' (8 * n) 8))).extractLsb' (i - 1920) n :=
  BitVec.extractLsb'_append_eq_of_le h

@[simp] theorem flitHeader_flitOf (header : BitVec 128) (payload : BitVec 1792) (seq ack : BitVec 16) :
    flitHeader (flitOf header payload seq ack) = header := by
  rw [flitHeader, flitOf_body _ _ _ _ _ _ (by omega), BitVec.extractLsb'_append_eq_right]

@[simp] theorem flitPayload_flitOf (header : BitVec 128) (payload : BitVec 1792) (seq ack : BitVec 16) :
    flitPayload (flitOf header payload seq ack) = payload := by
  rw [flitPayload, flitOf_body _ _ _ _ _ _ (by omega), BitVec.extractLsb'_append_eq_left]

@[simp] theorem flitSeq_flitOf (header : BitVec 128) (payload : BitVec 1792) (seq ack : BitVec 16) :
    flitSeq (flitOf header payload seq ack) = seq := by
  rw [flitSeq, flitOf_tail _ _ _ _ _ _ (by omega), BitVec.extractLsb'_append_eq_of_le (by omega), BitVec.extractLsb'_append_eq_right]

@[simp] theorem flitAck_flitOf (header : BitVec 128) (payload : BitVec 1792) (seq ack : BitVec 16) :
    flitAck (flitOf header payload seq ack) = ack := by
  rw [flitAck, flitOf_tail _ _ _ _ _ _ (by omega), BitVec.extractLsb'_append_eq_of_le (by omega),
    BitVec.extractLsb'_append_eq_of_le (by omega), BitVec.extractLsb'_append_eq_right]

@[simp] theorem flitCrcOk_flitOf (header : BitVec 128) (payload : BitVec 1792) (seq ack : BitVec 16) :
    flitCrcOk (flitOf header payload seq ack) = true := by
  have bytes : (List.range 240).map (flitByte (flitOf header payload seq ack)) =
      (List.range 240).map (fun n => (payload ++ header).extractLsb' (8 * n) 8) :=
    List.map_congr_left fun n hn => flitOf_body _ _ _ _ _ _ (by have := List.mem_range.mp hn; omega)
  rw [flitCrcOk, bytes, flitOf_tail _ _ _ _ _ _ (by omega), BitVec.extractLsb'_append_eq_right, beq_self_eq_true]

/-! ## What a module does (R369, R370) -/

@[simp] theorem give_state (l : Link) (x : BitVec 128 × BitVec 1792) : (l.give x).state = l.state := by
  unfold Link.give; split <;> rfl

@[simp] theorem give_rep (l : Link) (x : BitVec 128 × BitVec 1792) : (l.give x).rep = l.rep := by
  unfold Link.give; split <;> rfl

/-- Traffic given to a module changes neither its state nor its repair. -/
theorem foldl_give_keeps (xs : List (BitVec 128 × BitVec 1792)) (l : Link) :
    (xs.foldl Link.give l).state = l.state ∧ (xs.foldl Link.give l).rep = l.rep := by
  induction xs generalizing l with
  | nil => exact ⟨rfl, rfl⟩
  | cons x xs ih => rw [List.foldl_cons, (ih _).1, (ih _).2, give_state, give_rep]; exact ⟨rfl, rfl⟩

@[simp] theorem pump_state (l : Link) : l.pump.state = l.state := (foldl_give_keeps _ _).1
@[simp] theorem pump_rep (l : Link) : l.pump.rep = l.rep := (foldl_give_keeps _ _).2

@[simp] theorem acked_state (l : Link) (ack : BitVec 16) : (l.acked ack).state = l.state := by
  unfold Link.acked; split
  · exact pump_state _
  · rfl

theorem up_iff (l : Link) : l.up = true ↔ l.state = 1 ∨ l.state = 2 := by simp [Link.up]

/-- Traffic given to a module that is up, with room in its replay buffer and none before it, leaves as a flit (Table D-24). -/
theorem give_transmitted (l : Link) (x : BitVec 128 × BitVec 1792) (hu : l.up = true) (hr : l.unacked.length < 128) (hb : l.backlog = []) :
    ∃ f, l.give x = { l with sendSeq := l.sendSeq + 1, unacked := l.unacked ++ [f], wire := l.wire ++ [f] } ∧
      flitCrcOk f = true ∧ flitSeq f = l.sendSeq ∧ flitAck f = l.nextSeq - 1 ∧ flitHeader f = x.1 ∧ flitPayload f = x.2 := by
  refine ⟨flitOf x.1 x.2 l.sendSeq (l.nextSeq - 1), ?_, by simp, by simp, by simp, by simp, by simp⟩
  simp [Link.give, hu, hr, hb, Link.transmit]

/-- Any other traffic waits. -/
theorem give_waits (l : Link) (x : BitVec 128 × BitVec 1792) (h : l.up = false ∨ 128 ≤ l.unacked.length ∨ l.backlog ≠ []) :
    l.give x = { l with backlog := l.backlog ++ [x] } := by
  rcases h with h | h | h <;> simp [Link.give, h]

theorem replayed_up (l : Link) (seq : BitVec 16) (h : l.up = true) :
    l.replayed seq = { l with wire := l.wire ++ l.unacked.dropWhile (fun f => flitSeq f != seq) } := by
  rw [Link.replayed, if_pos h]

/-- A flit in order is accepted. -/
theorem receive_accepted (l : Link) (flit : BitVec 2048) (hc : flitCrcOk flit = true) (hs : flitSeq flit = l.nextSeq) :
    l.receive flit = { l.acked (flitAck flit) with nextSeq := l.nextSeq + 1, replays := 0 } := by
  simp [Link.receive, hc, hs]

theorem satOne_eq (x : Word) : satOne x = if x = 0xFFFFFFFF then 0xFFFFFFFF else x + 1 := by
  unfold satOne
  split
  · assumption
  · rfl

/-- What a module keeps and counts of a flit that it refuses. -/
theorem refuse_spec (l : Link) (bad : Bool) : (l.refuse bad).state = l.state ∧ (l.refuse bad).nextSeq = l.nextSeq ∧
    (l.refuse bad).replays = l.replays + 1 ∧ (l.refuse bad).asks = l.asks ++ [l.nextSeq] ∧
    (l.refuse bad).replay = if l.replay = 0xFFFFFFFF then 0xFFFFFFFF else l.replay + 1 :=
  ⟨rfl, rfl, rfl, rfl, satOne_eq l.replay⟩

/-- Any other flit is discarded with a replay request; the fifth time in vain the module retrains. -/
theorem receive_refused (l : Link) (flit : BitVec 2048) (h : flitCrcOk flit = false ∨ flitSeq flit ≠ l.nextSeq) :
    l.receive flit = if l.replays < 4 then l.refuse (!flitCrcOk flit) else (l.refuse (!flitCrcOk flit)).startTraining := by
  have hc : (flitCrcOk flit && flitSeq flit == l.nextSeq) = false := by rcases h with h | h <;> simp [h]
  have hn : (l.refuse (!flitCrcOk flit)).replays < 5 ↔ l.replays < 4 := by
    show l.replays + 1 < 5 ↔ l.replays < 4; omega
  simp only [Link.receive, hc, Bool.false_eq_true, if_false, hn]

/-! ## Flits received -/

/-- A flit after which the module is up changes that module alone. -/
theorem exec_flitReceive_up (s : State) (d : DieId) (m : Fin 4) (flit : BitVec 2048) (hu : s.dies[d].links[m].up = true)
    (hl : (s.dies[d].links[m].receive flit).up = true) :
    exec (.flitReceive d m flit) s = .next (s.modLink d m fun _ => s.dies[d].links[m].receive flit) := by
  show execFlitReceive d m flit s = _
  simp only [execFlitReceive, hu, hl, Bool.not_true, Bool.false_eq_true, if_false, if_true]

/-- A flit after which the module trains is logged, and its die may leave service. -/
theorem exec_flitReceive_down (s : State) (d : DieId) (m : Fin 4) (flit : BitVec 2048) (hu : s.dies[d].links[m].up = true)
    (hl : (s.dies[d].links[m].receive flit).up = false) :
    exec (.flitReceive d m flit) s = .next (((s.modLink d m fun _ => s.dies[d].links[m].receive flit).log 0x06 (dieSource d) 0 m.val
      (s.dies[d].links[m].receive flit).lstat).settleService d) := by
  show execFlitReceive d m flit s = _
  simp only [execFlitReceive, hu, hl, Bool.not_true, Bool.false_eq_true, if_false]

/-- The module of a die that a flit is received by is afterwards what the flit makes of it. -/
theorem exec_flitReceive (s : State) (d : DieId) (m : Fin 4) (flit : BitVec 2048) (hu : s.dies[d].links[m].up = true) :
    ∃ t, exec (.flitReceive d m flit) s = .next t ∧ t.dies[d].links[m] = s.dies[d].links[m].receive flit := by
  have put := linksOf_modLink_same s d m fun _ => s.dies[d].links[m].receive flit
  cases hl : (s.dies[d].links[m].receive flit).up with
  | true => exact ⟨_, exec_flitReceive_up s d m flit hu hl, put⟩
  | false =>
    refine ⟨_, exec_flitReceive_down s d m flit hu hl, ?_⟩
    show (linksOf _ d)[m] = _
    rw [linksOf_settleService, linksOf_log, put]

/-! ## Traffic of a module that is DOWN, and trainings -/

theorem others_head {x : Die} {d : DieId} {m n : Fin 4} {rest : List (Fin 4)} (h : x.others d m = n :: rest) :
    n ≠ m ∧ x.links[n].state ≠ 3 := by
  have : n ∈ x.others d m := by rw [h]; exact List.mem_cons_self
  simp only [Die.others, List.mem_append, List.mem_filter] at this
  rcases this with ⟨⟨-, h⟩, -⟩ | ⟨⟨-, h⟩, -⟩ <;> simpa using h

/-- The traffic of a module is taken by the first of the others. -/
theorem shiftTraffic_eq {s : State} {d : DieId} {m n : Fin 4} {rest : List (Fin 4)} (h : s.dies[d].others d m = n :: rest) :
    (s.shiftTraffic d m).dies[d].links[n] = (s.dies[d].links[m]).traffic.foldl Link.give s.dies[d].links[n] ∧
    (s.shiftTraffic d m).dies[d].links[m] = { s.dies[d].links[m] with unacked := [], backlog := [] } := by
  obtain ⟨hn, -⟩ := others_head h
  have e : s.shiftTraffic d m = (s.modLink d n (fun l => (s.dies[d].links[m]).traffic.foldl Link.give l)).modLink d m
      (fun l => { l with unacked := [], backlog := [] }) := by rw [State.shiftTraffic, h]
  rw [e]
  constructor
  · exact (linksOf_modLink_other _ d m n _ hn.symm).trans (linksOf_modLink_same _ d n _)
  · exact (linksOf_modLink_same _ d m _).trans (congrArg (fun l : Link => { l with unacked := [], backlog := [] })
      (linksOf_modLink_other _ d n m _ hn))

/-- A module whose traffic goes to another stays in its state. -/
theorem shiftTraffic_state (s : State) (d : DieId) (m : Fin 4) :
    ((linksOf (s.shiftTraffic d m) d)[m]).state = ((linksOf s d)[m]).state := by
  cases h : s.dies[d].others d m with
  | nil => rw [State.shiftTraffic, h]
  | cons n rest => exact (congrArg Link.state (shiftTraffic_eq h).2 :)

/-- A training that does not take the module DOWN changes that module alone, but the die may leave service. -/
theorem exec_trainingComplete (s : State) (d : DieId) (m : Fin 4) (failed : List (Fin 64)) (ok : Bool) (hb : s.boot.minimal = false)
    (h0 : s.dies[d].links[m].state = 0) (hl : (s.dies[d].links[m].train failed ok).state ≠ 3) :
    ∃ t, exec (.trainingComplete d m failed ok) s = .next t ∧ t.dies[d].links[m] = s.dies[d].links[m].train failed ok := by
  refine ⟨(s.modLink d m fun _ => s.dies[d].links[m].train failed ok).settleService d, ?_, ?_⟩
  · show execTrainingComplete d m failed ok s = _
    simp only [execTrainingComplete, State.whenAwake, hb, bne_eq_false_iff_eq.mpr h0, bne_iff_ne.mpr hl, Bool.false_eq_true, if_false, if_true]
  · show (linksOf _ d)[m] = _
    rw [linksOf_settleService, linksOf_modLink_same]

/-- A training that fails for the third time in a row takes the module DOWN. -/
theorem exec_trainingComplete_down (s : State) (d : DieId) (m : Fin 4) (failed : List (Fin 64)) (ok : Bool) (hb : s.boot.minimal = false)
    (h0 : s.dies[d].links[m].state = 0) (hl : (s.dies[d].links[m].train failed ok).state = 3) :
    ∃ t, exec (.trainingComplete d m failed ok) s = .next t ∧ t.dies[d].links[m].state = 3 := by
  have e : exec (.trainingComplete d m failed ok) s = .next ((((s.modLink d m fun _ => s.dies[d].links[m].train failed ok).log 0x07
      (dieSource d) 2 m.val (s.dies[d].links[m].train failed ok).lstat).shiftTraffic d m).settleService d) := by
    show execTrainingComplete d m failed ok s = _
    simp only [execTrainingComplete, State.whenAwake, hb, bne_eq_false_iff_eq.mpr h0, bne_eq_false_iff_eq.mpr hl, Bool.false_eq_true, if_false]
  refine ⟨_, e, ?_⟩
  show ((linksOf _ d)[m]).state = 3
  rw [linksOf_settleService, shiftTraffic_state, linksOf_log, linksOf_modLink_same, hl]

@[simp] theorem train_ok_state (l : Link) (failed : List (Fin 64)) :
    (l.train failed true).state = if 4 < failed.eraseDups.length then 2 else 1 := pump_state _
@[simp] theorem train_ok_rep (l : Link) (failed : List (Fin 64)) : (l.train failed true).rep = repairLanes failed := pump_rep _

/-- A training that fails, with fewer than two failures before it. -/
theorem train_again (l : Link) (failed : List (Fin 64)) (h : l.failedTrainings < 2) :
    l.train failed false = { l with failedTrainings := l.failedTrainings + 1 } := by
  have : l.failedTrainings + 1 < 3 := by omega
  simp [Link.train, this]

theorem train_down (l : Link) (failed : List (Fin 64)) (h : 2 ≤ l.failedTrainings) : (l.train failed false).state = 3 := by
  have : ¬ l.failedTrainings + 1 < 3 := by omega
  simp [Link.train, this]

end Sys2Proof.Machine.Fabric
end
section
/-! PROOF. Control registers, density windows, the power manager, trips and ECC errors (spec 02 R60, spec 17 R336, spec 18 R354, R359, spec 20
R374, R376, spec 21 R379 to R385), with the events of the die links. -/

namespace Sys2Proof.Machine.Management

/-! ## Registers (R3, R60, R374, R376) -/

/-- Outside minimal mode a write of any register but BOOTCFG takes the fields that are writable. -/
theorem exec_registerWrite {s : State} {r : RegName} (v : DWord) (hr : r ≠ .bootcfg) (hb : s.boot.minimal = false) :
    exec (.registerWrite r v) s = .next (s.writeRegister r v) := by
  show execRegisterWrite r v s = _
  simp [execRegisterWrite, State.unlessMinimal, hr, hb]

/-- In minimal mode it gets an error response. -/
theorem exec_registerWrite_minimal {s : State} {r : RegName} (v : DWord) (hr : r ≠ .bootcfg) (hb : s.boot.minimal = true) :
    exec (.registerWrite r v) s = .next { s with served := s.served ++ [none] } := by
  show execRegisterWrite r v s = _
  simp [execRegisterWrite, State.unlessMinimal, hr, hb]

/-- BOOTOK counts in stage 2 of a start that has not failed. -/
theorem markOk_eq (b : Boot) : b.markOk =
    if b.stage = 2 ∧ b.minimal = false ∧ b.halted = false then { b with bootok := true, failcnt := 0, active := b.slot } else b := by
  simp [Boot.markOk, and_assoc]

/-- The boot state after ACTIVE, TRY and BOOTOK of a write of BOOTCFG. -/
theorem bootok_written (b : Boot) (v : DWord) : (if v.getLsbD 2 then b.markOk else b) =
    if v.getLsbD 2 = true ∧ b.stage = 2 ∧ b.minimal = false ∧ b.halted = false then
      { b with bootok := true, failcnt := 0, active := b.slot } else b := by
  rw [markOk_eq]; cases v.getLsbD 2 <;> simp

/-- A write of BOOTCFG: ACTIVE, TRY and BOOTOK, then FORCEMIN (log 104). -/
theorem exec_bootcfg (s : State) (v : DWord) :
    let b : Boot := { s.boot with active := v.getLsbD 0, try_ := v.getLsbD 1 }
    let u : State := { s with boot := if v.getLsbD 2 = true ∧ b.stage = 2 ∧ b.minimal = false ∧ b.halted = false then
      { b with bootok := true, failcnt := 0, active := b.slot } else b }
    exec (.registerWrite .bootcfg v) s = if v.getLsbD 3 then exec .forcemin u else .next u := by
  show Host.Outcome.next (s.writeBootcfg v) = _
  simp only [State.writeBootcfg, bootok_written]
  cases v.getLsbD 3 <;> rfl

theorem exec_cschedWrite_minimal {s : State} (d : DieId) (c : CoreId) (v : Word) (hb : s.boot.minimal = true) :
    exec (.cschedWrite d c v) s = .next { s with served := s.served ++ [none] } := by
  show execCschedWrite d c v s = _
  rw [execCschedWrite, State.unlessMinimal, if_pos hb]

/-- What CSCHED makes of the admission of a core. -/
theorem exec_cschedWrite {s : State} (d : DieId) (c : CoreId) (v : Word) (hb : s.boot.minimal = false) :
    ∃ t, exec (.cschedWrite d c v) s = .next t ∧
      (t.core d c).adm.admitf = v.extractLsb' 0 5 ∧ (t.core d c).adm.adapt = v.getLsbD 5 ∧ (t.core d c).adm.feff = min (v.toNat % 32) 24 ∧
      (t.core d c).adm.contcnt = (if v.toNat / 65536 = 0 then (s.core d c).adm.contcnt else 0) := by
  have e : exec (.cschedWrite d c v) s = .next (s.modCore d c (fun k =>
      let x : Admission := { k.adm with admitf := v.extractLsb' 0 5, adapt := v.getLsbD 5 }
      { k with adm := { x with feff := x.programmed, contcnt := if v.extractLsb' 16 16 != 0 then 0 else x.contcnt } })) := by
    show execCschedWrite d c v s = _
    simp only [execCschedWrite, State.unlessMinimal, hb, Bool.false_eq_true, if_false]
  have high : v.extractLsb' 16 16 = 0 ↔ v.toNat / 65536 = 0 := by
    rw [← BitVec.toNat_inj, BitVec.extractLsb'_toNat, Nat.shiftRight_eq_div_pow]
    have := v.isLt
    show v.toNat / 2 ^ 16 % 2 ^ 16 = 0 ↔ _
    omega
  refine ⟨_, e, ?_, ?_, ?_, ?_⟩ <;> rw [State.core_modCore_same]
  · simp [Admission.programmed]
  · by_cases hz : v.toNat / 65536 = 0
    · simp [high.mpr hz, hz]
    · have : (v.extractLsb' 16 16 != 0) = true := bne_iff_ne.mpr fun z => hz (high.mp z)
      simp only [this, if_true, if_neg hz]

/-! ## The density limiter (R382) -/

theorem exec_densityWindowEnd (s : State) (d : DieId) :
    exec (.densityWindowEnd d) s = if s.now < s.dies[d].dlim.since + s.dies[d].dlim.window then .next s
      else .next (s.modDie d fun x => { x with dlim := x.dlim.roll (s.dies[d].dlim.since + s.dies[d].dlim.window) }) := rfl

/-! ## The power manager and trips (R380, R383, R384) -/

theorem step_keeps (m : Mgmt) (x : PowerStep) : (m.step x).cap = m.cap ∧ (m.step x).powered = m.powered := by
  cases x with
  | stay => exact ⟨rfl, rfl⟩
  | take | undo => unfold Mgmt.step; simp only; split <;> exact ⟨rfl, rfl⟩

/-- What a trip leaves of what the statements speak of. -/
theorem trip_spec (s : State) (source : Fin 41) (unit : Nat) (temperature : DWord) :
    let t := s.trip source unit temperature
    t.mgmt.powered = false ∧ t.launches = [] ∧ t.held = [] ∧ t.mgmt.loghead = s.mgmt.loghead + 1 ∧ t.dies = s.dies.map Die.lostFlight ∧
      t.transfers = [] ∧ t.nvm = [] ∧ t.mgmt.regs = s.mgmt.regs ∧ t.mgmt.cap = s.mgmt.cap ∧ t.hbm = s.hbm ∧ t.fresh = s.fresh :=
  ⟨rfl, rfl, rfl, rfl, rfl, rfl, rfl, rfl, rfl, rfl, rfl⟩

/-- Temperatures below those of a trip cause none. -/
theorem tripAt_cool (s : State) (tdie : Vector DWord 41) (hbm : DWord) (fresh : Nat) (hd : ∀ i : Fin 41, tdie[i].toNat < 1760)
    (hh : hbm.toNat < 1680) : s.tripAt tdie hbm fresh = s := by
  have : (List.finRange 41).find? (fun i => decide (1760 ≤ tdie[i].toNat)) = none :=
    List.find?_eq_none.mpr fun i _ => by simpa using hd i
  rw [State.tripAt, this]
  simp only [if_neg (Nat.not_le.mpr hh)]

/-- A junction at 110 degrees or a stack at 105 causes one. -/
theorem tripAt_hot (s : State) (tdie : Vector DWord 41) (hbm : DWord) (fresh : Nat)
    (h : (∃ i : Fin 41, 1760 ≤ tdie[i].toNat) ∨ 1680 ≤ hbm.toNat) :
    ∃ source unit temperature, s.tripAt tdie hbm fresh = s.trip source unit temperature := by
  unfold State.tripAt
  cases hf : (List.finRange 41).find? (fun i => decide (1760 ≤ tdie[i].toNat)) with
  | some i => exact ⟨i, stackOf i, tdie[i], rfl⟩
  | none =>
    have hh : 1680 ≤ hbm.toNat := h.resolve_left fun ⟨i, hi⟩ => by
      simpa using List.find?_eq_none.mp hf i (List.mem_finRange i) (by simpa using hi)
    exact ⟨freeSource fresh 42 33 8, stackOf (freeSource fresh 42 33 8), hbm, by simp only [if_pos hh]⟩

/-- The junction temperatures of a sample (log 17). -/
def junctions (fresh : Nat) : Vector DWord 41 := Vector.ofFn fun i => Config.freeReading fresh (16 + i.val)

/-- A sample is a change of the management registers alone, then a trip if a temperature of it is one. -/
theorem sampled_measured (s : State) : ∃ u : State, s.sampled = u.tripAt (junctions s.fresh) (Config.freeReading s.fresh 3) s.fresh ∧
    u.mgmt.regs[(6 : Fin 7)] = s.mgmt.regs[(6 : Fin 7)] + 1 ∧ u.mgmt.cap = s.mgmt.cap ∧ u.mgmt.powered = s.mgmt.powered ∧ u.hbm = s.hbm ∧
    u.fresh = s.fresh + 1 ∧ u.dies = s.dies := by
  unfold State.sampled junctions
  dsimp only
  refine ⟨_, rfl, ?_⟩
  obtain ⟨hcap, hpow⟩ := step_keeps s.mgmt ((s.mgmt.powerStep (Config.freeReading s.fresh 0).toNat).join (heatStep s.mgmt.heat
    ((Vector.ofFn fun i : Fin 41 => Config.freeReading s.fresh (16 + i.val)).toList.foldl (fun a x => max a x.toNat) 0)
    (Config.freeReading s.fresh 3).toNat).1)
  split
  · exact ⟨rfl, hcap, hpow, rfl, rfl, rfl⟩
  · exact ⟨rfl, hcap, hpow, rfl, rfl, rfl⟩

theorem exec_telemetrySample_early {s : State} (h : s.now < s.mgmt.sampleAt + 1880000) : exec .telemetrySample s = .next s := if_pos h

theorem exec_telemetrySample_due {s : State} (h : s.mgmt.sampleAt + 1880000 ≤ s.now) : exec .telemetrySample s = .next s.sampled :=
  if_neg (Nat.not_lt.mpr h)

/-- What a sample leaves, without a trip and with one. -/
theorem sampled_spec (s : State) :
    s.sampled.mgmt.regs[(6 : Fin 7)] = s.mgmt.regs[(6 : Fin 7)] + 1 ∧ s.sampled.mgmt.cap = s.mgmt.cap ∧ s.sampled.hbm = s.hbm ∧
    s.sampled.fresh = s.fresh + 1 ∧
    ((∀ i : Fin 41, (Config.freeReading s.fresh (16 + i.val)).toNat < 1760) → (Config.freeReading s.fresh 3).toNat < 1680 →
      s.sampled.dies = s.dies ∧ s.sampled.mgmt.powered = s.mgmt.powered) ∧
    (((∃ i : Fin 41, 1760 ≤ (Config.freeReading s.fresh (16 + i.val)).toNat) ∨ 1680 ≤ (Config.freeReading s.fresh 3).toNat) →
      s.sampled.dies = s.dies.map Die.lostFlight ∧ s.sampled.mgmt.powered = false) := by
  obtain ⟨u, hu, hregs, hcap, hpow, hhbm, hfresh, hdies⟩ := sampled_measured s
  have read : ∀ i : Fin 41, (junctions s.fresh)[i] = Config.freeReading s.fresh (16 + i.val) := fun i => by simp [junctions]
  by_cases hot : (∃ i : Fin 41, 1760 ≤ (Config.freeReading s.fresh (16 + i.val)).toNat) ∨ 1680 ≤ (Config.freeReading s.fresh 3).toNat
  · obtain ⟨source, unit, temperature, ht⟩ := tripAt_hot u (junctions s.fresh) (Config.freeReading s.fresh 3) s.fresh
      (by simpa only [read] using hot)
    obtain ⟨tpow, -, -, -, tdies, -, -, tregs, tcap, thbm, tfresh⟩ := trip_spec u source unit temperature
    rw [hu, ht]
    refine ⟨by rw [tregs, hregs], by rw [tcap, hcap], by rw [thbm, hhbm], by rw [tfresh, hfresh], fun hd hh => ?_,
      fun _ => ⟨by rw [tdies, hdies], tpow⟩⟩
    rcases hot with ⟨i, hi⟩ | hi
    · exact absurd hi (Nat.not_le.mpr (hd i))
    · exact absurd hi (Nat.not_le.mpr hh)
  · have cool : u.tripAt (junctions s.fresh) (Config.freeReading s.fresh 3) s.fresh = u := by
      simp only [not_or, not_exists, Nat.not_le] at hot
      exact tripAt_cool u _ _ _ (fun i => by rw [read]; exact hot.1 i) hot.2
    rw [hu, cool]
    exact ⟨hregs, hcap, hhbm, hfresh, fun _ _ => ⟨hdies, hpow⟩, fun h => absurd h hot⟩

/-- The step that heat asks for (R384). -/
theorem heatStep_spec (e : Bool) (die hbm : Nat) : ((1600 ≤ die ∨ 1520 ≤ hbm) → heatStep e die hbm = (.take, true)) ∧
    (die < 1600 → hbm < 1520 → (e = true ∧ (1520 ≤ die ∨ 1440 ≤ hbm) → heatStep e die hbm = (.stay, true)) ∧
      (¬ (e = true ∧ (1520 ≤ die ∨ 1440 ≤ hbm)) → heatStep e die hbm = (.undo, false))) := by
  refine ⟨fun h => if_pos h, fun hd hh => ?_⟩
  have cool : ¬ (1600 ≤ die ∨ 1520 ≤ hbm) := by omega
  have stays : (e && !(decide (die < 1520) && decide (hbm < 1440))) = true ↔ e = true ∧ (1520 ≤ die ∨ 1440 ≤ hbm) := by
    cases e <;> simp
  unfold heatStep
  rw [if_neg cool]
  exact ⟨fun h => if_pos (stays.mpr h), fun h => if_neg fun z => h (stays.mp z)⟩

/-- The manager's step (R383). -/
theorem step_spec (m : Mgmt) : m.step .stay = m ∧
    (1024 < m.limit → m.step .take = { m with limit := max 1024 (m.limit - 256) }) ∧
    (m.limit ≤ 1024 → m.step .take = { m with withheld := min 12 (m.withheld + 1) }) ∧
    (0 < m.withheld → m.step .undo = { m with withheld := m.withheld - 1 }) ∧
    (m.withheld = 0 → m.step .undo = { m with limit := min 4096 (m.limit + 256) }) :=
  ⟨rfl, fun h => if_pos h, fun h => if_neg (Nat.not_lt.mpr h), fun h => if_pos h, fun h => if_neg (by omega)⟩

/-! ## ECC (R359) -/

theorem addPoison_poisoned (s : State) (u : Nat) : u ∈ (s.addPoison [u]).poison := by
  by_cases h : u ∈ s.poison <;> simp [State.addPoison, h]

/-- An uncorrectable error of a unit of memory poisons it and is logged. -/
theorem exec_eccUncorrectable_memory (s : State) (u : Nat) : ∃ t, exec (.eccUncorrectable (.memory u)) s = .next t ∧
    t.poisonedAt (16 * u) = true ∧ t.hbm = s.hbm ∧ t.mgmt.loghead = s.mgmt.loghead + 1 :=
  ⟨_, rfl, List.contains_iff_mem.mpr (addPoison_poisoned s (s.homeAddr (16 * u) / 16)), rfl, rfl⟩

theorem exec_eccUncorrectable_bankUnit (s : State) (d : DieId) (c : CoreId) (b : Fin 64) (u : Nat) :
    ∃ t, exec (.eccUncorrectable (.bankUnit d c b u)) s = .next t ∧ u ∈ ((t.core d c).banks[b]).poison ∧
      ((t.core d c).banks[b]).mem = ((s.core d c).banks[b]).mem := by
  refine ⟨_, rfl, ?_⟩
  rw [State.core_modCore_same]
  simp [Core.modBank]

theorem exec_eccUncorrectable_slot (s : State) (d : DieId) (c : CoreId) (n : Fin 32) :
    ∃ t, exec (.eccUncorrectable (.slot d c n)) s = .next t ∧ (t.core d c).table[n] = ⟨((s.core d c).table[n]).entry, true⟩ := by
  refine ⟨_, rfl, ?_⟩
  rw [State.core_modCore_same]
  simp [Core.setSlot]

theorem exec_eccCorrected (s : State) (x : Fin 41) (a : DWord) : ∃ t, exec (.eccCorrected x a) s = .next t ∧
    t.mgmt.loghead = s.mgmt.loghead + 1 ∧ t.mgmt.nvhead = s.mgmt.nvhead ∧ t.mgmt.sourceSeq[x] = s.mgmt.sourceSeq[x] + 1 :=
  ⟨_, rfl, rfl, rfl, by simp [State.log]⟩

/-! ## The statement -/

open Fabric

/-- What a write of each register without a behaviour of its own takes (Tables D-11, D-15, D-16, F-3, F-4). -/
theorem registers_written (s : State) (v : DWord) (hb : s.boot.minimal = false) :
    exec (.registerWrite .astbase v) s = .next { s with xlat := { s.xlat with en := v.getLsbD 0, base := v.extractLsb' 12 40 } } ∧
    exec (.registerWrite .pcap v) s = .next { s with mgmt := { s.mgmt with cap := v.extractLsb' 0 12, capEn := v.getLsbD 12 } } ∧
    exec (.registerWrite .pgrid v) s = .next { s with pctl := { s.pctl with pgrid := v } } ∧
    exec (.registerWrite .hmap v) s = .next s ∧ exec (.registerWrite .bootstat v) s = .next s ∧
    (∀ d : DieId, exec (.registerWrite (.savecfgSize d) v) s = .next (s.modDie d (fun x => { x with saveSize := v.setWidth 32 })) ∧
      exec (.registerWrite (.dbgen d) v) s = .next (s.modDie d (fun x => { x with dbgen := v.getLsbD 0 })) ∧
      exec (.registerWrite (.dlim d) v) s = .next (s.modDie d (fun x => { x with dlim := { x.dlim with
        nextLimit := v.extractLsb' 0 13, nextWin := v.extractLsb' 13 3 } }))) :=
  have write := fun (r : RegName) (hr : r ≠ .bootcfg) => exec_registerWrite v hr hb
  ⟨write .astbase nofun, write .pcap nofun, write .pgrid nofun, write .hmap nofun, write .bootstat nofun,
    fun d => ⟨write (.savecfgSize d) nofun, write (.dbgen d) nofun, write (.dlim d) nofun⟩⟩

/-- A flit at a module that is up: accepted in order, else refused, and after four failed replays the module trains. -/
theorem flits_received (s : State) (d : DieId) (m : Fin 4) (flit : BitVec 2048)
    (h : s.dies[d].links[m].state = 1 ∨ s.dies[d].links[m].state = 2) :
    (flitCrcOk flit = true → flitSeq flit = s.dies[d].links[m].nextSeq → ∃ t, exec (.flitReceive d m flit) s = .next t ∧
      t.dies[d].links[m] =
        { (s.dies[d].links[m]).acked (flitAck flit) with nextSeq := s.dies[d].links[m].nextSeq + 1, replays := 0 }) ∧
    ((flitCrcOk flit = false ∨ flitSeq flit ≠ s.dies[d].links[m].nextSeq) → s.dies[d].links[m].replays < 4 →
      ∃ t, exec (.flitReceive d m flit) s = .next t ∧ t.dies[d].links[m].state = s.dies[d].links[m].state ∧
        t.dies[d].links[m].nextSeq = s.dies[d].links[m].nextSeq ∧ t.dies[d].links[m].replays = s.dies[d].links[m].replays + 1 ∧
        t.dies[d].links[m].asks = s.dies[d].links[m].asks ++ [s.dies[d].links[m].nextSeq] ∧
        t.dies[d].links[m].replay = (if s.dies[d].links[m].replay = 0xFFFFFFFF then 0xFFFFFFFF else s.dies[d].links[m].replay + 1)) ∧
    ((flitCrcOk flit = false ∨ flitSeq flit ≠ s.dies[d].links[m].nextSeq) → 4 ≤ s.dies[d].links[m].replays →
      ∃ t, exec (.flitReceive d m flit) s = .next t ∧ t.dies[d].links[m].state = 0 ∧ t.dies[d].links[m].replays = 0) := by
  obtain ⟨t, ht, hl⟩ := exec_flitReceive s d m flit ((up_iff _).mpr h)
  refine ⟨fun hc hs => ⟨t, ht, by rw [hl, receive_accepted _ _ hc hs]⟩, fun hr hn => ⟨t, ht, ?_⟩, fun hr hn => ⟨t, ht, ?_⟩⟩
  · rw [hl, receive_refused _ _ hr, if_pos hn]
    exact refuse_spec _ _
  · rw [hl, receive_refused _ _ hr, if_neg (Nat.not_lt.mpr hn)]
    exact ⟨rfl, rfl⟩

/-- A training of a module that trains: up, at full or half width, training again, or DOWN. -/
theorem trainings_completed (s : State) (d : DieId) (m : Fin 4) (failed : List (Fin 64)) (hb : s.boot.minimal = false)
    (h0 : s.dies[d].links[m].state = 0) :
    (∃ t, exec (.trainingComplete d m failed true) s = .next t ∧
      t.dies[d].links[m].state = (if 4 < failed.eraseDups.length then 2 else 1) ∧ t.dies[d].links[m].rep = repairLanes failed) ∧
    (s.dies[d].links[m].failedTrainings < 2 → ∃ t, exec (.trainingComplete d m failed false) s = .next t ∧
      t.dies[d].links[m] = { s.dies[d].links[m] with failedTrainings := s.dies[d].links[m].failedTrainings + 1 }) ∧
    (2 ≤ s.dies[d].links[m].failedTrainings → ∃ t, exec (.trainingComplete d m failed false) s = .next t ∧
      t.dies[d].links[m].state = 3) := by
  refine ⟨?_, fun hf => ?_, fun hf => exec_trainingComplete_down s d m failed false hb h0 (train_down _ _ hf)⟩
  · have up : (s.dies[d].links[m].train failed true).state ≠ 3 := by rw [train_ok_state]; split <;> decide
    obtain ⟨t, ht, hl⟩ := exec_trainingComplete s d m failed true hb h0 up
    exact ⟨t, ht, by rw [hl, train_ok_state], by rw [hl, train_ok_rep]⟩
  · have again := train_again s.dies[d].links[m] failed hf
    obtain ⟨t, ht, hl⟩ := exec_trainingComplete s d m failed false hb h0 (by rw [again]; show s.dies[d].links[m].state ≠ 3; rw [h0]; decide)
    exact ⟨t, ht, hl.trans again⟩

/-- Settles O60: one lemma per register, event and outcome; a die that leaves service keeps its modules. -/
theorem managementEvents : Obligations.ManagementEvents := by
  unfold Obligations.ManagementEvents
  refine ⟨registers_written, fun s v r hb hr => exec_registerWrite_minimal v hr hb, ?bootcfg, fun s d c v => exec_cschedWrite_minimal d c v,
    fun s d c v => exec_cschedWrite d c v, ?density, fun s => exec_telemetrySample_early, ?sample, heatStep_spec, step_spec, ?trip,
    exec_eccUncorrectable_memory,
    fun s d c b u n => ⟨exec_eccUncorrectable_bankUnit s d c b u, exec_eccUncorrectable_slot s d c n⟩, exec_eccCorrected, flits_received,
    fun l seq x => ⟨replayed_up l seq, give_transmitted l x, give_waits l x⟩, ?shift, trainings_completed, loseDie_emptied⟩
  case bootcfg =>
    intro s v
    exact ⟨fun h => (exec_bootcfg s v).trans (if_neg (Bool.eq_false_iff.mp h)), fun h => (exec_bootcfg s v).trans (if_pos h)⟩
  case density =>
    intro s d
    exact ⟨fun h => by rw [exec_densityWindowEnd]; exact if_neg (Nat.not_lt.mpr h), fun h => by rw [exec_densityWindowEnd]; exact if_pos h⟩
  case sample =>
    intro s h
    obtain ⟨hregs, hcap, hhbm, hfresh, hcool, hhot⟩ := sampled_spec s
    exact ⟨_, exec_telemetrySample_due h, hregs, hcap, hhbm, hfresh, hcool, hhot⟩
  case trip =>
    intro s x hbm
    obtain ⟨hpow, hlaunch, hheld, hlog, hdies, htransfers, hnvm, -⟩ := trip_spec s.freshened x (stackOf x) (tripTemperature s.fresh x hbm)
    exact ⟨_, rfl, hpow, hlaunch, hheld, hlog, hdies, htransfers, hnvm⟩
  case shift =>
    intro s d m n rest h
    obtain ⟨hn, hstate⟩ := others_head h
    obtain ⟨taken, left⟩ := shiftTraffic_eq h
    exact ⟨hn, hstate, taken, by rw [left]; rfl⟩

end Sys2Proof.Machine.Management
end

section
/-! PROOF. Lanes and masks, and the registers that a write of a result changes (spec 03 R74 to R77, R81). -/

namespace Sys2Proof.Machine.Storage

set_option Elab.async false

/-! ## Lanes of a mask -/

@[simp] theorem inMask_maskOf (p : Lane → Bool) (i : Lane) : inMask (maskOf p) i = p i := by
  simp [inMask, maskOf]

@[simp] theorem mem_lanesOf {m : Mask} {i : Lane} : i ∈ lanesOf m ↔ inMask m i = true := by
  simp [lanesOf, allLanes]

@[simp] theorem getElem_updLanes {α : Type} (xs : Lanes α) (m : Mask) (f : Lane → α) (i : Lane) :
    (updLanes xs m f)[i.val] = if inMask m i = true then f i else xs[i.val] := by
  simp [updLanes]

@[simp] theorem getElem_lanes {α : Type} (f : Lane → α) (i : Lane) : (lanes f)[i.val] = f i := by
  simp [lanes]

/-- The lowest lane of a mask is the one in it below which no lane is. -/
theorem lowest_eq_some {m : Mask} {k : Lane} : lowest m = some k ↔ inMask m k = true ∧ ∀ j : Lane, j < k → inMask m j = false := by
  unfold lowest allLanes
  rw [List.find?_eq_some_iff_getElem]
  constructor
  · rintro ⟨hk, i, hi, rfl, hj⟩
    refine ⟨hk, fun j hlt => ?_⟩
    simpa using hj j.val (by simpa [Fin.lt_def] using hlt)
  · rintro ⟨hk, hj⟩
    exact ⟨hk, k.val, by simp, by simp, fun j hlt => by simpa using hj ⟨j, by omega⟩ (by simpa [Fin.lt_def] using hlt)⟩

@[simp] theorem lowest_zero : lowest 0#32 = none := by
  unfold lowest
  rw [List.find?_eq_none]
  intro x _
  simp [inMask]

/-! ## One register written -/

/-- A vector indexed by the numbers of w bits, read back after one place is set. -/
theorem get_set_toFin {α : Type} {w : Nat} (v : Vector α (2 ^ w)) (n k : BitVec w) (x : α) :
    (v.set n.toNat x n.isLt).get k.toFin = if k = n then x else v.get k.toFin := by
  have e : ∀ v : Vector α (2 ^ w), v.get k.toFin = v[k.toNat]'k.isLt := fun _ => rfl
  rw [e, e, Vector.getElem_set]
  by_cases h : k = n
  · subst h; simp
  · have : n.toNat ≠ k.toNat := fun z => h (BitVec.eq_of_toNat_eq z.symm)
    simp [h, this]

theorem vreg_setV (g : Group) (n k : BitVec 8) (m : Mask) (f : Lane → Word) (i : Lane) :
    (g.setV n m f).vreg k i = if k = n ∧ inMask m i = true then f i else g.vreg k i := by
  have e : (g.setV n m f).v.get k.toFin = if k = n then updLanes (g.v.get n.toFin) m f else g.v.get k.toFin :=
    get_set_toFin (w := 8) g.v n k _
  unfold Group.vreg
  rw [e]
  by_cases h : k = n
  · subst h; simp
  · simp [h]

theorem ureg_setU (g : Group) (n k : BitVec 10) (x : Word) : (g.setU n x).ureg k = if k = n then x else g.ureg k :=
  get_set_toFin (w := 10) g.u n k x

theorem oreg_setO (g : Group) (n k : BitVec 3) (m : Mask) (f : Lane → Word) (i : Lane) :
    ((g.setO n m f).o.get k.toFin)[i] = if k = n ∧ inMask m i = true then f i else (g.o.get k.toFin)[i] := by
  have e : (g.setO n m f).o.get k.toFin = if k = n then updLanes (g.o.get n.toFin) m f else g.o.get k.toFin :=
    get_set_toFin (w := 3) g.o n k _
  rw [e]
  by_cases h : k = n
  · subst h; simp
  · simp [h]

theorem queue_setQ (g : Group) (n k : BitVec 4) (q : Queue) : (g.setQ n q).queue k = if k = n then q else g.queue k :=
  get_set_toFin (w := 4) g.queues n k q

/-- One bit of a byte set or cleared. -/
theorem getLsbD_bit (x : Byte) (b : Bool) {n k : Nat} (hk : k < 8) :
    (bif b then x ||| (1#8 <<< n) else x &&& ~~~(1#8 <<< n)).getLsbD k = if k = n then b else x.getLsbD k := by
  have hb : (1#8 <<< n).getLsbD k = decide (k = n) := by
    rw [BitVec.getLsbD_shiftLeft, BitVec.getLsbD_one]
    rcases Nat.lt_trichotomy k n with h | h | h
    · simp [h, h.ne]
    · simp [h, h ▸ hk]
    · simp [hk, h.ne', not_lt.mpr h.le, Nat.sub_ne_zero_of_lt h]
  have hn : (x &&& ~~~(1#8 <<< n)).getLsbD k = (x.getLsbD k && !decide (k = n)) := by
    rw [BitVec.getLsbD_and, BitVec.getLsbD_not, hb]; simp [hk]
  cases b
  · rw [cond_false, hn]; by_cases h : k = n <;> simp [h]
  · rw [cond_true, BitVec.getLsbD_or, hb]; by_cases h : k = n <;> simp [h]

theorem pred_setP (g : Group) (n k : BitVec 3) (m : Mask) (f : Lane → Bool) (i : Lane) :
    (g.setP n m f).pred k i = if k = n ∧ n ≠ 7 ∧ inMask m i = true then f i else g.pred k i := by
  unfold Group.setP
  by_cases h7 : n = 7
  · simp [h7]
  · rw [if_neg (by simpa using h7)]
    unfold Group.pred
    by_cases hm : inMask m i = true
    · by_cases hk : k = n
      · subst hk
        have : ¬ k = 7#3 := h7
        simp [getLsbD_bit _ _ (show k.toNat < 8 by omega), hm, this]
      · have : k.toNat ≠ n.toNat := fun z => hk (BitVec.eq_of_toNat_eq z)
        simp [getLsbD_bit _ _ (show k.toNat < 8 by omega), hm, hk, this]
    · simp [hm]

end Sys2Proof.Machine.Storage
end

section
/-! PROOF. Uniform registers and predicates hold what R75 and R76 say. -/

namespace Sys2Proof.Machine.Storage

set_option Elab.async false

theorem write32_uniform (g : Group) (n : BitVec 10) (m : Mask) (x : Lane → Word) :
    g.write32 (.u n) m x = match lowest m with | some k => g.setU n (x k) | none => g := by
  simp only [Group.write32, uniformOf]
  cases lowest m <;> rfl

theorem write64_uniform (g : Group) (n : BitVec 10) (m : Mask) (x : Lane → DWord) :
    g.write64 (.u n) m x = match lowest m with
      | some k => (g.setU n ((x k).setWidth 32)).setU (n + 1) ((x k).extractLsb' 32 32)
      | none => g := by
  simp only [Group.write64, uniformOf]
  cases lowest m <;> rfl

/-- Settles O46, by the lowest lane of the mask: with one, the register is set to its value; without, the group stays. -/
theorem uniformRegisters : Obligations.UniformRegisters := by
  refine ⟨fun g f n i j => ⟨rfl, rfl⟩, fun g n m x => ⟨fun k hk => ?_, fun hm => ?_, fun q hq => ?_⟩,
    fun g n m x => ⟨fun k hk => ?_, fun hm => ?_⟩, fun m k => lowest_eq_some, fun g f run i => ?_⟩
  · simp [write32_uniform, hk, ureg_setU]
  · subst hm; simp [write32_uniform]
  · rw [write32_uniform]
    cases lowest m <;> simp [ureg_setU, hq]
  · simp [write64_uniform, hk, ureg_setU]
  · subst hm; simp [write64_uniform]
  · simp [Group.members]

/-- Settles O47: a predicate is one bit of a byte of its lane, and p7 has none. -/
theorem predicates : Obligations.Predicates := by
  refine ⟨fun g i => by simp [Group.pred], fun g m x => by simp [Group.write32, Group.setP], fun g f n i => rfl, fun g n k m x i => ?_⟩
  have e : g.write32 (.pred n) m x = g.setP n m (fun i => x i != 0) := rfl
  rw [e, pred_setP]
  simp [bne, BEq.beq]

end Sys2Proof.Machine.Storage
end

section
/-! PROOF. The frame of the rows that compute in registers (spec 03 R74 to R77, R81, spec 05 R130). -/

namespace Sys2Proof.Machine.Storage

set_option Elab.async false

/-! ## What a write of a result leaves -/

/-- A write that changes only the destination that f names, in the lanes of m. -/
structure WritesDest (f : Fields) (wide : Bool) (m : Mask) (g h : Group) : Prop where
  vregs : ∀ (n : BitVec 8) (i : Lane), (inMask m i = false ∨ ¬ destV f wide n) → h.vreg n i = g.vreg n i
  uregs : ∀ n : BitVec 10, ¬ destU f wide n → h.ureg n = g.ureg n
  oregs : ∀ (n : BitVec 3) (i : Lane), (inMask m i = false ∨ f.dst ≠ .o n) → (h.o.get n.toFin)[i] = (g.o.get n.toFin)[i]
  preds : ∀ (n : BitVec 3) (i : Lane), (inMask m i = false ∨ f.dst ≠ .pred n) → h.pred n i = g.pred n i
  queues : ∀ n : BitVec 4, f.dst ≠ .q n → h.queue n = g.queue n
  rest : h = { g with v := h.v, u := h.u, o := h.o, p := h.p, queues := h.queues }

theorem WritesDest.refl (f : Fields) (wide : Bool) (m : Mask) (g : Group) : WritesDest f wide m g g :=
  ⟨fun _ _ _ => rfl, fun _ _ => rfl, fun _ _ _ => rfl, fun _ _ _ => rfl, fun _ _ => rfl, rfl⟩

/-- A vector register that the destination names. -/
theorem WritesDest.setV {f : Fields} {wide : Bool} {m : Mask} {g h : Group} (w : WritesDest f wide m g h) {n : BitVec 8} (x : Lane → Word)
    (hn : destV f wide n) : WritesDest f wide m g (h.setV n m x) where
  vregs k i hk := by
    have : ¬ (k = n ∧ inMask m i = true) := by
      rintro ⟨rfl, hi⟩
      rcases hk with hk | hk
      · rw [hi] at hk; cases hk
      · exact hk hn
    rw [vreg_setV, if_neg this]; exact w.vregs k i hk
  uregs := w.uregs
  oregs := w.oregs
  preds := w.preds
  queues := w.queues
  rest := by rw [w.rest]; rfl

/-- A uniform register that the destination names. -/
theorem WritesDest.setU {f : Fields} {wide : Bool} {m : Mask} {g h : Group} (w : WritesDest f wide m g h) {n : BitVec 10} (x : Word)
    (hn : destU f wide n) : WritesDest f wide m g (h.setU n x) where
  vregs := w.vregs
  uregs k hk := by
    have : k ≠ n := by rintro rfl; exact hk hn
    rw [ureg_setU, if_neg this]; exact w.uregs k hk
  oregs := w.oregs
  preds := w.preds
  queues := w.queues
  rest := by rw [w.rest]; rfl

theorem write32_writesDest (f : Fields) (wide : Bool) (m : Mask) (g : Group) (x : Lane → Word) :
    WritesDest f wide m g (g.write32 f.dst m x) := by
  have hr := WritesDest.refl f wide m g
  cases hd : f.dst with
  | v n => exact hr.setV x (.inl hd)
  | u n =>
    rw [write32_uniform]
    split
    · exact hr.setU _ (.inl hd)
    · exact hr
  | o n =>
    refine ⟨hr.vregs, hr.uregs, fun k i hk => ?_, hr.preds, hr.queues, rfl⟩
    have : ¬ (k = n ∧ inMask m i = true) := by
      rintro ⟨rfl, hi⟩
      rcases hk with hk | hk
      · rw [hi] at hk; cases hk
      · exact hk hd
    exact (oreg_setO g n k m x i).trans (if_neg this)
  | pred n =>
    show WritesDest f wide m g (g.setP n m (fun i => x i != 0))
    by_cases h7 : n = 7#3
    · rw [show g.setP n m (fun i => x i != 0) = g by simp [Group.setP, h7]]; exact hr
    · obtain ⟨p, e⟩ : ∃ p, g.setP n m (fun i => x i != 0) = { g with p := p } := by
        unfold Group.setP; rw [if_neg (by simpa using h7)]; exact ⟨_, rfl⟩
      refine ⟨?_, ?_, ?_, fun k i hk => ?_, ?_, by rw [e]⟩
      case refine_4 =>
        have : ¬ (k = n ∧ n ≠ 7 ∧ inMask m i = true) := by
          rintro ⟨rfl, -, hi⟩
          rcases hk with hk | hk
          · rw [hi] at hk; cases hk
          · exact hk hd
        rw [pred_setP, if_neg this]
      all_goals (rw [e]; intros; rfl)
  | q n =>
    simp only [Group.write32]
    split
    · exact hr
    · refine ⟨hr.vregs, hr.uregs, hr.oregs, hr.preds, fun k hk => ?_, rfl⟩
      have : k ≠ n := by rintro rfl; exact hk hd
      exact (queue_setQ g n k _).trans (if_neg this)
  | zero | ones | imm32 | inl _ | none | t _ | acc _ | w _ => exact hr

theorem write64_writesDest (f : Fields) (m : Mask) (g : Group) (x : Lane → DWord) :
    WritesDest f true m g (g.write64 f.dst m x) := by
  have hr := WritesDest.refl f true m g
  cases hd : f.dst with
  | v n => exact (hr.setV _ (.inl hd)).setV _ (.inr ⟨rfl, n, hd, rfl⟩)
  | u n =>
    rw [write64_uniform]
    split
    · exact (hr.setU _ (.inl hd)).setU _ (.inr ⟨rfl, n, hd, rfl⟩)
    · exact hr
  | zero | ones | imm32 | inl _ | none | t _ | acc _ | w _ | o _ | pred _ | q _ => exact hr

/-! ## What an issue leaves besides -/

/-- A pop changes only the queues that are popped. -/
theorem queue_popAll {ns : List (BitVec 4)} {n : BitVec 4} (h : n ∉ ns) (g : Group) : (ns.foldl Group.popQ g).queue n = g.queue n := by
  induction ns generalizing g with
  | nil => rfl
  | cons k ns ih =>
    rw [List.mem_cons, not_or] at h
    rw [List.foldl_cons, ih h.2]
    exact (queue_setQ g k n _).trans (if_neg h.1)

theorem queue_popped (c : Ctx) (op : Op) {n : BitVec 4} (h : n ∉ opPops op c.f) : (c.popped op).queue n = c.g.queue n := by
  unfold Ctx.popped
  split
  · rfl
  · exact queue_popAll h _

/-- A group that steps keeps all but its PCs, those of its run, its window, its count of issues and its times. -/
theorem stepped_eq (c : Ctx) (g : Group) (slot : WinSlot) : ∃ pcs w n sc,
    c.stepped g slot = { g with pcs := pcs, window := w, issues := n, sched := sc } ∧
      ∀ i : Lane, pcs[i] = if inMask c.run i = true then c.next else g.pcs[i] := by
  refine ⟨updLanes g.pcs c.run (fun _ => c.next), (⟨g.issues, slot⟩ :: g.window).take 8, g.issues + 1, (c.stepped g slot).sched, ?_,
    fun i => by simp⟩
  unfold Ctx.stepped Ctx.recorded Ctx.timed
  split <;> rfl

/-- A row that writes its destination alone keeps what R74 to R77 and R81 say. -/
theorem keeps_stepped {c : Ctx} {op : Op} {wide : Bool} {g : Group} (fp : Lanes (BitVec 5)) (slot : WinSlot)
    (w : WritesDest c.f wide c.m { c.popped op with fpstat := fp } g) : c.Keeps op wide (c.stepped g slot) := by
  obtain ⟨qs, hp⟩ : ∃ qs, c.popped op = { c.g with hold := none, queues := qs } := ⟨_, c.popped_eq op⟩
  obtain ⟨hv, hu, ho, hpr, hq, hrest⟩ := w
  have he : ∀ n, n ∉ opPops op c.f → (c.popped op).queue n = c.g.queue n := fun n h => queue_popped c op h
  rw [hp] at hv hu ho hpr hq hrest he
  obtain ⟨pcs, win, n, sc, e, hpcs⟩ := stepped_eq c g slot
  rw [e]
  refine ⟨hv, hu, ho, hpr, fun n h1 h2 => (hq n h2).trans (he n h1), ?_⟩
  rw [hrest] at hpcs ⊢
  exact ⟨rfl, rfl, rfl, rfl, rfl, rfl, rfl, rfl, rfl, rfl, rfl, rfl, rfl, rfl, rfl, rfl, hpcs⟩

/-! ## The rows that compute in registers -/

/-- A floating result without the arithmetic trap: the flags, then the result (R130, R167). -/
theorem settle_fpResult {c : Ctx} (op : Op) (x : Lane → Word × Flags) (h : c.t.desc.fptrap = false) :
    c.settle ((c.go op).fpResult x) = c.afterFp op x := by
  have e : (c.go op).fpResult x = Ctx.result32 { c.go op with s := (c.go op).withGroup (fun g => c.flagged g (fun i => (x i).2)) }
      (fun i => (x i).1) := by
    simp [Ctx.fpResult, Ctx.withFlags, h, Ctx.flagged, Group.orFlags]
  rw [e]
  simp only [Ctx.result32, Ctx.withGroup, Ctx.go, State.modGroup_setGroup]
  exact c.settle_done _ _

/-- What the meaning of a row that computes in registers ends as. -/
inductive RegisterAct (op : Op) (c : Ctx) : Act → Prop
  | word (x : Lane → Word) : RegisterAct op c (c.result32 x)
  | pair (x : Lane → DWord) (h : op ∈ [.imadw, .iaddx, .lea]) : RegisterAct op c (c.result64 x)
  | byMod (x : Lane → DWord) : RegisterAct op c (c.resultMod x)
  | float (x : Lane → Word × Flags) (h : 0x20 ≤ op.opc ∧ op ∉ [.mov, .movi, .movs, .pack, .unpack]) : RegisterAct op c (c.fpResult x)

/-- Every row of Tables K-39 to K-44 but the system registers ends so. -/
theorem exec_registerRow (op : Op) (f : Fields) (s : State) (h : op.opc < 0x49) :
    ∃ body, exec (Instr.ofOp op f) s = issue op f s body ∧ ∀ c, RegisterAct op c (body c) := by
  cases op
  case iadd | isub | imul | imulh | imad | imin | imax | iabs | iclamp | icmp | idot4 | idot2 | shf | bfext | bfins | popc | clz | ctz
      | prmt | fclass | pack | unpack => exact ⟨_, rfl, fun c => .word _⟩
  case imadw | iaddx | lea => exact ⟨_, rfl, fun c => .pair _ (by decide)⟩
  case isel | and | or | xor | andn | not | shl | shr | sar | brev | mov | movi | movs => exact ⟨_, rfl, fun c => .byMod _⟩
  case fadd | fsub | fmul | ffma | fmin | fmax | fcmp | frnd | fscale | hfma2 | hadd2 | hmul2 | fdot2 | frcp | frsq | fsqrt | fexp2
      | flog2 | fsin | fcos | ftanh | fdiv | cvt | cvtq | mxq | mxdq => exact ⟨_, rfl, fun c => .float _ (by decide)⟩
  all_goals exact absurd h (by decide)

/-- A result without flags: the destination is written, and FPSTAT stays. -/
theorem keeps_after {c : Ctx} {op : Op} {wide : Bool} {g : Group} (slot : WinSlot) (w : WritesDest c.f wide c.m (c.popped op) g) :
    c.Keeps op wide (c.stepped g slot) ∧ (c.stepped g slot).fpstat = c.g.fpstat := by
  refine ⟨keeps_stepped (c.popped op).fpstat slot w, ?_⟩
  obtain ⟨pcs, win, n, sc, e, -⟩ := stepped_eq c g slot
  rw [e, w.rest, c.popped_eq op]

/-- Settles O45, by the way the row's meaning ends: a word, a pair, a result of the width of MOD, or a floating result with flags. -/
theorem registerRowFrame : Obligations.RegisterRowFrame := by
  intro op f s c hop htrap hr
  have hf : c.f = f := (State.ctx?_spec hr.issuing).2.2.2.2.2.2.1
  obtain ⟨body, he, hk⟩ := exec_registerRow op f s hop
  rw [he, issue_ready hr]
  have same : ∀ g : Group, g.fpstat = c.g.fpstat → ∀ i : Lane, ∃ x : Flags,
      g.fpstat[i] = if inMask c.m i = true then c.g.fpstat[i] ||| x else c.g.fpstat[i] := fun g h i => ⟨0, by simp [h]⟩
  subst hf
  have hb := hk (c.go op)
  generalize body (c.go op) = a at hb ⊢
  cases hb with
  | word x =>
    rw [Ctx.settle_result32]
    obtain ⟨k, e⟩ := keeps_after (slot32 c.f c.m x) (write32_writesDest c.f _ c.m (c.popped op) x)
    exact ⟨_, rfl, k, fun _ => e, same _ e⟩
  | pair x h =>
    rw [Ctx.settle_result64]
    have hw : (isB64 c.f.md || op == .imadw || op == .iaddx || op == .lea) = true := by
      simp at h; rcases h with rfl | rfl | rfl <;> simp
    rw [hw]
    obtain ⟨k, e⟩ := keeps_after (slotOf c.f c.m x) (write64_writesDest c.f c.m (c.popped op) x)
    exact ⟨_, rfl, k, fun _ => e, same _ e⟩
  | byMod x =>
    rw [Ctx.settle_resultMod]
    unfold Ctx.afterMod
    by_cases h : isB64 c.f.md = true
    · rw [if_pos h, h]
      obtain ⟨k, e⟩ := keeps_after (slotOf c.f c.m x) (write64_writesDest c.f c.m (c.popped op) x)
      exact ⟨_, rfl, k, fun _ => e, same _ e⟩
    · rw [if_neg h]
      obtain ⟨k, e⟩ := keeps_after (slot32 c.f c.m _) (write32_writesDest c.f _ c.m (c.popped op) fun i => (x i).setWidth 32)
      exact ⟨_, rfl, k, fun _ => e, same _ e⟩
  | float x h =>
    rw [settle_fpResult op x htrap]
    have w := write32_writesDest c.f (isB64 c.f.md || op == .imadw || op == .iaddx || op == .lea) c.m
      (c.flagged (c.popped op) (fun i => (x i).2)) (fun i => (x i).1)
    refine ⟨_, rfl, keeps_stepped _ _ w, fun hp => ?_, fun i => ⟨(x i).2, ?_⟩⟩
    · rcases hp with hp | hp
      · omega
      · exact absurd hp h.2
    · obtain ⟨pcs, win, n, sc, e, -⟩ := stepped_eq c ((c.flagged (c.popped op) (fun i => (x i).2)).write32 c.f.dst c.m (fun i => (x i).1))
        (slot32 c.f c.m (fun i => (x i).1))
      rw [e, w.rest]
      have : (c.popped op).fpstat = c.g.fpstat := by rw [c.popped_eq op]
      simp [Ctx.flagged, this]

end Sys2Proof.Machine.Storage
end

section
/-! PROOF. Walks, translations and the attributes of a leaf (spec 17 R328 to R331, R336 to R339, R342). -/

namespace Sys2Proof.Machine.Storage

set_option Elab.async false

/-! ## The entries of a table -/

theorem tableBad_eq_false {e : DWord} {level : Nat} (hv : e.getLsbD 0 = true) : tableBad e level = false ↔ TableEntry e level := by
  simp only [tableBad, Bool.or_eq_false_iff, beq_eq_false_iff_ne, bne_eq_false_iff_eq, decide_eq_false_iff_not, not_le]
  simp only [entryPa, memEnd, TableEntry, hv, true_and]
  tauto

/-- The entries of a group by its code (Table D-9). -/
theorem contigCount_eq_some {e : DWord} {n : Nat} : contigCount e = some n ↔
    e.extractLsb' 52 2 = 0 ∧ n = 1 ∨ e.extractLsb' 52 2 = 1 ∧ n = 16 ∨ e.extractLsb' 52 2 = 2 ∧ n = 64 := by
  unfold contigCount
  generalize e.extractLsb' 52 2 = x
  have : x = 0 ∨ x = 1 ∨ x = 2 ∨ x = 3 := by revert x; decide
  rcases this with rfl | rfl | rfl | rfl <;> simp [eq_comm]

theorem contigOk_iff {level n : Nat} (hn : n = 1 ∨ n = 16 ∨ n = 64) :
    contigOk level n = true ↔ n = 1 ∨ n = 16 ∧ level ≤ 3 ∨ n = 64 ∧ level = 1 := by
  rcases hn with rfl | rfl | rfl <;> simp [contigOk]

/-- A number is an odd part of a group's span when the place before it fits and the rest is whole groups. -/
theorem groupBase_iff {pa j n w : Nat} : (¬ pa < j * w ∧ (pa - j * w) % (n * w) = 0) ↔ ∃ k, pa = (k * n + j) * w := by
  constructor
  · rintro ⟨h, hm⟩
    obtain ⟨k, hk⟩ := Nat.dvd_of_mod_eq_zero hm
    refine ⟨k, ?_⟩
    have : pa = n * w * k + j * w := by omega
    rw [this]; ring
  · rintro ⟨k, rfl⟩
    have e : (k * n + j) * w = k * (n * w) + j * w := by ring
    rw [e]
    exact ⟨by omega, by simp⟩

/-- A group has 1, 16 or 64 entries. -/
theorem goodLeaf_count {e : DWord} {level j n : Nat} (h : GoodLeaf e level j n) : contigCount e = some n := by
  rw [contigCount_eq_some]
  rcases h.contig with ⟨a, b⟩ | ⟨a, b, -⟩ | ⟨a, b, -⟩
  · exact .inl ⟨a, b⟩
  · exact .inr (.inl ⟨a, b⟩)
  · exact .inr (.inr ⟨a, b⟩)

/-- The tests of Table D-9 on a leaf of a group of n. -/
theorem leafBad_eq_false_of {e : DWord} {level j n : Nat} (hc : contigCount e = some n) (hv : e.getLsbD 0 = true) (hl : e.getLsbD 1 = true) :
    leafBad e level j = false ↔ GoodLeaf e level j n := by
  have hn := contigCount_eq_some.mp hc
  have hn3 : n = 1 ∨ n = 16 ∨ n = 64 := by tauto
  unfold leafBad
  simp only [hc, Bool.or_eq_false_iff, Bool.and_eq_false_iff, bne_eq_false_iff_eq, beq_eq_false_iff_ne, Bool.not_eq_false',
    decide_eq_false_iff_not, contigOk_iff hn3]
  simp only [entryPa, levelSpan, memEnd]
  constructor
  · rintro ⟨⟨⟨⟨⟨⟨h5, h11⟩, h54⟩, hw⟩, hcache⟩, ⟨⟨⟨hok, hal⟩, hlt⟩, hmod⟩, hres⟩, hin⟩
    refine ⟨hv, hl, h5, ⟨h11, h54⟩, fun h => ?_, hcache, ?_, hal, groupBase_iff.mp ⟨hlt, hmod⟩, fun h => ?_, by omega⟩
    · rcases hw with hw | hw
      · rw [h] at hw; cases hw
      · simpa using hw
    · rcases hn with ⟨h, rfl⟩ | ⟨h, rfl⟩ | ⟨h, rfl⟩
      · exact .inl ⟨h, rfl⟩
      · exact .inr (.inl ⟨h, rfl, by omega⟩)
      · exact .inr (.inr ⟨h, rfl, by omega⟩)
    · rcases hres with hres | hres
      · rw [h] at hres; cases hres
      · simpa using hres
  · intro h
    obtain ⟨hlt, hmod⟩ := groupBase_iff.mpr h.based
    refine ⟨⟨⟨⟨⟨⟨h.notTop, h.mustBeZero.1⟩, h.mustBeZero.2⟩, ?_⟩, h.cache⟩, ⟨⟨⟨?_, h.aligned⟩, hlt⟩, hmod⟩, ?_⟩, ?_⟩
    · by_cases hw : e.getLsbD 3 = true
      · exact .inr (by simp [h.writeNeedsRead hw])
      · exact .inl (by simpa using hw)
    · rcases h.contig with ⟨-, h⟩ | ⟨-, h⟩ | ⟨-, h⟩ <;> tauto
    · by_cases hr : e.getLsbD 8 = true
      · exact .inr (by simpa using h.resident hr)
      · exact .inl (by simpa using hr)
    · have := h.inside; omega

theorem leafBad_of_none {e : DWord} {level j : Nat} (h : contigCount e = none) : leafBad e level j = true := by
  simp [leafBad, h]

/-- A leaf that is in no form of Table D-9 is malformed (R329). -/
theorem leafBad_of_not {e : DWord} {level j : Nat} (hv : e.getLsbD 0 = true) (hl : e.getLsbD 1 = true)
    (h : ∀ n, ¬ GoodLeaf e level j n) : leafBad e level j = true := by
  cases hc : contigCount e with
  | none => exact leafBad_of_none hc
  | some n =>
    by_contra hb
    exact h n ((leafBad_eq_false_of hc hv hl).mp (by simpa using hb))

/-! ## Walks -/

/-- One level of a walk (R328 to R330, R339). -/
theorem walkFrom_succ (s : State) (d : DieId) (asid : BitVec 12) (va level table : Nat) :
    s.walkFrom d asid va (level + 1) table =
      let e := s.entryAt d (entryPlace va (level + 1) table)
      let j := levelIndex va (level + 1)
      let size := (contigCount e).getD 1 * levelSpan (level + 1)
      if s.poisonedIn (entryPlace va (level + 1) table) 8 then .error .walkPoison
      else if !e.getLsbD 0 then .error .notPresent
      else if e.getLsbD 1 then
        if leafBad e (level + 1) j then .error .malformed
        else .ok ⟨asid, va / size * size, size, entryPa e - j % (contigCount e).getD 1 * levelSpan (level + 1), leafAttrs e⟩
      else if tableBad e (level + 1) then .error .malformed
      else s.walkFrom d asid va level (entryPa e) := rfl

/-- A walk that meets a table entry goes on in the table below (R328). -/
theorem walkFrom_table {s : State} {d : DieId} {asid : BitVec 12} {va level table : Nat}
    (hp : s.poisonedIn (entryPlace va (level + 1) table) 8 = false)
    (ht : TableEntry (s.entryAt d (entryPlace va (level + 1) table)) (level + 1)) :
    s.walkFrom d asid va (level + 1) table =
      s.walkFrom d asid va level (((s.entryAt d (entryPlace va (level + 1) table)).extractLsb' 12 40).toNat * 4096) := by
  have hb := (tableBad_eq_false ht.1).mpr ht
  have h1 : (s.entryAt d (entryPlace va (level + 1) table)).getLsbD 1 = false := by
    have := congrArg (fun x => BitVec.getLsbD x 0) ht.2.1
    simpa using this
  rw [walkFrom_succ]
  simp only [hp, ht.1, h1, hb, Bool.not_true, Bool.false_eq_true, if_false]
  rfl

/-- A walk passes the levels that lead to a table (R328). -/
theorem walkFrom_leadsTo {s : State} {d : DieId} {asid : BitVec 12} {va last : Nat} (n level table : Nat)
    (h : s.LeadsTo d va n (level + n) table last) : s.walkFrom d asid va (level + n) table = s.walkFrom d asid va level last := by
  induction n generalizing table with
  | zero => rw [show table = last from h]; rfl
  | succ n ih =>
    obtain ⟨hp, ht, hl⟩ := h
    exact (walkFrom_table (level := level + n) hp ht).trans (ih _ hl)

theorem rootOf_hasRoot {s : State} {d : DieId} {asid : BitVec 12} {root : Nat} (h : s.HasRoot d asid root) : s.rootOf d asid = .ok root := by
  obtain ⟨hen, hp, ⟨e, he, h0, h1, h52, hr, hlt⟩, hrest⟩ := h
  have hm : ¬ memEnd ≤ entryPa e := by unfold memEnd entryPa; omega
  unfold State.rootOf
  simp only [hen, hp, he, h0, h1, h52, hrest, Bool.not_true, Bool.false_eq_true, if_false, bne_self_eq_false, Bool.or_self, hm]
  rw [hr]; rfl

/-- A walk from its root is the walk of the last level that the tables lead to. -/
theorem walk_leadsTo {s : State} {d : DieId} {asid : BitVec 12} {va root last level : Nat} (hr : s.HasRoot d asid root) (h5 : level ≤ 5)
    (hl : s.LeadsTo d va (5 - level) 5 root last) : s.walk d asid va = s.walkFrom d asid va level last := by
  unfold State.walk
  rw [rootOf_hasRoot hr]
  have e : level + (5 - level) = 5 := by omega
  have := walkFrom_leadsTo (asid := asid) (s := s) (d := d) (va := va) (last := last) (5 - level) level root (by rw [e]; exact hl)
  rwa [e] at this

/-- What a walk finds at a leaf of the form of Table D-9: its group's place and span, and the leaf's attributes (R328, R331). -/
theorem walkFrom_leaf {s : State} {d : DieId} {asid : BitVec 12} {va level table n : Nat} (h1 : 1 ≤ level)
    (hp : s.poisonedIn (entryPlace va level table) 8 = false)
    (hg : GoodLeaf (s.entryAt d (entryPlace va level table)) level (va / 2 ^ (12 + 9 * (level - 1)) % 512) n) :
    s.walkFrom d asid va level table = .ok ⟨asid, va / (n * levelSpan level) * (n * levelSpan level), n * levelSpan level,
      entryPa (s.entryAt d (entryPlace va level table)) - levelIndex va level % n * levelSpan level,
      leafAttrs (s.entryAt d (entryPlace va level table))⟩ := by
  obtain ⟨k, rfl⟩ : ∃ k, level = k + 1 := ⟨level - 1, by omega⟩
  have hc := goodLeaf_count hg
  have hb : leafBad _ (k + 1) (levelIndex va (k + 1)) = false := (leafBad_eq_false_of hc hg.valid hg.leaf).mpr hg
  rw [walkFrom_succ]
  simp only [hp, hg.valid, hg.leaf, hb, hc, Bool.not_true, Bool.false_eq_true, if_false, if_true, Option.getD_some]

/-- Within a group the offset of an address from its entry's place is its offset from the group's (R331). -/
theorem group_offset {pa va n w k : Nat} (hn : n = 1 ∨ n = 16 ∨ n = 64) (hpa : pa = (k * n + va / w % 512 % n) * w) :
    pa - va / w % 512 % n * w + (va - va / (n * w) * (n * w)) = pa + va % w := by
  have hj : va / w % 512 % n = va / w % n := Nat.mod_mod_of_dvd _ (by rcases hn with rfl | rfl | rfl <;> decide)
  rw [hj] at hpa ⊢
  have h1 : va - va / (n * w) * (n * w) = va % (w * n) := by
    have := Nat.div_add_mod va (n * w); rw [mul_comm] at this; rw [mul_comm w n]; omega
  have h2 : va % (w * n) = va / w % n * w + va % w := by rw [Nat.mod_mul]; ring
  have h3 : va / w % n * w ≤ pa := by rw [hpa, add_mul]; omega
  omega

/-- The walk of an address that the tables lead to a leaf (R328 to R331). -/
theorem walk_leaf {s : State} {d : DieId} {asid : BitVec 12} {va root last level n : Nat} (hr : s.HasRoot d asid root) (h1 : 1 ≤ level)
    (h4 : level ≤ 4) (hl : s.LeadsTo d va (5 - level) 5 root last) (hp : s.poisonedIn (entryPlace va level last) 8 = false)
    (hg : GoodLeaf (s.entryAt d (entryPlace va level last)) level (va / 2 ^ (12 + 9 * (level - 1)) % 512) n) :
    ∃ y, s.walk d asid va = .ok y ∧ y.asid = asid ∧ y.va ≤ va ∧ va < y.va + y.size ∧ y.size = n * 2 ^ (12 + 9 * (level - 1)) ∧
      y.pa + (va - y.va) = ((s.entryAt d (entryPlace va level last)).extractLsb' 12 40).toNat * 4096 + va % 2 ^ (12 + 9 * (level - 1)) ∧
      y.attrs = leafAttrs (s.entryAt d (entryPlace va level last)) := by
  have hn : n = 1 ∨ n = 16 ∨ n = 64 := by rcases h : hg.contig with ⟨-, h⟩ | ⟨-, h, -⟩ | ⟨-, h, -⟩ <;> tauto
  have hnw : 0 < n * 2 ^ (12 + 9 * (level - 1)) := Nat.mul_pos (by omega) (by positivity)
  refine ⟨_, (walk_leadsTo hr (by omega) hl).trans (walkFrom_leaf h1 hp hg), rfl, Nat.div_mul_le_self _ _, ?_, rfl, ?_, rfl⟩
  · exact Nat.lt_div_mul_add hnw
  · obtain ⟨k, hk⟩ := hg.based
    exact group_offset hn hk

/-- A walk ends with the failure of Table D-12 that comes first in the entry it comes to (R329, R339). -/
theorem walk_fails {s : State} {d : DieId} {asid : BitVec 12} {va root last level : Nat} (hr : s.HasRoot d asid root) (h1 : 1 ≤ level)
    (h5 : level ≤ 5) (hl : s.LeadsTo d va (5 - level) 5 root last) :
    let e := s.entryAt d (entryPlace va level last)
    (s.poisonedIn (entryPlace va level last) 8 = true → s.walk d asid va = .error .walkPoison) ∧
    (s.poisonedIn (entryPlace va level last) 8 = false → e.getLsbD 0 = false → s.walk d asid va = .error .notPresent) ∧
    (s.poisonedIn (entryPlace va level last) 8 = false → e.getLsbD 0 = true → e.getLsbD 1 = true →
      (∀ n, ¬ GoodLeaf e level (va / 2 ^ (12 + 9 * (level - 1)) % 512) n) → s.walk d asid va = .error .malformed) ∧
    (s.poisonedIn (entryPlace va level last) 8 = false → e.getLsbD 0 = true → e.getLsbD 1 = false → ¬ TableEntry e level →
      s.walk d asid va = .error .malformed) := by
  intro e
  rw [walk_leadsTo hr h5 hl]
  obtain ⟨k, rfl⟩ : ∃ k, level = k + 1 := ⟨level - 1, by omega⟩
  have he : s.entryAt d (entryPlace va (k + 1) last) = e := rfl
  clear_value e
  rw [walkFrom_succ]
  refine ⟨fun hp => ?_, fun hp h0 => ?_, fun hp h0 h1 hg => ?_, fun hp h0 h1 ht => ?_⟩
  · simp [hp]
  · simp only [hp, he, h0, Bool.false_eq_true, Bool.not_false, if_true, if_false]
  · have hb : leafBad e (k + 1) (levelIndex va (k + 1)) = true := leafBad_of_not h0 h1 hg
    simp only [hp, he, h0, h1, hb, Bool.false_eq_true, Bool.not_true, if_true, if_false]
  · have hb : tableBad e (k + 1) = true := by
      by_contra hb; exact ht ((tableBad_eq_false h0).mp (by simpa using hb))
    simp only [hp, he, h0, h1, hb, Bool.false_eq_true, Bool.not_true, if_true, if_false]

/-! ## Translation -/

/-- The failure of an access that the attributes of a leaf deny (Table D-12). -/
def denial (x : Attrs) (kind : AccessKind) : AccessDetail :=
  match kind with
  | .fetch => .execute
  | .read => .read
  | .wload => if x.r = false then .read else .notResident
  | .write => if x.w = false then .write else .sealed
  | .atomic => if x.r = false then .read else if x.w = false then .write else .sealed

/-- The attributes of a leaf allow an access where its checks find nothing, and else the first that fails denies it (Table D-12). -/
theorem deny_eq (x : Attrs) (kind : AccessKind) :
    (x.Allows kind → x.deny kind = none) ∧ (¬ x.Allows kind → x.deny kind = some (denial x kind)) := by
  obtain ⟨r, w, ex, -, -, res, sealed, -⟩ := x
  cases kind with
  | fetch => cases ex <;> simp [Attrs.Allows, Attrs.deny, denial]
  | read => cases r <;> simp [Attrs.Allows, Attrs.deny, denial]
  | wload => cases r <;> cases res <;> simp [Attrs.Allows, Attrs.deny, denial]
  | write => cases w <;> cases sealed <;> simp [Attrs.Allows, Attrs.deny, denial]
  | atomic => cases r <;> cases w <;> cases sealed <;> simp [Attrs.Allows, Attrs.deny, denial]

/-- A translation fails where no entry maps the address (R328, R336, R342). -/
theorem translate_error (s : State) (d : DieId) (c : Option CoreId) (asid : BitVec 12) (va : DWord) (kind : AccessKind) :
    (canonical va = false → s.translate d c asid va kind = .error .nonCanonical) ∧
    (canonical va = true → s.xlat.en = false → s.translate d c asid va kind = .error .asidInvalid) ∧
    (∀ e, canonical va = true → s.lookup d c asid (va57 va) = .error e → s.translate d c asid va kind = .error e) := by
  refine ⟨fun h => by simp [State.translate, h], fun h he => ?_, fun e h hl => by simp [State.translate, h, hl]⟩
  have : s.lookup d c asid (va57 va) = .error .asidInvalid := by simp [State.lookup, he]
  simp [State.translate, h, this]

/-- A translation by an entry, which its attributes allow or deny (R342). -/
theorem translate_entry (s : State) (d : DieId) (c : Option CoreId) (asid : BitVec 12) (va : DWord) (kind : AccessKind) (y : TlbEntry)
    (h : canonical va = true) (hl : s.lookup d c asid (va57 va) = .ok y) :
    (y.attrs.Allows kind → s.translate d c asid va kind = .ok ⟨y.pa + (va57 va - y.va), y.attrs⟩) ∧
    (¬ y.attrs.Allows kind → s.translate d c asid va kind = .error (denial y.attrs kind)) := by
  refine ⟨fun ha => ?_, fun ha => ?_⟩
  · simp [State.translate, h, hl, (deny_eq y.attrs kind).1 ha]
  · simp [State.translate, h, hl, (deny_eq y.attrs kind).2 ha]

/-- A translation uses the core's TLB, then the die's, then a walk (R338). -/
theorem lookup_spec (s : State) (d : DieId) (c : CoreId) (asid : BitVec 12) (va : Nat) (y : TlbEntry) (he : s.xlat.en = true)
    (hr : s.released asid va = false) :
    (tlbFind (s.core d c).tlb asid va = some y → s.lookup d (some c) asid va = .ok y) ∧
    (tlbFind (s.core d c).tlb asid va = none → tlbFind s.dies[d].tlb asid va = some y → s.lookup d (some c) asid va = .ok y) ∧
    (tlbFind (s.core d c).tlb asid va = none → tlbFind s.dies[d].tlb asid va = none → s.lookup d (some c) asid va = s.walk d asid va) := by
  refine ⟨fun h => ?_, fun h h2 => ?_, fun h h2 => ?_⟩
  · simp [State.lookup, he, hr, h]
  · simp only [State.lookup, he, hr, h, h2, Bool.not_true, Bool.false_eq_true, if_false]
  · simp only [State.lookup, he, hr, h, h2, Bool.not_true, Bool.false_eq_true, if_false]

end Sys2Proof.Machine.Storage
end

section
/-! PROOF. The checks of an access, lane by lane and row by row, and the traps of those that fail (spec 03 R92, spec 09 R222 to R230, spec 18
R342, R392). -/

namespace Sys2Proof.Machine.Storage

set_option Elab.async false

/-! ## The first failure of a list of checks -/

/-- The results of a check over a list, or its first failure. -/
def collect {α ε β : Type} (g : α → Except ε β) (xs : List α) : Except ε (List β) :=
  xs.foldr (fun i acc => match g i with
    | .error e => .error e
    | .ok y => acc.map (fun l => y :: l)) (.ok [])

theorem collect_cons_error {α ε β : Type} {g : α → Except ε β} {i : α} {xs : List α} {e : ε} (h : g i = .error e) :
    collect g (i :: xs) = .error e := by simp [collect, h]

theorem collect_cons_ok {α ε β : Type} {g : α → Except ε β} {i : α} {xs : List α} {y : β} (h : g i = .ok y) :
    collect g (i :: xs) = (collect g xs).map (fun l => y :: l) := by simp [collect, h]

/-- A check that fails for the first time at a member of a rising list. -/
theorem collect_first {α ε β : Type} [LinearOrder α] {g : α → Except ε β} {xs : List α} {i : α} {e : ε} (hs : xs.Pairwise (· < ·))
    (hi : i ∈ xs) (hg : g i = .error e) (hj : ∀ j ∈ xs, j < i → ∃ y, g j = .ok y) : collect g xs = .error e := by
  induction xs with
  | nil => cases hi
  | cons x xs ih =>
    rw [List.pairwise_cons] at hs
    rcases List.mem_cons.mp hi with rfl | hi
    · exact collect_cons_error hg
    · obtain ⟨y, hy⟩ := hj x (by simp) (hs.1 i hi)
      rw [collect_cons_ok hy, ih hs.2 hi fun j hjx => hj j (List.mem_cons_of_mem _ hjx)]
      rfl

/-- A check that no member of a list fails. -/
theorem collect_ok {α ε β : Type} {g : α → Except ε β} {xs : List α} {ys : List β} (h : List.Forall₂ (fun x y => g x = .ok y) xs ys) :
    collect g xs = .ok ys := by
  induction h with
  | nil => rfl
  | cons hx _ ih => rw [collect_cons_ok hx, ih]; rfl

/-- The first member of a rising list for which a function gives something. -/
theorem findSome?_first {α β : Type} [LinearOrder α] {g : α → Option β} {xs : List α} {i : α} {y : β} (hs : xs.Pairwise (· < ·))
    (hi : i ∈ xs) (hg : g i = some y) (hj : ∀ j ∈ xs, j < i → g j = none) : xs.findSome? g = some y := by
  induction xs with
  | nil => cases hi
  | cons x xs ih =>
    rw [List.pairwise_cons] at hs
    rcases List.mem_cons.mp hi with rfl | hi
    · simp [hg]
    · rw [List.findSome?_cons, hj x (by simp) (hs.1 i hi)]
      exact ih hs.2 hi fun j hjx => hj j (List.mem_cons_of_mem _ hjx)

theorem lanesOf_sorted (m : Mask) : (lanesOf m).Pairwise (· < ·) := List.Pairwise.filter _ (List.pairwise_lt_finRange 32)

/-! ## Global accesses (R224, R342) -/

theorem widthOf_eq (c : Ctx) : widthOf c.f.sub = c.size := by
  unfold widthOf Ctx.size widthBytes
  generalize c.f.sub = x
  revert x; decide

/-- The access of one lane: its translation, or its trap. -/
def accessOf (c : Ctx) (kind : AccessKind) (size : Nat) (ea : Lane → DWord) (i : Lane) : Except Act (Lane × Translated) :=
  if (ea i).toNat % size ≠ 0 then .error (c.trap 0x20 0 (ea i))
  else
    match c.translate (ea i) kind with
    | .error e => .error (c.trap 0x21 e.code (ea i))
    | .ok x => .ok (i, x)

theorem accessOf_misaligned {c : Ctx} {kind : AccessKind} {size : Nat} {ea : Lane → DWord} {i : Lane} (h : (ea i).toNat % size ≠ 0) :
    accessOf c kind size ea i = .error (c.trap 0x20 0 (ea i)) := if_pos h

theorem accessOf_fault {c : Ctx} {kind : AccessKind} {size : Nat} {ea : Lane → DWord} {i : Lane} {e : AccessDetail}
    (h : (ea i).toNat % size = 0) (he : c.translate (ea i) kind = .error e) :
    accessOf c kind size ea i = .error (c.trap 0x21 e.code (ea i)) := by simp [accessOf, h, he]

theorem accessOf_ok {c : Ctx} {kind : AccessKind} {size : Nat} {ea : Lane → DWord} {i : Lane} {x : Translated}
    (h : (ea i).toNat % size = 0) (hx : c.translate (ea i) kind = .ok x) : accessOf c kind size ea i = .ok (i, x) := by
  simp [accessOf, h, hx]

theorem checkGlobal_eq (c : Ctx) (kind : AccessKind) (size : Nat) (ea : Lane → DWord) :
    c.checkGlobal kind size ea = collect (accessOf c kind size ea) (lanesOf c.m) := by
  unfold Ctx.checkGlobal collect
  congr 1
  funext i acc
  unfold accessOf
  by_cases h : (ea i).toNat % size = 0
  · cases c.translate (ea i) kind <;> simp [h]
  · simp [h]

/-- The lowest lane whose access fails gives the trap (R224, R342). -/
theorem checkGlobal_error {c : Ctx} {kind : AccessKind} {size : Nat} {ea : Lane → DWord} {i : Lane} {a : Act} (h : c.FirstBad kind size ea i)
    (ha : accessOf c kind size ea i = .error a) : c.checkGlobal kind size ea = .error a := by
  rw [checkGlobal_eq]
  refine collect_first (lanesOf_sorted c.m) (mem_lanesOf.mpr h.1) ha fun j hj hlt => ?_
  obtain ⟨hal, x, hx⟩ := h.2 j hlt (mem_lanesOf.mp hj)
  exact ⟨_, accessOf_ok hal hx⟩

/-- Accesses that are all aligned and translated pass. -/
theorem checkGlobal_ok {c : Ctx} {kind : AccessKind} {size : Nat} {ea : Lane → DWord} {xs : List (Lane × Translated)}
    (h : c.Reaches kind size ea xs) : c.checkGlobal kind size ea = .ok xs := by
  rw [checkGlobal_eq, ← h.1]
  refine collect_ok ?_
  rw [List.forall₂_map_left_iff, List.forall₂_same]
  exact fun x hx => accessOf_ok (h.2 x hx).1 (h.2 x hx).2

/-! ## Scratchpad accesses (R92, R224) -/

/-- The trap of one lane's scratchpad access, if there is one. -/
def spadTrap (c : Ctx) (size : Nat) (ea : Lane → Word) (i : Lane) : Option Act :=
  if (ea i).toNat % size ≠ 0 then some (c.trap 0x20 0 ((ea i).setWidth 64))
  else ((c.s0.core c.r.die c.r.core).spadFault c.t (ea i).toNat).map (fun e => c.trap e 0 ((ea i).setWidth 64))

theorem spadFault_eq_none {k : Core} {t : Team} {a : Nat} : k.spadFault t a = none ↔ ∃ p, k.spadPlace t a = .ok p := by
  unfold Core.spadFault
  cases k.spadPlace t a <;> simp

theorem spadFault_eq_some {k : Core} {t : Team} {a : Nat} {e : Byte} : k.spadFault t a = some e ↔ k.spadPlace t a = .error e := by
  unfold Core.spadFault
  cases k.spadPlace t a <;> simp

theorem spadTrap_none {c : Ctx} {size : Nat} {ea : Lane → Word} {i : Lane} (h : (ea i).toNat % size = 0)
    (hp : ∃ p, (c.s0.core c.r.die c.r.core).spadPlace c.t (ea i).toNat = .ok p) : spadTrap c size ea i = none := by
  simp [spadTrap, h, spadFault_eq_none.mpr hp]

theorem spadTrap_misaligned {c : Ctx} {size : Nat} {ea : Lane → Word} {i : Lane} (h : (ea i).toNat % size ≠ 0) :
    spadTrap c size ea i = some (c.trap 0x20 0 ((ea i).setWidth 64)) := if_pos h

theorem spadTrap_fault {c : Ctx} {size : Nat} {ea : Lane → Word} {i : Lane} {e : Byte} (h : (ea i).toNat % size = 0)
    (he : (c.s0.core c.r.die c.r.core).spadPlace c.t (ea i).toNat = .error e) :
    spadTrap c size ea i = some (c.trap e 0 ((ea i).setWidth 64)) := by
  simp [spadTrap, h, spadFault_eq_some.mpr he]

theorem checkSpad_eq (c : Ctx) (size : Nat) (ea : Lane → Word) : c.checkSpad size ea = (lanesOf c.m).findSome? (spadTrap c size ea) := rfl

/-- The lowest lane whose scratchpad access fails gives the trap (R92, R224). -/
theorem checkSpad_some {c : Ctx} {size : Nat} {ea : Lane → Word} {i : Lane} {a : Act} (h : c.FirstBadSpad size ea i)
    (ha : spadTrap c size ea i = some a) : c.checkSpad size ea = some a := by
  rw [checkSpad_eq]
  refine findSome?_first (lanesOf_sorted c.m) (mem_lanesOf.mpr h.1) ha fun j hj hlt => ?_
  obtain ⟨hal, hp⟩ := h.2 j hlt (mem_lanesOf.mp hj)
  exact spadTrap_none hal hp

theorem checkSpad_none {c : Ctx} {size : Nat} {ea : Lane → Word} (h : c.ReachesSpad size ea) : c.checkSpad size ea = none := by
  rw [checkSpad_eq, List.findSome?_eq_none_iff]
  exact fun i hi => spadTrap_none (h i (mem_lanesOf.mp hi)).1 (h i (mem_lanesOf.mp hi)).2

/-! ## Tile accesses (R224, R230) -/

/-- The access of one row of a global tile. -/
def rowOfTile (c : Ctx) (kind : AccessKind) (r : Nat) : Except Act Translated :=
  match c.translate (c.tileRow r) kind with
  | .error e => .error (c.trap 0x21 e.code (c.tileRow r))
  | .ok x => .ok x

theorem rowOfTile_ok {c : Ctx} {kind : AccessKind} {r : Nat} {x : Translated} (h : c.translate (c.tileRow r) kind = .ok x) :
    rowOfTile c kind r = .ok x := by simp [rowOfTile, h]

theorem rowOfTile_error {c : Ctx} {kind : AccessKind} {r : Nat} {e : AccessDetail} (h : c.translate (c.tileRow r) kind = .error e) :
    rowOfTile c kind r = .error (c.trap 0x21 e.code (c.tileRow r)) := by simp [rowOfTile, h]

theorem checkTile_misaligned {c : Ctx} {kind : AccessKind} (h : ¬ c.TileAligned) :
    c.checkTile kind = .error (c.trap 0x20 0 (c.tileRow 0)) := by
  have : (c.tileRow 0).toNat % 32 ≠ 0 ∨ c.stride.toNat % 32 ≠ 0 := by
    by_contra hn; push Not at hn; exact h hn
  unfold Ctx.checkTile
  rw [if_pos this]

theorem checkTile_eq {c : Ctx} {kind : AccessKind} (h : c.TileAligned) : c.checkTile kind = collect (rowOfTile c kind) (List.range 32) := by
  have : ¬ ((c.tileRow 0).toNat % 32 ≠ 0 ∨ c.stride.toNat % 32 ≠ 0) := by
    rintro (hn | hn)
    · exact hn h.1
    · exact hn h.2
  unfold Ctx.checkTile
  rw [if_neg this]
  unfold collect
  congr 1
  funext r acc
  unfold rowOfTile
  cases c.translate (c.tileRow r) kind <;> rfl

/-- The lowest row that does not translate gives the trap (R342). -/
theorem checkTile_error {c : Ctx} {kind : AccessKind} {r : Nat} {e : AccessDetail} (h : c.TileAligned) (hr : r < 32)
    (he : c.translate (c.tileRow r) kind = .error e) (hq : ∀ q, q < r → ∃ x, c.translate (c.tileRow q) kind = .ok x) :
    c.checkTile kind = .error (c.trap 0x21 e.code (c.tileRow r)) := by
  rw [checkTile_eq h]
  refine collect_first List.pairwise_lt_range (List.mem_range.mpr hr) (rowOfTile_error he) fun q _ hlt => ?_
  obtain ⟨x, hx⟩ := hq q hlt
  exact ⟨x, rowOfTile_ok hx⟩

theorem checkTile_ok {c : Ctx} {kind : AccessKind} {xs : List Translated} (h : c.TileAligned) (hl : xs.length = 32)
    (hx : ∀ r x, xs[r]? = some x → c.translate (c.tileRow r) kind = .ok x) : c.checkTile kind = .ok xs := by
  rw [checkTile_eq h]
  refine collect_ok (List.forall₂_iff_get.mpr ⟨by simp [hl], fun r h1 h2 => ?_⟩)
  have : xs[r]? = some (xs.get ⟨r, h2⟩) := by simp
  simpa using rowOfTile_ok (hx r _ this)

/-- The trap of one row of a scratchpad tile, if there is one. -/
def spadRowTrap (c : Ctx) (r : Nat) : Option Act :=
  ((c.s0.core c.r.die c.r.core).spadFault c.t (c.tileRowSpad r).toNat).map (fun e => c.trap e 0 ((c.tileRowSpad r).setWidth 64))

theorem checkTileSpad_misaligned {c : Ctx} (h : ¬ c.TileAlignedSpad) :
    c.checkTileSpad = some (c.trap 0x20 0 ((c.tileRowSpad 0).setWidth 64)) := by
  have : (c.tileRowSpad 0).toNat % 32 ≠ 0 ∨ c.stride.toNat % 32 ≠ 0 := by
    by_contra hn; push Not at hn; exact h hn
  unfold Ctx.checkTileSpad
  rw [if_pos this]

theorem checkTileSpad_eq {c : Ctx} (h : c.TileAlignedSpad) : c.checkTileSpad = (List.range 32).findSome? (spadRowTrap c) := by
  have : ¬ ((c.tileRowSpad 0).toNat % 32 ≠ 0 ∨ c.stride.toNat % 32 ≠ 0) := by
    rintro (hn | hn)
    · exact hn h.1
    · exact hn h.2
  unfold Ctx.checkTileSpad
  rw [if_neg this]
  rfl

theorem checkTileSpad_some {c : Ctx} {r : Nat} {e : Byte} (h : c.TileAlignedSpad) (hr : r < 32)
    (he : (c.s0.core c.r.die c.r.core).spadPlace c.t (c.tileRowSpad r).toNat = .error e)
    (hq : ∀ q, q < r → ∃ x, (c.s0.core c.r.die c.r.core).spadPlace c.t (c.tileRowSpad q).toNat = .ok x) :
    c.checkTileSpad = some (c.trap e 0 ((c.tileRowSpad r).setWidth 64)) := by
  rw [checkTileSpad_eq h]
  refine findSome?_first List.pairwise_lt_range (List.mem_range.mpr hr) ?_ fun q _ hlt => ?_
  · simp [spadRowTrap, spadFault_eq_some.mpr he]
  · simp [spadRowTrap, spadFault_eq_none.mpr (hq q hlt)]

theorem checkTileSpad_none {c : Ctx} (h : c.TileAlignedSpad)
    (hp : ∀ r, r < 32 → (c.s0.core c.r.die c.r.core).spadFault c.t (c.tileRowSpad r).toNat = none) : c.checkTileSpad = none := by
  rw [checkTileSpad_eq h, List.findSome?_eq_none_iff]
  exact fun r hr => by simp [spadRowTrap, hp r (List.mem_range.mp hr)]

/-! ## Rows whose check fails -/

/-- A row whose meaning is a precise trap raises it (R165, R289). -/
theorem issue_traps {op : Op} {f : Fields} {s : State} {c : Ctx} (h : Ready op false f s c) {body : Ctx → Act} {cause detail : Byte}
    {addr : DWord} (hb : body (c.go op) = c.trap cause detail addr) :
    issue op f s body = .next ((c.charged s).raise c.r (c.info cause detail addr 0)) := by
  rw [issue_ready h, hb]
  exact congrArg _ (c.settle_trap op h.issuing cause detail addr)

theorem load_error {c : Ctx} {ea : Lane → DWord} {a : Act} (h : c.checkGlobal .read c.size ea = .error a) : c.load ea = a := by
  simp [Ctx.load, h]
theorem store_error {c : Ctx} {ea : Lane → DWord} {data : Lane → List Byte} {a : Act} (h : c.checkGlobal .write c.size ea = .error a) :
    c.store ea data = a := by simp [Ctx.store, h]
theorem atomic_error {c : Ctx} {n : Nat} {op : Lane → Nat → Nat} {a : Act} (h : c.checkGlobal .atomic n c.ea = .error a) :
    c.atomic n op = a := by simp [Ctx.atomic, h]
theorem atomicSpad_some {c : Ctx} {n : Nat} {op : Lane → Nat → Nat} {a : Act} (h : c.checkSpad n c.eaSpad = some a) :
    c.atomicSpad n op = a := by simp [Ctx.atomicSpad, h]

/-- A row whose meaning ends in the failure of its global accesses raises the trap of the lowest lane that fails (R224, R342). -/
theorem traps_of_checkGlobal {op : Op} {f : Fields} {s : State} {c : Ctx} {kind : AccessKind} {n : Nat} {ea : Lane → DWord} {i : Lane}
    {body : Ctx → Act} (hr : Ready op false f s c) (hb : ∀ a, (c.go op).checkGlobal kind n ea = .error a → body (c.go op) = a)
    (h : c.FirstBad kind n ea i) :
    ((ea i).toNat % n ≠ 0 → issue op f s body = .next ((c.charged s).raise c.r (c.info 0x20 0 (ea i) 0))) ∧
    (∀ e, (ea i).toNat % n = 0 → c.translate (ea i) kind = .error e →
      issue op f s body = .next ((c.charged s).raise c.r (c.info 0x21 e.code (ea i) 0))) :=
  ⟨fun hm => issue_traps hr (hb _ (checkGlobal_error (c := c) h (accessOf_misaligned hm))),
    fun _ ha he => issue_traps hr (hb _ (checkGlobal_error (c := c) h (accessOf_fault ha he)))⟩

/-- The same for its scratchpad accesses (R92, R224). -/
theorem traps_of_checkSpad {op : Op} {f : Fields} {s : State} {c : Ctx} {n : Nat} {ea : Lane → Word} {i : Lane} {body : Ctx → Act}
    (hr : Ready op false f s c) (hb : ∀ a, (c.go op).checkSpad n ea = some a → body (c.go op) = a) (h : c.FirstBadSpad n ea i) :
    ((ea i).toNat % n ≠ 0 → issue op f s body = .next ((c.charged s).raise c.r (c.info 0x20 0 ((ea i).setWidth 64) 0))) ∧
    (∀ e, (ea i).toNat % n = 0 → (s.core c.r.die c.r.core).spadPlace c.t (ea i).toNat = .error e →
      issue op f s body = .next ((c.charged s).raise c.r (c.info e 0 ((ea i).setWidth 64) 0))) := by
  have hs : c.s0 = s := (State.ctx?_spec hr.issuing).2.2.2.2.1
  refine ⟨fun hm => issue_traps hr (hb _ (checkSpad_some (c := c) h (spadTrap_misaligned hm))), fun e ha he => ?_⟩
  exact issue_traps hr (hb _ (checkSpad_some (c := c) h (spadTrap_fault ha (by rw [hs]; exact he))))

end Sys2Proof.Machine.Storage
end

section
/-! PROOF. Which trap an access raises that may not be made (spec 03 R92, spec 09 R224, R230, spec 17 R328 to R339, spec 18 R342, R392). -/

namespace Sys2Proof.Machine.Storage

set_option Elab.async false

/-- What the context of a ready issue says of its state and its fields. -/
theorem ready_eqs {op : Op} {always : Bool} {f : Fields} {s : State} {c : Ctx} (h : Ready op always f s c) : c.s0 = s ∧ c.f = f :=
  ⟨(State.ctx?_spec h.issuing).2.2.2.2.1, (State.ctx?_spec h.issuing).2.2.2.2.2.2.1⟩

/-- A load or a store without an index: its address (R223). -/
theorem ea_eq (c : Ctx) : (fun l => c.a64 l + c.f.imm.signExtend 64 + 0) = c.ea := by
  funext l; simp [Ctx.ea]

theorem eaIndexed_eq (c : Ctx) :
    (fun l => c.a64 l + c.f.imm.signExtend 64 + (c.b32 l).signExtend 64 * BitVec.ofNat 64 (widthOf c.f.sub)) = c.eaIndexed := by
  funext l; simp [Ctx.eaIndexed, Ctx.ea, widthOf_eq]

/-- A global load or store raises the trap of the lowest lane that fails. -/
theorem global_traps {op : Op} {f : Fields} {s : State} {c : Ctx} {kind : AccessKind} {n : Nat} {ea ea' : Lane → DWord} {i : Lane}
    {row : Fields → Instr} {body : Ctx → Act} (hr : Ready op false f s c) (hx : exec (row f) s = issue op f s body) (he : ea = ea')
    (hb : ∀ a, (c.go op).checkGlobal kind n ea' = .error a → body (c.go op) = a) (h : c.FirstBad kind n ea i) :
    ((ea i).toNat % n ≠ 0 → exec (row f) s = .next ((c.charged s).raise c.r (c.info 0x20 0 (ea i) 0))) ∧
    (∀ e, (ea i).toNat % n = 0 → c.translate (ea i) kind = .error e →
      exec (row f) s = .next ((c.charged s).raise c.r (c.info 0x21 e.code (ea i) 0))) := by
  subst he
  rw [hx]
  exact traps_of_checkGlobal hr hb h

/-- The traps of `ld`, `ldx`, `ldc`, `st` and `stx`. -/
theorem loadStore_traps : ∀ p ∈ ([(.ld, .ld, .read), (.ldx, .ldx, .read), (.ldc, .ldc, .read), (.st, .st, .write), (.stx, .stx, .write)] :
      List (Op × (Fields → Instr) × AccessKind)),
    ∀ (f : Fields) (s : State) (c : Ctx) (i : Lane), Ready p.1 false f s c →
      let ea := fun l => c.a64 l + f.imm.signExtend 64 +
        (if p.1 = .ldx ∨ p.1 = .stx then (c.b32 l).signExtend 64 * BitVec.ofNat 64 (widthOf f.sub) else 0)
      c.FirstBad p.2.2 (widthOf f.sub) ea i →
      ((ea i).toNat % widthOf f.sub ≠ 0 → exec (p.2.1 f) s = .next ((c.charged s).raise c.r (c.info 0x20 0 (ea i) 0))) ∧
      (∀ e, (ea i).toNat % widthOf f.sub = 0 → c.translate (ea i) p.2.2 = .error e →
        exec (p.2.1 f) s = .next ((c.charged s).raise c.r (c.info 0x21 e.code (ea i) 0))) := by
  intro p hp f s c i hr ea h
  obtain ⟨-, rfl⟩ := ready_eqs hr
  simp only [List.mem_cons, List.not_mem_nil, or_false] at hp
  rcases hp with rfl | rfl | rfl | rfl | rfl
  · exact global_traps hr rfl (ea_eq c) (fun a ha => load_error (by rwa [widthOf_eq] at ha)) h
  · exact global_traps hr rfl (eaIndexed_eq c) (fun a ha => load_error (by rwa [widthOf_eq] at ha)) h
  · refine global_traps hr rfl (ea_eq c) (fun a ha => ?_) h
    have ha' : (c.go .ldc).checkGlobal .read (c.go .ldc).size (c.go .ldc).ea = .error a := by rwa [widthOf_eq] at ha
    simp only [ha']
  · exact global_traps hr rfl (ea_eq c) (fun a ha => store_error (by rwa [widthOf_eq] at ha)) h
  · exact global_traps hr rfl (eaIndexed_eq c) (fun a ha => store_error (by rwa [widthOf_eq] at ha)) h

/-- The traps of the global atomics. -/
theorem atomic_traps : ∀ p ∈ ([(.atom, .atom), (.red, .red), (.atomf, .atomf), (.atomcas, .atomcas)] : List (Op × (Fields → Instr))),
    ∀ (f : Fields) (s : State) (c : Ctx) (i : Lane), Ready p.1 false f s c → (p.1 = .atomcas → f.sub.getLsbD 2 = false) →
      let ea := fun l => c.a64 l + f.imm.signExtend 64
      let n := if p.1 = .atomcas ∧ f.sub.getLsbD 0 = true then 8 else 4
      c.FirstBad .atomic n ea i →
      ((ea i).toNat % n ≠ 0 → exec (p.2 f) s = .next ((c.charged s).raise c.r (c.info 0x20 0 (ea i) 0))) ∧
      (∀ e, (ea i).toNat % n = 0 → c.translate (ea i) .atomic = .error e →
        exec (p.2 f) s = .next ((c.charged s).raise c.r (c.info 0x21 e.code (ea i) 0))) := by
  intro p hp f s c i hr hcas ea n h
  obtain ⟨-, rfl⟩ := ready_eqs hr
  simp only [List.mem_cons, List.not_mem_nil, or_false] at hp
  rcases hp with rfl | rfl | rfl | rfl
  · exact global_traps (n := 4) hr rfl rfl (fun a ha => atomic_error ha) h
  · exact global_traps (n := 4) hr rfl rfl (fun a ha => atomic_error ha) h
  · exact global_traps (n := 4) hr rfl rfl (fun a ha => atomic_error ha) h
  · have hn : n = if c.f.sub.getLsbD 0 then 8 else 4 := by simp [n]
    rw [hn] at h ⊢
    refine global_traps hr rfl rfl (fun a ha => ?_) h
    simp only [Ctx.go_f, hcas rfl, Bool.false_eq_true, if_false]
    exact atomic_error ha

/-- The traps of the scratchpad rows. -/
theorem spad_traps : ∀ p ∈ ([(.lds, .lds), (.sts, .sts), (.atoms, .atoms), (.atomcas, .atomcas)] : List (Op × (Fields → Instr))),
    ∀ (f : Fields) (s : State) (c : Ctx) (i : Lane), Ready p.1 false f s c → (p.1 = .atomcas → f.sub.getLsbD 2 = true) →
      let ea := fun l => c.a32 l + f.imm
      let n := if p.1 = .atomcas then (if f.sub.getLsbD 0 then 8 else 4) else if p.1 = .atoms then 4 else widthOf f.sub
      c.FirstBadSpad n ea i →
      ((ea i).toNat % n ≠ 0 → exec (p.2 f) s = .next ((c.charged s).raise c.r (c.info 0x20 0 ((ea i).setWidth 64) 0))) ∧
      (∀ e, (ea i).toNat % n = 0 → (s.core c.r.die c.r.core).spadPlace c.t (ea i).toNat = .error e →
        exec (p.2 f) s = .next ((c.charged s).raise c.r (c.info e 0 ((ea i).setWidth 64) 0))) := by
  intro p hp f s c i hr hcas ea n h
  obtain ⟨-, rfl⟩ := ready_eqs hr
  simp only [List.mem_cons, List.not_mem_nil, or_false] at hp
  rcases hp with rfl | rfl | rfl | rfl
  · refine traps_of_checkSpad (n := widthOf c.f.sub) hr (fun a ha => ?_) h
    have ha' : (c.go .lds).checkSpad (c.go .lds).size (c.go .lds).eaSpad = some a := by rwa [widthOf_eq] at ha
    simp only [ha']
  · refine traps_of_checkSpad (n := widthOf c.f.sub) hr (fun a ha => ?_) h
    have ha' : (c.go .sts).checkSpad (c.go .sts).size (c.go .sts).eaSpad = some a := by rwa [widthOf_eq] at ha
    simp only [ha']
  · exact traps_of_checkSpad (n := 4) hr (fun a ha => atomicSpad_some ha) h
  · refine traps_of_checkSpad (n := if c.f.sub.getLsbD 0 then 8 else 4) hr (fun a ha => ?_) h
    simp only [Ctx.go_f, hcas rfl, if_true]
    exact atomicSpad_some ha

/-- The ways in which a row over tiles may end in a trap: what its meaning does in either space when a check fails. -/
structure TrapsOnTile (c : Ctx) (kind : AccessKind) (body : Act) : Prop where
  global : c.f.sub ≠ 1 → ∀ a, c.checkTile kind = .error a → body = a
  spad : c.f.sub = 1 → ∀ a, c.checkTileSpad = some a → body = a

/-- A row over tiles raises the trap of its base and stride, or of the lowest row that fails (R224, R230, R342). -/
theorem traps_of_tile {op : Op} {f : Fields} {s : State} {c : Ctx} {kind : AccessKind} {row : Fields → Instr} {body : Ctx → Act}
    (hr : Ready op false f s c) (hx : exec (row f) s = issue op f s body) (hb : TrapsOnTile (c.go op) kind (body (c.go op))) :
    (f.sub ≠ 1 → ¬ c.TileAligned → exec (row f) s = .next ((c.charged s).raise c.r (c.info 0x20 0 (c.tileRow 0) 0))) ∧
    (∀ (r : Nat) (e : AccessDetail), f.sub ≠ 1 → c.TileAligned → r < 32 → c.translate (c.tileRow r) kind = .error e →
      (∀ q, q < r → ∃ x, c.translate (c.tileRow q) kind = .ok x) →
      exec (row f) s = .next ((c.charged s).raise c.r (c.info 0x21 e.code (c.tileRow r) 0))) ∧
    (f.sub = 1 → ¬ c.TileAlignedSpad →
      exec (row f) s = .next ((c.charged s).raise c.r (c.info 0x20 0 ((c.tileRowSpad 0).setWidth 64) 0))) ∧
    (∀ (r : Nat) (e : Byte), f.sub = 1 → c.TileAlignedSpad → r < 32 →
      (s.core c.r.die c.r.core).spadPlace c.t (c.tileRowSpad r).toNat = .error e →
      (∀ q, q < r → ∃ x, (s.core c.r.die c.r.core).spadPlace c.t (c.tileRowSpad q).toNat = .ok x) →
      exec (row f) s = .next ((c.charged s).raise c.r (c.info e 0 ((c.tileRowSpad r).setWidth 64) 0))) := by
  obtain ⟨hs, hf⟩ := ready_eqs hr
  subst hf
  rw [hx]
  refine ⟨fun h1 hn => ?_, fun r e h1 ha hlt he hq => ?_, fun h1 hn => ?_, fun r e h1 ha hlt he hq => ?_⟩
  · exact issue_traps hr (hb.global h1 _ (checkTile_misaligned (c := c) hn))
  · exact issue_traps hr (hb.global h1 _ (checkTile_error (c := c) ha hlt he hq))
  · exact issue_traps hr (hb.spad h1 _ (checkTileSpad_misaligned (c := c) hn))
  · exact issue_traps hr (hb.spad h1 _ (checkTileSpad_some (c := c) ha hlt (by rwa [hs]) (by rwa [hs])))

/-- The traps of `ldt` and `stt`. -/
theorem tile_traps : ∀ p ∈ ([(.ldt, .ldt, .read), (.stt, .stt, .write)] : List (Op × (Fields → Instr) × AccessKind)),
    ∀ (f : Fields) (s : State) (c : Ctx), Ready p.1 false f s c → (p.1 = .stt → ∃ n, f.sx = .t n) →
      (f.sub ≠ 1 → ¬ c.TileAligned → exec (p.2.1 f) s = .next ((c.charged s).raise c.r (c.info 0x20 0 (c.tileRow 0) 0))) ∧
      (∀ (r : Nat) (e : AccessDetail), f.sub ≠ 1 → c.TileAligned → r < 32 → c.translate (c.tileRow r) p.2.2 = .error e →
        (∀ q, q < r → ∃ x, c.translate (c.tileRow q) p.2.2 = .ok x) →
        exec (p.2.1 f) s = .next ((c.charged s).raise c.r (c.info 0x21 e.code (c.tileRow r) 0))) ∧
      (f.sub = 1 → ¬ c.TileAlignedSpad →
        exec (p.2.1 f) s = .next ((c.charged s).raise c.r (c.info 0x20 0 ((c.tileRowSpad 0).setWidth 64) 0))) ∧
      (∀ (r : Nat) (e : Byte), f.sub = 1 → c.TileAlignedSpad → r < 32 →
        (s.core c.r.die c.r.core).spadPlace c.t (c.tileRowSpad r).toNat = .error e →
        (∀ q, q < r → ∃ x, (s.core c.r.die c.r.core).spadPlace c.t (c.tileRowSpad q).toNat = .ok x) →
        exec (p.2.1 f) s = .next ((c.charged s).raise c.r (c.info e 0 ((c.tileRowSpad r).setWidth 64) 0))) := by
  intro p hp f s c hr hstt
  obtain ⟨-, rfl⟩ := ready_eqs hr
  simp only [List.mem_cons, List.not_mem_nil, or_false] at hp
  rcases hp with rfl | rfl
  · refine traps_of_tile hr rfl ⟨fun h1 a ha => ?_, fun h1 a ha => ?_⟩
    · have h1' : ((c.go .ldt).f.sub == 1) = false := by simpa using h1
      simp only [h1', ha, Bool.false_eq_true, if_false]
    · have h1' : ((c.go .ldt).f.sub == 1) = true := by simpa using h1
      simp only [h1', ha, if_true]
  · obtain ⟨n, hn⟩ := hstt rfl
    have hn' : (c.go .stt).f.sx = .t n := hn
    refine traps_of_tile hr rfl ⟨fun h1 a ha => ?_, fun h1 a ha => ?_⟩
    · have h1' : ((c.go .stt).f.sub == 1) = false := by simpa using h1
      simp only [hn', h1', ha, Bool.false_eq_true, if_false]
    · have h1' : ((c.go .stt).f.sub == 1) = true := by simpa using h1
      simp only [hn', h1', ha, if_true]

/-- Settles O27: the walks and the translations, then each row by the first of its checks that fails. -/
theorem accessTraps : Obligations.AccessTraps := by
  refine ⟨fun s d asid va root last level n hr h1 h4 hl hp hg => walk_leaf hr h1 h4 hl hp hg,
    fun s d asid va root last level hr h1 h5 hl => walk_fails hr h1 h5 hl, fun s d c asid va kind => ?_,
    fun s d c asid va y he hr => lookup_spec s d c asid va y he hr, loadStore_traps, atomic_traps, spad_traps, tile_traps,
    fun k t a h => by simp [Core.spadPlace, h], fun k t a o h hm => ?_⟩
  · obtain ⟨h1, h2, h3⟩ := translate_error s d c asid va kind
    refine ⟨h1, h2, h3, fun y hc hl => ⟨(translate_entry s d c asid va kind y hc hl).1, fun ha => ?_⟩⟩
    exact ⟨_, (translate_entry s d c asid va kind y hc hl).2 ha, by cases kind <;> rfl⟩
  · have hm' : k.octets[o.val].mode = .compute := hm
    simp [Core.spadPlace, h, hm']

end Sys2Proof.Machine.Storage
end

section
/-! PROOF. The stores complete (spec 03 R90, R94 to R96, spec 04 R106, R109, R110, spec 09 R226, R227, R230). -/

namespace Sys2Proof.Machine.Storage

set_option Elab.async false

/-- A row that is ready ends as its meaning says. -/
theorem issue_ends {op : Op} {f : Fields} {s : State} {c : Ctx} (h : Ready op false f s c) {body : Ctx → Act} {a : Act}
    (hb : body (c.go op) = a) : issue op f s body = .next (c.settle a) := by
  rw [issue_ready h, hb]

theorem store_ok {c : Ctx} {ea : Lane → DWord} {data : Lane → List Byte} {xs : List (Lane × Translated)}
    (h : c.checkGlobal .write c.size ea = .ok xs) : c.store ea data = .done (c.stored ea xs data) .noResult := by
  simp [Ctx.store, Ctx.stored, h]

/-- A global store whose lanes are all aligned and translated. -/
theorem store_reaches {c : Ctx} {ea : Lane → DWord} {data : Lane → List Byte} {xs : List (Lane × Translated)}
    (h : c.Reaches .write (widthOf c.f.sub) ea xs) : c.store ea data = .done (c.stored ea xs data) .noResult := by
  rw [widthOf_eq] at h
  exact store_ok (checkGlobal_ok h)

theorem st_ends (xs : List (Lane × Translated)) :
    Ends .st .st (fun c => c.Reaches .write (widthOf c.f.sub) (fun i => c.a64 i + c.f.imm.signExtend 64) xs) (fun c =>
      .done (c.stored c.ea xs (c.storeData c.f.sb)) .noResult) :=
  fun _ _ _ hr hp => issue_ends hr (store_reaches hp)

theorem stx_ends (xs : List (Lane × Translated)) :
    Ends .stx .stx (fun c => c.Reaches .write (widthOf c.f.sub)
      (fun i => c.a64 i + c.f.imm.signExtend 64 + (c.b32 i).signExtend 64 * BitVec.ofNat 64 (widthOf c.f.sub)) xs) (fun c =>
      .done (c.stored c.eaIndexed xs (c.storeData c.f.dst)) .noResult) := by
  intro f s c hr hp
  rw [eaIndexed_eq] at hp
  exact issue_ends hr (store_reaches hp)

theorem sts_ends : Ends .sts .sts (fun c => c.ReachesSpad (widthOf c.f.sub) (fun i => c.a32 i + c.f.imm)) (fun c =>
    .done ((lanesOf c.m).foldl (fun s i =>
      s.spadWrite c.r.die c.r.core c.t (c.a32 i + c.f.imm).toNat (c.storeData c.f.sb i)) (c.release c.s)) .noResult) := by
  intro f s c hr hp
  have h : (c.go .sts).checkSpad (c.go .sts).size (c.go .sts).eaSpad = none := by
    rw [widthOf_eq] at hp; exact checkSpad_none (c := c) hp
  refine issue_ends hr ?_
  simp only [h]
  rfl

theorem stt_ends_spad (n : BitVec 4) : Ends .stt .stt (fun c => c.f.sx = .t n ∧ c.f.sub = 1 ∧ c.TileAlignedSpad ∧
      ∀ r, r < 32 → (c.s0.core c.r.die c.r.core).spadFault c.t (c.tileRowSpad r).toNat = none) (fun c =>
    .done ((List.range 32).foldl (fun s r =>
      s.spadWrite c.r.die c.r.core c.t (c.tileRowSpad r).toNat (tileRowBytes (c.g.tile n) r)) (c.release c.s)) .noResult) := by
  rintro f s c hr ⟨hx, h1, ha, hp⟩
  have hx' : (c.go .stt).f.sx = .t n := hx
  have h1' : ((c.go .stt).f.sub == 1) = true := by simpa using h1
  have hc : (c.go .stt).checkTileSpad = none := checkTileSpad_none (c := c) ha hp
  refine issue_ends hr ?_
  simp only [hx', h1', hc, if_true]

theorem stt_ends_global (n : BitVec 4) (xs : List Translated) : Ends .stt .stt (fun c => c.f.sx = .t n ∧ c.f.sub ≠ 1 ∧ c.TileAligned ∧
      xs.length = 32 ∧ ∀ r x, xs[r]? = some x → c.translate (c.tileRow r) .write = .ok x) (fun c =>
    .done (c.putAll (c.walked ((List.range 32).map c.tileRow)) false (xs.zipIdx.map (fun x => (x.1, tileRowBytes (c.g.tile n) x.2))))
      .noResult) := by
  rintro f s c hr ⟨hx, h1, ha, hl, hp⟩
  have hx' : (c.go .stt).f.sx = .t n := hx
  have h1' : ((c.go .stt).f.sub == 1) = false := by simpa using h1
  have hc : (c.go .stt).checkTile .write = .ok xs := checkTile_ok (c := c) ha hl hp
  refine issue_ends hr ?_
  simp only [hx', h1', hc, Bool.false_eq_true, if_false]

/-- A store that bypasses L1 or releases nothing makes no sector valid that it covers whole (R94). -/
theorem putAll_plain (c : Ctx) (s : State) (lease : Bool) (xs : List (Translated × List Byte)) (h : c.f.hint = 3 ∨ c.releases = false) :
    c.putAll s lease xs = xs.foldl (fun t x => c.putStore (wholeSectors (xs.flatMap (fun x => span x.1.pa x.2.length))) t x.1 x.2)
      ((c.release s).l1Accesses c.r (xs.flatMap (fun x => span x.1.pa x.2.length)) true c.f.hint (bypassed (xs.map Prod.fst) false) c.wrote
        lease) := by
  have : (c.f.hint == 3 || !c.releases) = true := by rcases h with h | h <;> simp [h]
  simp only [Ctx.putAll, this, if_true]

/-- Where a store's bytes go: home, the level of its release, the stores that wait, or L1 and L2 (R94 to R96, R332). -/
theorem putStore_spec (c : Ctx) (whole : List Nat) (s : State) (x : Translated) (bs : List Byte) :
    (x.attrs.cache = 2 → c.putStore whole s x bs = s.writeAt c.r.die c.r.core .home x.pa bs) ∧
    (x.attrs.cache ≠ 2 → c.releases = true → c.through ≠ .core → c.putStore whole s x bs = s.writeAt c.r.die c.r.core c.through x.pa bs) ∧
    (x.attrs.cache ≠ 2 → c.releases = false → c.s0.deferred = true → c.putStore whole s x bs =
      s.enqueueStore c.r (c.storeOf x bs whole)) ∧
    (x.attrs.cache ≠ 2 → c.releases = false → c.s0.deferred = false → c.putStore whole s x bs =
      s.performStore c.r.die c.r.core (c.storeOf x bs whole)) := by
  refine ⟨fun h => ?_, fun h hr ht => ?_, fun h hr hd => ?_, fun h hr hd => ?_⟩ <;>
    simp only [Ctx.putStore, beq_iff_eq, h, if_true, if_false]
  · simp [hr, ht]
  · simp [hr, hd]
  · simp [hr, hd]

/-- A store that L1 neither holds nor takes is performed in L2 (R95). -/
theorem performStore_die {s : State} {d : DieId} {k : CoreId} {x : PendingStore} (h : (s.core d k).holds x.pa x.bytes.length = false)
    (ha : x.alloc = false ∨ (s.core d k).holdsLine (x.pa / 128) = false) : s.performStore d k x = s.writeAt d k .die x.pa x.bytes := by
  have h2 : (x.alloc && (s.core d k).holdsLine (x.pa / 128)) = false := by rcases ha with ha | ha <;> simp [ha]
  simp only [State.performStore, h, h2, Bool.false_eq_true, if_false]

/-- Settles O29: each row by the checks that it passes, and the places of a store's bytes. -/
theorem storeIssues : Obligations.StoreIssues := by
  refine ⟨st_ends, stx_ends, sts_ends, stt_ends_spad, stt_ends_global, fun c s lease xs h => putAll_plain c s lease xs h,
    fun c whole s x bs => ?_, fun s d k x h ha => performStore_die h ha⟩
  obtain ⟨hhome, hrel, hwait, hnow⟩ := putStore_spec c whole s x bs
  refine ⟨hhome, hrel, fun h hr hd => ⟨(c.storeOf x bs whole).whole, ?_⟩, fun h hr hd => ⟨_, hnow h hr hd, rfl, rfl⟩⟩
  rw [hwait h hr hd]
  simp [State.enqueueStore, Ctx.storeOf, Translated.noL1, bne]

end Sys2Proof.Machine.Storage
end

section
/-! PROOF. The frame of a store to the scratchpad (spec 03 R85, R86, R99, spec 09 R227, spec 18 R359). -/

namespace Sys2Proof.Machine.Storage

set_option Elab.async false

/-! ## The banks of a core -/

/-- A byte of a bank. -/
def bankByte (k : Core) (p : SpadPlace) : Byte := (cellGet k.banks[p.bank].mem p.off).getD 0

/-- Every bank holds its bytes in the canonical form. -/
def BanksOk (k : Core) : Prop := ∀ b : Fin 64, Memory.wf k.banks[b].mem = true

/-- What a write of the scratchpad may change of a bank: its bytes, and poison that it clears (R359). -/
def OnlyBytes (x y : Bank) : Prop := { y with mem := x.mem, poison := x.poison } = x ∧ ∀ u ∈ y.poison, u ∈ x.poison

theorem OnlyBytes.refl (x : Bank) : OnlyBytes x x := ⟨rfl, fun _ h => h⟩

theorem OnlyBytes.trans {x y z : Bank} (h : OnlyBytes x y) (h2 : OnlyBytes y z) : OnlyBytes x z := by
  refine ⟨?_, fun u hu => h.2 u (h2.2 u hu)⟩
  rw [← h.1, ← h2.1]

/-- A change of a core that writes bytes of its scratchpad alone. -/
structure WritesBanks (k l : Core) : Prop where
  rest : l = { k with banks := l.banks }
  banks : ∀ b : Fin 64, OnlyBytes k.banks[b] l.banks[b]
  ok : BanksOk k → BanksOk l

theorem WritesBanks.refl (k : Core) : WritesBanks k k := ⟨rfl, fun _ => OnlyBytes.refl _, id⟩

theorem WritesBanks.trans {k l m : Core} (h : WritesBanks k l) (h2 : WritesBanks l m) : WritesBanks k m :=
  ⟨by rw [h2.rest, h.rest], fun b => (h.banks b).trans (h2.banks b), fun ok => h2.ok (h.ok ok)⟩

theorem WritesBanks.foldl {α : Type} (xs : List α) {f : Core → α → Core} (h : ∀ k x, WritesBanks k (f k x)) (k : Core) :
    WritesBanks k (xs.foldl f k) := by
  induction xs generalizing k with
  | nil => exact .refl k
  | cons x xs ih => exact (h k x).trans (ih _)

theorem WritesBanks.octets {k l : Core} (h : WritesBanks k l) : l.octets = k.octets := by rw [h.rest]

/-- Where a scratchpad byte lies depends on the octets alone (R86). -/
theorem spadPlace_congr {k l : Core} (h : l.octets = k.octets) (t : Team) (a : Nat) : l.spadPlace t a = k.spadPlace t a := by
  simp only [Core.spadPlace, h]

/-- One bank replaced. -/
theorem getElem_setBank (v : Vector Bank 64) (n b : Fin 64) (x : Bank) : (v.set n x)[b] = if n = b then x else v[b] := by
  by_cases h : n = b
  · subst h; simp
  · have : n.val ≠ b.val := fun e => h (Fin.ext e)
    simp [h, this]

theorem writesBanks_set {k : Core} {n : Fin 64} {x : Bank} (h : OnlyBytes k.banks[n] x)
    (hok : Memory.wf k.banks[n].mem = true → Memory.wf x.mem = true) :
    WritesBanks k { k with banks := k.banks.set n x } := by
  have e : ∀ b : Fin 64, ({ k with banks := k.banks.set n x } : Core).banks[b] = if n = b then x else k.banks[b] :=
    fun b => getElem_setBank k.banks n b x
  refine ⟨rfl, fun b => ?_, fun ok b => ?_⟩
  · rw [e]; split
    · next h' => exact h' ▸ h
    · exact OnlyBytes.refl _
  · rw [e]; split
    · exact hok (ok n)
    · exact ok b

/-! ## One byte and one word -/

theorem spadPut_writes (t : Team) (a : Nat) (x : Byte) (k : Core) : WritesBanks k (k.spadPut t a x) := by
  unfold Core.spadPut
  cases k.spadPlace t a with
  | error e => exact .refl k
  | ok p => exact writesBanks_set ⟨rfl, fun _ h => h⟩ (cellPut_wf p.off x)

theorem spadMark_writes (t : Team) (a : Nat) (k : Core) : WritesBanks k (k.spadMark t a false) := by
  unfold Core.spadMark
  cases k.spadPlace t a with
  | error e => exact .refl k
  | ok p => exact writesBanks_set ⟨rfl, fun _ h => List.mem_of_mem_filter h⟩ id

/-- A byte put lies at its place, and every other byte is as before (R86). -/
theorem bankByte_spadPut {k : Core} (hk : BanksOk k) (t : Team) (a : Nat) (x : Byte) (p : SpadPlace) :
    bankByte (k.spadPut t a x) p = if k.spadPlace t a = .ok p then x else bankByte k p := by
  unfold Core.spadPut
  cases h : k.spadPlace t a with
  | error e => simp
  | ok q =>
    obtain ⟨pb, po⟩ := p
    obtain ⟨qb, qo⟩ := q
    have hs : cellsSorted k.banks[qb].mem = true := ((Memory.wf_iff _).mp (hk qb)).1
    have e : (k.banks.set qb (k.banks[qb].put qo x))[pb] = if qb = pb then k.banks[qb].put qo x else k.banks[pb] :=
      getElem_setBank k.banks qb pb _
    simp only [bankByte, e, Except.ok.injEq, SpadPlace.mk.injEq]
    by_cases hb : qb = pb
    · subst hb
      have := cellGet_cellPut hs qo po x
      simp only [if_true, true_and, Bank.put, this, eq_comm]
    · simp [hb]

theorem bankByte_spadMark (t : Team) (a : Nat) (k : Core) (p : SpadPlace) : bankByte (k.spadMark t a false) p = bankByte k p := by
  unfold Core.spadMark
  cases k.spadPlace t a with
  | error e => rfl
  | ok q =>
    obtain ⟨pb, po⟩ := p
    obtain ⟨qb, qo⟩ := q
    simp only [bankByte]
    rw [getElem_setBank]
    split
    · next h => subst h; rfl
    · rfl

/-! ## Many bytes -/

/-- Bytes put one after the other. -/
def spadPuts (t : Team) (xs : List (Nat × Byte)) (k : Core) : Core := xs.foldl (fun k x => k.spadPut t x.1 x.2) k

theorem spadPuts_writes (t : Team) (xs : List (Nat × Byte)) (k : Core) : WritesBanks k (spadPuts t xs k) :=
  .foldl xs (fun k x => spadPut_writes t x.1 x.2 k) k

/-- A byte that none of the writes goes to. -/
theorem bankByte_spadPuts_other (t : Team) {xs : List (Nat × Byte)} {k : Core} (hk : BanksOk k) {p : SpadPlace}
    (h : ∀ y ∈ xs, k.spadPlace t y.1 ≠ .ok p) : bankByte (spadPuts t xs k) p = bankByte k p := by
  induction xs generalizing k with
  | nil => rfl
  | cons y xs ih =>
    have w := spadPut_writes t y.1 y.2 k
    show bankByte (spadPuts t xs (k.spadPut t y.1 y.2)) p = _
    rw [ih (w.ok hk) fun z hz => by rw [spadPlace_congr w.octets]; exact h z (by simp [hz]), bankByte_spadPut hk, if_neg (h y (by simp))]

/-- A byte that some of the writes go to, all with one value. -/
theorem bankByte_spadPuts_same (t : Team) {xs : List (Nat × Byte)} {k : Core} (hk : BanksOk k) {p : SpadPlace} {x : Byte}
    (he : ∃ y ∈ xs, k.spadPlace t y.1 = .ok p) (h : ∀ y ∈ xs, k.spadPlace t y.1 = .ok p → y.2 = x) : bankByte (spadPuts t xs k) p = x := by
  induction xs generalizing k with
  | nil => obtain ⟨y, hy, -⟩ := he; cases hy
  | cons y xs ih =>
    have w := spadPut_writes t y.1 y.2 k
    have pl : ∀ a, (k.spadPut t y.1 y.2).spadPlace t a = k.spadPlace t a := spadPlace_congr w.octets t
    show bankByte (spadPuts t xs (k.spadPut t y.1 y.2)) p = x
    by_cases hx : ∃ z ∈ xs, k.spadPlace t z.1 = .ok p
    · exact ih (w.ok hk) (by simpa only [pl] using hx) fun z hz hp => h z (by simp [hz]) (by rwa [pl] at hp)
    · push Not at hx
      obtain ⟨z, hz, hp⟩ := he
      have : z = y := by
        rcases List.mem_cons.mp hz with e | hz
        · exact e
        · exact absurd hp (hx z hz)
      subst this
      rw [bankByte_spadPuts_other t (w.ok hk) (by simpa only [pl] using hx), bankByte_spadPut hk, if_pos hp]
      exact h z (by simp) hp

theorem spadWrite_eq (t : Team) (a : Nat) (bs : List Byte) (k : Core) : k.spadWrite t a bs =
    (wholeUnits a bs.length).foldl (fun k u => k.spadMark t (16 * u) false) (spadPuts t ((span a bs.length).zip bs) k) := rfl

theorem spadWrite_writes (t : Team) (a : Nat) (bs : List Byte) (k : Core) : WritesBanks k (k.spadWrite t a bs) :=
  (spadPuts_writes t _ k).trans (.foldl _ (fun k u => spadMark_writes t (16 * u) k) _)

theorem bankByte_spadWrite (t : Team) (a : Nat) (bs : List Byte) (k : Core) (p : SpadPlace) :
    bankByte (k.spadWrite t a bs) p = bankByte (spadPuts t ((span a bs.length).zip bs) k) p := by
  rw [spadWrite_eq]
  generalize spadPuts t ((span a bs.length).zip bs) k = l
  induction wholeUnits a bs.length generalizing l with
  | nil => rfl
  | cons u us ih => rw [List.foldl_cons, ih, bankByte_spadMark]

/-- The addresses and bytes of a write. -/
theorem mem_span_zip {a : Nat} {bs : List Byte} {y : Nat × Byte} (h : y ∈ (span a bs.length).zip bs) :
    ∃ j, j < bs.length ∧ y.1 = a + j ∧ bs[j]? = some y.2 := by
  obtain ⟨j, hj, e⟩ := List.mem_iff_getElem.mp h
  have hl : j < bs.length := by simp at hj; omega
  refine ⟨j, hl, ?_, ?_⟩
  · rw [← e]; simp [span]
  · rw [← e]; simp [hl]

theorem span_zip_mem {a j : Nat} {bs : List Byte} {x : Byte} (h : bs[j]? = some x) : (a + j, x) ∈ (span a bs.length).zip bs := by
  obtain ⟨hj, e⟩ := List.getElem?_eq_some_iff.mp h
  exact List.mem_iff_getElem.mpr ⟨j, by simp [span, hj], by simp [span, e]⟩

/-- A byte that a write does not go to (R86). -/
theorem bankByte_spadWrite_other (t : Team) {a : Nat} {bs : List Byte} {k : Core} (hk : BanksOk k) {p : SpadPlace}
    (h : ∀ j, j < bs.length → k.spadPlace t (a + j) ≠ .ok p) : bankByte (k.spadWrite t a bs) p = bankByte k p := by
  rw [bankByte_spadWrite]
  refine bankByte_spadPuts_other t hk fun y hy => ?_
  obtain ⟨j, hj, e, -⟩ := mem_span_zip hy
  rw [e]; exact h j hj

/-- The octet of a byte of an aligned access is that of its first (R86, R224). -/
theorem aligned_same_octet {a n j : Nat} (hn : n = 1 ∨ n = 2 ∨ n = 4 ∨ n = 8 ∨ n = 16) (ha : a % n = 0) (hj : j < n) :
    (a + j) / 131072 = a / 131072 ∧ (a + j) / 16 = a / 16 ∧ (a + j) % 16 = a % 16 + j := by
  rcases hn with rfl | rfl | rfl | rfl | rfl <;> omega

/-- The bytes of an aligned access lie in one bank, one after the other (R85, R86). -/
theorem spadPlace_add {k : Core} {t : Team} {a n j : Nat} {p : SpadPlace} (hn : n = 1 ∨ n = 2 ∨ n = 4 ∨ n = 8 ∨ n = 16) (ha : a % n = 0)
    (hj : j < n) (h : k.spadPlace t a = .ok p) : k.spadPlace t (a + j) = .ok ⟨p.bank, p.off + j⟩ := by
  obtain ⟨ho, h16, hm⟩ := aligned_same_octet hn ha hj
  unfold Core.spadPlace at h ⊢
  rw [ho]
  cases hoct : t.octetAt (a / 131072) with
  | none => rw [hoct] at h; cases h
  | some o =>
    rw [hoct] at h
    simp only at h ⊢
    split at h
    · cases h
    · next hmode =>
      rw [if_neg hmode]
      obtain rfl := Except.ok.inj h
      have e1 : (a + j) % 131072 / 16 = a % 131072 / 16 := by omega
      have e2 : (a + j) % 131072 / 128 = a % 131072 / 128 := by omega
      have e3 : (a + j) % 131072 % 16 = a % 131072 % 16 + j := by omega
      simp only [e1, e2, e3, Except.ok.injEq, SpadPlace.mk.injEq, true_and]
      omega

/-- An aligned write of at most 16 bytes reads back (R85, R86). -/
theorem spadByte_spadWrite {k : Core} (hk : BanksOk k) {t : Team} {a : Nat} {bs : List Byte}
    (hn : bs.length = 1 ∨ bs.length = 2 ∨ bs.length = 4 ∨ bs.length = 8 ∨ bs.length = 16) (ha : a % bs.length = 0)
    (hp : ∃ p, k.spadPlace t a = .ok p) {j : Nat} {x : Byte} (hx : bs[j]? = some x) : (k.spadWrite t a bs).spadByte t (a + j) = x := by
  obtain ⟨p, hp⟩ := hp
  have hj : j < bs.length := (List.getElem?_eq_some_iff.mp hx).1
  have hpj := spadPlace_add hn ha hj hp
  have hpl : (k.spadWrite t a bs).spadPlace t (a + j) = .ok ⟨p.bank, p.off + j⟩ := by
    rw [spadPlace_congr (spadWrite_writes t a bs k).octets, hpj]
  have : (k.spadWrite t a bs).spadByte t (a + j) = bankByte (k.spadWrite t a bs) ⟨p.bank, p.off + j⟩ := by
    simp only [Core.spadByte, hpl, bankByte]
  rw [this, bankByte_spadWrite]
  refine bankByte_spadPuts_same t hk ⟨_, span_zip_mem hx, hpj⟩ fun y hy hyp => ?_
  obtain ⟨i, hi, e, hyx⟩ := mem_span_zip hy
  rw [e, spadPlace_add hn ha hi hp] at hyp
  have : i = j := by simpa using hyp
  subst this
  exact Option.some.inj (hyx.symm.trans hx)

end Sys2Proof.Machine.Storage
end

section
/-! PROOF. An issue that changes the banks of its core besides its group, and the stores to the scratchpad (spec 03 R85, R86, spec 09 R227). -/

namespace Sys2Proof.Machine.Storage

set_option Elab.async false

/-! ## A change of a core that leaves its slots -/

theorem group?_modCore {s : State} {r : GRef} {F : Core → Core} (h : ∀ k, (F k).slots = k.slots) :
    (s.modCore r.die r.core F).group? r = s.group? r := by
  simp [State.group?, h]

/-- A counter of a die and a core of one may be changed in either order. -/
theorem count_modCore (s : State) (e : DieId) (i : Fin 9) (n : Nat) (d : DieId) (c : CoreId) (F : Core → Core) :
    (s.modCore d c F).count e i n = (s.count e i n).modCore d c F := by
  simp only [State.count, State.modCore]
  by_cases hd : d = e
  · subst hd; simp [State.modDie_modDie]
  · have e1 : (d : Nat) ≠ (e : Nat) := fun x => hd (Fin.ext x)
    simp only [State.modDie, State.mk.injEq, true_and, and_true]
    rw [Vector.set_comm _ _ e1]
    simp [e1, Ne.symm e1]

/-- A change of a core that commutes with a change of one of its slots. -/
theorem setGroup_modCore {s : State} {r : GRef} {F : Core → Core} (h : ∀ k x, F { k with slots := x } = { F k with slots := x })
    (hs : ∀ k, (F k).slots = k.slots) (g : Group) :
    (s.modCore r.die r.core F).setGroup r g = (s.setGroup r g).modCore r.die r.core F := by
  unfold State.setGroup
  rw [State.modCore_modCore, State.modCore_modCore]
  congr 1
  funext k
  exact (congrArg (fun v => { F k with slots := v.set r.slot (some g) }) (hs k)).trans (h k _).symm

theorem modGroup_modCore {s : State} {r : GRef} {F : Core → Core} (h : ∀ k x, F { k with slots := x } = { F k with slots := x })
    (hs : ∀ k, (F k).slots = k.slots) (f : Group → Group) :
    (s.modCore r.die r.core F).modGroup r f = (s.modGroup r f).modCore r.die r.core F := by
  unfold State.modGroup
  rw [group?_modCore hs]
  cases s.group? r with
  | none => rfl
  | some g => exact setGroup_modCore h hs (f g)

/-- What a completed issue leaves when its meaning has changed the group, and its core in what is no slot. -/
theorem settle_modCore (c : Ctx) {F : Core → Core} (h : ∀ k x, F { k with slots := x } = { F k with slots := x })
    (hs : ∀ k, (F k).slots = k.slots) (g : Group) (slot : WinSlot) :
    c.settle (.done ((c.s0.setGroup c.r g).modCore c.r.die c.r.core F) slot) =
      (c.after (c.stepped g slot)).modCore c.r.die c.r.core F := by
  have e : ∀ s : State, c.counted (s.modCore c.r.die c.r.core F) = (c.counted s).modCore c.r.die c.r.core F := fun s => by
    unfold Ctx.counted; split
    · rfl
    · exact count_modCore s _ _ _ _ _ F
  rw [← c.settle_done g slot]
  simp only [Ctx.settle, Ctx.ended, modGroup_modCore h hs, e]

/-- The registers of a group that steps are those that its queues were popped from. -/
theorem sameRegs_stepped (c : Ctx) (op : Op) (slot : WinSlot) : SameRegs c.g (c.stepped (c.popped op) slot) := by
  obtain ⟨pcs, w, n, sc, e, -⟩ := stepped_eq c (c.popped op) slot
  rw [e, c.popped_eq op]
  exact ⟨rfl, rfl, rfl, rfl, rfl, rfl, rfl, rfl, rfl, rfl, rfl, rfl⟩

/-! ## The stores of the lanes -/

/-- The scratchpad of a core after the stores of a list of lanes (R227). -/
def spadStores (c : Ctx) (data : Lane → List Byte) (ls : List Lane) (k : Core) : Core :=
  ls.foldl (fun k i => k.spadWrite c.t (c.a32 i + c.f.imm).toNat (data i)) k

theorem spadStores_writes (c : Ctx) (data : Lane → List Byte) (ls : List Lane) (k : Core) : WritesBanks k (spadStores c data ls k) :=
  .foldl ls (fun k _ => spadWrite_writes c.t _ _ k) k

theorem foldl_spadWrite (c : Ctx) (data : Lane → List Byte) (ls : List Lane) (s : State) :
    ls.foldl (fun s i => s.spadWrite c.r.die c.r.core c.t (c.a32 i + c.f.imm).toNat (data i)) s =
      s.modCore c.r.die c.r.core (spadStores c data ls) := by
  induction ls generalizing s with
  | nil => exact (State.modDie_self s _ _ (by simp [spadStores])).symm
  | cons i ls ih => rw [List.foldl_cons, ih, State.spadWrite, State.modCore_modCore]; rfl

theorem bankByte_spadStores_other (c : Ctx) (data : Lane → List Byte) {ls : List Lane} {k : Core} (hk : BanksOk k) {p : SpadPlace}
    (h : ∀ i ∈ ls, ∀ j, j < (data i).length → k.spadPlace c.t ((c.a32 i + c.f.imm).toNat + j) ≠ .ok p) :
    bankByte (spadStores c data ls k) p = bankByte k p := by
  induction ls generalizing k with
  | nil => rfl
  | cons i ls ih =>
    have w := spadWrite_writes c.t (c.a32 i + c.f.imm).toNat (data i) k
    show bankByte (spadStores c data ls (k.spadWrite c.t (c.a32 i + c.f.imm).toNat (data i))) p = _
    rw [ih (w.ok hk) fun l hl j hj => by rw [spadPlace_congr w.octets]; exact h l (by simp [hl]) j hj]
    exact bankByte_spadWrite_other c.t hk (h i (by simp))

theorem lanesOf_one (i : Lane) : lanesOf (1#32 <<< i.val) = [i] := by revert i; decide

theorem leBytes_length (n v : Nat) : (leBytes n v).length = n := by
  induction n generalizing v with
  | zero => rfl
  | succ n ih => simp [leBytes, ih]

@[simp] theorem storeData_length (c : Ctx) (x : Operand) (i : Lane) : (c.storeData x i).length = c.size := leBytes_length _ _

theorem size_cases (c : Ctx) : c.size = 1 ∨ c.size = 2 ∨ c.size = 4 ∨ c.size = 8 ∨ c.size = 16 := by
  unfold Ctx.size widthBytes
  generalize c.f.sub = x
  revert x; decide

/-! ## A release that finds nothing -/

theorem readLate_none {s : State} {r : GRef} (p : Flight → Bool) (h : ∀ g, s.group? r = some g → ∀ x ∈ g.flights, x.late = none) :
    s.readLate r p = s := by
  unfold State.readLate
  cases hg : s.group? r with
  | none => rfl
  | some g =>
    have : g.flights.filter (fun x => x.late.isSome && p x) = [] := by
      rw [List.filter_eq_nil_iff]
      intro x hx
      simp [h g hg x hx]
    simp [this]

theorem performStores_none {s : State} {d : DieId} {c : CoreId} (p : PendingStore → Bool) (h : (s.core d c).pending = []) :
    s.performStores d c p = s := by
  simp [State.performStores, h]

/-- A release within the core finds nothing to do when nothing waits (R96, R110). -/
theorem releaseBy_none {s : State} {r : GRef} (h : s.NoneWaits r) : s.releaseBy r .core = s := by
  unfold State.releaseBy
  rw [readLate_none _ h.2]
  exact performStores_none _ h.1

/-- Nothing of a group waits that has popped its queues. -/
theorem noneWaits_go {c : Ctx} {op : Op} {f : Fields} {s : State} (hc : s.ctx? f = some c) (h : s.NoneWaits c.r) :
    (c.go op).s.NoneWaits c.r := by
  obtain ⟨-, hg, -, -, hs, -⟩ := State.ctx?_spec hc
  have hfl : (c.popped op).flights = c.g.flights := by rw [c.popped_eq op]
  refine ⟨?_, fun g e => ?_⟩
  · rw [Ctx.go_state, hs]; simpa [State.setGroup] using h.1
  · rw [Ctx.go_state, State.group?_setGroup_same] at e
    obtain rfl := Option.some.inj e
    rw [hfl]; exact h.2 _ hg

theorem release_none {c : Ctx} {op : Op} {f : Fields} {s : State} (hc : s.ctx? f = some c)
    (h : f.md.getLsbD 4 = false ∨ (s.NoneWaits c.r ∧ scopeLevel (f.md.toNat % 8) = .core)) :
    (c.go op).release (c.go op).s = (c.go op).s := by
  have hf : (c.go op).f = f := (State.ctx?_spec hc).2.2.2.2.2.2.1
  unfold Ctx.release
  split
  · next hr =>
    rcases h with h | ⟨hn, hl⟩
    · rw [Ctx.releases, hf, h] at hr; cases hr
    · have : (c.go op).scope = f.md.toNat % 8 := by unfold Ctx.scope; rw [hf]; simp
      rw [this, hl]
      exact releaseBy_none (noneWaits_go hc hn)
  · rfl

/-! ## Banks and slots -/

/-- Changes that each commute with a change of the slots do so together. -/
theorem foldl_slots {α : Type} {f : Core → α → Core} (h : ∀ k x y, f { k with slots := x } y = { f k y with slots := x }) (ys : List α)
    (k : Core) (x : Vector (Option Group) 32) : ys.foldl f { k with slots := x } = { ys.foldl f k with slots := x } := by
  induction ys generalizing k with
  | nil => rfl
  | cons y ys ih => rw [List.foldl_cons, h, ih]; rfl

theorem spadPut_slots (t : Team) (a : Nat) (b : Byte) (k : Core) (x : Vector (Option Group) 32) :
    ({ k with slots := x } : Core).spadPut t a b = { k.spadPut t a b with slots := x } := by
  unfold Core.spadPut
  rw [spadPlace_congr (k := k) (l := { k with slots := x }) rfl]
  cases k.spadPlace t a <;> rfl

theorem spadMark_slots (t : Team) (a : Nat) (bad : Bool) (k : Core) (x : Vector (Option Group) 32) :
    ({ k with slots := x } : Core).spadMark t a bad = { k.spadMark t a bad with slots := x } := by
  unfold Core.spadMark
  rw [spadPlace_congr (k := k) (l := { k with slots := x }) rfl]
  cases k.spadPlace t a <;> rfl

theorem spadWrite_slots (t : Team) (a : Nat) (bs : List Byte) (k : Core) (x : Vector (Option Group) 32) :
    ({ k with slots := x } : Core).spadWrite t a bs = { k.spadWrite t a bs with slots := x } := by
  have puts : spadPuts t ((span a bs.length).zip bs) { k with slots := x } =
      { spadPuts t ((span a bs.length).zip bs) k with slots := x } := foldl_slots (fun k x y => spadPut_slots t y.1 y.2 k x) _ k x
  rw [spadWrite_eq, puts]
  exact foldl_slots (fun k x u => spadMark_slots t (16 * u) false k x) _ _ x

/-- What the stores of the lanes put into the banks does not depend on the slots. -/
theorem spadStores_slots (c : Ctx) (data : Lane → List Byte) (ls : List Lane) (k : Core) (x : Vector (Option Group) 32) :
    spadStores c data ls { k with slots := x } = { spadStores c data ls k with slots := x } :=
  foldl_slots (fun k x _ => spadWrite_slots c.t _ _ k x) ls k x

/-- Changes that give the same core give the same state. -/
theorem modCore_congr {s : State} {d : DieId} {c : CoreId} {F G : Core → Core} (h : F (s.core d c) = G (s.core d c)) :
    s.modCore d c F = s.modCore d c G :=
  State.modDie_congr s d _ _ (congrArg (fun k => { s.dies[d.val] with cores := s.dies[d.val].cores.set c k }) h)

theorem core_after (c : Ctx) (g : Group) : (c.after g).core c.r.die c.r.core =
    { c.s0.core c.r.die c.r.core with slots := (c.s0.core c.r.die c.r.core).slots.set c.r.slot (some g) } := by
  unfold Ctx.after Ctx.counted
  split <;> simp [State.setGroup]

/-- Settles O31: the lanes' stores change the banks of the core alone, and the issue goes past them. -/
theorem scratchpadStoreFrame : Obligations.ScratchpadStoreFrame := by
  intro f s c hm hr hp hrel
  obtain ⟨hs, rfl⟩ := ready_eqs hr
  have hok : BanksOk (s.core c.r.die c.r.core) := (State.memoryOk_core hm c.r.die c.r.core).2.2.2.2
  have hw := spadStores_writes c (c.storeData c.f.sb) (lanesOf c.m) (s.core c.r.die c.r.core)
  refine ⟨c.stepped (c.popped .sts) .noResult, (spadStores c (c.storeData c.f.sb) (lanesOf c.m) (s.core c.r.die c.r.core)).banks, ?_, rfl,
    sameRegs_stepped c .sts .noResult, hw.banks, fun b off h => ?_, fun i j hm1 hj => ?_⟩
  · have hslots : ∀ k, (spadStores c (c.storeData c.f.sb) (lanesOf c.m) k).slots = k.slots := fun k => by
      rw [(spadStores_writes c (c.storeData c.f.sb) (lanesOf c.m) k).rest]
    refine (sts_ends c.f s c hr hp).trans (congrArg _ ?_)
    show c.settle (.done ((lanesOf c.m).foldl (fun s i => s.spadWrite c.r.die c.r.core c.t (c.a32 i + c.f.imm).toNat (c.storeData c.f.sb i))
      ((c.go .sts).release (c.go .sts).s)) .noResult) = _
    rw [release_none hr.issuing hrel, foldl_spadWrite, Ctx.go_state, settle_modCore c (spadStores_slots c _ _) hslots]
    refine modCore_congr ?_
    rw [core_after, hs, spadStores_slots]
    exact congrArg (fun k : Core => { k with slots := (s.core c.r.die c.r.core).slots.set c.r.slot (some (c.stepped (c.popped .sts) .noResult)) })
      hw.rest
  · refine bankByte_spadStores_other c (c.storeData c.f.sb) hok (p := ⟨b, off⟩) fun i hi j hj => ?_
    rw [storeData_length, ← widthOf_eq] at hj
    exact h i j (mem_lanesOf.mp hi) hj
  · rw [widthOf_eq] at hj
    have hi : inMask c.m i = true := by rw [← mem_lanesOf, hm1, lanesOf_one]; simp
    obtain ⟨hal, hpl⟩ := hp i hi
    rw [widthOf_eq] at hal
    have hx : (c.storeData c.f.sb i)[j]? = some ((c.storeData c.f.sb i)[j]'(by simpa using hj)) := by simp [hj]
    have e : spadStores c (c.storeData c.f.sb) (lanesOf c.m) (s.core c.r.die c.r.core) =
        (s.core c.r.die c.r.core).spadWrite c.t (c.a32 i + c.f.imm).toNat (c.storeData c.f.sb i) := by rw [hm1, lanesOf_one]; rfl
    rw [hx, ← hw.rest, e]
    exact congrArg some (spadByte_spadWrite hok (by simpa using size_cases c) (by simpa using hal) (by rwa [hs] at hpl) hx)

end Sys2Proof.Machine.Storage
end

section
/-! PROOF. How a row ends, read off its meaning in any context, and the tags and queues of a group (spec 03 R80, spec 09 R240, spec 10 R274,
R275). -/

namespace Sys2Proof.Machine.Storage

set_option Elab.async false

/-! ## From a row's meaning to what the row does

The meaning of a row is a function of the context of its issue; a condition that does not speak of the state with the pops made says the
same of the context before them. -/

section
variable {op : Op} {row : Fields → Instr} {body : Ctx → Act} {p : Ctx → Prop}

theorem ends_of {a : Ctx → Act} (hx : ∀ f s, exec (row f) s = issue op f s body)
    (h : ∀ c, p c → body c = a c) (hp : ∀ c, p c → p (c.go op) := by exact fun _ h => h) : Ends op row p a := fun f s c hr hc => by
  rw [hx f s, issue_ends hr (h (c.go op) (hp c hc))]

theorem raises_of {cause detail : Byte} {addr : Ctx → DWord} (hx : ∀ f s, exec (row f) s = issue op f s body)
    (h : ∀ c, p c → body c = c.trap cause detail (addr c)) (hp : ∀ c, p c → p (c.go op) := by exact fun _ h => h)
    (ha : ∀ c, addr (c.go op) = addr c := by exact fun _ => rfl) :
    Raises op false row p cause detail addr (fun _ => 0) := fun f s c hr hc => by
  rw [hx f s]
  exact issue_traps hr ((h _ (hp c hc)).trans (by rw [ha]; rfl))

theorem leaves32If_of {x : Ctx → Lane → Word} (hx : ∀ f s, exec (row f) s = issue op f s body)
    (h : ∀ c, p c → body c = c.result32 (x c)) (hp : ∀ c, p c → p (c.go op) := by exact fun _ h => h)
    (ha : ∀ c, x (c.go op) = x c := by exact fun _ => rfl) : Leaves32If op row p x := fun f s c hr hc => by
  rw [hx f s, issue_ends hr (h _ (hp c hc)), ha, Ctx.settle_result32]

theorem changes_of {F : Ctx → Group → Group} (hx : ∀ f s, exec (row f) s = issue op f s body)
    (h : ∀ c, p c → body c = .done (c.withGroup (F c)) .noResult) (hp : ∀ c, p c → p (c.go op) := by exact fun _ h => h)
    (ha : ∀ c, F (c.go op) = F c := by exact fun _ => rfl) :
    Changes op row p (fun c => F c (c.popped op)) := fun f s c hr hc => by
  rw [hx f s, issue_ends hr (h _ (hp c hc)), ha, Ctx.settle_withGroup]

theorem places_of {F : Ctx → Group → Group} (hx : ∀ f s, exec (row f) s = issue op f s body)
    (h : ∀ c, p c → body c = .placed (c.withGroup (F c)) .noResult) (hp : ∀ c, p c → p (c.go op) := by exact fun _ h => h)
    (ha : ∀ c, F (c.go op) = F c := by exact fun _ => rfl) :
    Places op false row p (fun c => F c (c.popped op)) (fun _ => .noResult) := fun f s c hr hc => by
  rw [hx f s, issue_ends hr (h _ (hp c hc)), ha, Ctx.settle_placed]

/-- A group that begins to hold, or goes on holding, is left as `Ctx.holding` says (R69, R296). -/
theorem settle_hold {f : Fields} {s : State} {c : Ctx} (hc : s.ctx? f = some c) (x : Hold) : c.settle (.hold x) = c.holding c.g x := by
  obtain ⟨-, hg, -, -, h0, -⟩ := State.ctx?_spec hc
  have hn : (c.counted c.s0).group? c.r = some c.g := by
    rw [← hg, ← h0]; unfold Ctx.counted; split <;> simp
  simp only [Ctx.settle, Ctx.held, State.modGroup, hn, Ctx.holding, Ctx.after, Ctx.taken]
  unfold Ctx.counted
  cases c.g.hold.isSome
  · cases x.allocates <;> exact (State.count_setGroup ..).symm
  · rfl

theorem holds_of {x : Ctx → Hold} (hx : ∀ f s, exec (row f) s = issue op f s body)
    (h : ∀ c, p c → body c = .hold (x c)) (hp : ∀ c, p c → p (c.go op) := by exact fun _ h => h)
    (ha : ∀ c, x (c.go op) = x c := by exact fun _ => rfl) : Holds op row p (fun c => c.g) x := fun f s c hr hc => by
  rw [hx f s, issue_ends hr (h _ (hp c hc)), ha, settle_hold hr.issuing]

end

/-- Pops leave the lanes and the budget of the group. -/
@[simp] theorem popped_pcs (c : Ctx) (op : Op) : (c.popped op).pcs = c.g.pcs := by rw [c.popped_eq]
@[simp] theorem popped_status (c : Ctx) (op : Op) : (c.popped op).status = c.g.status := by rw [c.popped_eq]
@[simp] theorem popped_budget (c : Ctx) (op : Op) : (c.popped op).budget = c.g.budget := by rw [c.popped_eq]

/-! ## Tags -/

theorem waitTag_eq {c : Ctx} {t : Fin 8} (h : c.f.sub.toNat = t.val) : c.waitTag = t := Fin.ext h

/-- The group with its members held at a copy tag (R240). -/
def tagHeld (c : Ctx) (t : Fin 8) (g : Group) : Group :=
  { g.advance c.run c.next with status := updLanes (g.advance c.run c.next).status c.m (fun _ => .tagHold t c.aLevel) }

theorem cwait_ends (t : Fin 8) : Ends .cwait .cwait (fun c => c.f.sub.toNat = t.val ∧ c.g.tags[t] ≤ c.aLevel.toNat)
    (fun c => .done (c.s.acquireAt c.r.die c.r.core .die) .noResult) := by
  refine ends_of (fun _ _ => rfl) ?_
  rintro c ⟨ht, hk⟩
  obtain rfl := waitTag_eq ht
  exact if_pos hk

theorem cwait_places (t : Fin 8) : Places .cwait false .cwait (fun c => c.f.sub.toNat = t.val ∧ c.aLevel.toNat < c.g.tags[t]) (fun c =>
    { c.popped .cwait with
      pcs := updLanes c.g.pcs c.run (fun _ => c.next)
      status := updLanes c.g.status c.m (fun _ => .tagHold t c.aLevel) }) (fun _ => .noResult) := by
  have h : Places .cwait false .cwait (fun c => c.f.sub.toNat = t.val ∧ c.aLevel.toNat < c.g.tags[t])
      (fun c => tagHeld c t (c.popped .cwait)) (fun _ => .noResult) := by
    refine places_of (F := fun c => tagHeld c t) (fun _ _ => rfl) ?_
    rintro c ⟨ht, hk⟩
    obtain rfl := waitTag_eq ht
    exact if_neg (Nat.not_le.mpr hk)
  intro f s c hr hc
  rw [h f s c hr hc]
  simp only [tagHeld, Group.advance, popped_pcs, popped_status]

theorem ctest_ends (t : Fin 8) : Ends .ctest .ctest (fun c => c.f.sub.toNat = t.val ∧ c.g.tags[t] ≤ c.aLevel.toNat)
    (fun c => Ctx.result32 { c with s := c.s.acquireAt c.r.die c.r.core .die } (fun _ => 1)) := by
  refine ends_of (fun _ _ => rfl) ?_
  rintro c ⟨ht, hk⟩
  obtain rfl := waitTag_eq ht
  simp only [hk, decide_true, if_true]

theorem ctest_leaves (t : Fin 8) :
    Leaves32If .ctest .ctest (fun c => c.f.sub.toNat = t.val ∧ c.aLevel.toNat < c.g.tags[t]) (fun _ _ => 0) := by
  refine leaves32If_of (fun _ _ => rfl) ?_
  rintro c ⟨ht, hk⟩
  obtain rfl := waitTag_eq ht
  simp only [Nat.not_le.mpr hk, decide_false, Bool.false_eq_true, if_false]

/-! ## Queues -/

theorem qcfg_changes (n : BitVec 4) : Changes .qcfg .qcfg (fun c => c.f.sa = .q n ∧ c.bLevel.toNat ≤ 16 ∧ (c.g.queue n).items = [] ∧
      c.g.drainInto n = false ∧ c.t.dispatcher = false ∧ (c.g.depthWith n c.bLevel.toNat + 7) / 8 < c.g.budget)
    (fun c => Group.clearAbove { c.popped .qcfg with queues := (c.popped .qcfg).queues.set n.toNat ⟨c.bLevel.toNat, [], none⟩ n.isLt }
      (c.g.budget - (c.g.depthWith n c.bLevel.toNat + 7) / 8)) := by
  have h := changes_of (op := .qcfg) (row := .qcfg) (p := fun c => c.f.sa = .q n ∧ c.bLevel.toNat ≤ 16 ∧ (c.g.queue n).items = [] ∧
      c.g.drainInto n = false ∧ c.t.dispatcher = false ∧ (c.g.depthWith n c.bLevel.toNat + 7) / 8 < c.g.budget)
    (F := fun c g => (g.setQ n ⟨c.bLevel.toNat, [], none⟩).clearAbove (g.budget - (c.g.depthWith n c.bLevel.toNat + 7) / 8))
    (fun _ _ => rfl) (by
      rintro c ⟨hn, h16, hi, hd, ht, hb⟩
      have hq : queueNo c.f.sa = n := by rw [hn]; rfl
      simp [hq, hi, hd, ht, Nat.not_lt.mpr h16, Nat.not_le.mpr hb])
  simp only [popped_budget] at h
  exact h

theorem qcfg_raises (n : BitVec 4) : Raises .qcfg false .qcfg (fun c => c.f.sa = .q n ∧ (16 < c.bLevel.toNat ∨ (c.g.queue n).items ≠ [] ∨
    c.t.dispatcher = true ∨ c.g.budget ≤ (c.g.depthWith n c.bLevel.toNat + 7) / 8)) 0x02 0 (fun _ => 0) (fun _ => 0) := by
  refine raises_of (fun _ _ => rfl) ?_
  rintro c ⟨hn, h⟩
  have hq : queueNo c.f.sa = n := by rw [hn]; rfl
  rw [hq, if_pos (by rcases h with h | h | h | h <;> simp [h])]
  rfl

theorem qlen_empty (n : BitVec 4) : Leaves32If .qlen .qlen (fun c => c.f.sa = .q n ∧ (c.g.queue n).depth = 0) (fun _ _ => 0) := by
  refine leaves32If_of (fun _ _ => rfl) ?_
  rintro c ⟨hn, hd⟩
  have hq : queueNo c.f.sa = n := by rw [hn]; rfl
  simp only [hq, Group.queueWord, hd, if_true]

theorem qlen_word (n : BitVec 4) : Leaves32If .qlen .qlen (fun c => c.f.sa = .q n ∧ (c.g.queue n).depth ≠ 0) (fun c _ =>
    BitVec.ofNat 32 (((c.g.queue n).items.length + (if (c.g.queue n).claim.isSome then 1 else 0)) % 32 + 256 * ((c.g.queue n).depth % 32) +
      65536 * (c.g.pendingInto n % 32))) := by
  refine leaves32If_of (fun _ _ => rfl) ?_
  rintro c ⟨hn, hd⟩
  have hq : queueNo c.f.sa = n := by rw [hn]; rfl
  simp only [hq, Group.queueWord, hd, if_false, Queue.taken]

theorem qdrain_changes (n : BitVec 4) : Changes .qdrain .qdrain (fun c => c.f.sa = .q n ∧ (c.g.queue n).depth ≠ 0 ∧ c.g.drainInto n = false)
    (fun c => { c.popped .qdrain with
      queues := (c.popped .qdrain).queues.set n.toNat { c.g.queue n with
        items := ((c.popped .qdrain).queue n).items.drop (if c.f.sb = .none then (c.g.queue n).items.length else c.bLevel.toNat) } n.isLt }) := by
  refine changes_of (F := fun c g => g.setQ n { c.g.queue n with
    items := (g.queue n).items.drop (if c.f.sb = .none then (c.g.queue n).items.length else c.bLevel.toNat) }) (fun _ _ => rfl) ?_
  rintro c ⟨hn, hd, hi⟩
  have hq : queueNo c.f.sa = n := by rw [hn]; rfl
  simp only [hq, hd, hi, if_false, Bool.false_eq_true, beq_iff_eq]

theorem qdrain_raises (n : BitVec 4) :
    Raises .qdrain false .qdrain (fun c => c.f.sa = .q n ∧ (c.g.queue n).depth = 0) 0x02 0 (fun _ => 0) (fun _ => 0) := by
  refine raises_of (fun _ _ => rfl) ?_
  rintro c ⟨hn, hd⟩
  have hq : queueNo c.f.sa = n := by rw [hn]; rfl
  simp only [hq, hd, if_true]
  rfl

/-- Settles O37: each row by the branches of its meaning. -/
theorem tagsAndQueues : Obligations.TagsAndQueues :=
  ⟨fun t => ⟨cwait_ends t, cwait_places t, ctest_ends t, ctest_leaves t⟩,
    qcfg_changes, qcfg_raises, qlen_empty, qlen_word, qdrain_changes, qdrain_raises⟩

end Sys2Proof.Machine.Storage
end

section
/-! PROOF. Octets are allocated and given back (spec 03 R86, R87, R89, spec 10 R253, R254). -/

namespace Sys2Proof.Machine.Storage

set_option Elab.async false

theorem reservedOctet_eq {c : Ctx} {o : Fin 8} (h : c.aLevel.toNat = o.val) (hr : o ∈ c.t.reserved) : c.reservedOctet = some o := by
  have hc : c.t.reserved.contains o = true := by simpa using hr
  simp [Ctx.reservedOctet, h, hr]

theorem reservedOctet_none {c : Ctx} (h : ∀ o : Fin 8, o ∈ c.t.reserved → c.aLevel.toNat ≠ o.val) : c.reservedOctet = none := by
  unfold Ctx.reservedOctet
  dsimp only
  split
  · rename_i hlt
    exact if_neg fun hm => h ⟨_, hlt⟩ (by simpa using hm) rfl
  · rfl

theorem balloc_ends (o p : Fin 8) : Ends .balloc .balloc (fun c => c.aLevel.toNat = o.val ∧ o ∈ c.t.reserved ∧
      ((c.t.positionOf o = some p ∧ c.s0.octetBusy c.r.die c.r.core c.t o = false) ∨
        (c.t.positionOf o = none ∧ c.t.freePosition = some p)))
    (fun c =>
      let u := (c.s.modCore c.r.die c.r.core (fun k => k.allocOctet c.t.uid o (if c.f.sub = 1 then .compute else .storage))).modTeam
        c.r.die c.r.core c.t.uid (fun t => { t with position := t.position.set p (some o) })
      Ctx.result32 { c with s := u } (fun _ => BitVec.ofNat 32 p.val)) := by
  refine ends_of (fun _ _ => rfl) ?_
  rintro c ⟨ha, hr, ⟨hp, hb⟩ | ⟨hp, hf⟩⟩
  · simp only [reservedOctet_eq ha hr, hp, hb, Bool.false_eq_true, if_false, Ctx.allocAt, beq_iff_eq]
  · simp only [reservedOctet_eq ha hr, hp, hf, Ctx.allocAt, beq_iff_eq]

theorem balloc_holds (o : Fin 8) : Holds .balloc .balloc (fun c => c.aLevel.toNat = o.val ∧ o ∈ c.t.reserved ∧ c.t.positionOf o ≠ none ∧
    c.s0.octetBusy c.r.die c.r.core c.t o = true) (fun c => c.g) (fun _ => .octet o) := by
  refine holds_of (fun _ _ => rfl) ?_
  rintro c ⟨ha, hr, hp, hb⟩
  obtain ⟨p, hp⟩ := Option.ne_none_iff_exists'.mp hp
  simp only [reservedOctet_eq ha hr, hp, hb, if_true]

theorem balloc_raises :
    Raises .balloc false .balloc (fun c => ∀ o : Fin 8, o ∈ c.t.reserved → c.aLevel.toNat ≠ o.val) 0x02 0 (fun _ => 0) (fun _ => 0) := by
  refine raises_of (fun _ _ => rfl) fun c h => ?_
  simp only [reservedOctet_none h]
  rfl

theorem bfree_changes (o : Fin 8) : Changes .bfree .bfree (fun c => c.aLevel.toNat = o.val ∧ o ∈ c.t.reserved ∧ c.t.positionOf o = none)
    (fun c => c.popped .bfree) := by
  rintro f s c hr ⟨ha, hm, hp⟩
  have h : execBfree f s = .next (c.settle (.done (c.go .bfree).s .noResult)) := issue_ends hr (by
    simp only [reservedOctet_eq (c := c.go .bfree) ha hm, Ctx.go_t, hp])
  exact h.trans (by rw [Ctx.settle_nothing])

theorem bfree_ends (o p : Fin 8) : Ends .bfree .bfree (fun c => c.aLevel.toNat = o.val ∧ o ∈ c.t.reserved ∧ c.t.positionOf o = some p ∧
      c.s0.octetBusy c.r.die c.r.core c.t o = false)
    (fun c => .done ((c.s.modCore c.r.die c.r.core (fun k => k.freeOctet o)).modTeam c.r.die c.r.core c.t.uid
      (fun t => { t with position := t.position.set p none })) .noResult) := by
  refine ends_of (fun _ _ => rfl) ?_
  rintro c ⟨ha, hr, hp, hb⟩
  simp only [reservedOctet_eq ha hr, hp, hb, Bool.false_eq_true, if_false]

theorem bfree_holds (o : Fin 8) : Holds .bfree .bfree (fun c => c.aLevel.toNat = o.val ∧ o ∈ c.t.reserved ∧ c.t.positionOf o ≠ none ∧
    c.s0.octetBusy c.r.die c.r.core c.t o = true) (fun c => c.g) (fun _ => .octet o) := by
  refine holds_of (fun _ _ => rfl) ?_
  rintro c ⟨ha, hr, hp, hb⟩
  obtain ⟨p, hp⟩ := Option.ne_none_iff_exists'.mp hp
  simp only [reservedOctet_eq ha hr, hp, hb, if_true]

theorem bfree_raises :
    Raises .bfree false .bfree (fun c => ∀ o : Fin 8, o ∈ c.t.reserved → c.aLevel.toNat ≠ o.val) 0x02 0 (fun _ => 0) (fun _ => 0) := by
  refine raises_of (fun _ _ => rfl) fun c h => ?_
  simp only [reservedOctet_none h]
  rfl

/-! ## What an allocation makes of the core -/

/-- The place `w * o + j` of a vector in groups of w, read after the places of group o have been written in turn. -/
theorem getElem_foldl_set {α : Type} {n w : Nat} (o : Nat) (f : Fin w → α) (hw : w * o + w ≤ n) (v : Vector α n) (i : Fin n)
    (js : List (Fin w)) : (js.foldl (fun v j => v.set (w * o + j.val) (f j) (by omega)) v)[i] =
      if h : w * o ≤ i.val ∧ i.val - w * o < w then
        (if (⟨i.val - w * o, h.2⟩ : Fin w) ∈ js then f ⟨i.val - w * o, h.2⟩ else v[i])
      else v[i] := by
  induction js generalizing v with
  | nil => simp
  | cons j js ih =>
    rw [List.foldl_cons, ih]
    have hset : (v.set (w * o + j.val) (f j) (by omega))[i] = if w * o + j.val = i.val then f j else v[i] := by simp [Vector.getElem_set]
    split
    · rename_i h
      by_cases e : w * o + j.val = i.val
      · obtain rfl : j = ⟨i.val - w * o, h.2⟩ := Fin.ext (by simp; omega)
        simp [e]
      · have hne : (⟨i.val - w * o, h.2⟩ : Fin w) ≠ j := fun x => e (by rw [← x]; simp; omega)
        simp [hset, e, hne]
    · rename_i h
      rw [hset, if_neg (by omega)]

theorem allocOctet_zero (k : Core) (uid : Nat) (o : Fin 8) (m : OctMode) : (k.allocOctet uid o m).octets[o] = ⟨some uid, m, []⟩ ∧
    (∀ j : Fin 4, (k.allocOctet uid o m).table[(⟨4 * o.val + j.val, by omega⟩ : Fin 32)] = ⟨none, false⟩) ∧
    (∀ b : Fin 64, b.val / 8 = o.val → (k.allocOctet uid o m).banks[b].mem = [] ∧
      (k.allocOctet uid o m).banks[b].acc = Vector.replicate 8 (Vector.replicate 128 0)) ∧
    (∀ b : Fin 64, b.val / 8 ≠ o.val → (k.allocOctet uid o m).banks[b] = k.banks[b]) := by
  have hbanks : ∀ b : Fin 64, (k.allocOctet uid o m).banks[b] = if b.val / 8 = o.val then k.banks[b].cleared else k.banks[b] := fun b => by
    unfold Core.allocOctet
    rw [getElem_foldl_set o.val (fun j : Fin 8 => (k.banks[8 * o.val + j.val]'(by omega)).cleared) (by omega)]
    by_cases h : b.val / 8 = o.val
    · have hb : 8 * o.val ≤ b.val ∧ b.val - 8 * o.val < 8 := by omega
      have e : 8 * o.val + (b.val - 8 * o.val) = b.val := by omega
      simp [hb, h, e]
    · rw [if_neg h, dif_neg (by omega)]
  refine ⟨by simp [Core.allocOctet], fun j => ?_, fun b hb => ?_, fun b hb => by rw [hbanks, if_neg hb]⟩
  · unfold Core.allocOctet
    rw [getElem_foldl_set o.val (fun _ : Fin 4 => (⟨none, false⟩ : TableSlot)) (by omega)]
    simp
  · rw [hbanks, if_pos hb]
    exact ⟨rfl, rfl⟩

/-- Settles O38: each row by the octet that it names and where the team has it, and what an allocation makes of the core. -/
theorem octetRows : Obligations.OctetRows :=
  ⟨balloc_ends, balloc_holds, balloc_raises, allocOctet_zero, bfree_changes, bfree_ends, bfree_holds, bfree_raises⟩

end Sys2Proof.Machine.Storage
end

section
/-! PROOF. The issue of the engine instructions (spec 04 R115, R118, R121, spec 09 R224, R235, R238 to R242, R248 to R250, spec 12 R290). -/

namespace Sys2Proof.Machine.Storage

set_option Elab.async false

/-! ## The barrier register, the room of a queue, and the octets of an operation -/

theorem breg?_eq {c : Ctx} {b : Fin 16} (h : c.Arrives b) : c.breg? = some b := by
  obtain ⟨hb, hd, he⟩ := h
  have e : c.f.breg.toFin = b := Fin.ext hb
  simp only [Ctx.breg?, e]
  exact if_pos ⟨hd, he⟩

theorem breg?_none {c : Ctx} (h : ∀ b, ¬ c.Arrives b) : c.breg? = none :=
  if_neg fun ⟨hd, he⟩ => h c.f.breg.toFin ⟨rfl, hd, he⟩

theorem engineRoom_iff (c : Ctx) (q : EngQueue) (n : Nat) : c.s0.dies[c.r.die].engineRoom q c.cls n = true ↔ c.HasRoom q n := by
  cases q <;> exact decide_eq_true_iff

theorem mem_octetWaits (s : State) (d : DieId) (k : CoreId) (t : Team) (o : Fin 8) :
    o ∈ s.octetWaits d k t ↔ ∃ p ∈ s.groupsOf d k t, p.2.hold = some (.octet o) := by
  simp only [State.octetWaits, List.mem_filterMap]
  refine exists_congr fun p => and_congr_right fun _ => ?_
  split
  · rename_i o' h; simp [h]
  · rename_i h; simp only [reduceCtorEq, false_iff]; exact fun e => h o e

theorem mem_octetQueue (s : State) (d : DieId) (k : CoreId) (t : Team) (place : Nat) (o : Fin 8) :
    o ∈ s.octetQueue d k t place ↔ ∃ p ∈ s.groupsOf d k t, ∃ n qs, p.2.hold = some (.busy n qs) ∧ n < place ∧ o ∈ qs := by
  simp only [State.octetQueue, List.mem_flatMap]
  refine exists_congr fun p => and_congr_right fun _ => ?_
  split
  · rename_i n qs h
    by_cases hn : n < place <;> simp [h, hn]
  · rename_i h; simp only [List.not_mem_nil, false_iff]; exact fun ⟨n, qs, e, _⟩ => h n qs e

theorem blockedOn_iff (c : Ctx) (os : List (Fin 8)) : c.blockedOn os = true ↔ ∃ o ∈ os, ∃ p ∈ c.s0.groupsOf c.r.die c.r.core c.t,
    p.2.hold = some (.octet o) ∨ ∃ n qs, p.2.hold = some (.busy n qs) ∧ n < c.busyPlace ∧ o ∈ qs := by
  simp only [Ctx.blockedOn, List.any_eq_true, List.contains_iff_mem, List.mem_append, mem_octetWaits, mem_octetQueue]
  refine exists_congr fun o => and_congr_right fun _ => ?_
  simp only [and_or_left, exists_or]

theorem start_forks {c : Ctx} {lvl : Level} {b : Fin 16} {kind : EngKind} {src dst : DWord} {len : Nat}
    (hb : c.blockedOn (c.engineOctets (c.engineOp c.s0 kind (.bar b) src dst len)) = false) (hr : c.HasRoom kind.queue 1) :
    c.start lvl b kind src dst len = .done (c.fork lvl b kind src dst len) .noResult := by
  simp only [Ctx.start, hb, Bool.false_eq_true, if_false, (engineRoom_iff c _ 1).mpr hr, if_true]

theorem start_holds {c : Ctx} {lvl : Level} {b : Fin 16} {kind : EngKind} {src dst : DWord} {len : Nat}
    (hb : c.blockedOn (c.engineOctets (c.engineOp c.s0 kind (.bar b) src dst len)) = false) (hr : ¬ c.HasRoom kind.queue 1) :
    c.start lvl b kind src dst len = .hold .engine := by
  simp only [Ctx.start, hb, Bool.false_eq_true, if_false, mt (engineRoom_iff c _ 1).mp hr]

theorem start_waits {c : Ctx} {lvl : Level} {b : Fin 16} {kind : EngKind} {src dst : DWord} {len : Nat}
    (hb : c.blockedOn (c.engineOctets (c.engineOp c.s0 kind (.bar b) src dst len)) = true) :
    c.start lvl b kind src dst len =
      .holdWith { c.s0 with uid := c.s0.uid + 1 } (.busy c.busyPlace (c.engineOctets (c.engineOp c.s0 kind (.bar b) src dst len))) := by
  simp only [Ctx.start, hb, if_true]
  rfl

/-- A seal names no bytes of a scratchpad (R121). -/
theorem engineOctets_seal (c : Ctx) (s : State) (r : Option DWord) (own : Bool) (x : Option SealRead) (cp : Completion) (src dst : DWord)
    (len : Nat) : c.engineOctets (c.engineOp s (.seal r own x) cp src dst len) = [] := by
  refine List.filter_eq_nil_iff.mpr fun o _ => ?_
  simp only [State.onOctet, Ctx.engineOp, State.spadRanges, List.any_nil, Bool.false_or]
  cases c.t.positionOf o <;> simp

/-! ## The address that a misaligned engine instruction reports (R392) -/

theorem misaligned_first {c : Ctx} {a : DWord} {xs : List DWord} {n : Nat} (h : a.toNat % n ≠ 0) :
    c.misaligned (a :: xs) n = c.trap 0x20 0 a := by
  simp [Ctx.misaligned, h]

theorem misaligned_skip {c : Ctx} {a : DWord} {xs : List DWord} {n : Nat} (h : a.toNat % n = 0) :
    c.misaligned (a :: xs) n = c.misaligned xs n := by
  simp [Ctx.misaligned, h]

theorem misaligned_nil (c : Ctx) (n : Nat) : c.misaligned [] n = c.trap 0x20 0 0 := rfl

/-! ## Copies between memory and the scratchpad (R238, R239) -/

/-- A copy with a scratchpad side is of a team with an octet. -/
theorem spadSide_iff (c : Ctx) : (dirSpad c.f.sub && c.t.desc.octets == 0) = true ↔ ¬ (c.f.sub ≠ 2 → c.t.desc.octets ≠ 0) := by
  simp [dirSpad]

theorem cpy_aligned {c : Ctx} (h : c.CpyOk) :
    ¬ (c.cpySrc.toNat % 16 ≠ 0 ∨ c.cpyDst.toNat % 16 ≠ 0 ∨ c.cLevel.toNat % 16 ≠ 0) := by
  obtain ⟨hs, hd, hl, -⟩ := h
  simp [hs, hd, hl]

theorem cpy_octets {c : Ctx} (h : c.CpyOk) : ¬ (dirSpad c.f.sub && c.t.desc.octets == 0) = true :=
  fun e => (spadSide_iff c).mp e h.2.2.2

theorem cLevel_toNat {c : Ctx} (h : c.cLevel ≠ 0) : c.cLevel.toNat ≠ 0 := fun e => h (BitVec.eq_of_toNat_eq e)

theorem cpy_forks (b : Fin 16) : Ends .cpy .cpy (fun c => c.CpyOk ∧ c.Arrives b ∧ c.HasRoom .caravan 1 ∧ c.cLevel ≠ 0 ∧
    c.blockedOn (c.cpyOctets b) = false) (fun c => .done (c.fork .die b (.cpy c.f.sub) c.cpySrc c.cpyDst c.cLevel.toNat) .noResult) := by
  refine ends_of (fun _ _ => rfl) ?_
  rintro c ⟨hok, hb, hr, hc, hw⟩
  simp only [if_neg (cpy_aligned hok), if_neg (cpy_octets hok), breg?_eq hb, if_neg (cLevel_toNat hc)]
  exact start_forks hw hr

theorem arrive_eq_after (b : Barrier) (n : Nat) : b.arrive n = b.after n := by
  unfold Barrier.arrive Barrier.after
  split <;> rfl

theorem cpy_arrives (b : Fin 16) : Ends .cpy .cpy (fun c => c.CpyOk ∧ c.Arrives b ∧ c.cLevel = 0)
    (fun c => .done ((c.s.releaseBy c.r .die).putBar c.r.die c.r.core c.t b (c.t.barriers[b].after 1)) .noResult) := by
  refine ends_of (fun _ _ => rfl) ?_
  rintro c ⟨hok, hb, hc⟩
  have hc' : c.cLevel.toNat = 0 := by rw [hc]; rfl
  simp only [if_neg (cpy_aligned hok), if_neg (cpy_octets hok), breg?_eq hb, if_pos hc', arrive_eq_after]

theorem cpy_holds (b : Fin 16) : Holds .cpy .cpy (fun c => c.CpyOk ∧ c.Arrives b ∧ ¬ c.HasRoom .caravan 1 ∧ c.cLevel ≠ 0 ∧
    c.blockedOn (c.cpyOctets b) = false) (fun c => c.g) (fun _ => .engine) := by
  refine holds_of (fun _ _ => rfl) ?_
  rintro c ⟨hok, hb, hr, hc, hw⟩
  simp only [if_neg (cpy_aligned hok), if_neg (cpy_octets hok), breg?_eq hb, if_neg (cLevel_toNat hc)]
  exact start_holds hw hr

theorem cpy_waits (b : Fin 16) : Ends .cpy .cpy (fun c => c.CpyOk ∧ c.Arrives b ∧ c.cLevel ≠ 0 ∧ c.blockedOn (c.cpyOctets b) = true)
    (fun c => .holdWith { c.s0 with uid := c.s0.uid + 1 } (.busy c.busyPlace (c.cpyOctets b))) := by
  refine ends_of (fun _ _ => rfl) ?_
  rintro c ⟨hok, hb, hc, hw⟩
  simp only [if_neg (cpy_aligned hok), if_neg (cpy_octets hok), breg?_eq hb, if_neg (cLevel_toNat hc)]
  exact start_waits hw

theorem cpy_raises_src : Raises .cpy false .cpy (fun c => c.cpySrc.toNat % 16 ≠ 0) 0x20 0 (fun c => c.cpySrc) (fun _ => 0) :=
  raises_of (fun _ _ => rfl) fun _ h => (if_pos (.inl h)).trans (misaligned_first h)

theorem cpy_raises_dst : Raises .cpy false .cpy (fun c => c.cpySrc.toNat % 16 = 0 ∧ c.cpyDst.toNat % 16 ≠ 0) 0x20 0 (fun c => c.cpyDst)
    (fun _ => 0) :=
  raises_of (fun _ _ => rfl) fun _ ⟨hs, hd⟩ => (if_pos (.inr (.inl hd))).trans ((misaligned_skip hs).trans (misaligned_first hd))

theorem cpy_raises_len : Raises .cpy false .cpy (fun c => c.cpySrc.toNat % 16 = 0 ∧ c.cpyDst.toNat % 16 = 0 ∧ c.cLevel.toNat % 16 ≠ 0) 0x20 0
    (fun _ => 0) (fun _ => 0) :=
  raises_of (fun _ _ => rfl) fun _ ⟨hs, hd, hl⟩ => (if_pos (.inr (.inr hl))).trans ((misaligned_skip hs).trans (misaligned_skip hd))

theorem cpy_raises_octets : Raises .cpy false .cpy (fun c => c.cpySrc.toNat % 16 = 0 ∧ c.cpyDst.toNat % 16 = 0 ∧ c.cLevel.toNat % 16 = 0 ∧
    c.f.sub ≠ 2 ∧ c.t.desc.octets = 0) 0x02 0 (fun _ => 0) (fun _ => 0) := by
  refine raises_of (fun _ _ => rfl) ?_
  rintro c ⟨hs, hd, hl, h2, ho⟩
  rw [if_neg (by simp [hs, hd, hl]), if_pos ((spadSide_iff c).mpr fun h => h h2 ho)]
  rfl

theorem cpy_raises_breg : Raises .cpy false .cpy (fun c => c.CpyOk ∧ ∀ b, ¬ c.Arrives b) 0x02 0 (fun _ => 0) (fun _ => 0) := by
  refine raises_of (fun _ _ => rfl) ?_
  rintro c ⟨hok, hb⟩
  simp only [if_neg (cpy_aligned hok), if_neg (cpy_octets hok), breg?_none hb]
  rfl

end Sys2Proof.Machine.Storage
end

section
/-! PROOF. The issue of the engine instructions, continued: copies by lane, transforms, seals, collectives, sends and weight loads (spec 04
R115, R118, R121, spec 09 R239, R241, R242, R248 to R250, spec 12 R290). -/

namespace Sys2Proof.Machine.Storage

set_option Elab.async false

/-! ## `cpyt` (R239) -/

/-- The addresses of the member lanes of `cpyt` are aligned (R224). -/
def CpytAligned (c : Ctx) : Prop := ∀ i : Lane, inMask c.m i = true →
  (c.laneAddr (dirSrcGlobal c.f.sub) c.f.sa i).toNat % 16 = 0 ∧ (c.laneAddr (dirDstGlobal c.f.sub) c.f.sb i).toNat % 16 = 0

theorem cpytMisaligned_none {c : Ctx} (h : CpytAligned c) : c.cpytMisaligned = none := by
  refine List.findSome?_eq_none_iff.mpr fun i hi => ?_
  obtain ⟨hs, hd⟩ := h i (mem_lanesOf.mp hi)
  simp [hs, hd]

/-- The lengths and the octets of `cpyt` are good just when no check of R239 but the alignment fails. -/
theorem cpyt_checks (c : Ctx) : ((lanesOf c.m).any (fun i => decide (32 < c.cpytLen i)) || (dirSpad c.f.sub && c.t.desc.octets == 0)) = true ↔
    ¬ ((c.f.sub ≠ 2 → c.t.desc.octets ≠ 0) ∧ ∀ i : Lane, inMask c.m i = true → c.cpytLen i ≤ 32) := by
  rw [Bool.or_eq_true, spadSide_iff, List.any_eq_true, not_and_or, or_comm]
  simp [mem_lanesOf]

theorem cpyt_good {c : Ctx} (h : c.CpytOk) : CpytAligned c ∧
    ¬ ((lanesOf c.m).any (fun i => decide (32 < c.cpytLen i)) || (dirSpad c.f.sub && c.t.desc.octets == 0)) = true := by
  obtain ⟨ho, hl⟩ := h
  exact ⟨fun i hi => (hl i hi).2, fun e => (cpyt_checks c).mp e ⟨ho, fun i hi => (hl i hi).1⟩⟩

theorem cpyt_forks (t : Fin 8) : Ends .cpyt .cpyt (fun c => c.f.ctag.toNat = t.val ∧ c.CpytOk ∧ c.HasRoom .caravan (lanesOf c.m).length ∧
      c.g.tags[t] + (lanesOf c.m).length ≤ 1023 ∧ c.blockedOn c.cpytOctets = false)
    (fun c =>
      let u := (c.s.releaseBy c.r .die).modGroup c.r (fun g =>
        { g with tags := g.tags.set t (g.tags[t] + (lanesOf c.m).length) })
      .done ((lanesOf c.m).foldl (fun s i =>
        let op := c.engineOp s (.cpyt c.f.sub) (.tag t) (c.laneAddr (dirSrcGlobal c.f.sub) c.f.sa i)
          (c.laneAddr (dirDstGlobal c.f.sub) c.f.sb i) (c.cpytLen i)
        { s with uid := s.uid + 1 }.modDie c.r.die (fun d => { d with engines := d.engines ++ [op] })) u) .noResult) := by
  refine ends_of (fun _ _ => rfl) ?_
  rintro c ⟨ht, hok, hr, hn, hw⟩
  obtain ⟨ha, hg⟩ := cpyt_good hok
  obtain rfl : c.f.ctag.toFin = t := Fin.ext ht
  have hr' := (engineRoom_iff c .caravan _).mpr hr
  simp only [cpytMisaligned_none ha, if_neg hg, laneCount, if_neg (Nat.not_lt.mpr hn), hw, hr', Bool.not_true, Bool.false_eq_true, if_false]

theorem cpyt_holds : Holds .cpyt .cpyt (fun c => c.CpytOk ∧ 1023 < c.g.tags[c.f.ctag.toFin] + (lanesOf c.m).length) (fun c => c.g)
    (fun _ => .tag) := by
  refine holds_of (fun _ _ => rfl) ?_
  rintro c ⟨hok, hn⟩
  obtain ⟨ha, hg⟩ := cpyt_good hok
  simp only [cpytMisaligned_none ha, if_neg hg]
  exact if_pos hn

theorem cpyt_raises : Raises .cpyt false .cpyt (fun c => (∀ i : Lane, inMask c.m i = true →
      (c.laneAddr (dirSrcGlobal c.f.sub) c.f.sa i).toNat % 16 = 0 ∧
      (c.laneAddr (dirDstGlobal c.f.sub) c.f.sb i).toNat % 16 = 0) ∧ ¬ c.CpytOk) 0x02 0 (fun _ => 0) (fun _ => 0) := by
  refine raises_of (fun _ _ => rfl) ?_
  rintro c ⟨ha, hn⟩
  have hbad := (cpyt_checks c).mpr fun ⟨ho, hl⟩ => hn ⟨ho, fun i hi => ⟨hl i hi, ha i hi⟩⟩
  simp only [cpytMisaligned_none ha, if_pos hbad]
  rfl

/-! ## `xform` (R242) -/

theorem xform_forks (b : Fin 16) : Ends .xform .xform (fun c => c.Arrives b ∧ c.HasRoom .sirocco 1 ∧ c.xfSrc.toNat % 64 = 0 ∧
      c.xfDst.toNat % 64 = 0 ∧ c.blockedOn (c.xfOctets b) = false)
    (fun c => .done (c.fork .die b c.xfKind c.xfSrc c.xfDst 0) .noResult) := by
  refine ends_of (fun _ _ => rfl) ?_
  rintro c ⟨hb, hr, hs, hd, hw⟩
  rw [if_neg (by simp [hs, hd])]
  simp only [breg?_eq hb, beq_iff_eq]
  exact start_forks hw hr

theorem xform_raises_src : Raises .xform false .xform (fun c => c.xfSrc.toNat % 64 ≠ 0) 0x20 0 (fun c => c.xfSrc) (fun _ => 0) :=
  raises_of (fun _ _ => rfl) fun _ h => (if_pos (.inl h)).trans (misaligned_first h)

theorem xform_raises_breg : Raises .xform false .xform (fun c => c.xfSrc.toNat % 64 = 0 ∧ c.xfDst.toNat % 64 = 0 ∧ ∀ b, ¬ c.Arrives b) 0x02 0
    (fun _ => 0) (fun _ => 0) := by
  refine raises_of (fun _ _ => rfl) ?_
  rintro c ⟨hs, hd, hb⟩
  rw [if_neg (by simp [hs, hd])]
  simp only [breg?_none hb]
  rfl

/-! ## `seal` (R248) -/

theorem seal_forks (b : Fin 16) : Ends .seal .seal (fun c => c.Arrives b ∧ c.HasRoom .sirocco 1 ∧ c.xfSrc.toNat % 4096 = 0 ∧
      c.xfDst ≠ 0 ∧ c.xfDst.toNat % 4096 = 0 ∧ (c.f.sx = .none ∨ (c.g.level64 c.f c.f.sx c.m).toNat % 64 = 0))
    (fun c =>
      let record := if c.f.sx = .none then none else some (c.g.level64 c.f c.f.sx c.m)
      let own := match c.s0.sealCheck c.r.die c.t.asid c.xfSrc c.xfDst.toNat record with
        | .ok _ => true
        | .error _ => false
      .done (c.fork .home b (.seal record own none) c.xfSrc 0 c.xfDst.toNat) .noResult) := by
  refine ends_of (fun _ _ => rfl) ?_
  rintro c ⟨hb, hr, hs, hd0, hd, hx⟩
  have hd0' : c.xfDst.toNat ≠ 0 := fun e => hd0 (BitVec.eq_of_toNat_eq e)
  have hrec : ((if c.f.sx = .none then none else some (c.g.level64 c.f c.f.sx c.m)).getD 0).toNat % 64 = 0 := by
    split
    · rfl
    · rename_i h; exact hx.resolve_left h
  rw [if_neg (by simp [hs, hd])]
  simp only [beq_iff_eq, breg?_eq hb, hrec, ne_eq, not_true_eq_false, if_false, if_neg hd0']
  exact start_forks (by rw [engineOctets_seal]; rfl) hr

theorem seal_raises : Raises .seal false .seal (fun c => c.xfSrc.toNat % 4096 = 0 ∧ c.xfDst.toNat % 4096 ≠ 0) 0x20 0 (fun _ => 0)
    (fun _ => 0) :=
  raises_of (fun _ _ => rfl) fun _ ⟨hs, hd⟩ => (if_pos (.inr hd)).trans (misaligned_skip hs)

/-! ## `coll` (R249) -/

theorem coll_forks (b : Fin 16) : Ends .coll .coll (fun c => c.Arrives b ∧ c.t.inRange = true ∧ c.t.packed = false ∧ c.HasRoom .coll 1 ∧
      c.xfSrc.toNat % 16 = 0 ∧ c.xfDst.toNat % 16 = 0 ∧
      (c.cLevel.toNat * collSize c.f.md) % 16 = 0 ∧ c.cLevel.toNat * collSize c.f.md ≤ 268435456)
    (fun c =>
      let n := keyGet c.s0.dies[c.r.die].collCount c.t.key 0
      .done (((c.fork .home b (.coll c.f.sub c.f.md c.f.imm n none) c.xfSrc c.xfDst
        (c.cLevel.toNat * collSize c.f.md)).modDie c.r.die (fun d => { d with collCount := keySet d.collCount c.t.key (n + 1) })).enterMerge
        c.r.die c.t.key n c.f.sub c.f.imm) .noResult) := by
  refine ends_of (fun _ _ => rfl) ?_
  rintro c ⟨hb, hi, hp, hr, hs, hd, hl, hm⟩
  have hroom : c.s0.dies[c.r.die].engineRoom .coll 0 1 = true := (engineRoom_iff c .coll 1).mpr hr
  rw [if_neg (by simp [hi, hp]), if_neg (by simp [hs, hd, hl])]
  simp only [if_neg (Nat.not_lt.mpr hm), breg?_eq hb, hroom, Bool.not_true, Bool.false_eq_true, if_false]

theorem coll_raises : Raises .coll false .coll (fun c => c.t.inRange = false ∨ c.t.packed = true) 0x02 0 (fun _ => 0) (fun _ => 0) :=
  raises_of (fun _ _ => rfl) fun _ h => if_pos (by rcases h with h | h <;> simp [h])

/-! ## `xsend` (R250) -/

/-- The octets of an operation do not depend on the number that it takes. -/
theorem engineOctets_xsend (c : Ctx) (s u : State) : c.engineOctets (c.xsendOp s) = c.engineOctets (c.xsendOp u) := rfl

/-- The offset of `xsend` in the window of its destination (R118). -/
theorem xsend_offset (c : Ctx) : (c.bLevel.extractLsb' 0 26).toNat = c.bLevel.toNat % 67108864 := by simp [BitVec.extractLsb'_toNat]

/-- The checks of `xsend` that end in the illegal-operand trap. -/
theorem xsend_checks {c : Ctx} (ha : (c.levelAddr (c.f.sub != 1) c.f.sa).toNat % 16 = 0) :
    (!c.t.inRange || c.t.packed || c.bLevel.getLsbD 31 || (c.bLevel.extractLsb' 0 26).toNat % 16 != 0 || c.cLevel.toNat % 16 != 0
      || decide (67108864 < (c.bLevel.extractLsb' 0 26).toNat + c.cLevel.toNat) || ((c.f.sub == 1) && c.t.desc.octets == 0)) = true ↔
    ¬ c.XsendOk := by
  simp only [xsend_offset, ha, Bool.or_eq_true, Bool.not_eq_true', bne_iff_ne, decide_eq_true_eq, Bool.and_eq_true, beq_iff_eq, not_and_or,
    not_true, false_or, Bool.not_eq_true, Bool.not_eq_false, Nat.not_le, Classical.not_imp, not_not, or_assoc]

theorem xsend_forks : Ends .xsend .xsend (fun c => c.XsendOk ∧ c.HasRoom .caravan 1 ∧ c.blockedOn (c.engineOctets (c.xsendOp c.s0)) = false)
    (fun c =>
      let u := c.s.releaseBy c.r .die
      .done ({ u with uid := u.uid + 1 }.modDie c.r.die (fun d => { d with engines := d.engines ++ [c.xsendOp u] })) .noResult) := by
  refine ends_of (fun _ _ => rfl) ?_
  rintro c ⟨hok, hr, hw⟩
  have ha := hok.2.2.1
  have hr' := (engineRoom_iff c .caravan 1).mpr hr
  refine (if_neg (not_not.mpr ha)).trans ((if_neg (mt (xsend_checks ha).mp (not_not.mpr hok))).trans ?_)
  have hw' : c.blockedOn (c.engineOctets (c.xsendOp (c.s.releaseBy c.r .die))) = false := by rwa [engineOctets_xsend c _ c.s0]
  simp only [xsend_offset]
  exact (if_neg (Bool.eq_false_iff.mp hw')).trans (if_neg (by rw [hr']; exact Bool.false_ne_true))

theorem xsend_raises : Raises .xsend false .xsend (fun c => (c.levelAddr (c.f.sub != 1) c.f.sa).toNat % 16 = 0 ∧ ¬ c.XsendOk) 0x02 0
    (fun _ => 0) (fun _ => 0) := by
  refine raises_of (fun _ _ => rfl) ?_
  rintro c ⟨ha, hn⟩
  exact (if_neg (not_not.mpr ha)).trans (if_pos ((xsend_checks ha).mpr hn))

/-! ## `wload` (R241, R265, R290) -/

theorem ownedOctet_eq {k : Core} {t : Team} {n : Nat} {b : Fin 64} (hn : n = b.val) (h : k.octets[b.val / 8].owner = some t.uid) :
    k.ownedOctet t n = some (Fin.ofNat 8 (b.val / 8)) := by
  subst hn
  have e : (⟨b.val / 8, by omega⟩ : Fin 8) = Fin.ofNat 8 (b.val / 8) := Fin.ext (by simp; omega)
  simp only [Core.ownedOctet, b.isLt, dif_pos]
  rw [if_pos (by simpa using h), e]

theorem wload_raises_src : Raises .wload false .wload (fun c => c.xfSrc.toNat % 64 ≠ 0) 0x20 0 (fun c => c.xfSrc) (fun _ => 0) :=
  raises_of (fun _ _ => rfl) fun _ h => (if_pos h).trans (misaligned_first h)

theorem wload_raises_fault (b : Fin 16) (k : Fin 64) (e : AccessDetail) : Raises .wload false .wload (fun c => c.Arrives b ∧
      c.bLevel.toNat = k.val ∧ c.xfSrc.toNat % 64 = 0 ∧ c.wloadFault c.xfSrc = some e ∧
      (c.s0.core c.r.die c.r.core).octets[k.val / 8].owner = some c.t.uid)
    0x21 e.code (fun c => c.xfSrc) (fun _ => 0) := by
  refine raises_of (fun _ _ => rfl) ?_
  rintro c ⟨hb, hk, hs, he, ho⟩
  refine (if_neg (not_not.mpr hs)).trans ?_
  simp only [ownedOctet_eq hk ho, breg?_eq hb, he]

theorem wload_forks (b : Fin 16) (k : Fin 64) : Ends .wload .wload (fun c => c.WloadOk b k ∧ c.HasRoom .caravan 1 ∧
      (∀ id, c.g.hold ≠ some (.wload id)) ∧ c.blockedOn [Fin.ofNat 8 (k.val / 8)] = false)
    (fun c => .done ((Ctx.forkAs { c with s := c.walked [c.xfSrc] } c.s.uid .die b (.wload k) c.xfSrc 0 17408).modCore c.r.die c.r.core
      (fun x => { x with seq := x.seq ++ [seqItem c.s.uid (.wload k)] })) .noResult) := by
  refine ends_of (fun _ _ => rfl) ?_
  rintro c ⟨⟨hb, hk, hs, he, ho⟩, hr, hh, hw⟩
  have hr' := (engineRoom_iff c .caravan 1).mpr hr
  have hbank : Fin.ofNat 64 c.bLevel.toNat = k := by rw [hk]; exact Fin.ofNat_val_eq_self k
  refine (if_neg (not_not.mpr hs)).trans ?_
  simp only [ownedOctet_eq hk ho, breg?_eq hb, he, hw, hr', hbank, Bool.false_eq_true, if_false, if_true]
  rfl

theorem wload_queues (b : Fin 16) (k : Fin 64) : Ends .wload .wload (fun c => c.WloadOk b k ∧ ¬ c.HasRoom .caravan 1 ∧
      (∀ id, c.g.hold ≠ some (.wload id)) ∧ c.blockedOn [Fin.ofNat 8 (k.val / 8)] = false)
    (fun c => .holdWith ({ c.s0 with uid := c.s0.uid + 1 }.modCore c.r.die c.r.core
      (fun x => { x with seq := x.seq ++ [seqItem c.s0.uid (.wload k)] })) (.wload c.s0.uid)) := by
  refine ends_of (fun _ _ => rfl) ?_
  rintro c ⟨⟨hb, hk, hs, he, ho⟩, hr, hh, hw⟩
  have hr' : c.s0.dies[c.r.die].engineRoom .caravan c.cls 1 = false := Bool.eq_false_iff.mpr (mt (engineRoom_iff c .caravan 1).mp hr)
  have hbank : Fin.ofNat 64 c.bLevel.toNat = k := by rw [hk]; exact Fin.ofNat_val_eq_self k
  refine (if_neg (not_not.mpr hs)).trans ?_
  simp only [ownedOctet_eq hk ho, breg?_eq hb, he, hw, hr', hbank, Bool.false_eq_true, if_false]

theorem wload_resumes (b : Fin 16) (k : Fin 64) (id : Nat) : Ends .wload .wload
    (fun c => c.WloadOk b k ∧ c.HasRoom .caravan 1 ∧ c.g.hold = some (.wload id))
    (fun c => .done (Ctx.forkAs { c with s := c.walked [c.xfSrc] } id .die b (.wload k) c.xfSrc 0 17408) .noResult) := by
  refine ends_of (fun _ _ => rfl) ?_
  rintro c ⟨⟨hb, hk, hs, he, ho⟩, hr, hh⟩
  have hr' := (engineRoom_iff c .caravan 1).mpr hr
  have hbank : Fin.ofNat 64 c.bLevel.toNat = k := by rw [hk]; exact Fin.ofNat_val_eq_self k
  refine (if_neg (not_not.mpr hs)).trans ?_
  simp only [ownedOctet_eq hk ho, breg?_eq hb, he, hr', hbank, hh, if_true]
  rfl

/-- Settles O35: each row by the checks that it passes and the first that fails. -/
theorem engineIssues : Obligations.EngineIssues :=
  ⟨⟨cpy_forks, cpy_arrives, xform_forks, seal_forks, coll_forks, xsend_forks,
      fun b k => ⟨wload_forks b k, wload_queues b k, wload_resumes b k⟩, cpyt_forks⟩,
    ⟨cpy_holds, cpy_waits, cpyt_holds, blockedOn_iff⟩,
    cpy_raises_src, cpy_raises_dst, cpy_raises_len, cpy_raises_octets, cpy_raises_breg, xform_raises_src, xform_raises_breg, seal_raises,
    xsend_raises, cpyt_raises, wload_raises_src, wload_raises_fault, coll_raises⟩

end Sys2Proof.Machine.Storage
end

section
/-! PROOF. The bank rows: slots, feeds, drains, clears and counters (spec 03 R89, spec 10 R252, R257 to R259, R265, R271 to R273). -/

namespace Sys2Proof.Machine.Storage

set_option Elab.async false

/-! ## The octet of a bank row (R252) -/

theorem octetFault_none {c : Ctx} {o : Nat} (h : c.Computes o) : c.octetFault o = none := by
  obtain ⟨ho, hown, hm⟩ := h
  simp [Ctx.octetFault, Core.octetMode, ho, hown, hm]

theorem octetFault_foreign {c : Ctx} {o : Nat} (h : ((c.s0.core c.r.die c.r.core).octets[o]?).map Octet.owner ≠ some (some c.t.uid)) :
    c.octetFault o = some c.illegal := by
  unfold Ctx.octetFault Core.octetMode
  by_cases ho : o < 8
  · have hn : (c.s0.core c.r.die c.r.core).octets[o].owner ≠ some c.t.uid := by simpa [ho] using h
    simp [ho, hn]
  · simp [ho]

theorem octetFault_storage {c : Ctx} {o : Fin 8} (h : (c.s0.core c.r.die c.r.core).octets[o].owner = some c.t.uid)
    (hm : (c.s0.core c.r.die c.r.core).octets[o].mode = .storage) : c.octetFault o.val = some (c.trap 0x23 0 0) := by
  have h' : (c.s0.core c.r.die c.r.core).octets[o.val].owner = some c.t.uid := h
  have hm' : (c.s0.core c.r.die c.r.core).octets[o.val].mode = .storage := hm
  simp [Ctx.octetFault, Core.octetMode, h', hm']

theorem accBank_eq (c : Ctx) : c.accBank = c.bankOf := by
  have h : (c.f.imm.extractLsb' 0 6).toNat = c.f.imm.toNat % 64 := by simp [BitVec.extractLsb'_toNat]
  rw [Ctx.accBank, Ctx.bankOf, h]

theorem octetOf_eq (b : Fin 64) : octetOf b = Fin.ofNat 8 (b.val / 8) := Fin.ext (by simp [octetOf]; omega)

/-! ## `bcfg` (R257) -/

theorem exec_bcfg (f : Fields) (s : State) (c : Ctx) (n : Fin 32) (x : Entry) (u : State) (bs : List Byte) (hr : Ready .bcfg false f s c)
    (hn : c.aLevel.toNat = n.val) (ho : c.Computes (n.val / 4)) (hq : c.queuedOn [Fin.ofNat 8 (n.val / 4)] = false)
    (he : (c.go .bcfg).readEntry = .ok (u, bs)) (hx : parseEntry bs = some x) :
    exec (.bcfg f) s = .next (c.settle (.done (u.modCore c.r.die c.r.core (fun k => { k with table := k.table.set n ⟨some x, false⟩ }))
      .noResult)) := by
  refine issue_ends hr ?_
  have hn' : (c.go .bcfg).aLevel.toNat = n.val := hn
  have ho' : (c.go .bcfg).octetFault (n.val / 4) = none := octetFault_none (c := c.go .bcfg) ho
  have hq' : (c.go .bcfg).queuedOn [slotOctet n.val] = false := hq
  have hlt : ¬ 31 < n.val := by omega
  simp only [hn', if_neg hlt, ho', hq', he, hx, Bool.false_eq_true, if_false, Core.setSlot, Ctx.go_r, Fin.ofNat_val_eq_self]

theorem readEntry_spad (c : Ctx) (h1 : c.f.sub = 1) (ha : c.entryAddr.toNat % 64 = 0)
    (hf : ∀ a ∈ span c.entryAddr.toNat 64, (c.s.core c.r.die c.r.core).spadFault c.t a = none)
    (hp : (c.s.core c.r.die c.r.core).spadPoisoned c.t c.entryAddr.toNat 64 = false) :
    c.readEntry = .ok (c.s, (c.s.core c.r.die c.r.core).spadRead c.t c.entryAddr.toNat 64) := by
  have h1' : (c.f.sub == 1) = true := by simpa using h1
  simp only [Ctx.readEntry, ha, ne_eq, not_true_eq_false, if_false, h1', if_true, List.findSome?_eq_none_iff.mpr hf, hp, Bool.false_eq_true]

theorem readEntry_global (c : Ctx) (x : Translated) (h1 : c.f.sub ≠ 1) (ha : c.entryAddr.toNat % 64 = 0)
    (ht : c.translate c.entryAddr .read = .ok x) (u : State) (bs : List Byte) (hb : c.readBytes c.entryAddr x 64 = (u, some bs)) :
    c.readEntry = .ok (u, bs) := by
  have h1' : (c.f.sub == 1) = false := by simpa using h1
  simp only [Ctx.readEntry, ha, ne_eq, not_true_eq_false, if_false, h1', Bool.false_eq_true, ht, hb]

theorem bcfg_raises : Raises .bcfg false .bcfg (fun c => 31 < c.aLevel.toNat) 0x02 0 (fun _ => 0) (fun _ => 0) :=
  raises_of (fun _ _ => rfl) fun _ h => if_pos h

/-! ## `bfeed` (R258, R259) -/

theorem mem_mcastOctets {x : Byte} {o : Fin 8} : o ∈ mcastOctets x ↔ x.getLsbD o.val = true := by simp [mcastOctets]

theorem exec_bfeed (f : Fields) (s : State) (c : Ctx) (hr : Ready .bfeed false f s c)
    (ho : ∀ o : Fin 8, f.mcast.getLsbD o.val = true → c.Computes o.val) :
    let u := (c.go .bfeed).s.modCore c.r.die c.r.core (fun k => k.pushRows c.r.slot c.feedRow (mcastOctets f.mcast))
    let rest := (mcastOctets f.mcast).filter (fun o => decide (64 ≤ (s.core c.r.die c.r.core).octets[o].feed.length))
    (rest = [] → exec (.bfeed f) s = .next (c.settle (.done u .noResult))) ∧
    (rest ≠ [] → exec (.bfeed f) s = .next (c.settle (.holdWith u (.feed rest c.feedRow)))) := by
  obtain ⟨rfl, rfl⟩ := ready_eqs hr
  have hf : (mcastOctets c.f.mcast).findSome? (fun o => (c.go .bfeed).octetFault o.val) = none :=
    List.findSome?_eq_none_iff.mpr fun o hm => octetFault_none (c := c.go .bfeed) (ho o (mem_mcastOctets.mp hm))
  have hroom : (fun o : Fin 8 => !(c.s0.core c.r.die c.r.core).feedRoom o) =
      fun o => decide (64 ≤ (c.s0.core c.r.die c.r.core).octets[o].feed.length) := by
    funext o; simp [Core.feedRoom, ← decide_not]
  refine ⟨fun h => issue_ends hr ?_, fun h => issue_ends hr ?_⟩
  · simp only [hf, Ctx.go_s0, Ctx.go_r, Ctx.go_f, hroom]
    exact if_pos (List.isEmpty_iff.mpr h)
  · simp only [hf, Ctx.go_s0, Ctx.go_r, Ctx.go_f, hroom]
    exact if_neg (mt List.isEmpty_iff.mp h)

/-- The feed of an octet once rows have been pushed to octets that differ. -/
theorem foldl_pushRow_feed (slot : SlotId) (row : ActRow) (o : Fin 8) {os : List (Fin 8)} (hn : os.Nodup) (k : Core) :
    ((os.foldl (fun k o => k.pushRow slot row o) k).octets[o]).feed =
      if o ∈ os then (k.octets[o]).feed ++ [⟨slot, row⟩] else (k.octets[o]).feed := by
  induction os generalizing k with
  | nil => simp
  | cons p os ih =>
    obtain ⟨hp, hn⟩ := List.nodup_cons.mp hn
    rw [List.foldl_cons, ih hn]
    by_cases e : p = o
    · subst e; simp [hp, Core.pushRow]
    · have e' : p.val ≠ o.val := fun h => e (Fin.ext h)
      simp [Core.pushRow, e', Ne.symm e]

theorem pushRows_feed (k : Core) (slot : SlotId) (row : ActRow) (os : List (Fin 8)) (o : Fin 8) (hn : os.Nodup) :
    ((k.pushRows slot row os).octets[o]).feed =
      if o ∈ os ∧ (k.octets[o]).feed.length < 64 then (k.octets[o]).feed ++ [⟨slot, row⟩] else (k.octets[o]).feed := by
  rw [Core.pushRows, foldl_pushRow_feed slot row o (hn.filter _)]
  simp [Core.feedRoom]

/-! ## `bdrain` (R271) -/

theorem exec_bdrain (f : Fields) (s : State) (c : Ctx) (hr : Ready .bdrain false f s c) (ho : c.Computes (c.bankOf.val / 8))
    (hq : ∀ n, f.dst = .q n → drainW f.sub ≤ (c.g.queue n).depth)
    (ht : ∀ n, f.dst = .t n → 128 * drainW f.sub * ((if f.sx = .none then 0 else c.cLevel.toNat % 8) + 1) ≤ 1024) :
    (c.blockedOn [Fin.ofNat 8 (c.bankOf.val / 8)] = false →
      exec (.bdrain f) s = .next (c.settle (c.launchFlight ((c.go .bdrain).s.modCore c.r.die c.r.core (fun k =>
          { k with seq := k.seq ++ [seqItem s.uid (.drain c.r c.bankOf (rowOf f.sa))] }))
        { c.flight false (drainW f.sub) 0 0 (lanes fun _ => 0) with
          drain := some ⟨c.bankOf, rowOf f.sa, f.sub, if f.sx = .none then 0 else c.cLevel.toNat % 8, none⟩ }))) ∧
    (c.blockedOn [Fin.ofNat 8 (c.bankOf.val / 8)] = true → exec (.bdrain f) s = .next (c.settle (.holdWith { s with uid := s.uid + 1 }
      (.busy c.busyPlace [Fin.ofNat 8 (c.bankOf.val / 8)])))) := by
  obtain ⟨rfl, rfl⟩ := ready_eqs hr
  have hf : (c.go .bdrain).octetFault (c.bankOf.val / 8) = none := octetFault_none (c := c.go .bdrain) ho
  have hb : (c.go .bdrain).accBank = c.bankOf := accBank_eq _
  have key : exec (.bdrain c.f) c.s0 = .next (c.settle (
      if c.blockedOn [Fin.ofNat 8 (c.bankOf.val / 8)] then
        .holdWith { c.s0 with uid := c.s0.uid + 1 } (.busy c.busyPlace [Fin.ofNat 8 (c.bankOf.val / 8)])
      else c.launchFlight ((c.go .bdrain).s.modCore c.r.die c.r.core (fun k =>
          { k with seq := k.seq ++ [seqItem c.s0.uid (.drain c.r c.bankOf (rowOf c.f.sa))] }))
        { c.flight false (drainW c.f.sub) 0 0 (lanes fun _ => 0) with
          drain := some ⟨c.bankOf, rowOf c.f.sa, c.f.sub, if c.f.sx = .none then 0 else c.cLevel.toNat % 8, none⟩ })) := by
    refine issue_ends hr ?_
    simp only [hb, hf, octetOf_eq, Ctx.drainQuarter, Ctx.drainWords, beq_iff_eq]
    refine if_neg ?_
    split
    · rename_i n e; exact mt of_decide_eq_true (Nat.not_lt.mpr (hq n e))
    · rename_i n e; exact mt of_decide_eq_true (Nat.not_lt.mpr (ht n e))
    · exact Bool.false_ne_true
  exact ⟨fun h => key.trans (by rw [h]; rfl), fun h => key.trans (by rw [h]; rfl)⟩

theorem bdrain_raises (n : BitVec 4) : Raises .bdrain false .bdrain
    (fun c => c.Computes (c.bankOf.val / 8) ∧ c.f.dst = .q n ∧ (c.g.queue n).depth < drainW c.f.sub) 0x02 0 (fun _ => 0) (fun _ => 0) := by
  refine raises_of (fun _ _ => rfl) ?_
  rintro c ⟨ho, hd, hw⟩
  simp only [accBank_eq, octetFault_none ho, hd, Ctx.drainWords, hw, decide_true, if_true]
  rfl

/-! ## `bclr` (R272) -/

theorem exec_bclr (f : Fields) (s : State) (c : Ctx) (hr : Ready .bclr false f s c) (ho : c.Computes (c.bankOf.val / 8))
    (h0 : f.sub = 1 → rowOf f.dst = 0) (hq : c.queuedOn [Fin.ofNat 8 (c.bankOf.val / 8)] = false) :
    exec (.bclr f) s = .next (c.settle (.done ({ (c.go .bclr).s with uid := s.uid + 1 }.modCore c.r.die c.r.core (fun k => Core.settleClears
      { k with seq := k.seq ++ [seqItem s.uid (.clr c.bankOf (if f.sub = 1 then List.finRange 8 else [rowOf f.dst]))] })) .noResult)) := by
  obtain ⟨rfl, rfl⟩ := ready_eqs hr
  have hf : (c.go .bclr).octetFault (c.bankOf.val / 8) = none := octetFault_none (c := c.go .bclr) ho
  have hb : (c.go .bclr).accBank = c.bankOf := accBank_eq _
  have hq' : (c.go .bclr).queuedOn [Fin.ofNat 8 (c.bankOf.val / 8)] = false := hq
  have h0' : ¬ (c.f.sub == 1 && rowOf c.f.dst != 0) = true := by simpa using h0
  refine issue_ends hr ?_
  simp only [hb, hf, Ctx.go_f, if_neg h0', octetOf_eq, hq', Bool.false_eq_true, if_false, beq_iff_eq, Core.enqueue]
  rfl

theorem bclr_raises : Raises .bclr false .bclr (fun c => c.Computes (c.bankOf.val / 8) ∧ c.f.sub = 1 ∧ rowOf c.f.dst ≠ 0) 0x02 0
    (fun _ => 0) (fun _ => 0) := by
  refine raises_of (fun _ _ => rfl) ?_
  rintro c ⟨ho, h1, h0⟩
  simp only [accBank_eq, octetFault_none ho]
  exact if_pos (by simp [h1, h0])

/-! ## `bstat` (R273) -/

theorem counter_eq (y : Bank) (n : BitVec 2) (col : Nat) :
    y.counter n.toNat col = if n = 0 then (y.idle[col]?).getD 0 else if n = 1 then y.busy else if n = 2 then y.lim else y.skip := by
  have h : n = 0 ∨ n = 1 ∨ n = 2 ∨ n = 3 := by revert n; decide
  rcases h with rfl | rfl | rfl | rfl <;> rfl

theorem clearCounter_spec (y : Bank) (n col : Nat) (hn : n < 4) : (y.clearCounter n col).counter n col = 0 ∧
    (y.clearCounter n col).mem = y.mem ∧ (y.clearCounter n col).acc = y.acc ∧
    ∀ m, m < 4 → m ≠ n → (y.clearCounter n col).counter m col = y.counter m col := by
  have other : ∀ m, m < 4 → m ≠ n → (y.clearCounter n col).counter m col = y.counter m col := fun m hm hne => by
    interval_cases n <;> interval_cases m <;> simp_all [Bank.clearCounter, Bank.counter]
  interval_cases n
  · refine ⟨?_, rfl, rfl, other⟩
    by_cases h : col < 4 <;> simp [Bank.clearCounter, Bank.counter, h]
  · exact ⟨rfl, rfl, rfl, other⟩
  · exact ⟨rfl, rfl, rfl, other⟩
  · exact ⟨rfl, rfl, rfl, other⟩

/-- The column of a counter of `bstat` (R273, log 46). -/
theorem stat_column (c : Ctx) : (if (c.f.sub.extractLsb' 0 2).toNat = 0 ∧ c.f.sb ≠ .none then c.bLevel.toNat else 0) =
    if c.f.sub.extractLsb' 0 2 = 0 ∧ c.f.sb ≠ .none then c.bLevel.toNat else 0 := by
  have h : (c.f.sub.extractLsb' 0 2).toNat = 0 ↔ c.f.sub.extractLsb' 0 2 = 0 := (BitVec.toNat_inj (y := 0)).trans Iff.rfl
  simp only [h]

theorem exec_bstat (b : Fin 64) (f : Fields) (s : State) (c : Ctx) (hr : Ready .bstat false f s c) (hb : c.aLevel.toNat = b.val)
    (ho : c.Computes (b.val / 8)) :
    let x := (s.core c.r.die c.r.core).banks[b]
    let n := f.sub.extractLsb' 0 2
    let col := if n = 0 ∧ f.sb ≠ .none then c.bLevel.toNat else 0
    (if x.lastI8 then 1 else 3) ≥ col →
    let v : Word := if n = 0 then (x.idle[col]?).getD 0 else if n = 1 then x.busy else if n = 2 then x.lim else x.skip
    (f.sub.getLsbD 2 = false → exec (.bstat f) s = .next (c.after32 .bstat (fun _ => v))) ∧
    (f.sub.getLsbD 2 = true → exec (.bstat f) s = .next (c.settle (Ctx.result32 { c.go .bstat with
      s := (c.go .bstat).s.modCore c.r.die c.r.core (fun k => k.modBank b (fun y => y.clearCounter n.toNat col)) } (fun _ => v)))) := by
  obtain ⟨rfl, rfl⟩ := ready_eqs hr
  intro x n col hcol v
  have hf : (c.go .bstat).octetFault (b.val / 8) = none := octetFault_none (c := c.go .bstat) ho
  have hb' : (c.go .bstat).aLevel.toNat = b.val := hb
  have hv : x.counter n.toNat col = v := counter_eq x n col
  have key : exec (.bstat c.f) c.s0 = .next (c.settle (Ctx.result32 { c.go .bstat with
      s := if c.f.sub.getLsbD 2 then (c.go .bstat).s.modCore c.r.die c.r.core (fun k => k.modBank b (fun y => y.clearCounter n.toNat col))
        else (c.go .bstat).s } (fun _ => v))) := by
    refine issue_ends hr ?_
    have e := stat_column (c.go .bstat)
    simp only [e, hb', hf, Fin.ofNat_val_eq_self]
    refine (if_neg (Nat.not_lt.mpr hcol)).trans ?_
    rw [← hv]
    rfl
  refine ⟨fun h => ?_, fun h => ?_⟩
  · rw [key, h]
    exact congrArg _ (c.settle_result32 .bstat _)
  · rw [key, h]
    rfl

theorem bstat_raises (b : Fin 64) : Raises .bstat false .bstat (fun c => c.aLevel.toNat = b.val ∧ c.Computes (b.val / 8) ∧
    c.f.sub.extractLsb' 0 2 = 0 ∧ c.f.sb ≠ .none ∧ (if ((c.s0.core c.r.die c.r.core).banks[b]).lastI8 then 1 else 3) < c.bLevel.toNat) 0x02 0
    (fun _ => 0) (fun _ => 0) := by
  refine raises_of (fun _ _ => rfl) ?_
  rintro c ⟨hb, ho, h0, hs, hc⟩
  have e := (stat_column c).trans (if_pos ⟨h0, hs⟩)
  simp only [hb, octetFault_none ho, e, Fin.ofNat_val_eq_self]
  exact if_pos hc

/-! ## The octets that the bank rows refuse (R252) -/

section
variable {op : Op} {row : Fields → Instr} {body : Ctx → Act} {q : Ctx → Nat → Prop}

/-- A row that checks an octet first raises the two traps of R252. -/
theorem octet_traps (hx : ∀ f s, exec (row f) s = issue op f s body) (h : ∀ c o a, q c o → c.octetFault o = some a → body c = a)
    (hq : ∀ c o, q c o → q (c.go op) o) :
    (∀ o : Nat, Raises op false row (fun c => q c o ∧
      ((c.s0.core c.r.die c.r.core).octets[o]?).map Octet.owner ≠ some (some c.t.uid)) 0x02 0 (fun _ => 0) (fun _ => 0)) ∧
    (∀ o : Fin 8, Raises op false row (fun c => q c o.val ∧ (c.s0.core c.r.die c.r.core).octets[o].owner = some c.t.uid ∧
      (c.s0.core c.r.die c.r.core).octets[o].mode = .storage) 0x23 0 (fun _ => 0) (fun _ => 0)) :=
  ⟨fun o => raises_of hx (fun c ⟨hc, hn⟩ => h c o _ hc (octetFault_foreign hn)) (fun c ⟨hc, hn⟩ => ⟨hq c o hc, hn⟩),
    fun o => raises_of hx (fun c ⟨hc, hu, hm⟩ => h c o _ hc (octetFault_storage hu hm)) (fun c ⟨hc, hn⟩ => ⟨hq c o hc, hn⟩)⟩

end

theorem bankRow_traps : ∀ p ∈ ([(.bcfg, .bcfg, fun c o => c.aLevel.toNat ≤ 31 ∧ c.aLevel.toNat / 4 = o),
      (.bdrain, .bdrain, fun c o => c.bankOf.val / 8 = o), (.bclr, .bclr, fun c o => c.bankOf.val / 8 = o),
      (.bstat, .bstat, fun c o => c.aLevel.toNat / 8 = o),
      (.bfeed, .bfeed, fun c o => c.f.mcast.getLsbD o = true ∧ ∀ j, j < o → c.f.mcast.getLsbD j = true → c.Computes j)] :
      List (Op × (Fields → Instr) × (Ctx → Nat → Prop))),
    (∀ o : Nat, Raises p.1 false p.2.1 (fun c => p.2.2 c o ∧
      ((c.s0.core c.r.die c.r.core).octets[o]?).map Octet.owner ≠ some (some c.t.uid)) 0x02 0 (fun _ => 0) (fun _ => 0)) ∧
    (∀ o : Fin 8, Raises p.1 false p.2.1 (fun c => p.2.2 c o.val ∧ (c.s0.core c.r.die c.r.core).octets[o].owner = some c.t.uid ∧
      (c.s0.core c.r.die c.r.core).octets[o].mode = .storage) 0x23 0 (fun _ => 0) (fun _ => 0)) := by
  intro p hp
  simp only [List.mem_cons, List.not_mem_nil, or_false] at hp
  rcases hp with rfl | rfl | rfl | rfl | rfl
  · refine octet_traps (fun _ _ => rfl) ?_ (fun _ _ h => h)
    rintro c o a ⟨h31, rfl⟩ ha
    simp only [if_neg (Nat.not_lt.mpr h31), ha]
  · refine octet_traps (fun _ _ => rfl) ?_ (fun _ _ h => h)
    rintro c o a rfl ha
    simp only [accBank_eq, ha]
  · refine octet_traps (fun _ _ => rfl) ?_ (fun _ _ h => h)
    rintro c o a rfl ha
    simp only [accBank_eq, ha]
  · refine octet_traps (fun _ _ => rfl) ?_ (fun _ _ h => h)
    rintro c o a rfl ha
    simp only [ha]
  · refine octet_traps (fun _ _ => rfl) ?_ (fun _ _ h => h)
    rintro c o a ⟨hm, hlow⟩ ha
    have ho : o < 8 := BitVec.lt_of_getLsbD hm
    have hfirst : (mcastOctets c.f.mcast).findSome? (fun o => c.octetFault o.val) = some a :=
      findSome?_first (i := ⟨o, ho⟩) ((List.pairwise_lt_finRange 8).filter _) (mem_mcastOctets.mpr hm) ha
        fun j hj hlt => octetFault_none (hlow j hlt (mem_mcastOctets.mp hj))
    simp only [hfirst]

/-- Settles O39: each row by the octet that it names, what it reads, and where its effect takes its place. -/
theorem bankRows : Obligations.BankRows :=
  ⟨⟨exec_bcfg, readEntry_spad, readEntry_global, bcfg_raises⟩, ⟨exec_bfeed, pushRows_feed⟩, ⟨exec_bdrain, bdrain_raises⟩,
    ⟨exec_bclr, bclr_raises⟩, ⟨exec_bstat, clearCounter_spec, bstat_raises⟩, bankRow_traps⟩

end Sys2Proof.Machine.Storage
end

section
/-! PROOF. The bank multiplies of one group and of a gang (spec 03 R89, spec 10 R260, R264, R265, spec 12 R289). -/

namespace Sys2Proof.Machine.Storage

set_option Elab.async false

/-! ## The checks of R260 -/

theorem slotEntry_eq {c : Ctx} {n : Nat} {e : Entry} (h : c.SlotHolds n e) : c.slotEntry n = .ok (e, false) := by
  obtain ⟨hn, ho, ht⟩ := h
  simp [Ctx.slotEntry, hn, octetFault_none ho, ht]

theorem chain_computes {c : Ctx} {e : Entry} (h : ∀ b ∈ e.chain, c.Computes (b.val / 8)) :
    e.chain.findSome? (fun b => c.octetFault (b.val / 8)) = none :=
  List.findSome?_eq_none_iff.mpr fun b hb => octetFault_none (h b hb)

/-- The chain, ACCBANK and the rows of a group that brings a row. -/
theorem chainCheck_rows {c : Ctx} {e : Entry} {rows : List ActRow} (hc : ∀ b ∈ e.chain, c.Computes (b.val / 8)) (hb : e.accBank = c.bankOf)
    (hr : (c.s0.core c.r.die c.r.core).takeRows c.r.slot e = some rows) : c.chainCheck e c.bankOf true = .ok rows := by
  simp [Ctx.chainCheck, chain_computes hc, hb, hr]

/-- The chain and ACCBANK, with the rows when the group brings one. -/
theorem chainCheck_ok {c : Ctx} {e : Entry} {w : Bool} (hc : ∀ b ∈ e.chain, c.Computes (b.val / 8)) (hb : e.accBank = c.bankOf)
    (hr : w = true → ∃ rows, (c.s0.core c.r.die c.r.core).takeRows c.r.slot e = some rows) : ∃ rows, c.chainCheck e c.bankOf w = .ok rows := by
  cases w with
  | true =>
    obtain ⟨rows, h⟩ := hr rfl
    exact ⟨rows, chainCheck_rows hc hb h⟩
  | false => exact ⟨[], by simp [Ctx.chainCheck, chain_computes hc, hb]⟩

/-! ## Room in the sequencer (R260, R265) -/

theorem macRoom_iff (k : Core) : k.macRoom = true ↔ k.TakesMac := by
  simp only [Core.macRoom, Bool.and_eq_true, List.all_eq_true, decide_eq_true_eq]
  rfl

theorem macRoom_full {k : Core} (h : k.Full) : k.macRoom = false := by
  refine Bool.eq_false_iff.mpr fun hr => ?_
  obtain ⟨ha, hl⟩ := (macRoom_iff k).mp hr
  rcases h with ⟨x, hx, hf⟩ | h
  · exact absurd (ha x hx) (by simp [hf])
  · exact absurd hl (Nat.not_lt.mpr h)

/-! ## A multiply of one group (R260) -/

/-- What `bmac` and `bmacs` of one group do when every check passes. -/
theorem bmacOne_eq {c : Ctx} {e : Entry} {rows : List ActRow} (sparse : Bool) (h : c.Multiplies e rows) : c.bmacOne sparse =
    if c.blockedOn (c.macOctets c.aLevel.toNat (c.oneMac e sparse rows)) then
      .holdWith { c.s0 with uid := c.s0.uid + 1 } (.busy c.busyPlace (c.macOctets c.aLevel.toNat (c.oneMac e sparse rows)))
    else if (c.s0.core c.r.die c.r.core).macRoom then
      .done ((if c.f.ru then c.s else c.s.modCore c.r.die c.r.core (fun k => k.consumeRows c.r.slot e)).acceptMac c.r.die
        c.r.core (c.oneMac e sparse rows)) .noResult
    else .holdWith (c.s.queueMac c.r.die c.r.core (c.oneMac e sparse rows)) (.bank c.s.uid (!c.f.ru)) := by
  obtain ⟨ho, hs, hc, hb, hr⟩ := h
  simp only [Ctx.bmacOne, accBank_eq, octetFault_none ho, slotEntry_eq hs, chainCheck_rows hc hb hr]
  cases (c.s0.core c.r.die c.r.core).macRoom <;> rfl

section
variable {op : Op} {row : Fields → Instr} {sparse : Bool}

/-- `bmac` or `bmacs`: the row, with its sparsity, by the form of its issue (R260, R264). -/
def MacRow (op : Op) (row : Fields → Instr) (sparse : Bool) : Prop := ∀ f s, exec (row f) s =
  issueWith op (f.sub == 1) f s fun c => if c.f.sub == 1 then c.bmacGang sparse else c.bmacOne sparse

theorem mac_ends {p : Ctx → Prop} {a : Ctx → Act} (hx : MacRow op row sparse) (h : ∀ c, p c → c.bmacOne sparse = a c)
    (hp : ∀ c, p c → p (c.go op) := by exact fun _ h => h) : Ends op row (fun c => c.f.sub ≠ 1 ∧ p c) a := by
  rintro f s c hr ⟨h1, hc⟩
  obtain ⟨-, rfl⟩ := ready_eqs hr
  have h1' : (c.f.sub == 1) = false := by simpa using h1
  rw [hx, h1', issueWith_ready hr, Ctx.go_f, h1', h _ (hp c hc)]
  rfl

theorem exec_gang (hx : MacRow op row sparse) {f : Fields} {s : State} {c : Ctx} (hr : Ready op true f s c) (h1 : c.f.sub = 1) :
    exec (row f) s = .next (c.settle ((c.go op).bmacGang sparse)) := by
  obtain ⟨-, rfl⟩ := ready_eqs hr
  have h1' : (c.f.sub == 1) = true := by simpa using h1
  rw [hx, h1', issueWith_ready hr, Ctx.go_f, h1']
  rfl

theorem mac_ends_together {p : Ctx → Prop} {a : Ctx → Act} (hx : MacRow op row sparse) (h : ∀ c, p c → c.bmacGang sparse = a c)
    (hp : ∀ c, p c → p (c.go op) := by exact fun _ h => h) : EndsTogether op row (fun c => c.f.sub = 1 ∧ p c) a := by
  rintro f s c hr ⟨h1, hc⟩
  rw [exec_gang hx hr h1, h _ (hp c hc)]

/-- A multiply of one group takes its place, waits for the sequencer, or waits for an octet (R89, R260, R265). -/
theorem one_group (hx : MacRow op row sparse) (e : Entry) (rows : List ActRow) :
    Ends op row (fun c => c.f.sub ≠ 1 ∧ c.Multiplies e rows ∧ c.blockedOn (c.macOctets c.aLevel.toNat (c.oneMac e sparse rows)) = false ∧
        (c.s0.core c.r.die c.r.core).TakesMac)
      (fun c => .done ((if c.f.ru then c.s else c.s.modCore c.r.die c.r.core (fun k => k.consumeRows c.r.slot e)).acceptMac c.r.die
        c.r.core (c.oneMac e sparse rows)) .noResult) ∧
    Ends op row (fun c => c.f.sub ≠ 1 ∧ c.Multiplies e rows ∧ c.blockedOn (c.macOctets c.aLevel.toNat (c.oneMac e sparse rows)) = false ∧
        (c.s0.core c.r.die c.r.core).Full)
      (fun c => .holdWith (c.s.queueMac c.r.die c.r.core (c.oneMac e sparse rows)) (.bank c.s.uid (!c.f.ru))) ∧
    Ends op row (fun c => c.f.sub ≠ 1 ∧ c.Multiplies e rows ∧ c.blockedOn (c.macOctets c.aLevel.toNat (c.oneMac e sparse rows)) = true)
      (fun c => .holdWith { c.s0 with uid := c.s0.uid + 1 } (.busy c.busyPlace (c.macOctets c.aLevel.toNat (c.oneMac e sparse rows)))) := by
  refine ⟨mac_ends hx ?_, mac_ends hx ?_, mac_ends hx ?_⟩
  · rintro c ⟨hm, hw, hk⟩
    rw [bmacOne_eq sparse hm, hw, (macRoom_iff _).mpr hk]
    rfl
  · rintro c ⟨hm, hw, hk⟩
    rw [bmacOne_eq sparse hm, hw, macRoom_full hk]
    rfl
  · rintro c ⟨hm, hw⟩
    rw [bmacOne_eq sparse hm, hw]
    rfl

/-! ## A multiply of a gang (R264) -/

theorem complete_iff (w : GroupWide) : w.complete = true ↔ ∀ l : Lane, inMask w.mask l = true → inMask w.arrived l = true := by
  have hbit : ∀ l : Lane, (w.mask &&& ~~~w.arrived).getLsbD l.val = (inMask w.mask l && !inMask w.arrived l) := fun l => by simp [inMask]
  rw [GroupWide.complete, beq_iff_eq]
  constructor
  · intro h l hm
    have := hbit l
    rw [h, hm] at this
    simpa using this
  · intro h
    refine BitVec.eq_of_getLsbD_eq fun i hi => ?_
    rw [hbit ⟨i, hi⟩]
    cases hm : inMask w.mask ⟨i, hi⟩ with
    | false => simp
    | true => simp [h _ hm]

/-- The operation that the run reaches (R37). -/
theorem arrive_joins {c : Ctx} {mask : Mask} {a : Lane → DWord} {b : Lane → Word} {w : GroupWide} (h : c.Joins mask a b w) :
    c.arrive mask a b = .ok w := by
  obtain ⟨hrun, -, -, ⟨hn, h0, hlive, rfl⟩ | ⟨v, hv, rfl, rfl⟩⟩ := h
  · have hex : (lanesOf mask).any (fun i => c.g.status[i] == .exited) = false :=
      List.any_eq_false.mpr fun i hi => by simpa using hlive i (mem_lanesOf.mp hi)
    have h0' : (mask == 0) = false := by simpa using h0
    have hrun' : (c.run &&& ~~~mask != 0) = false := by simpa using hrun
    simp only [Ctx.arrive, hn, h0', hex, hrun', Bool.false_eq_true, if_false]
  · simp [Ctx.arrive, hv, hrun, mergeLanes, lanes]

theorem gangEnded_eq_false {c : Ctx} (h : ∀ i ∈ c.gangSlots, ∃ g, c.s0.group? ⟨c.r.die, c.r.core, i⟩ = some g ∧ g.ended = false) :
    c.gangEnded = false := by
  refine List.any_eq_false.mpr fun i hi => ?_
  obtain ⟨g, hg, he⟩ := h i hi
  simp [hg, he]

theorem gangEnded_eq_true {c : Ctx} (h : ∃ i ∈ c.gangSlots, ∀ g, c.s0.group? ⟨c.r.die, c.r.core, i⟩ = some g → g.ended = true) :
    c.gangEnded = true := by
  obtain ⟨i, hi, h⟩ := h
  refine List.any_eq_true.mpr ⟨i, hi, ?_⟩
  cases hg : c.s0.group? ⟨c.r.die, c.r.core, i⟩ with
  | none => rfl
  | some g => exact h g hg

/-- What a group that comes to the latch does when it passes the checks of R260. -/
theorem bmacGang_comes {c : Ctx} {w : GroupWide} {e : Entry} (h : c.Comes w e) : c.bmacGang sparse =
    if c.gangEnded then .trap (c.s0.breakLatch c.r.die c.r.core c.t 0x08) { c.info 0x08 0 0 0 with mask := w.arrived }
    else if c.gangSlots.all (fun i => (c.latchWith w).arrivals.any (fun a => a.slot == i)) then
      c.completeGang w (c.latchWith w) e false sparse w.slotValue
    else .placed ((c.withGroup (fun g => g.atLatch w)).modTeam c.r.die c.r.core c.t.uid
      (fun t => { t with latch := some (c.latchWith w) })) .noResult := by
  obtain ⟨hj, hcomp, hg, hl, ho, hs, hc, hb, hr⟩ := h
  have hcheck : ∃ rows, c.chainCheck e c.bankOf (w.contrib != 0) = .ok rows := chainCheck_ok hc hb fun hw => hr (by simpa using hw)
  obtain ⟨rows, hcheck⟩ := hcheck
  have hlatch : (match c.t.latch with | some l => l.pc != c.pc | none => false) = false := by
    split
    · rename_i l h; simp [hl l h]
    · rfl
  simp only [Ctx.bmacGang, arrive_joins hj, (complete_iff w).mpr hcomp, if_true, Ctx.arriveGang, hg, accBank_eq, octetFault_none ho,
    slotEntry_eq hs, hcheck, Bool.not_true, Bool.false_or]
  refine (if_neg (Bool.eq_false_iff.mp hlatch)).trans ?_
  rfl

/-- The run waits at the operation while a named lane is still to come (R37). -/
theorem gang_waits (hx : MacRow op row sparse) (w : GroupWide) :
    EndsTogether op row (fun c => c.f.sub = 1 ∧ c.Joins (c.g.read32 c.f c.f.sx 0) (fun _ => 0) c.a32 w ∧
        ∃ l : Lane, inMask w.mask l = true ∧ inMask w.arrived l = false)
      (fun c => .placed (c.withGroup (fun g =>
        { g.dropClaims with
          gw := w :: g.gw.filter (fun v => v.pc != c.pc)
          status := updLanes g.status c.run (fun _ => .waiting) })) .noResult) := by
  refine mac_ends_together hx ?_
  rintro c ⟨hj, l, hm, ha⟩
  have hcomp : w.complete = false := Bool.eq_false_iff.mpr fun h => by simpa [ha] using (complete_iff w).mp h l hm
  simp only [Ctx.bmacGang, arrive_joins hj, hcomp, Bool.false_eq_true, if_false]
  rfl

/-- A group arrives at the latch while another group of the gang is still to come (R264). -/
theorem gang_arrives (hx : MacRow op row sparse) (w : GroupWide) (e : Entry) :
    EndsTogether op row (fun c => c.f.sub = 1 ∧ c.Rendezvous w e ∧
        ∃ i ∈ c.gangSlots, (c.latchWith w).arrivals.all (fun a => a.slot != i) = true)
      (fun c => .placed ((c.withGroup (fun g => g.atLatch w)).modTeam c.r.die c.r.core c.t.uid
        (fun t => { t with latch := some (c.latchWith w) })) .noResult) := by
  refine mac_ends_together hx ?_
  rintro c ⟨⟨hcome, hlive⟩, i, hi, ha⟩
  have hall : c.gangSlots.all (fun i => (c.latchWith w).arrivals.any (fun a => a.slot == i)) = false := by
    refine List.all_eq_false.mpr ⟨i, hi, ?_⟩
    simpa using ha
  rw [bmacGang_comes hcome, gangEnded_eq_false hlive, hall]
  rfl

/-- A gang of which a group has ended (R289). -/
theorem gang_broken (hx : MacRow op row sparse) (w : GroupWide) (e : Entry) :
    EndsTogether op row (fun c => c.f.sub = 1 ∧ c.Comes w e ∧
        ∃ i ∈ c.gangSlots, ∀ g, c.s0.group? ⟨c.r.die, c.r.core, i⟩ = some g → g.ended = true)
      (fun c => .trap (c.s0.breakLatch c.r.die c.r.core c.t 0x08) { c.info 0x08 0 0 0 with mask := w.arrived }) := by
  refine mac_ends_together hx ?_
  rintro c ⟨hcome, hend⟩
  rw [bmacGang_comes hcome, gangEnded_eq_true hend]
  rfl

/-- What the last group of a gang does (R264). -/
theorem bmacGang_completes {c : Ctx} {w : GroupWide} {e : Entry} (h : c.Completes w e) : c.bmacGang sparse =
    if c.blockedOn (c.macOctets w.slotValue (c.s0.gangOp c.r.die c.r.core c.t.uid (c.latchWith w) e sparse)) then
      .holdWith { c.s0 with uid := c.s0.uid + 1 } (.busy c.busyPlace
        (c.macOctets w.slotValue (c.s0.gangOp c.r.die c.r.core c.t.uid (c.latchWith w) e sparse)))
    else if (c.s0.core c.r.die c.r.core).macRoom then
      .placed (((c.withGroup (fun g => g.atLatch w)).acceptMac c.r.die c.r.core
          (c.s0.gangOp c.r.die c.r.core c.t.uid (c.latchWith w) e sparse)).releaseGang c.r.die c.r.core c.t.uid (c.latchWith w)
        (c.s0.gangOp c.r.die c.r.core c.t.uid (c.latchWith w) e sparse)) .noResult
    else .placed (((c.withGroup (fun g => g.atLatch w)).queueMac c.r.die c.r.core
        (c.s0.gangOp c.r.die c.r.core c.t.uid (c.latchWith w) e sparse)).modTeam c.r.die c.r.core c.t.uid
      (fun t => { t with latch := some { c.latchWith w with pending := some (c.withGroup (fun g => g.atLatch w)).uid } })) .noResult := by
  obtain ⟨⟨hcome, hlive⟩, hall, hsame⟩ := h
  have hall' : c.gangSlots.all (fun i => (c.latchWith w).arrivals.any (fun a => a.slot == i)) = true := List.all_eq_true.mpr hall
  have hsame' : (c.latchWith w).arrivals.any (fun a => a.table != w.slotValue || a.bank != c.bankOf.val) = false := by
    refine List.any_eq_false.mpr fun a ha => ?_
    obtain ⟨ht, hb⟩ := hsame a ha
    simp [ht, hb]
  rw [bmacGang_comes hcome, gangEnded_eq_false hlive, hall']
  simp only [Ctx.completeGang, accBank_eq, hsame', Bool.false_eq_true, if_false, if_true]
  rfl

/-- The last group of a gang makes its operation, which the sequencer accepts or keeps waiting, or waits for an octet (R89, R264, R265). -/
theorem gang_completes (hx : MacRow op row sparse) (w : GroupWide) (e : Entry) :
    EndsTogether op row (fun c => c.f.sub = 1 ∧ c.Completes w e ∧
        c.blockedOn (c.macOctets w.slotValue (c.s0.gangOp c.r.die c.r.core c.t.uid (c.latchWith w) e sparse)) = false ∧
        (c.s0.core c.r.die c.r.core).TakesMac)
      (fun c => .placed (((c.withGroup (fun g => g.atLatch w)).acceptMac c.r.die c.r.core
          (c.s0.gangOp c.r.die c.r.core c.t.uid (c.latchWith w) e sparse)).releaseGang c.r.die c.r.core c.t.uid (c.latchWith w)
        (c.s0.gangOp c.r.die c.r.core c.t.uid (c.latchWith w) e sparse)) .noResult) ∧
    EndsTogether op row (fun c => c.f.sub = 1 ∧ c.Completes w e ∧
        c.blockedOn (c.macOctets w.slotValue (c.s0.gangOp c.r.die c.r.core c.t.uid (c.latchWith w) e sparse)) = false ∧
        (c.s0.core c.r.die c.r.core).Full)
      (fun c => .placed (((c.withGroup (fun g => g.atLatch w)).queueMac c.r.die c.r.core
          (c.s0.gangOp c.r.die c.r.core c.t.uid (c.latchWith w) e sparse)).modTeam c.r.die c.r.core c.t.uid
        (fun t => { t with latch := some { c.latchWith w with pending := some c.s0.uid } })) .noResult) ∧
    EndsTogether op row (fun c => c.f.sub = 1 ∧ c.Completes w e ∧
        c.blockedOn (c.macOctets w.slotValue (c.s0.gangOp c.r.die c.r.core c.t.uid (c.latchWith w) e sparse)) = true)
      (fun c => .holdWith { c.s0 with uid := c.s0.uid + 1 } (.busy c.busyPlace
        (c.macOctets w.slotValue (c.s0.gangOp c.r.die c.r.core c.t.uid (c.latchWith w) e sparse)))) := by
  refine ⟨mac_ends_together hx ?_, ?_, mac_ends_together hx ?_⟩
  · rintro c ⟨hc, hw, hk⟩
    rw [bmacGang_completes hc, hw, (macRoom_iff _).mpr hk]
    rfl
  · rintro f s c hr ⟨h1, hc, hw, hk⟩
    have hc' : (c.go op).Completes w e := hc
    have huid : ((c.go op).withGroup (fun g => g.atLatch w)).uid = c.s0.uid := by simp [Ctx.withGroup, Ctx.go_state]
    rw [exec_gang hx hr h1, bmacGang_completes hc', huid]
    have hw' : (c.go op).blockedOn ((c.go op).macOctets w.slotValue ((c.go op).s0.gangOp (c.go op).r.die (c.go op).r.core (c.go op).t.uid
      ((c.go op).latchWith w) e sparse)) = false := hw
    rw [hw', Ctx.go_s0, Ctx.go_r, macRoom_full hk]
    rfl
  · rintro c ⟨hc, hw⟩
    rw [bmacGang_completes hc, hw]
    rfl

end

/-- Settles O40: each form of the two rows by the checks that it passes, the room of the sequencer and what waits for an octet. -/
theorem multiplies : Obligations.Multiplies := by
  have hrow : ∀ p ∈ ([(.bmac, .bmac, false), (.bmacs, .bmacs, true)] : List (Op × (Fields → Instr) × Bool)), MacRow p.1 p.2.1 p.2.2 := by
    intro p hp
    simp only [List.mem_cons, List.not_mem_nil, or_false] at hp
    rcases hp with rfl | rfl <;> exact fun _ _ => rfl
  refine ⟨fun p hp e rows => one_group (hrow p hp) e rows, fun p hp e w => ?_⟩
  obtain ⟨haccepted, hqueued, hblocked⟩ := gang_completes (hrow p hp) w e
  exact ⟨gang_waits (hrow p hp) w, gang_arrives (hrow p hp) w e, haccepted, hqueued, hblocked, gang_broken (hrow p hp) w e⟩

end Sys2Proof.Machine.Storage
end

section
/-! PROOF. A store whose translation crosses a sector (spec 03 R96, R101, spec 09 R226): a TLB entry of an address space without alignment
takes an aligned address to one whose two bytes lie in two sectors, and only the sector of the first is made current below L1. -/

namespace Sys2Proof.Machine.Storage

set_option Elab.async false

/-- A team of one group. -/
def soleTeam : Team :=
  { freshTeam 7 5 ⟨0x1000, 0x2000, 0, 1, 0, 30, 16, 8, 0, 1, 0, 0, false, false, 0, []⟩ 0x3000 9 3 12 true 0 with slots := [0] }

/-- The state of a device in which one core has that team with a group, and its TLB one page of 2 MiB. -/
def oneGroup (g : Group) (page : TlbEntry) : State :=
  { State.reset with cur := some ⟨0, 0, 0⟩, xlat := { State.reset.xlat with en := true } }.modCore 0 0 (fun k => { k with
    slots := k.slots.set 0 (some g)
    teams := [soleTeam]
    tlb := [page] })

theorem oneGroup_memoryOk (g : Group) (page : TlbEntry) : (oneGroup g page).memoryOk := by
  unfold oneGroup
  refine State.memoryOk_modCore ?_ 0 0 fun x => ?_
  · exact State.memoryOk_congr State.reset_memoryOk rfl rfl
  · exact Core.cellsOk_congr x rfl rfl rfl rfl rfl

/-- A condition that the kernel finds true of the context of an issue. -/
theorem exists_ctx {s : State} {f : Fields} {P : Ctx → Bool} (h : (s.ctx? f).any P = true) : ∃ c, s.ctx? f = some c ∧ P c = true := by
  cases e : s.ctx? f with
  | none => rw [e] at h; cases h
  | some c => rw [e] at h; exact ⟨c, rfl, h⟩

/-- A group whose lane 5 alone is a member of a row guarded by p1. -/
def laneFive : Group :=
  { freshGroup 7 0 .consumer 30 0x1000 (Vector.replicate 1024 0) (freshLease 0) .user 0 with
    p := Vector.ofFn fun i => if i.val = 5 then 2 else 0 }

/-- A page of 2 MiB that starts at address 31, every access allowed. -/
def skewedPage : TlbEntry := ⟨5, 0, 2097152, 31, ⟨true, true, true, 0, true, true, false, false⟩⟩

/-- `st` of the two low bytes of v4 at the address in v2 and v3, past L1, under p1. -/
def storeTwo : Fields := ⟨.f64, 1, false, 7, false, 2, false, false, .none, .v 2, .v 4, .none, 3, 0, 0, 0, 0, 0, false⟩

/-- The device with the byte at 32 dirty in L1. -/
def staleState : State := (oneGroup laneFive skewedPage).modCore 0 0 (fun k => { k with l1Dirty := [(32, 0xAA)] })

theorem staleState_memoryOk : staleState.memoryOk := by
  refine State.memoryOk_modCore (oneGroup_memoryOk _ _) 0 0 ?_
  rintro ⟨h1, -, h3, h4, h5⟩
  exact ⟨h1, rfl, h3, h4, h5⟩

/-- What the store finds: it is ready, its one lane is translated to address 31, and the next byte that it stores is zero. -/
def findsSkew (c : Ctx) : Bool :=
  !privileged .st c.g.mode && c.m != 0 && operandsOk .st storeTwo c.g c.t &&
    (queueCheck c.g (opPops .st storeTwo) (opPushes .st storeTwo) == .ok) && c.g.flights.isEmpty &&
    decide (c.Reaches .write 2 (fun l => c.a64 l + storeTwo.imm.signExtend 64 + 0) [(5, ⟨31, skewedPage.attrs⟩)]) &&
    decide ((c.storeData storeTwo.sb 5)[1]? = some 0) && decide (c.r = ⟨0, 0, 0⟩)

theorem stale_finds : ∃ c, staleState.ctx? storeTwo = some c ∧ findsSkew c = true := exists_ctx (by decide +kernel)

/-- What the store leaves: the core reads the old byte at 32. -/
theorem stale_leaves : ∀ t, exec (.st storeTwo) staleState = .next t → t.coreByte 0 0 32 = 0xAA := by
  have h : (match exec (.st storeTwo) staleState with | .next t => decide (t.coreByte 0 0 32 = 0xAA) | _ => false) = true := by
    decide +kernel
  intro t ht
  rw [ht] at h
  exact of_decide_eq_true h

/-- Refutes O30: a TLB entry of a page at address 31 takes a store of two zero bytes at address 0 to the bytes 31 and 32, of two sectors, and
the core, which holds 0xAA dirty at 32, still reads that. -/
theorem not_storeFrame : ¬ Obligations.StoreFrame := by
  intro h
  obtain ⟨c, hc, hf⟩ := stale_finds
  simp only [findsSkew, Bool.and_eq_true, Bool.not_eq_true', decide_eq_true_eq, beq_iff_eq, bne_iff_ne, List.isEmpty_iff] at hf
  obtain ⟨⟨⟨⟨⟨⟨⟨hp, hm⟩, ho⟩, hq⟩, hfl⟩, hreach⟩, hdata⟩, hr⟩ := hf
  have hready : Ready .st false storeTwo staleState c := ⟨hc, hp, fun _ => hm, fun _ => ho, fun _ => hq⟩
  obtain ⟨t, g, ht, -, -, -, -, hbytes, -⟩ := h (.st, .st) (by simp) storeTwo staleState c 5 ⟨31, skewedPage.attrs⟩ staleState_memoryOk hready
    (by simp [hfl]) hreach rfl (by decide)
  have hb := hbytes rfl 1 (by decide)
  rw [hr] at hb
  have h32 := stale_leaves t ht
  have : some (0xAA : Byte) = some 0 := by rw [← h32]; exact hb.trans hdata
  exact absurd this (by decide)

end Sys2Proof.Machine.Storage
end

section
/-! PROOF. A prefetch that makes a full slice of L2 give up a line (spec 03 R97, R98, R107, spec 09 R229): a list of lines that names one line
as often as the slice has places holds one line after the slice has given it up, and its dirty bytes have reached home. -/

namespace Sys2Proof.Machine.Storage

set_option Elab.async false

/-! ## A slice that gives up its one line -/

/-- A die whose L2 lists one line in every place of a slice and holds one dirty byte of it; no other die holds a dirty byte, and home memory is
zero throughout. -/
structure Crowded (s : State) (d : DieId) (v : Nat) : Prop where
  lines : s.dies[d.val].l2Lines = List.replicate l2SliceLines v
  dirty : s.dies[d.val].l2 = [(128 * v, 1)]
  others : ∀ e : DieId, e ≠ d → s.dies[e.val].l2 = []
  home : s.hbm = []
  plain : s.aliases = []

theorem l2MoveOn_none {s : State} {ds : List DieId} (p : Nat → Bool) (h : ∀ e ∈ ds, s.dies[e.val].l2 = []) : s.l2MoveOn ds p = s := by
  induction ds with
  | nil => rfl
  | cons e ds ih =>
    have he : s.l2Move e p = s := by simp [State.l2Move, h e (by simp), cellKeep]
    rw [State.l2MoveOn, List.foldl_cons, he]
    exact ih fun x hx => h x (by simp [hx])

/-- The other dies of a crowded one have nothing to give back. -/
theorem takeBack_crowded {s : State} {d : DieId} {v : Nat} (h : Crowded s d v) (lines : Nat → Bool) :
    (s.takeBack (allDies.filter (· != d)) lines).dies[d.val] = s.dies[d.val] ∧
    (s.takeBack (allDies.filter (· != d)) lines).hbm = s.hbm ∧ (s.takeBack (allDies.filter (· != d)) lines).aliases = s.aliases := by
  have hm : s.l2MoveOn (allDies.filter (· != d)) (fun a => lines (a / 128)) = s :=
    l2MoveOn_none _ fun e he => h.others e (by simpa using (List.mem_filter.mp he).2)
  simp [State.takeBack, hm]

theorem l2Move_crowded {s : State} {d : DieId} {v : Nat} (hd : s.dies[d.val].l2 = [(128 * v, 1)]) (hh : s.hbm = []) (ha : s.aliases = []) :
    cellGet (s.l2Move d (fun a => a / 128 == v)).hbm (128 * v) = some 1 ∧
    (s.l2Move d (fun a => a / 128 == v)).dies[d.val].l2Lines = s.dies[d.val].l2Lines := by
  have hmoved : cellKeep s.dies[d.val].l2 (fun a => a / 128 == v) = [(128 * v, 1)] := by simp [hd, cellKeep]
  have e : s.l2Move d (fun a => a / 128 == v) =
      (s.homePutCells [(128 * v, 1)]).modDie d (fun x => { x with l2 := cellDrop x.l2 (fun a => a / 128 == v) }) := by
    simp only [State.l2Move, Fin.getElem_fin, hmoved]
    rfl
  rw [e]
  constructor
  · simp [State.homePutCells, State.homePut, State.homeAddr, ha, hh, cellPut, cellGet, cellSet]
  · simp [State.homePutCells, State.homePut]

theorem l2WriteBack_crowded {s : State} {d : DieId} {v : Nat} (h : Crowded s d v) :
    cellGet (s.l2WriteBack d (fun a => a / 128 == v)).hbm (128 * v) = some 1 ∧
    (s.l2WriteBack d (fun a => a / 128 == v)).dies[d.val].l2Lines = List.replicate l2SliceLines v := by
  have hmoved : cellKeep s.dies[d.val].l2 (fun a => a / 128 == v) = [(128 * v, 1)] := by simp [h.dirty, cellKeep]
  have e : ∃ lines, s.l2WriteBack d (fun a => a / 128 == v) =
      (s.takeBack (allDies.filter (· != d)) lines).l2Move d (fun a => a / 128 == v) := by
    refine ⟨fun l => (cellKeep s.dies[d.val].l2 (fun a => a / 128 == v)).any (fun x => x.1 / 128 == l), if_neg ?_⟩
    rw [Fin.getElem_fin, hmoved]
    exact Bool.false_ne_true
  obtain ⟨lines, e⟩ := e
  obtain ⟨hdie, hhbm, hal⟩ := takeBack_crowded h lines
  rw [e]
  obtain ⟨hget, hlines⟩ := l2Move_crowded (v := v) ((congrArg Die.l2 hdie).trans h.dirty) (hhbm.trans h.home) (hal.trans h.plain)
  exact ⟨hget, hlines.trans ((congrArg Die.l2Lines hdie).trans h.lines)⟩

theorem oldestWith_replicate {n v : Nat} {p : Nat → Bool} (hn : n ≠ 0) (hp : p v = true) : oldestWith (List.replicate n v) p = some v := by
  simp [oldestWith, hn, hp]

theorem l2Take_crowded {s : State} {d : DieId} {v w : Nat} (h : Crowded s d v) (hw : w ≠ v) (hs : Config.l2Slice v = Config.l2Slice w) :
    cellGet (s.l2Take d w).hbm (128 * v) = some 1 ∧ (s.l2Take d w).dies[d.val].l2Lines = [w] := by
  have hn : l2SliceLines ≠ 0 := by decide
  have hout : oldestWith (List.replicate l2SliceLines v) (fun y => Config.l2Slice y == Config.l2Slice w) = some v :=
    oldestWith_replicate hn (by simp [hs])
  have hcont : (List.replicate l2SliceLines v).contains w = false := by simp [hw]
  have hfull : ((List.replicate l2SliceLines v).filter (fun y => Config.l2Slice y == Config.l2Slice w)).length = l2SliceLines := by
    simp [hs]
  have e : ∃ u, Crowded u d v ∧ s.l2Take d w = (u.l2WriteBack d (fun a => a / 128 == v)).modDie d
      (fun x => { x with l2Lines := w :: x.l2Lines.filter (· != v) }) := by
    refine ⟨{ s with
      llc := llcEnter s.llc w, sharers := shareSet s.sharers w (shareOf s.sharers w ||| 1#32 <<< d.val) },
      ⟨h.lines, h.dirty, h.others, h.home, h.plain⟩, ?_⟩
    simp only [State.l2Take, Fin.getElem_fin, h.lines, hcont, List.length_replicate, Nat.lt_irrefl, if_false, hfull, hout,
      Bool.false_eq_true]
  obtain ⟨u, hu, e⟩ := e
  obtain ⟨hget, hlines⟩ := l2WriteBack_crowded hu
  rw [e]
  exact ⟨hget, by simp [hlines]⟩

/-- A group put in its slot leaves what L2 holds. -/
theorem setGroup_l2 (s : State) (r : GRef) (g : Group) (d : DieId) :
    (s.setGroup r g).dies[d.val].l2Lines = s.dies[d.val].l2Lines ∧ (s.setGroup r g).dies[d.val].l2 = s.dies[d.val].l2 := by
  by_cases hd : r.die = d
  · subst hd; simp [State.setGroup, State.modCore]
  · simp [State.setGroup, State.modCore, State.modDie_other _ _ _ _ hd]

theorem Crowded.setGroup {s : State} {d : DieId} {v : Nat} (h : Crowded s d v) (r : GRef) (g : Group) : Crowded (s.setGroup r g) d v where
  lines := (setGroup_l2 s r g d).1.trans h.lines
  dirty := (setGroup_l2 s r g d).2.trans h.dirty
  others e he := (setGroup_l2 s r g e).2.trans (h.others e he)
  home := h.home
  plain := h.plain

/-- An issue that ends leaves home memory and the lines of every L2 as its meaning left them. -/
theorem settle_keeps (c : Ctx) (u : State) (slot : WinSlot) (d : DieId) :
    (c.settle (.done u slot)).hbm = u.hbm ∧ (c.settle (.done u slot)).dies[d.val].l2Lines = u.dies[d.val].l2Lines := by
  have hgroup : ∀ (s : State) (r : GRef) (f : Group → Group), (s.modGroup r f).dies[d.val].l2Lines = s.dies[d.val].l2Lines := fun s r f => by
    unfold State.modGroup
    split
    · exact (setGroup_l2 s r _ d).1
    · rfl
  have hcount : ∀ s : State, (c.counted s).dies[d.val].l2Lines = s.dies[d.val].l2Lines := fun s => by
    unfold Ctx.counted
    split
    · rfl
    · by_cases hd : c.r.die = d
      · subst hd; simp [State.count]
      · simp [State.count, State.modDie_other _ _ _ _ hd]
  constructor
  · simp [Ctx.settle]
  · rw [Ctx.settle, Ctx.ended, hgroup, hcount, hgroup]

/-! ## The prefetch -/

/-- A page of 2 MiB that starts at a line, every access allowed. -/
def linePage (w : Nat) : TlbEntry := ⟨5, 0, 2097152, 128 * w, ⟨true, true, true, 0, true, true, false, false⟩⟩

/-- `pf.l2` of the address in v2 and v3 under p1. -/
def fetchLine : Fields := ⟨.f64, 1, false, 7, false, 1, false, false, .none, .v 2, .none, .none, 0, 0, 0, 0, 0, 0, false⟩

/-- The device whose L2 lists line v in every place of a slice, and whose group fetches line w. -/
def crowdedState (v w : Nat) : State :=
  (oneGroup laneFive (linePage w)).modDie 0 (fun x => { x with l2 := [(128 * v, 1)], l2Lines := List.replicate l2SliceLines v })

theorem crowdedState_memoryOk (v w : Nat) : (crowdedState v w).memoryOk :=
  State.memoryOk_modDie (oneGroup_memoryOk _ _) 0 fun ⟨_, hc, hs⟩ => ⟨rfl, hc, hs⟩

theorem crowdedState_core (v w : Nat) : (crowdedState v w).core 0 0 = (oneGroup laneFive (linePage w)).core 0 0 :=
  State.core_modDie _ _ _ _ _ rfl

theorem crowdedState_group (v w : Nat) : (crowdedState v w).group? ⟨0, 0, 0⟩ = some laneFive := by
  simp only [State.group?, crowdedState_core, oneGroup, State.core_modCore_same]
  rfl

theorem crowdedState_team (v w : Nat) : (crowdedState v w).team? 0 0 7 = some soleTeam := by
  simp only [State.team?, crowdedState_core, oneGroup, State.core_modCore_same]
  rfl

theorem crowdedState_pending (v w : Nat) : ((crowdedState v w).core 0 0).pending = [] := by
  simp only [crowdedState_core, oneGroup, State.core_modCore_same]
  rfl

theorem crowdedState_crowded (v w : Nat) : Crowded (crowdedState v w) 0 v where
  lines := congrArg Die.l2Lines (State.modDie_same (oneGroup laneFive (linePage w)) 0 _)
  dirty := congrArg Die.l2 (State.modDie_same (oneGroup laneFive (linePage w)) 0 _)
  others e he := by
    rw [crowdedState, State.modDie_other _ _ _ _ he.symm, oneGroup, State.modCore, State.modDie_other _ _ _ _ he.symm]
    simp [State.reset, Die.reset]
  home := rfl
  plain := rfl

/-- The issue of the prefetch. -/
def fetchCtx (v w : Nat) : Ctx :=
  ⟨crowdedState v w, (crowdedState v w).setGroup ⟨0, 0, 0⟩ { laneFive with hold := none }, ⟨0, 0, 0⟩, laneFive, soleTeam, fetchLine, 0x1000,
    0xFFFFFFFF, 1#32 <<< 5⟩

theorem fetch_issuing (v w : Nat) : (crowdedState v w).ctx? fetchLine = some (fetchCtx v w) := by
  have hcur : (crowdedState v w).cur = some ⟨0, 0, 0⟩ := rfl
  have hpair : (crowdedState v w).curPair = none := rfl
  have hrun : laneFive.runPc = some 0x1000 := by decide +kernel
  have hat : laneFive.runAt 0x1000 = 0xFFFFFFFF := by decide +kernel
  have hm : laneFive.members fetchLine 0xFFFFFFFF = 1#32 <<< 5 := by decide +kernel
  have hteam : (crowdedState v w).team? 0 0 laneFive.team = some soleTeam := crowdedState_team v w
  simp only [State.ctx?, hcur, crowdedState_group, hteam, hpair, hrun, Option.map_some, hat, hm]
  rfl

theorem fetch_ready (v w : Nat) : Ready .pf false fetchLine (crowdedState v w) (fetchCtx v w) :=
  ⟨fetch_issuing v w, (by decide +kernel : privileged .pf laneFive.mode = false), fun _ => (by decide : (1#32 <<< 5) ≠ 0),
    fun _ => (by decide +kernel : operandsOk .pf fetchLine laneFive soleTeam = true),
    fun _ => (by decide +kernel : queueCheck laneFive (opPops .pf fetchLine) (opPushes .pf fetchLine) = .ok)⟩

theorem fetch_target (v w : Nat) : (lanesOf (fetchCtx v w).m).filterMap (fetchCtx v w).pfTarget = [⟨128 * w, (linePage w).attrs⟩] := by
  have hea : (fetchCtx v w).ea 5 = 0 := (by decide +kernel : laneFive.read64 fetchLine fetchLine.sa 5 + fetchLine.imm.signExtend 64 = 0)
  have htlb : ((crowdedState v w).core 0 0).tlb = [linePage w] := by
    rw [crowdedState_core, oneGroup, State.core_modCore_same]
  have hfind : tlbFind [linePage w] 5 0 = some (linePage w) := rfl
  have hlookup : (crowdedState v w).lookup 0 (some 0) 5 0 = .ok (linePage w) := by
    simp only [State.lookup, htlb, hfind]
    rfl
  have htarget : (fetchCtx v w).pfTarget 5 = some ⟨128 * w, (linePage w).attrs⟩ := by
    have h0 : va57 0 = 0 := rfl
    have hc : canonical 0 = true := rfl
    have hd : (linePage w).attrs.deny .read = none := rfl
    have hasid : soleTeam.asid = 5 := rfl
    simp only [Ctx.pfTarget, hea, hc, Bool.not_true, Bool.false_eq_true, if_false]
    simp only [fetchCtx, hasid, h0, htlb, hfind, State.translate, hc, hlookup, hd, Bool.not_true, Bool.false_eq_true, if_false]
    rfl
  have hlanes : lanesOf (fetchCtx v w).m = [5] := lanesOf_one 5
  rw [hlanes, List.filterMap_cons, htarget]
  rfl

/-- `pf.l2` makes L2 take the lines that its lanes name (R229). -/
theorem pf_ends_l2 (xs : List Translated) : Ends .pf .pf (fun c => c.f.sub = 1 ∧ (lanesOf c.m).filterMap c.pfTarget = xs) (fun c =>
    .done (xs.foldl (fun s x => if x.attrs.cache = 2 then s else s.l2Take c.r.die (x.pa / 128)) c.s) .noResult) := by
  refine ends_of (fun _ _ => rfl) ?_
  rintro c ⟨h1, rfl⟩
  simp only [State.prefetch, h1, beq_self_eq_true, if_true, beq_iff_eq]

/-- Two lines lie in one slice of L2. -/
theorem two_lines : ∃ v w, v ≠ w ∧ Config.l2Slice v = Config.l2Slice w := by
  have h := not_injective_infinite_finite Config.l2Slice
  simp only [Function.Injective, not_forall] at h
  obtain ⟨v, w, hs, hne⟩ := h
  exact ⟨v, w, hne, hs⟩

/-- Refutes O32: L2 lists line v, with a dirty byte, in every place of a slice, and `pf.l2` of another line w of that slice writes the byte
home, while L2 then lists w alone: the frame of a prefetch does not hold. -/
theorem not_prefetchAndTiles : ¬ Obligations.PrefetchAndTiles := by
  intro h
  obtain ⟨⟨-, -, -, hframe⟩, -⟩ := h
  obtain ⟨v, w, hne, hs⟩ := two_lines
  obtain ⟨t, g, ht, -, -, -, -, honly⟩ := hframe fetchLine (crowdedState v w) (fetchCtx v w) (crowdedState_memoryOk v w) (fetch_ready v w)
  have hexec := pf_ends_l2 _ fetchLine _ _ (fetch_ready v w) ⟨rfl, fetch_target v w⟩
  rw [ht] at hexec
  obtain ⟨hget, hlines⟩ := l2Take_crowded ((crowdedState_crowded v w).setGroup ⟨0, 0, 0⟩ ((fetchCtx v w).popped .pf)) hne.symm hs
  have hline : 128 * w / 128 = w := by omega
  have hfold : [(⟨128 * w, (linePage w).attrs⟩ : Translated)].foldl
      (fun s x => if x.attrs.cache = 2 then s else s.l2Take ((fetchCtx v w).go .pf).r.die (x.pa / 128)) ((fetchCtx v w).go .pf).s =
      ((crowdedState v w).setGroup ⟨0, 0, 0⟩ ((fetchCtx v w).popped .pf)).l2Take 0 w := by
    simp only [List.foldl_cons, List.foldl_nil, hline]
    exact if_neg (by decide : (0 : BitVec 2) ≠ 2)
  beta_reduce at hexec
  rw [hfold] at hexec
  obtain ⟨hhbm, hl2lines⟩ := settle_keeps (fetchCtx v w)
    (((crowdedState v w).setGroup ⟨0, 0, 0⟩ ((fetchCtx v w).popped .pf)).l2Take 0 w) .noResult 0
  have htu := Host.Outcome.next.inj hexec
  have hlen : t.dies[(0 : DieId).val].l2Lines.length < l2SliceLines := by
    rw [htu, hl2lines, hlines]
    exact (by decide : 1 < l2SliceLines)
  have hkeeps := (honly (crowdedState_pending v w) hlen).1
  rw [htu, hhbm, (crowdedState_crowded v w).home] at hkeeps
  rw [hkeeps] at hget
  cases hget

end Sys2Proof.Machine.Storage
end

section
/-! PROOF. A load of a line that a full slice of L2 takes (spec 03 R94, R97, R98, spec 04 R107, spec 09 R226): the line that the slice gives up
reaches home, while L2 lists one line alone. -/

namespace Sys2Proof.Machine.Storage

set_option Elab.async false

/-! ## One lookup that fetches a line -/

/-- A change of a core leaves what L2 holds. -/
theorem modCore_l2 (s : State) (e : DieId) (c : CoreId) (f : Core → Core) (d : DieId) :
    (s.modCore e c f).dies[d.val].l2Lines = s.dies[d.val].l2Lines ∧ (s.modCore e c f).dies[d.val].l2 = s.dies[d.val].l2 := by
  by_cases hd : e = d
  · subst hd; simp [State.modCore]
  · simp [State.modCore, State.modDie_other _ _ _ _ hd]

theorem count_l2 (s : State) (e : DieId) (i : Fin 9) (n : Nat) (d : DieId) :
    (s.count e i n).dies[d.val].l2Lines = s.dies[d.val].l2Lines ∧ (s.count e i n).dies[d.val].l2 = s.dies[d.val].l2 := by
  by_cases hd : e = d
  · subst hd; simp [State.count]
  · simp [State.count, State.modDie_other _ _ _ _ hd]

theorem Crowded.modCore {s : State} {d : DieId} {v : Nat} (h : Crowded s d v) (e : DieId) (c : CoreId) (f : Core → Core) :
    Crowded (s.modCore e c f) d v where
  lines := (modCore_l2 s e c f d).1.trans h.lines
  dirty := (modCore_l2 s e c f d).2.trans h.dirty
  others i hi := (modCore_l2 s e c f i).2.trans (h.others i hi)
  home := h.home
  plain := h.plain

theorem Crowded.count {s : State} {d : DieId} {v : Nat} (h : Crowded s d v) (e : DieId) (i : Fin 9) (n : Nat) :
    Crowded (s.count e i n) d v where
  lines := (count_l2 s e i n d).1.trans h.lines
  dirty := (count_l2 s e i n d).2.trans h.dirty
  others j hj := (count_l2 s e i n j).2.trans (h.others j hj)
  home := h.home
  plain := h.plain

theorem Crowded.modGroup {s : State} {d : DieId} {v : Nat} (h : Crowded s d v) (r : GRef) (f : Group → Group) : Crowded (s.modGroup r f) d v := by
  unfold State.modGroup
  split
  · exact h.setGroup r _
  · exact h

/-- A core whose L1 holds nothing, with no victim tag and no store that waits. -/
structure Bare (k : Core) : Prop where
  lines : k.l1Lines = []
  clean : k.l1 = []
  dirty : k.l1Dirty = []
  victims : k.victims = []
  pending : k.pending = []

theorem Bare.setGroup {s : State} {r : GRef} (h : Bare (s.core r.die r.core)) (g : Group) : Bare ((s.setGroup r g).core r.die r.core) := by
  rw [State.setGroup, State.core_modCore_same]
  exact ⟨h.lines, h.clean, h.dirty, h.victims, h.pending⟩

theorem Bare.modGroup {s : State} {r : GRef} (h : Bare (s.core r.die r.core)) (f : Group → Group) :
    Bare ((s.modGroup r f).core r.die r.core) := by
  unfold State.modGroup
  split
  · exact h.setGroup _
  · exact h

/-- The sector that a lookup fetches makes L2 give up line v. -/
theorem fillSector_crowded {s : State} {d : DieId} {c : CoreId} {v w : Nat} (h : Crowded s d v) (hk : Bare (s.core d c)) (hw : w ≠ v)
    (hs : Config.l2Slice v = Config.l2Slice w) : cellGet (s.fillSector d c (4 * w)).hbm (128 * v) = some 1 ∧
    (s.fillSector d c (4 * w)).dies[d.val].l2Lines = [w] := by
  have hmiss : (s.core d c).l1Has (span (32 * (4 * w)) 32) = false := by
    rw [Core.l1Has, List.all_eq_false]
    exact ⟨32 * (4 * w), List.mem_map.mpr ⟨0, by simp, rfl⟩, by simp [hk.clean, hk.dirty, cellGet]⟩
  have hline : 4 * w / 4 = w := by omega
  obtain ⟨hget, hlines⟩ := l2Take_crowded h hw hs
  simp only [State.fillSector, hmiss, Bool.false_eq_true, if_false, hline]
  exact ⟨hget, (modCore_l2 ..).1.trans hlines⟩

/-- The access of a line counted in the lease of the group, and its miss (R57, R58). -/
def missed (s : State) (r : GRef) (line : Nat) : State := (s.modGroup r (fun g => { g with lease := g.lease.access line })).l1Miss r line

theorem missed_bare {s : State} {r : GRef} {v : Nat} (h : Crowded s r.die v) (hk : Bare (s.core r.die r.core)) (line : Nat) :
    Crowded (missed s r line) r.die v ∧ Bare ((missed s r line).core r.die r.core) := by
  have hbare := hk.modGroup (fun g => { g with lease := g.lease.access line })
  have hcrowded := h.modGroup r (fun g => { g with lease := g.lease.access line })
  unfold missed
  generalize s.modGroup r (fun g => { g with lease := g.lease.access line }) = u at hbare hcrowded
  simp only [State.l1Miss, hbare.victims, List.find?_nil]
  refine ⟨(hcrowded.count ..).modCore .., ?_⟩
  rw [State.core_modCore_same, State.core_count]
  exact ⟨hbare.lines, hbare.clean, hbare.dirty, by simp [hbare.victims], hbare.pending⟩

/-- A lookup of the first byte of a line, in a core whose L1 holds nothing, fetches its sector. -/
theorem l1Access_bare {s : State} {r : GRef} {w : Nat} (hk : Bare (s.core r.die r.core)) : ∃ F : Core → Core,
    s.l1Access r w [128 * w] false 0 none true true = ((missed s r w).fillSector r.die r.core (4 * w)).modCore r.die r.core F := by
  have hbare := hk.modGroup (fun g => { g with lease := g.lease.access w })
  have hsector : (sectorsOf [128 * w]).filter (fun c => !false || !(span (c * 32) 32).all [128 * w].contains) = [4 * w] := by
    have : 128 * w / 32 = 4 * w := by omega
    simp [sectorsOf, this, List.eraseDups_cons]
  have hhint : ((0 : BitVec 2) == 3) = false := by decide
  refine ⟨fun k => { k with l1Lines := enterLine k.l1Lines ⟨w, 2, false, some r.slot⟩ false }, ?_⟩
  unfold State.l1Access missed
  simp only [if_true]
  generalize s.modGroup r (fun g => { g with lease := g.lease.access w }) = u at hbare
  simp only [hbare.lines, List.find?_nil, Option.isSome_none, Bool.false_and, Bool.not_true, Bool.or_false, Bool.false_eq_true,
    if_false, hhint, Bool.and_false, hsector, List.foldl_cons, List.foldl_nil]
  rfl

/-- A lookup of the first byte of line w makes L2 give up line v. -/
theorem l1Access_crowded {s : State} {r : GRef} {v w : Nat} (h : Crowded s r.die v) (hk : Bare (s.core r.die r.core)) (hw : w ≠ v)
    (hs : Config.l2Slice v = Config.l2Slice w) :
    cellGet (s.l1Access r w [128 * w] false 0 none true true).hbm (128 * v) = some 1 ∧
    (s.l1Access r w [128 * w] false 0 none true true).dies[r.die.val].l2Lines = [w] := by
  obtain ⟨F, hlook⟩ := l1Access_bare (w := w) hk
  obtain ⟨hcrowded, hcore⟩ := missed_bare h hk w
  obtain ⟨hget, hlines⟩ := fillSector_crowded hcrowded hcore hw hs
  rw [hlook, State.modCore_hbm]
  exact ⟨hget, (modCore_l2 ..).1.trans hlines⟩

/-! ## The load -/

/-- `ld` of the byte at the address in v2 and v3 under p1. -/
def loadByte : Fields := ⟨.f64, 1, false, 7, false, 0, false, false, .v 4, .v 2, .none, .none, 0, 0, 0, 0, 0, 0, false⟩

/-- The issue of the load. -/
def loadCtx (v w : Nat) : Ctx := { fetchCtx v w with f := loadByte }

/-- What the load reads. -/
def loadPlace (w : Nat) : Translated := ⟨128 * w, (linePage w).attrs⟩

theorem crowdedState_bare (v w : Nat) : Bare ((crowdedState v w).core 0 0) := by
  rw [crowdedState_core, oneGroup, State.core_modCore_same]
  exact ⟨rfl, rfl, rfl, rfl, rfl⟩

theorem load_issuing (v w : Nat) : (crowdedState v w).ctx? loadByte = some (loadCtx v w) := by
  have hcur : (crowdedState v w).cur = some ⟨0, 0, 0⟩ := rfl
  have hpair : (crowdedState v w).curPair = none := rfl
  have hrun : laneFive.runPc = some 0x1000 := by decide +kernel
  have hat : laneFive.runAt 0x1000 = 0xFFFFFFFF := by decide +kernel
  have hm : laneFive.members loadByte 0xFFFFFFFF = 1#32 <<< 5 := by decide +kernel
  have hteam : (crowdedState v w).team? 0 0 laneFive.team = some soleTeam := crowdedState_team v w
  simp only [State.ctx?, hcur, crowdedState_group, hteam, hpair, hrun, Option.map_some, hat, hm]
  rfl

theorem load_ready (v w : Nat) : Ready .ld false loadByte (crowdedState v w) (loadCtx v w) :=
  ⟨load_issuing v w, (by decide +kernel : privileged .ld laneFive.mode = false), fun _ => (by decide : (1#32 <<< 5) ≠ 0),
    fun _ => (by decide +kernel : operandsOk .ld loadByte laneFive soleTeam = true),
    fun _ => (by decide +kernel : queueCheck laneFive (opPops .ld loadByte) (opPushes .ld loadByte) = .ok)⟩

theorem load_address (v w : Nat) : (loadCtx v w).ea 5 = 0 :=
  (by decide +kernel : laneFive.read64 loadByte loadByte.sa 5 + loadByte.imm.signExtend 64 = 0)

theorem load_reaches (v w : Nat) : (loadCtx v w).Reaches .read 1 (loadCtx v w).ea [(5, loadPlace w)] := by
  have hlookup : (crowdedState v w).lookup 0 (some 0) 5 0 = .ok (linePage w) := by
    have htlb : ((crowdedState v w).core 0 0).tlb = [linePage w] := by
      rw [crowdedState_core, oneGroup, State.core_modCore_same]
    have hfind : tlbFind [linePage w] 5 0 = some (linePage w) := rfl
    simp only [State.lookup, htlb, hfind]
    rfl
  have htrans : (crowdedState v w).translate 0 (some 0) 5 0 .read = .ok (loadPlace w) := by
    have h0 : va57 0 = 0 := rfl
    have hc : canonical 0 = true := rfl
    have hd : (linePage w).attrs.deny .read = none := rfl
    simp only [State.translate, hc, h0, hlookup, hd, Bool.not_true, Bool.false_eq_true, if_false]
    rfl
  refine ⟨(lanesOf_one 5).symm, fun x hx => ?_⟩
  obtain rfl := List.mem_singleton.mp hx
  rw [load_address]
  refine ⟨by decide, ?_⟩
  have h : (loadCtx v w).s0.translate (loadCtx v w).r.die (some (loadCtx v w).r.core) (loadCtx v w).t.asid 0 .read = .ok (loadPlace w) := htrans
  simp only [Ctx.translate, h]
  rfl

/-- The load of the first byte of a line, in a core with no store that waits, is one lookup. -/
theorem readNow_one {s : State} {r : GRef} (h : (s.core r.die r.core).pending = []) (i : Lane) (va : DWord) (w : Nat) (m : Mask) :
    (s.readNow r ⟨1, 0, 0, false, false, [⟨i, va, 128 * w, 0⟩]⟩ m).s = s.l1Access r w [128 * w] false 0 none true true := by
  have hown : ∀ as, s.performOwn r as = s := fun as => by simp [State.performOwn, State.performStores, h]
  have hline : 128 * w / 128 = w := by omega
  simp [State.readNow, hown, State.l1Lookups, LoadSpec.bytes, span, hline, LoadSpec.noL1, List.eraseDups_cons]

theorem walked_crowded (v w : Nat) :
    ((loadCtx v w).go .ld).walked ((lanesOf (loadCtx v w).m).map (loadCtx v w).ea) = ((loadCtx v w).go .ld).s := by
  have hlanes : lanesOf (loadCtx v w).m = [5] := lanesOf_one 5
  have htlb : (((loadCtx v w).go .ld).s.core 0 0).tlb = [linePage w] := by
    rw [Ctx.go_state, State.setGroup]
    exact (congrArg Core.tlb (State.core_modCore_same ..)).trans (by
      show ((crowdedState v w).core 0 0).tlb = _
      rw [crowdedState_core, oneGroup, State.core_modCore_same])
  have hfind : (tlbFind [linePage w] 5 (va57 0)).isSome = true := rfl
  have hasid : ((loadCtx v w).go .ld).t.asid = 5 := rfl
  have hwalk : ((loadCtx v w).go .ld).s.noteWalk 0 (some 0) 5 0 = ((loadCtx v w).go .ld).s := by
    simp only [State.noteWalk, htlb, hfind, Bool.or_true, if_true]
  rw [hlanes, List.map_singleton, load_address]
  exact hwalk

theorem modGroup_l2Lines (s : State) (r : GRef) (f : Group → Group) (d : DieId) :
    (s.modGroup r f).dies[d.val].l2Lines = s.dies[d.val].l2Lines := by
  unfold State.modGroup
  split
  · exact (setGroup_l2 s r _ d).1
  · rfl

/-- A load put in flight leaves home memory and the lines of every L2 as its reading left them. -/
theorem settle_flight (c : Ctx) (op : Op) (u : State) (x : Flight) (d : DieId) :
    (c.settle ((c.go op).launchFlight u x)).hbm = u.hbm ∧
    (c.settle ((c.go op).launchFlight u x)).dies[d.val].l2Lines = u.dies[d.val].l2Lines := by
  obtain ⟨hhome, hlines⟩ := settle_keeps c ({ u with uid := u.uid + 1 }.modGroup c.r (fun g => { g with flights := g.flights ++ [x] }))
    (if leavesResult c.f && decide (x.words ≤ 2) then .pending else .noResult) d
  exact ⟨hhome.trans (State.modGroup_hbm ..), hlines.trans (modGroup_l2Lines ..)⟩

/-- The load as the context of its issue sees it: the lookup of the first byte of line w. -/
theorem load_looks (v w : Nat) : ∃ x : Flight, ((loadCtx v w).go .ld).load ((loadCtx v w).go .ld).ea =
    ((loadCtx v w).go .ld).launchFlight (((loadCtx v w).go .ld).s.l1Access ⟨0, 0, 0⟩ w [128 * w] false 0 none true true) x := by
  have hcheck : ((loadCtx v w).go .ld).checkGlobal .read ((loadCtx v w).go .ld).size ((loadCtx v w).go .ld).ea = .ok [(5, loadPlace w)] :=
    checkGlobal_ok (c := loadCtx v w) (load_reaches v w)
  have hwaits : ((loadCtx v w).go .ld).s.NoneWaits ((loadCtx v w).go .ld).r :=
    noneWaits_go (load_issuing v w) ⟨crowdedState_pending v w, fun g hg x hx => by
      obtain rfl := Option.some.inj ((crowdedState_group v w).symm.trans hg)
      cases hx⟩
  have hnow : ((loadCtx v w).go .ld).s0.deferred = false := rfl
  have hacquires : ((loadCtx v w).go .ld).acquires = false := (by decide : loadByte.md.getLsbD 3 = false)
  have hwalk : ((loadCtx v w).go .ld).walked ((lanesOf ((loadCtx v w).go .ld).m).map ((loadCtx v w).go .ld).ea) = ((loadCtx v w).go .ld).s :=
    walked_crowded v w
  simp only [Ctx.load, hcheck, Ctx.fly, Ctx.acquire, hwalk, hnow, hacquires, Bool.false_and, Bool.false_eq_true, if_false]
  rw [readLate_none _ hwaits.2]
  have hsize : ((loadCtx v w).go .ld).size = 1 := (by decide : widthBytes loadByte.sub = 1)
  have hspec : ((loadCtx v w).go .ld).loadSpec false ((loadCtx v w).go .ld).size
      ([(5, loadPlace w)].map (fun x => readPlace x.1 (((loadCtx v w).go .ld).ea x.1) x.2)) =
      ⟨1, 0, 0, false, false, [⟨5, ((loadCtx v w).go .ld).ea 5, 128 * w, 0⟩]⟩ := by
    simp only [Ctx.loadSpec, Ctx.bypasses, hacquires, hsize, Bool.false_and]
    rfl
  rw [hspec, readNow_one hwaits.1]
  exact ⟨_, rfl⟩

/-- Refutes O28: L2 lists line v, with a dirty byte, in every place of a slice, and a load of the first byte of another line w of that slice writes
the byte home, while L2 then lists w alone: the frame of a load does not hold. -/
theorem not_loadFrame : ¬ Obligations.LoadFrame := by
  intro h
  obtain ⟨v, w, hne, hs⟩ := two_lines
  have hea : (fun l => (loadCtx v w).a64 l + loadByte.imm.signExtend 64 +
      (if Op.ld = .ldx then ((loadCtx v w).b32 l).signExtend 64 * BitVec.ofNat 64 (widthOf loadByte.sub) else 0)) = (loadCtx v w).ea := by
    funext l
    exact BitVec.add_zero _
  have hcached : ∀ y ∈ [((5 : Lane), loadPlace w)], y.2.attrs.cache ≠ 2 := fun y hy => by
    obtain rfl := List.mem_singleton.mp hy
    exact (by decide : (0 : BitVec 2) ≠ 2)
  have hframe := h (.ld, .ld) (by simp) loadByte (crowdedState v w) (loadCtx v w) [(5, loadPlace w)] (crowdedState_memoryOk v w)
    (load_ready v w) (fun x hx => nomatch hx)
  simp only [hea] at hframe
  obtain ⟨t, g, x, ht, -, -, -, -, -, -, honly, -⟩ := hframe (load_reaches v w)
  obtain ⟨y, hlooks⟩ := load_looks v w
  have hexec : exec (.ld loadByte) (crowdedState v w) = .next _ := issue_ends (load_ready v w) hlooks
  obtain ⟨hget, hlines⟩ := l1Access_crowded (r := ⟨0, 0, 0⟩) ((crowdedState_crowded v w).setGroup ⟨0, 0, 0⟩ ((loadCtx v w).popped .ld))
    (Bare.setGroup (crowdedState_bare v w) _) hne.symm hs
  obtain ⟨hhbm, hl2lines⟩ := settle_flight (loadCtx v w) .ld
    (((loadCtx v w).go .ld).s.l1Access ⟨0, 0, 0⟩ w [128 * w] false 0 none true true) y 0
  have htu := Host.Outcome.next.inj (ht.symm.trans hexec)
  have hlen : t.dies[(0 : DieId).val].l2Lines.length < l2SliceLines := by
    rw [htu, hl2lines]
    exact hlines ▸ (by decide : 1 < l2SliceLines)
  obtain ⟨hhome, -⟩ := (honly hcached).2 (crowdedState_pending v w) hlen
  rw [htu, hhbm, (crowdedState_crowded v w).home, Ctx.go_state] at hhome
  exact absurd (hhome ▸ hget) (by simp [cellGet])

end Sys2Proof.Machine.Storage
end

section
/-! PROOF. An atomic at die scope on a line that a full slice of L2 takes (spec 03 R97, R98, spec 04 R104, R113): the line that the slice gives up
reaches home. -/

namespace Sys2Proof.Machine.Storage

set_option Elab.async false

theorem Crowded.clearPoison {s : State} {d : DieId} {v : Nat} (h : Crowded s d v) (a n : Nat) : Crowded (s.clearPoison a n) d v where
  lines := h.lines
  dirty := h.dirty
  others := h.others
  home := h.home
  plain := h.plain

theorem linesOf_word (w : Nat) : linesOf (128 * w) 4 = [w] := by
  have h2 : 128 * w / 128 = w := by omega
  simp [linesOf, h2]

/-- An atomic at die scope on line w makes L2 give up line v. -/
theorem rmw_crowded {s : State} {d : DieId} {c : CoreId} {v w : Nat} (h : Crowded s d v) (hclean : (s.core d c).l1Dirty = []) (hw : w ≠ v)
    (hs : Config.l2Slice v = Config.l2Slice w) (op : Nat → Nat) :
    cellGet (s.rmw d c .die (128 * w) 4 op).2.hbm (128 * v) = some 1 ∧ (s.rmw d c .die (128 * w) 4 op).2.dies[d.val].l2Lines = [w] := by
  have hback : s.sectorBack d c (128 * w) = s := by simp [State.sectorBack, State.l1WriteBack, hclean, cellKeep]
  have hlevel : s.atomLevel d c .die (128 * w) 4 = .die := rfl
  have hlen : ∀ x, (leBytes 4 x).length = 4 := fun _ => rfl
  obtain ⟨hget, hlines⟩ := l2Take_crowded (h.clearPoison (128 * w) 4) hw hs
  simp only [State.rmw, hlevel, State.atPoint, hback, State.writeAt, State.writeDie, hlen, linesOf_word, State.l2TakeAll, List.foldl_cons,
    List.foldl_nil]
  exact ⟨hget, by simpa [State.modCore] using hlines⟩

/-- Refutes O34: L2 lists line v, with a dirty byte, in every place of a slice, and an atomic on another line w of that slice writes the byte home,
while L2 then lists w alone. -/
theorem not_atomicAtDie : ¬ Obligations.AtomicAtDie := by
  intro h
  obtain ⟨v, w, hne, hs⟩ := two_lines
  have hclean : ((crowdedState v w).core 0 0).l1Dirty = [] := by
    simp only [crowdedState_core, oneGroup, State.core_modCore_same]
    rfl
  obtain ⟨hget, hlines⟩ := rmw_crowded (crowdedState_crowded v w) hclean hne.symm hs id
  obtain ⟨-, hroom⟩ := h (crowdedState v w) 0 0 (128 * w) 4 id (crowdedState_memoryOk v w) (by decide) (by omega)
  have hlen : ((crowdedState v w).rmw 0 0 .die (128 * w) 4 id).2.dies[(0 : DieId).val].l2Lines.length < l2SliceLines := by
    rw [hlines]
    exact (by decide : 1 < l2SliceLines)
  obtain ⟨-, hhome, -⟩ := hroom hlen
  rw [hhome, (crowdedState_crowded v w).home] at hget
  cases hget

end Sys2Proof.Machine.Storage
end

section
/-! PROOF. The barrier rows: arrivals, observations, and what sets EXPECT (spec 04 R114, spec 08 R206 to R209). -/

namespace Sys2Proof.Machine.Storage

set_option Elab.async false

/-! ## The register that a row names (R206) -/

theorem barrier?_names {c : Ctx} {b : Fin 16} (h : c.Names b) : c.barrier? = some b := by
  obtain ⟨hb, hn⟩ := h
  simp [Ctx.barrier?, hb, hn]

theorem barrier?_none {c : Ctx} (h : 16 ≤ c.aLevel.toNat ∨ c.t.desc.barriers ≤ c.aLevel.toNat) : c.barrier? = none := by
  unfold Ctx.barrier?
  dsimp only
  split
  · exact if_neg (by omega)
  · rfl

theorem arrivals_eq (c : Ctx) (one : Bool) : c.arrivals one = c.arriving one := rfl

theorem takes_iff (x : Barrier) (n : Nat) : x.takes n = true ↔ x.expect ≠ 0 ∧ x.count + n ≤ x.expect := by
  simp [Barrier.takes]

/-! ## Arrivals (R207, R209) -/

/-- An arrival that the register takes (R206), of `bar.arrive`. -/
theorem barArrive_takes {c : Ctx} {b : Fin 16} {one : Bool} (hb : c.Names b) (ht : c.t.barriers[b].takes (c.arriving one) = true) :
    c.barArrive one = .done (((c.arriveRelease b c.s).modGroup c.r
      (fun g => g.write32 c.f.dst c.m (fun _ => c.t.barriers[b].phase.setWidth 32))).putBar c.r.die c.r.core c.t b
      (c.t.barriers[b].after (c.arriving one))) (slot32 c.f c.m (fun _ => c.t.barriers[b].phase.setWidth 32)) := by
  simp only [Ctx.barArrive, barrier?_names hb, arrivals_eq, ht, arrive_eq_after, Bool.not_true, Bool.false_eq_true, if_false]

theorem holdAt_eq (c : Ctx) (g : Group) (b : Fin 16) (phase : BitVec 16) : g.holdAt c.run c.m c.next b phase = c.waiting g b phase := by
  simp only [Group.holdAt, Group.advance, Ctx.waiting]

/-- The same of `bar.sync`, which then waits for the phase to change. -/
theorem barSync_takes {c : Ctx} {b : Fin 16} {one : Bool} (hb : c.Names b) (ht : c.t.barriers[b].takes (c.arriving one) = true) :
    c.barSync one = .placed (((c.arriveRelease b c.s).modGroup c.r (fun g => c.waiting g b c.t.barriers[b].phase)).putBar
      c.r.die c.r.core c.t b (c.t.barriers[b].after (c.arriving one))) .noResult := by
  simp only [Ctx.barSync, barrier?_names hb, arrivals_eq, ht, arrive_eq_after, holdAt_eq, Bool.not_true, Bool.false_eq_true, if_false]

/-- What keeps a register from taking an arrival (R206). -/
abbrev Refuses (b : Fin 16) (one : Bool) (c : Ctx) : Prop := 16 ≤ c.aLevel.toNat ∨ c.t.desc.barriers ≤ c.aLevel.toNat ∨
  (c.Names b ∧ (c.t.barriers[b].expect = 0 ∨ c.t.barriers[b].expect < c.t.barriers[b].count + c.arriving one))

theorem takes_refused {x : Barrier} {n : Nat} (h : x.expect = 0 ∨ x.expect < x.count + n) : x.takes n = false := by
  rw [Bool.eq_false_iff, ne_eq, takes_iff]
  omega

theorem arrival_refused {b : Fin 16} {one : Bool} {c : Ctx} (h : Refuses b one c) : c.barArrive one = c.illegal ∧ c.barSync one = c.illegal := by
  rcases or_assoc.mpr h with h | ⟨hb, h⟩
  · simp only [Ctx.barArrive, Ctx.barSync, barrier?_none h, and_self]
  · simp only [Ctx.barArrive, Ctx.barSync, barrier?_names hb, arrivals_eq, takes_refused h, Bool.not_false, if_true, and_self]

theorem arrives_row {op : Op} {row : Fields → Instr} {one : Bool} (hx : ∀ f s, exec (row f) s = issue op f s fun c => c.barArrive one)
    (b : Fin 16) :
    Ends op row (fun c => c.Names b ∧ c.t.barriers[b].expect ≠ 0 ∧ c.t.barriers[b].count + c.arriving one ≤ c.t.barriers[b].expect)
      (fun c => .done ((c.released op b (fun g => g.write32 c.f.dst c.m (fun _ => c.t.barriers[b].phase.setWidth 32))).putBar
        c.r.die c.r.core c.t b (c.t.barriers[b].after (c.arriving one))) (slot32 c.f c.m (fun _ => c.t.barriers[b].phase.setWidth 32))) ∧
    Raises op false row (Refuses b one) 0x02 0 (fun _ => 0) (fun _ => 0) := by
  refine ⟨fun f s c hr hc => ?_, raises_of hx fun c hc => (arrival_refused hc).1⟩
  rw [hx]
  exact issue_ends hr (barArrive_takes (c := c.go op) hc.1 ((takes_iff ..).mpr hc.2))

theorem syncs_row {op : Op} {row : Fields → Instr} {one : Bool} (hx : ∀ f s, exec (row f) s = issue op f s fun c => c.barSync one)
    (b : Fin 16) :
    Ends op row (fun c => c.Names b ∧ c.t.barriers[b].expect ≠ 0 ∧ c.t.barriers[b].count + c.arriving one ≤ c.t.barriers[b].expect)
      (fun c => .placed ((c.released op b (fun g => c.waiting g b c.t.barriers[b].phase)).putBar
        c.r.die c.r.core c.t b (c.t.barriers[b].after (c.arriving one))) .noResult) ∧
    Raises op false row (Refuses b one) 0x02 0 (fun _ => 0) (fun _ => 0) := by
  refine ⟨fun f s c hr hc => ?_, raises_of hx fun c hc => (arrival_refused hc).2⟩
  rw [hx]
  exact issue_ends hr (barSync_takes (c := c.go op) hc.1 ((takes_iff ..).mpr hc.2))

/-! ## Observations (R207, R209) -/

theorem barWait_ends (b : Fin 16) : Ends .barWait .barWait (fun c => c.Names b ∧ c.t.barriers[b].phase ≠ c.bLevel.setWidth 16)
    (fun c => .done (c.observe b c.s) .noResult) := by
  refine ends_of (fun _ _ => rfl) ?_
  rintro c ⟨hb, hp⟩
  simp only [barrier?_names hb, bne_iff_ne, ne_eq, hp, not_false_eq_true, if_true]

theorem barWait_places (b : Fin 16) : Places .barWait false .barWait
    (fun c => c.Names b ∧ c.t.barriers[b].phase = c.bLevel.setWidth 16 ∧ c.t.barriers[b].expect ≠ 0)
    (fun c => c.waiting (c.popped .barWait) b (c.bLevel.setWidth 16)) (fun _ => .noResult) := by
  refine places_of (F := fun c g => c.waiting g b (c.bLevel.setWidth 16)) (fun _ _ => rfl) ?_
  rintro c ⟨hb, hp, he⟩
  simp only [barrier?_names hb, hp, bne_self_eq_false, Bool.false_eq_true, if_false, he, holdAt_eq]

theorem barWait_raises (b : Fin 16) : Raises .barWait false .barWait
    (fun c => c.Names b ∧ c.t.barriers[b].phase = c.bLevel.setWidth 16 ∧ c.t.barriers[b].expect = 0) 0x02 0 (fun _ => 0) (fun _ => 0) := by
  refine raises_of (fun _ _ => rfl) ?_
  rintro c ⟨hb, hp, he⟩
  simp only [barrier?_names hb, hp, bne_self_eq_false, Bool.false_eq_true, if_false, he, if_true]
  rfl

theorem barTest_ends (b : Fin 16) : Ends .barTest .barTest (fun c => c.Names b ∧ c.t.barriers[b].phase ≠ c.bLevel.setWidth 16)
    (fun c => Ctx.result32 { c with s := c.observe b c.s } (fun _ => 1)) := by
  refine ends_of (fun _ _ => rfl) ?_
  rintro c ⟨hb, hp⟩
  have hit : (c.t.barriers[b].phase != c.bLevel.setWidth 16) = true := by simpa using hp
  simp only [barrier?_names hb, hit, if_true]

theorem barTest_leaves (b : Fin 16) :
    Leaves32If .barTest .barTest (fun c => c.Names b ∧ c.t.barriers[b].phase = c.bLevel.setWidth 16) (fun _ _ => 0) := by
  refine leaves32If_of (fun _ _ => rfl) ?_
  rintro c ⟨hb, hp⟩
  simp only [barrier?_names hb, hp, bne_self_eq_false, Bool.false_eq_true, if_false]

theorem barPhase_ends (b : Fin 16) : Ends .barPhase .barPhase (fun c => c.Names b)
    (fun c => Ctx.result32 { c with s := c.observe b c.s } (fun _ => c.t.barriers[b].phase.setWidth 32)) := by
  refine ends_of (fun _ _ => rfl) fun c hb => ?_
  simp only [barrier?_names hb]

/-- Off the chain barrier an observation acquires nothing and an arrival releases within the core; on it both reach the die (R114, R209). -/
theorem chain_scopes (c : Ctx) (b : Fin 16) (s : State) :
    (¬ (c.t.desc.halo = true ∧ b = 15) → c.observe b s = s ∧ c.arriveRelease b s = s.releaseBy c.r .core ∧
      (s.NoneWaits c.r → c.arriveRelease b s = s)) ∧
    (c.t.desc.halo = true → b = 15 → c.observe b s = s.acquireAt c.r.die c.r.core .die ∧ c.arriveRelease b s = s.releaseBy c.r .die) := by
  have hchain : c.onChain b = true ↔ c.t.desc.halo = true ∧ b = 15 := by simp [Ctx.onChain]
  constructor
  · intro h
    rw [← hchain] at h
    have hrel : c.arriveRelease b s = s.releaseBy c.r .core := by simp only [Ctx.arriveRelease, h, if_false, Bool.false_eq_true]
    exact ⟨if_neg h, hrel, fun hn => hrel.trans (releaseBy_none hn)⟩
  · intro hh hb
    have h := hchain.mpr ⟨hh, hb⟩
    exact ⟨if_pos h, by simp only [Ctx.arriveRelease, h, if_true]⟩

/-! ## EXPECT (R208) -/

theorem barinit_ends (b : Fin 16) : Ends .barinit .barinit (fun c => c.Names b ∧ c.t.barriers[b].count = 0 ∧ c.bLevel.toNat ≤ 65535 ∧
      (c.bLevel = 0 → c.t.barriers[b].pend = 0))
    (fun c => .done (c.s.putBar c.r.die c.r.core c.t b ⟨c.bLevel.toNat, 0, c.t.barriers[b].phase, c.t.barriers[b].pend⟩) .noResult) := by
  refine ends_of (fun _ _ => rfl) ?_
  rintro c ⟨hb, hc, hn, hp⟩
  have hok : ¬ (c.t.barriers[b].count ≠ 0 ∨ 65535 < c.bLevel.toNat ∨ (c.bLevel.toNat = 0 ∧ 0 < c.t.barriers[b].pend)) := by
    rintro (h | h | ⟨h0, h⟩)
    · exact h hc
    · omega
    · exact absurd (hp (BitVec.eq_of_toNat_eq h0)) (by omega)
  simp only [barrier?_names hb]
  rw [if_neg hok]

theorem barinit_raises (b : Fin 16) : Raises .barinit false .barinit (fun c => c.Names b ∧ (c.t.barriers[b].count ≠ 0 ∨
    65535 < c.bLevel.toNat ∨ (c.bLevel = 0 ∧ c.t.barriers[b].pend ≠ 0))) 0x02 0 (fun _ => 0) (fun _ => 0) := by
  refine raises_of (fun _ _ => rfl) ?_
  rintro c ⟨hb, h⟩
  have hbad : c.t.barriers[b].count ≠ 0 ∨ 65535 < c.bLevel.toNat ∨ (c.bLevel.toNat = 0 ∧ 0 < c.t.barriers[b].pend) :=
    h.imp_right (Or.imp_right fun ⟨h0, hp⟩ => ⟨by rw [h0]; rfl, Nat.pos_of_ne_zero hp⟩)
  simp only [barrier?_names hb]
  rw [if_pos hbad]
  rfl

theorem barexp_ends (b : Fin 16) (n : Nat) (h1 : 1 ≤ n) (h2 : n ≤ 65535) : Ends .barexp .barexp
    (fun c => c.Names b ∧ (c.t.barriers[b].expect : Int) + c.bLevel.toInt = n)
    (fun c => .done (c.s.putBar c.r.die c.r.core c.t b
      (if n ≤ c.t.barriers[b].count then ⟨n, 0, c.t.barriers[b].phase + 1, c.t.barriers[b].pend⟩
       else ⟨n, c.t.barriers[b].count, c.t.barriers[b].phase, c.t.barriers[b].pend⟩)) .noResult) := by
  refine ends_of (fun _ _ => rfl) ?_
  rintro c ⟨hb, hn⟩
  have hok : ¬ ((n : Int) < 1 ∨ 65535 < (n : Int)) := by omega
  simp only [barrier?_names hb, hn, Int.toNat_natCast]
  rw [if_neg hok]
  rfl

theorem barexp_raises (b : Fin 16) : Raises .barexp false .barexp (fun c => c.Names b ∧
    ((c.t.barriers[b].expect : Int) + c.bLevel.toInt < 1 ∨ 65535 < (c.t.barriers[b].expect : Int) + c.bLevel.toInt)) 0x02 0
    (fun _ => 0) (fun _ => 0) := by
  refine raises_of (fun _ _ => rfl) ?_
  rintro c ⟨hb, h⟩
  simp only [barrier?_names hb]
  rw [if_pos h]
  rfl

/-- Settles O20: each row by the register that it names and what that register takes. -/
theorem barrierRows : Obligations.BarrierRows :=
  ⟨⟨fun b one => by cases one <;> exact arrives_row (fun _ _ => rfl) b, fun b one => by cases one <;> exact syncs_row (fun _ _ => rfl) b,
    fun b => ⟨barWait_ends b, barWait_places b, barWait_raises b, barTest_ends b, barTest_leaves b, barPhase_ends b⟩, chain_scopes⟩,
    fun b => ⟨barinit_ends b, barinit_raises b, barexp_ends b, barexp_raises b⟩⟩

end Sys2Proof.Machine.Storage
end

section
/-! PROOF. Atomics at their issue: the checks passed, the lanes performed in ascending order, and what an operation leaves (spec 04 R104, R113,
spec 09 R232, R233). -/

namespace Sys2Proof.Machine.Storage

set_option Elab.async false

/-- A global atomic whose lanes are all aligned and translated. -/
theorem atomic_reaches {c : Ctx} {n : Nat} {xs : List (Lane × Translated)} (op : Lane → Nat → Nat)
    (h : c.Reaches .atomic n (fun i => c.a64 i + c.f.imm.signExtend 64) xs) : c.atomic n op = c.atomics n xs op := by
  have hcheck : c.checkGlobal .atomic n c.ea = .ok xs := checkGlobal_ok h
  simp only [Ctx.atomic, Ctx.atomics, hcheck, beq_iff_eq]

/-- A scratchpad atomic whose lanes are all aligned and lie in the team's storage. -/
theorem atomicSpad_reaches {c : Ctx} {n : Nat} (op : Lane → Nat → Nat) (h : c.ReachesSpad n (fun i => c.a32 i + c.f.imm)) :
    c.atomicSpad n op =
      let run := c.atomLanesSpad n op
      let bad := maskOf (fun i => inMask c.m i && (c.s.core c.r.die c.r.core).spadPoisoned c.t (c.a32 i + c.f.imm).toNat n)
      c.launchFlight (c.acquire run.s) (c.flight true (n / 4) bad (lowestAddr bad (fun i => (c.a32 i + c.f.imm).setWidth 64))
        (lanes (laneValue run.olds))) := by
  have hcheck : c.checkSpad n c.eaSpad = none := checkSpad_none h
  simp only [Ctx.atomicSpad, hcheck]
  rfl

theorem atomOf_integer (a b : Word) : atomOf 0 a b = a + b ∧ (atomOf 1 a b).toInt = min a.toInt b.toInt ∧
    (atomOf 2 a b).toInt = max a.toInt b.toInt ∧ (atomOf 3 a b).toNat = min a.toNat b.toNat ∧ (atomOf 4 a b).toNat = max a.toNat b.toNat ∧
    atomOf 5 a b = a &&& b ∧ atomOf 6 a b = a ||| b ∧ atomOf 7 a b = a ^^^ b := by
  have hmins : atomOf 1 a b = if b.slt a then b else a := rfl
  have hmaxs : atomOf 2 a b = if a.slt b then b else a := rfl
  have hminu : atomOf 3 a b = if b.ult a then b else a := rfl
  have hmaxu : atomOf 4 a b = if a.ult b then b else a := rfl
  refine ⟨rfl, ?_, ?_, ?_, ?_, rfl, rfl, rfl⟩
  · rw [hmins, BitVec.slt_eq_decide]; split <;> simp_all; omega
  · rw [hmaxs, BitVec.slt_eq_decide]; split <;> simp_all; omega
  · rw [hminu, BitVec.ult_eq_decide]; split <;> simp_all; omega
  · rw [hmaxu, BitVec.ult_eq_decide]; split <;> simp_all; omega

theorem casNew_word (c : Ctx) (i : Lane) (old : Nat) (h : c.f.sub.getLsbD 0 = false) :
    (c.f.sub.getLsbD 1 = true → c.casNew i old = (c.b32 i).toNat) ∧
    (c.f.sub.getLsbD 1 = false → c.casNew i old = if old = (c.b32 i).toNat then (c.c32 i).toNat else old) := by
  constructor <;> intro hs <;> simp only [Ctx.casNew, h, hs, if_true, if_false, Bool.false_eq_true]

/-- `atom`, `red` and `atomf`: a row that applies an operation on words to each lane's word. -/
theorem atomicRow_ends {op : Op} {row : Fields → Instr} {word : Ctx → Word → Word → Word}
    (hx : ∀ f s, exec (row f) s = issue op f s fun c => c.atomic 4 (fun i => onWords (word c) (c.b32 i))) (xs : List (Lane × Translated)) :
    Ends op row (fun c => c.Reaches .atomic 4 (fun i => c.a64 i + c.f.imm.signExtend 64) xs) (fun c =>
      c.atomics 4 xs (fun i old => (word c (BitVec.ofNat 32 old) (c.b32 i)).toNat)) :=
  ends_of hx fun _ h => atomic_reaches _ h

theorem atomcas_ends (xs : List (Lane × Translated)) : Ends .atomcas .atomcas (fun c => c.f.sub.getLsbD 2 = false ∧
      c.Reaches .atomic (if c.f.sub.getLsbD 0 then 8 else 4) (fun i => c.a64 i + c.f.imm.signExtend 64) xs) (fun c =>
    c.atomics (if c.f.sub.getLsbD 0 then 8 else 4) xs c.casNew) := by
  refine ends_of (fun _ _ => rfl) ?_
  rintro c ⟨hglobal, h⟩
  simp only [hglobal, Bool.false_eq_true, if_false]
  exact atomic_reaches _ h

/-- The scratchpad atomics `atoms` and `atomcas` with SUB[2] set (R110, R233). -/
theorem spadAtomics_end : ∀ p ∈ ([(.atoms, .atoms), (.atomcas, .atomcas)] : List (Op × (Fields → Instr))),
    Ends p.1 p.2 (fun c => (p.1 = .atomcas → c.f.sub.getLsbD 2 = true) ∧
        c.ReachesSpad (if p.1 = .atomcas ∧ c.f.sub.getLsbD 0 = true then 8 else 4) (fun i => c.a32 i + c.f.imm)) (fun c =>
      let n := if p.1 = .atomcas ∧ c.f.sub.getLsbD 0 = true then 8 else 4
      let run := c.atomLanesSpad n (fun i old => if p.1 = .atomcas then c.casNew i old
        else (atomOf c.f.sub (BitVec.ofNat 32 old) (c.b32 i)).toNat)
      let bad := maskOf (fun i => inMask c.m i && (c.s.core c.r.die c.r.core).spadPoisoned c.t (c.a32 i + c.f.imm).toNat n)
      c.launchFlight (c.acquire run.s) (c.flight true (n / 4) bad (lowestAddr bad (fun i => (c.a32 i + c.f.imm).setWidth 64))
        (lanes (laneValue run.olds)))) := by
  simp only [List.forall_mem_cons, List.not_mem_nil, false_implies, implies_true, and_true]
  constructor <;> refine ends_of (fun _ _ => rfl) ?_
  · rintro c ⟨-, h⟩
    simp only [reduceCtorEq, false_and, if_false] at h ⊢
    exact atomicSpad_reaches _ h
  · rintro c ⟨hspad, h⟩
    simp only [true_and, if_true] at h ⊢
    simp only [hspad, if_true]
    exact atomicSpad_reaches _ h

/-- Settles O33: each row by the checks that it passes, and what its operation makes of a word. -/
theorem atomicIssues : Obligations.AtomicIssues := by
  refine ⟨?_, atomcas_ends, spadAtomics_end, atomOf_integer, casNew_word⟩
  simp only [List.forall_mem_cons, List.not_mem_nil, false_implies, implies_true, and_true]
  exact ⟨atomicRow_ends fun _ _ => rfl, atomicRow_ends fun _ _ => rfl, atomicRow_ends fun _ _ => rfl⟩

end Sys2Proof.Machine.Storage
end

section
/-! PROOF. The arrival of an engine operation (spec 04 R115, spec 08 R206, spec 09 R236, R237): no operation over memory changes the operations of a
die or the teams of a core, and what the arrival makes of the team's barrier register and its error register. -/

namespace Sys2Proof.Machine.Storage

set_option Elab.async false

/-! ## The operations of a die and the teams of its cores, and what leaves them as they are -/

/-- The engine operations of a die, and the teams of each of its cores. -/
def unitsOf (s : State) (d : DieId) : List EngineOp × (CoreId → List Team) := (s.dies[d.val].engines, fun c => (s.core d c).teams)

theorem unitsOf_congr {s t : State} (h : t.dies = s.dies) : unitsOf t = unitsOf s := by
  funext d; simp only [unitsOf, State.core, h]

theorem unitsOf_foldl {α : Type} (xs : List α) (f : State → α → State) (s : State) (h : ∀ t x, unitsOf (f t x) = unitsOf t) :
    unitsOf (xs.foldl f s) = unitsOf s := by
  induction xs generalizing s with
  | nil => rfl
  | cons x xs ih => rw [List.foldl_cons, ih, h]

/-- A change of a die that leaves its operations and its cores. -/
theorem unitsOf_modDie (s : State) (d : DieId) (f : Die → Die) (h : ∀ x, (f x).engines = x.engines ∧ (f x).cores = x.cores) :
    unitsOf (s.modDie d f) = unitsOf s := by
  funext e
  by_cases hd : d = e
  · subst hd
    simp only [unitsOf, State.core_def, State.modDie_same, h]
  · simp only [unitsOf, State.core_def, State.modDie_other s d e f hd]

theorem engines_modCore (s : State) (d : DieId) (c : CoreId) (f : Core → Core) (e : DieId) :
    (s.modCore d c f).dies[e.val].engines = s.dies[e.val].engines := by
  by_cases hd : d = e
  · subst hd; simp [State.modCore]
  · simp [State.modCore, State.modDie_other _ _ _ _ hd]

/-- A change of a core that leaves its teams. -/
theorem unitsOf_modCore (s : State) (d : DieId) (c : CoreId) (f : Core → Core) (h : ∀ k, (f k).teams = k.teams) :
    unitsOf (s.modCore d c f) = unitsOf s := by
  funext e
  refine Prod.ext (engines_modCore s d c f e) (funext fun b => ?_)
  show ((s.modCore d c f).core e b).teams = (s.core e b).teams
  by_cases hc : d = e ∧ c = b
  · obtain ⟨rfl, rfl⟩ := hc
    rw [State.core_modCore_same, h]
  · rw [State.core_modCore_other s d e c b f (not_and_or.mp hc)]

@[simp] theorem unitsOf_setGroup (s : State) (r : GRef) (g : Group) : unitsOf (s.setGroup r g) = unitsOf s :=
  unitsOf_modCore s _ _ _ fun _ => rfl

@[simp] theorem unitsOf_rouse (s : State) (r : GRef) (f : Group → Group) : unitsOf (s.rouse r f) = unitsOf s := by
  unfold State.rouse; split
  · rfl
  · exact unitsOf_setGroup s _ _

/-! ### Memory -/

@[simp] theorem unitsOf_homePutCells (s : State) (xs : Cells) : unitsOf (s.homePutCells xs) = unitsOf s := by
  unfold State.homePutCells
  rw [unitsOf_foldl]
  · rfl
  · exact fun _ _ => rfl

@[simp] theorem unitsOf_l2Move (s : State) (d : DieId) (p : Nat → Bool) : unitsOf (s.l2Move d p) = unitsOf s := by
  unfold State.l2Move
  simp only
  split
  · rfl
  · rw [unitsOf_modDie, unitsOf_homePutCells]; exact fun _ => ⟨rfl, rfl⟩

@[simp] theorem unitsOf_takeBack (s : State) (ds : List DieId) (lines : Nat → Bool) : unitsOf (s.takeBack ds lines) = unitsOf s := by
  have moved : unitsOf (s.l2MoveOn ds (fun a => lines (a / 128))) = unitsOf s := unitsOf_foldl ds _ s fun t d => unitsOf_l2Move t d _
  rw [← moved]
  funext d
  simp only [unitsOf, State.core_def, State.takeBack, Fin.getElem_fin, Vector.getElem_ofFn]
  split <;> rfl

@[simp] theorem unitsOf_l2WriteBack (s : State) (d : DieId) (p : Nat → Bool) : unitsOf (s.l2WriteBack d p) = unitsOf s := by
  unfold State.l2WriteBack
  simp only
  split
  · rfl
  · rw [unitsOf_l2Move, unitsOf_takeBack]

@[simp] theorem unitsOf_l2Take (s : State) (d : DieId) (line : Nat) : unitsOf (s.l2Take d line) = unitsOf s := by
  unfold State.l2Take
  simp only
  split
  · rfl
  · split
    · rw [unitsOf_modDie, unitsOf_l2WriteBack]
      · rfl
      · exact fun _ => ⟨rfl, rfl⟩
    · exact unitsOf_modDie _ _ _ fun _ => ⟨rfl, rfl⟩

@[simp] theorem unitsOf_l1WriteBack (s : State) (d : DieId) (c : CoreId) (p : Nat → Bool) : unitsOf (s.l1WriteBack d c p) = unitsOf s := by
  have taken : ∀ lines : List Nat, unitsOf (s.l2TakeAll d lines) = unitsOf s := fun lines => unitsOf_foldl lines _ s fun t l => unitsOf_l2Take t d l
  unfold State.l1WriteBack
  simp only
  split
  · rfl
  · rw [unitsOf_modCore, unitsOf_modDie, taken]
    · exact fun _ => ⟨rfl, rfl⟩
    · exact fun _ => rfl

@[simp] theorem unitsOf_fillSector (s : State) (d : DieId) (c : CoreId) (sec : Nat) : unitsOf (s.fillSector d c sec) = unitsOf s := by
  unfold State.fillSector; split
  · rfl
  · rw [unitsOf_modCore, unitsOf_l2Take]; exact fun _ => rfl

theorem unitsOf_acquireAt (s : State) (d : DieId) (c : CoreId) (lvl : Level) : unitsOf (s.acquireAt d c lvl) = unitsOf s := by
  have fill : ∀ (secs : List Nat) (p : Nat → Bool),
      unitsOf (secs.foldl (fun t sec => t.fillSector d c sec) ((s.l1WriteBack d c p).modCore d c (fun k => { k with l1 := [] }))) = unitsOf s :=
    fun secs p => by
      rw [unitsOf_foldl secs _ _ fun t sec => unitsOf_fillSector t d c sec, unitsOf_modCore, unitsOf_l1WriteBack]
      exact fun _ => rfl
  cases lvl with
  | core => rfl
  | die | home => exact fill _ _

/-! ## The arrival -/

theorem team?_units {s t : State} (h : unitsOf t = unitsOf s) (d : DieId) (c : CoreId) (uid : Nat) : t.team? d c uid = s.team? d c uid := by
  have : (t.core d c).teams = (s.core d c).teams := congrFun (congrArg Prod.snd (congrFun h d)) c
  rw [State.team?, State.team?, this]

theorem engines_units {s t : State} (h : unitsOf t = unitsOf s) (d : DieId) : t.dies[d.val].engines = s.dies[d.val].engines :=
  congrArg Prod.fst (congrFun h d)

theorem team?_uid {s : State} {d : DieId} {c : CoreId} {uid : Nat} {t : Team} (h : s.team? d c uid = some t) : t.uid = uid := by
  simpa using List.find?_some h

/-- A change of a resident team. -/
theorem modTeam_resident {s : State} {d : DieId} {c : CoreId} {uid : Nat} {t : Team} (h : s.team? d c uid = some t) (f : Team → Team)
    (hf : ∀ x, (f x).uid = x.uid) (e : DieId) :
    (s.modTeam d c uid f).team? d c uid = some (f t) ∧ (s.modTeam d c uid f).dies[e.val].engines = s.dies[e.val].engines := by
  have hmod : s.modTeam d c uid f = s.modCore d c (fun k => { k with teams := k.teams.map (fun t => if t.uid == uid then f t else t) }) := by
    rw [State.modTeam, h, Option.isSome_some, if_pos rfl]
  rw [hmod]
  refine ⟨?_, engines_modCore ..⟩
  have hsame : (fun x => (if x.uid == uid then f x else x).uid == uid) = (fun x : Team => x.uid == uid) := by
    funext x
    split <;> simp [hf]
  rw [State.team?] at h
  rw [State.team?, State.core_modCore_same, List.find?_map]
  simp only [Function.comp_def, hsame, h, Option.map_some, List.find?_some h, if_true]

/-- A barrier register written in a resident team that is in no halo chain. -/
theorem putBarOne_resident {s : State} {d : DieId} {c : CoreId} {uid : Nat} {t : Team} (h : s.team? d c uid = some t)
    (hh : t.desc.halo = false) (b : Fin 16) (x : Barrier) (e : DieId) :
    (s.putBarOne d c uid b x).team? d c uid = some { t with barriers := t.barriers.set b x } ∧
    (s.putBarOne d c uid b x).dies[e.val].engines = s.dies[e.val].engines := by
  obtain ⟨hteam, heng⟩ := modTeam_resident h (fun t => { t with barriers := t.barriers.set b x }) (fun _ => rfl) e
  unfold State.putBarOne
  simp only [hteam, hh, Bool.false_and, Bool.false_eq_true, if_false]
  have hroused := unitsOf_foldl ((s.modTeam d c uid (fun t => { t with barriers := t.barriers.set b x })).groupsOf d c
    { t with barriers := t.barriers.set b x }) (fun u p => u.rouse p.1 (fun g => g.releaseBar (t.barriers.set b x)))
    (s.modTeam d c uid (fun t => { t with barriers := t.barriers.set b x })) fun u p => unitsOf_rouse u p.1 _
  exact ⟨(team?_units hroused d c uid).trans hteam, (engines_units hroused e).trans heng⟩

theorem putBar_plain {s : State} {d : DieId} {c : CoreId} {t : Team} (hh : t.desc.halo = false) (b : Fin 16) (x : Barrier) :
    s.putBar d c t b x = s.putBarOne d c t.uid b x := by
  have hone : s.barTeams d c t b = [(c, t.uid)] := by simp [State.barTeams, hh]
  rw [State.putBar, hone, List.foldl_cons, List.foldl_nil]

/-- An engine arrival at a register of a resident team that is in no halo chain (R115, R206, Table K-60). -/
theorem arriveEngine_resident {s : State} {d : DieId} {c : CoreId} {uid : Nat} {t : Team} (h : s.team? d c uid = some t)
    (hh : t.desc.halo = false) (b : Fin 16) (code : Byte) (e : DieId) :
    (s.arriveEngine d c uid b code).team? d c uid = some { t with
      berr := t.berr.set b (noteError t.berr[b] code t.barriers[b].phase)
      barriers := t.barriers.set b { t.barriers[b].arrive 1 with pend := t.barriers[b].pend - 1 } } ∧
    (s.arriveEngine d c uid b code).dies[e.val].engines = s.dies[e.val].engines := by
  obtain rfl := team?_uid h
  have hany : s.teamAnywhere? d c t.uid = some t := by rw [State.teamAnywhere?, h]
  obtain ⟨hnoted, hkept⟩ := modTeam_resident h (fun t' => { t' with berr := t'.berr.set b (noteError t'.berr[b] code t.barriers[b].phase) })
    (fun _ => rfl) e
  simp only [State.arriveEngine, hany, putBar_plain hh]
  obtain ⟨hteam, heng⟩ := putBarOne_resident hnoted hh b { t.barriers[b].arrive 1 with pend := t.barriers[b].pend - 1 } e
  exact ⟨hteam, heng.trans hkept⟩

theorem noteError_zero (w : Word) (phase : BitVec 16) : noteError w 0 phase = w := rfl

theorem noteError_first {w : Word} {code : Byte} (phase : BitVec 16) (hc : code ≠ 0) (hw : w.getLsbD 31 = false) :
    noteError w code phase = 0x80000000 ||| (phase.setWidth 32 <<< 8) ||| code.setWidth 32 := by
  simp only [noteError, beq_iff_eq, hc, hw, if_false, Bool.false_eq_true]

/-- The end of an operation that arrives at a barrier register of a resident team that is in no halo chain (R115, R236, R237). -/
theorem complete_arrives (s : State) (d : DieId) (op : EngineOp) (lvl : Level) (code : Byte) (b : Fin 16) (t : Team)
    (hb : op.completion = .bar b) (h : s.team? d op.core op.team = some t) (hh : t.desc.halo = false) :
    (s.complete d op lvl code).dies[d].engines = s.dies[d].engines.filter (fun e => e.id != op.id) ∧
    ∃ t', (s.complete d op lvl code).team? d op.core op.team = some t' ∧
      t'.barriers[b] = { t.barriers[b].arrive 1 with pend := t.barriers[b].pend - 1 } ∧
      (code = 0 → t'.berr[b] = t.berr[b]) ∧
      (code ≠ 0 → (t.berr[b]).getLsbD 31 = false →
        t'.berr[b] = 0x80000000 ||| ((t.barriers[b].phase.setWidth 32) <<< 8) ||| code.setWidth 32) := by
  have hunits := unitsOf_acquireAt (s.dropEngine d op.id) d op.core lvl
  have hteam : ((s.dropEngine d op.id).acquireAt d op.core lvl).team? d op.core op.team = some t := by
    rw [team?_units hunits, State.team?, State.dropEngine, State.core_modDie _ _ _ _ _ rfl]
    exact h
  obtain ⟨harrived, heng⟩ := arriveEngine_resident hteam hh b code d
  have hcomplete : s.complete d op lvl code =
      ((s.dropEngine d op.id).acquireAt d op.core lvl).arriveEngine d op.core op.team b code := by simp only [State.complete, hb]
  rw [hcomplete]
  refine ⟨?_, _, harrived, by simp, ?_, ?_⟩
  · rw [Fin.getElem_fin, heng, engines_units hunits, State.dropEngine, State.modDie_same]
    rfl
  · rintro rfl
    simpa using noteError_zero t.berr[b] t.barriers[b].phase
  · intro hc hw
    simpa using noteError_first t.barriers[b].phase hc hw

end Sys2Proof.Machine.Storage
end

section
/-! PROOF. The completions of engine operations (spec 01 R23, spec 04 R115 to R122, spec 09 R236 to R250, spec 10 R266): what ends an operation
before it moves, what it moves as it ends, and the code of its end. -/

namespace Sys2Proof.Machine.Storage

set_option Elab.async false

/-! ## Operations of Caravan (R72, R238, R239, R250) -/

/-- The two ranges of a copy lie in one space and overlap. -/
theorem lap_iff (s d : Bool) (o : Bool) : ((!s) == (!d) && o) = true ↔ s = d ∧ o = true := by
  cases s <;> cases d <;> simp

theorem copyRefused_fails {s : State} {d : DieId} {op : EngineOp} {dir : BitVec 3} {e : Byte} (h : s.CopyFails d op dir e) :
    s.copyRefused d op dir = some e := by
  simp only [State.copyRefused, lap_iff]
  rcases h with ⟨hlap, rfl⟩ | ⟨hlap, hsrc, hfault⟩ | ⟨hlap, hsrc, hdst, hfault⟩
  · rw [if_pos hlap]
  · rw [if_neg hlap]
    simp only [hsrc, hfault, Bool.not_false, if_true]
  · rw [if_neg hlap]
    cases hd : dirSrcGlobal dir
    · simp only [hsrc hd, hdst, hfault, Bool.not_false, if_true]
    · simp only [hdst, hfault, Bool.not_false, Bool.not_true, Bool.false_eq_true, if_true, if_false]

theorem copyRefused_goes {s : State} {d : DieId} {op : EngineOp} {dir : BitVec 3} (h : s.CopyGoes d op dir) :
    s.copyRefused d op dir = none := by
  obtain ⟨hlap, hsrc, hdst⟩ := h
  have hfirst : (if (!dirSrcGlobal dir) = true then s.sideFault d op op.src.toNat op.len else none) = none := by
    split
    · rename_i hd
      exact hsrc (by simpa using hd)
    · rfl
  simp only [State.copyRefused, lap_iff]
  rw [if_neg hlap, hfirst]
  simp only
  split
  · rename_i hd
    exact hdst (by simpa using hd)
  · rfl

theorem endMove_refused {s : State} {d : DieId} {op : EngineOp} {e : Byte} (h : s.refusedOp d op = some e) (ab : Option Abort) :
    s.endMove d op ab = s.complete d op .die e := by
  simp only [State.endMove, h]

theorem endMove_goes {s : State} {d : DieId} {op : EngineOp} {ab : Option Abort} (h : s.refusedOp d op = none) (hm : op.MayEnd ab) :
    s.endMove d op ab = (s.moveRest d op ab).1.complete d op .die (s.moveRest d op ab).2 := by
  have hends : ¬ (ab.isNone && op.code == 0 && !op.moved) = true := by
    intro hlasts
    simp only [Bool.and_eq_true, Option.isNone_iff_eq_none, beq_iff_eq, Bool.not_eq_true'] at hlasts
    obtain ⟨⟨hab, hcode⟩, hmoved⟩ := hlasts
    rcases hm with hm | hm | hm
    · exact hm hab
    · exact hm hcode
    · rw [hmoved] at hm; cases hm
  simp only [State.endMove, h]
  rw [if_neg hends]

/-- An operation of Caravan whose first check is that of a copy (R23, R238). -/
theorem endMove_copy {s : State} {d : DieId} {op : EngineOp} {dir : BitVec 3} (hop : s.refusedOp d op = s.copyRefused d op dir) (ab : Option Abort) :
    (∀ e, s.CopyFails d op dir e → s.endMove d op ab = s.complete d op .die e) ∧
    (s.CopyGoes d op dir → op.MayEnd ab → s.endMove d op ab = (s.moveRest d op ab).1.complete d op .die (s.moveRest d op ab).2) :=
  ⟨fun _ h => endMove_refused (hop.trans (copyRefused_fails h)) ab, fun h hm => endMove_goes (hop.trans (copyRefused_goes h)) hm⟩

theorem cpy_completes (s : State) (d : DieId) (op : EngineOp) (dir : BitVec 3) (ab : Option Abort) (hid : s.engine? d op.id = some op)
    (hk : op.kind = .cpy dir) (hn : op.completion ≠ .nomad) (hs : dirSpad dir = true → s.stopped d op = false) :
    (∀ e, s.CopyFails d op dir e → exec (.cpyComplete d op.id ab) s = .next (s.complete d op .die e)) ∧
    (s.CopyGoes d op dir → op.MayEnd ab →
      exec (.cpyComplete d op.id ab) s = .next ((s.moveRest d op ab).1.complete d op .die (s.moveRest d op ab).2)) := by
  have hruns : (dirSpad dir && s.stopped d op || op.completion == .nomad) = false := by
    cases hd : dirSpad dir <;> simp_all
  have hexec : exec (.cpyComplete d op.id ab) s = .next (s.endMove d op ab) := by
    show execCpyComplete d op.id ab s = _
    simp only [execCpyComplete, hid, hk, hruns, Bool.false_eq_true, if_false]
  obtain ⟨hfails, hgoes⟩ := endMove_copy (s := s) (d := d) (op := op) (dir := dir) (by simp only [State.refusedOp, hk]) ab
  exact ⟨fun e h => hexec.trans (congrArg _ (hfails e h)), fun h hm => hexec.trans (congrArg _ (hgoes h hm))⟩

theorem input_completes (s : State) (d : DieId) (op : EngineOp) (ab : Option Abort) (hid : s.engine? d op.id = some op)
    (hk : op.kind = .input) (hs : s.stopped d op = false) :
    (∀ e, s.CopyFails d op 0 e → exec (.declaredInputComplete d op.id ab) s = .next (s.complete d op .die e)) ∧
    (s.CopyGoes d op 0 → op.MayEnd ab →
      exec (.declaredInputComplete d op.id ab) s = .next ((s.moveRest d op ab).1.complete d op .die (s.moveRest d op ab).2)) := by
  have hexec : exec (.declaredInputComplete d op.id ab) s = .next (s.endMove d op ab) := by
    show execDeclaredInputComplete d op.id ab s = _
    simp only [execDeclaredInputComplete, hid, hk, hs, Bool.false_eq_true, if_false]
  obtain ⟨hfails, hgoes⟩ := endMove_copy (s := s) (d := d) (op := op) (dir := 0) (by simp only [State.refusedOp, hk]) ab
  exact ⟨fun e h => hexec.trans (congrArg _ (hfails e h)), fun h hm => hexec.trans (congrArg _ (hgoes h hm))⟩

theorem cpyt_completes (s : State) (d : DieId) (op : EngineOp) (dir : BitVec 3) (ab : Option Abort) (hid : s.engine? d op.id = some op)
    (hk : op.kind = .cpyt dir) (hs : dirSpad dir = true → s.stopped d op = false) (hm : op.MayEnd ab) :
    exec (.cpytCopyComplete d op.id ab) s = .next ((s.moveRest d op ab).1.complete d op .die (s.moveRest d op ab).2) := by
  have hruns : (dirSpad dir && s.stopped d op) = false := by
    cases hd : dirSpad dir <;> simp_all
  show execCpytCopyComplete d op.id ab s = _
  simp only [execCpytCopyComplete, hid, hk, hruns, Bool.false_eq_true, if_false, endMove_goes (by simp only [State.refusedOp, hk]) hm]

theorem xsend_completes (s : State) (d : DieId) (op : EngineOp) (spad : Bool) (target : DieId) (n : Nat) (ab : Option Abort)
    (hid : s.engine? d op.id = some op) (hk : op.kind = .xsend spad target n) (hs : spad = true → s.stopped d op = false) :
    (target ∉ s.stepSet ⟨op.asid, op.grid⟩ → exec (.xsendComplete d op.id ab) s = .next (s.complete d op .die 0x07)) ∧
    (target ∈ s.stepSet ⟨op.asid, op.grid⟩ → op.MayEnd ab →
      exec (.xsendComplete d op.id ab) s = .next ((s.moveRest d op ab).1.complete d op .die (s.moveRest d op ab).2)) := by
  have hruns : (spad && s.stopped d op) = false := by
    cases hd : spad <;> simp_all
  have hexec : exec (.xsendComplete d op.id ab) s = .next (s.endMove d op ab) := by
    show execXsendComplete d op.id ab s = _
    simp only [execXsendComplete, hid, hk, hruns, Bool.false_eq_true, if_false]
  refine ⟨fun h => hexec.trans (congrArg _ (endMove_refused ?_ ab)), fun h hm => hexec.trans (congrArg _ (endMove_goes ?_ hm))⟩
  · simp [State.refusedOp, hk, h, codeNotInSet]
  · simp [State.refusedOp, hk, h]

theorem moveRest_part (s : State) (d : DieId) (op : EngineOp) (ab : Option Abort) : ∃ x : EngineOp,
    s.moveRest d op ab = s.movePart d x op.sent (op.work - op.sent) ∧ x.kind = op.kind ∧ x.src = op.src ∧ x.dst = op.dst ∧ x.len = op.len ∧
    x.code = (match ab with | none => op.code | some a => if op.code = 0 then abortCode a else op.code) := by
  refine ⟨_, rfl, ?_⟩
  cases ab with
  | none => exact ⟨rfl, rfl, rfl, rfl, rfl⟩
  | some a =>
    refine ⟨rfl, rfl, rfl, rfl, ?_⟩
    by_cases h : op.code = 0 <;> simp [EngineOp.joined, h]

theorem joined_eq (op : EngineOp) (code : Byte) : op.joined code = if op.code ≠ 0 then op.code else code := by
  simp only [EngineOp.joined, bne_iff_ne]

theorem movePart_moves (s : State) (d : DieId) (op : EngineOp) (a n : Nat) :
    let u := s.noteEngine d op a n
    (∀ dir, (op.kind = .cpy dir ∨ op.kind = .cpyt dir) →
      let p := u.copyPlan d op (!dirSrcGlobal dir) (!dirDstGlobal dir) op.len a n
      let code := if op.code ≠ 0 then op.code else u.planCode d op p
      s.movePart d op a n = (u.perform d op (op.completion == .nomad) { p with code := code }, code)) ∧
    (op.kind = .input →
      let p := u.copyPlan d op false true op.len a n
      let code := if op.code ≠ 0 then op.code else u.planCode d op p
      s.movePart d op a n = (u.perform d op (op.completion == .nomad) { p with code := code }, code)) ∧
    (∀ spad target k, op.kind = .xsend spad target k →
      let xs := (List.range n).map (fun j => (j, u.engRead d op spad (op.src.toNat + a + j)))
      let code := if op.code ≠ 0 then op.code else firstCode (xs.map (fun p => p.2.map (fun x => (x.1.toNat, x.2))))
      s.movePart d op a n = (u.windowWrite target (op.dst.toNat + a) xs code, code)) := by
  refine ⟨?_, ?_, ?_⟩
  · rintro dir (hk | hk) <;> simp only [State.movePart, State.partPlan, hk, joined_eq]
  · intro hk; simp only [State.movePart, State.partPlan, hk, joined_eq]
  · intro spad target k hk; simp only [State.movePart, hk, joined_eq]

/-! ## Transforms (R242, R243) -/

theorem xform_completes (s : State) (d : DieId) (op : EngineOp) (sub rnd : BitVec 3) (p : Word) (ab : Option Abort)
    (hid : s.engine? d op.id = some op) (hk : op.kind = .xform sub rnd p) :
    (∀ e, s.readRecord d op.asid op.src = .error e → exec (.xformComplete d op.id ab) s = .next (s.complete d op .die e)) ∧
    (∀ x e, s.readRecord d op.asid op.src = .ok x → s.readRecord d op.asid op.dst = .error e →
      exec (.xformComplete d op.id ab) s = .next (s.complete d op .die e)) ∧
    (∀ x y, s.readRecord d op.asid op.src = .ok x → s.readRecord d op.asid op.dst = .ok y →
      (x.spad = true ∨ y.spad = true → s.stopped d op = false) →
      let plan := planXform sub rnd p x y (s.engRead d op)
      let code := s.planCode d op (plan.abort ab)
      exec (.xformComplete d op.id ab) s = .next (((s.noteXform d op x y).perform d op false
        { plan.only (plan.units.drop op.sent) with code := code }).complete d op .die code)) := by
  have hexec : exec (.xformComplete d op.id ab) s = execXformComplete d op.id ab s := rfl
  refine ⟨fun e he => ?_, fun x e hx he => ?_, fun x y hx hy hs => ?_⟩ <;> rw [hexec]
  · simp only [execXformComplete, hid, hk, State.xformPlan, he]
  · simp only [execXformComplete, hid, hk, State.xformPlan, hx, he]
  · have hruns : s.xformStopped d op x y = false := by
      unfold State.xformStopped
      cases hx : x.spad <;> cases hy : y.spad <;> simp_all
    simp only [execXformComplete, hid, hk, State.xformPlan, hx, hy, hruns, Bool.false_eq_true, if_false]

/-! ## Image loads (R241, R266) -/

theorem wload_completes (s : State) (d : DieId) (op : EngineOp) (b : Fin 64) (t : Team) (ab : Option Abort) :
    s.engine? d op.id = some op → op.kind = .wload b → s.wloadWaits d op b = false → (ab ≠ none ∨ op.moved = true) →
    s.opTeam? d op = some t →
    let u := s.modCore d op.core (fun k => k.finishItem op.id)
    ((s.core d op.core).octetMode t (b.val / 8) ≠ some .compute → exec (.wloadComplete d op.id ab) s = .next (u.complete d op .die 0x03)) ∧
    (∀ code : Byte, (s.core d op.core).octetMode t (b.val / 8) = some .compute →
      code = (match ab with | some a => abortCode a | none => (s.imageOf d op).2) →
      exec (.wloadComplete d op.id ab) s = .next (((u.noteEngine d op 0 op.len).modCore d op.core (fun k => k.modBank b (fun x =>
        { x.load (imageReached (s.imageOf d op).1 code s.fresh) with source := some (op.asid, op.src), reloadBad := false }))).freshened.complete
          d op .die code)) := by
  intro hid hk hw hm ht
  have hexec : exec (.wloadComplete d op.id ab) s = execWloadComplete d op.id ab s := rfl
  have hruns : (s.wloadWaits d op b || ab.isNone && !op.moved) = false := by
    rcases hm with hm | hm <;> simp [hw, hm]
  refine ⟨fun hmode => ?_, fun code hmode hcode => ?_⟩ <;> rw [hexec]
  · simp only [execWloadComplete, hid, hk, hruns, ht, Bool.false_eq_true, if_false, bne_iff_ne, hmode, ne_eq, not_false_eq_true, if_true]
  · subst hcode
    cases ab <;> simp only [execWloadComplete, hid, hk, hruns, ht, Bool.false_eq_true, if_false, bne_iff_ne, hmode, ne_eq, not_true_eq_false]

/-! ## Seals (R121, R122, R248) -/

theorem seal_completes (s : State) (d : DieId) (op : EngineOp) (rec_ : Option DWord) (own : Bool) (ab : Option Abort)
    (hid : s.engine? d op.id = some op) :
    (∀ e, op.kind = .seal rec_ own none → s.sealCheck d op.asid op.src op.len rec_ = .error e →
      exec (.sealComplete d op.id none) s = .next (s.complete d op .home e)) ∧
    (∀ a, op.kind = .seal rec_ own none → exec (.sealComplete d op.id (some a)) s = .next (s.complete d op .home (abortCode a))) ∧
    (∀ x, op.kind = .seal rec_ own none → s.sealCheck d op.asid op.src op.len rec_ = .ok x →
      let t := s.readSealed d op rec_ own x
      exec (.sealComplete d op.id none) s = .next (t.endSeal d op x (t.sealCode x (t.sealWatch.getD []).length none))) ∧
    (∀ x y, op.kind = .seal rec_ own (some y) → s.sealCheck d op.asid op.src op.len rec_ = .ok x →
      exec (.sealComplete d op.id ab) s = .next (s.endSeal d op ⟨y.leaves, x.record⟩ (s.sealCode ⟨y.leaves, x.record⟩ y.mark ab))) ∧
    (∀ e y, op.kind = .seal rec_ own (some y) → s.sealCheck d op.asid op.src op.len rec_ = .error e →
      exec (.sealComplete d op.id ab) s = .next (s.endSeal d op ⟨y.leaves, none⟩ e)) := by
  have hexec : ∀ ab, exec (.sealComplete d op.id ab) s = execSealComplete d op.id ab s := fun _ => rfl
  refine ⟨fun e hk hc => ?_, fun a hk => ?_, fun x hk hc => ?_, fun x y hk hc => ?_, fun e y hk hc => ?_⟩ <;> rw [hexec]
  case refine_2 => cases hc : s.sealCheck d op.asid op.src op.len rec_ <;> simp only [execSealComplete, hid, hk, hc]
  all_goals simp only [execSealComplete, hid, hk, hc]

/-! ## Collectives (R249, R287) -/

/-- Who takes part in a collective (R249, R287). -/
theorem participants_spec (s : State) (d : DieId) (k : GridKey) (kind : BitVec 3) (m : Nat) (n : Word) :
    (kind ≠ 3 → (s.outsider d k kind m n = true ↔ d ∉ s.stepSet k) ∧ (s.participants k kind m n).Perm (s.stepSet k)) ∧
    (∀ x, kind = 3 → s.mergeOf k m (expertOf n) = some x → s.participants k kind m n = x.dies ∧
      (s.outsider d k kind m n = true ↔ d ∉ x.dies)) ∧
    (kind = 3 → s.mergeOf k m (expertOf n) = none →
      (s.outsider d k kind m n = true ↔ ∀ e : DieId, ∀ p ∈ s.dies[e].replicas.merging (expertOf n), p.die ≠ d)) := by
  refine ⟨fun hk => ?_, fun x hk hx => ?_, fun hk hx => ?_⟩
  · have hk' : (kind == 3) = false := by simpa using hk
    have hperm : (s.participants k kind m n).Perm (s.stepSet k) := by
      simp only [State.participants, hk', Bool.false_eq_true, if_false]
      exact List.perm_insertionSort _ _
    refine ⟨?_, hperm⟩
    simp only [State.outsider, hk', Bool.false_and, Bool.false_eq_true, if_false]
    simp [hperm.mem_iff]
  · subst hk
    have hdies : s.participants k 3 m n = x.dies := by simp [State.participants, hx]
    refine ⟨hdies, ?_⟩
    rw [← hdies]
    simp [State.outsider, hx]
  · subst hk
    simp [State.outsider, hx, allDies]

theorem not_outsider {s : State} {d : DieId} {k : GridKey} {kind : BitVec 3} {m : Nat} {n : Word} (h : d ∈ s.participants k kind m n) :
    s.outsider d k kind m n = false := by
  obtain ⟨hset, hmerge, -⟩ := participants_spec s d k kind m n
  rw [Bool.eq_false_iff]
  by_cases hk : kind = 3
  · cases hx : s.mergeOf k m (expertOf n) with
    | none => subst hk; simp [State.participants, hx] at h
    | some x =>
      obtain ⟨hdies, hout⟩ := hmerge x hk hx
      exact fun ho => hout.mp ho (hdies ▸ h)
  · obtain ⟨hout, hperm⟩ := hset hk
    exact fun ho => hout.mp ho (hperm.mem_iff.mp h)

theorem filterMap_length {α β : Type} {f : α → Option β} {xs : List α} (h : ∀ x ∈ xs, (f x).isSome = true) :
    (xs.filterMap f).length = xs.length := by
  rw [List.length_filterMap_eq_countP]
  exact List.countP_eq_length.mpr h

theorem coll_completes (s : State) (d : DieId) (op : EngineOp) (kind : BitVec 3) (md : BitVec 5) (n : Word) (m : Nat) (ab : Option Abort)
    (hid : s.engine? d op.id = some op) :
    (∀ code, op.kind = .coll kind md n m (some code) → exec (.collComplete op.id ⟨d, ab⟩) s = .next (s.collArrive d op m code)) ∧
    (∀ a, op.kind = .coll kind md n m none → exec (.collComplete op.id ⟨d, some a⟩) s = .next (s.collArrive d op m (abortCode a))) ∧
    (op.kind = .coll kind md n m none → s.outsider d ⟨op.asid, op.grid⟩ kind m n = true →
      exec (.collComplete op.id ⟨d, none⟩) s = .next (s.complete d op .home 0x0B)) ∧
    (op.kind = .coll kind md n m none →
      let ds := s.participants ⟨op.asid, op.grid⟩ kind m n
      let ops := ds.filterMap (fun x => (s.collOf x ⟨op.asid, op.grid⟩ m).map (fun o => (x, o)))
      let u := s.collPerform kind md n ops ((kind != 2 || ds.any (fun x => x.val == n.toNat % 32)) && ops.all (fun x => collAgrees op x.2))
      d ∈ ds → (∀ x ∈ ds, ∃ o, s.collOf x ⟨op.asid, op.grid⟩ m = some o) →
      ∀ o code, u.engine? d op.id = some o → o.kind = .coll kind md n m (some code) →
        exec (.collComplete op.id ⟨d, none⟩) s = .next (u.collArrive d o m code)) := by
  have hexec : ∀ ab, exec (.collComplete op.id ⟨d, ab⟩) s = execCollComplete op.id ⟨d, ab⟩ s := fun _ => rfl
  refine ⟨fun code hk => ?_, fun a hk => ?_, fun hk hout => ?_, fun hk => ?_⟩
  · simp only [hexec, execCollComplete, hid, hk]
  · simp only [hexec, execCollComplete, hid, hk]
  · simp only [hexec, execCollComplete, hid, hk, hout, if_true]
    rfl
  · intro ds ops u hd hall o code ho hko
    have hout : s.outsider d ⟨op.asid, op.grid⟩ kind m n = false := not_outsider hd
    have hready : (ds.isEmpty || decide (ops.length < ds.length)) = false := by
      have hlen : ops.length = ds.length := filterMap_length fun x hx => by
        obtain ⟨o, ho⟩ := hall x hx
        simp [ho]
      have hne : ds ≠ [] := List.ne_nil_of_mem hd
      simp [hlen, hne]
    rw [hexec]
    simp only [execCollComplete, hid, hk, hout, hready, Bool.false_eq_true, if_false, ho, hko, ds, ops, u]

/-- Settles O53: each completion by the operation that it ends and what that finds. -/
theorem engineCompletions : Obligations.EngineCompletions :=
  ⟨cpy_completes, input_completes, cpyt_completes, xsend_completes, moveRest_part, movePart_moves, xform_completes, wload_completes,
    seal_completes, coll_completes, participants_spec, complete_arrives⟩

end Sys2Proof.Machine.Storage
end

section
/-! PROOF. Rounding of a magnitude to an integer (spec 05 R128, R129). -/

namespace Sys2Proof.Machine.Numbers

set_option Elab.async false

/-! ## The direction in which a magnitude rounds -/

/-- Where a magnitude rounds to: the nearest, the next below, or the next above. -/
inductive Dir
  | near | down | up

/-- The direction of a mode of Table K-25 for a magnitude with a sign. -/
def dirOf (mode : Nat) (neg : Bool) : Dir :=
  if mode = 0 then .near else if mode = 2 ∧ neg = false ∨ mode = 3 ∧ neg = true then .up else .down

/-- Whether a magnitude q + part/whole rounds up. -/
def Dir.away (d : Dir) (q part whole : Nat) : Bool :=
  match d with
  | .near => decide (whole < 2 * part) || (whole == 2 * part && q % 2 == 1)
  | .down => false
  | .up => part != 0

/-- An integer is the rounding of a magnitude in a direction. -/
def Dir.Rounds (d : Dir) (y : ℚ) (q : Nat) : Prop :=
  match d with
  | .near => |y - q| ≤ 1 / 2 ∧ (|y - q| = 1 / 2 → q % 2 = 0)
  | .down => (q : ℚ) ≤ y ∧ y < q + 1
  | .up => y ≤ q ∧ (q : ℚ) < y + 1

theorem roundUp_eq {mode : Nat} (h : mode ≤ 3) (neg : Bool) (q part whole rnd k : Nat) :
    roundUp mode neg q part whole false rnd k = (dirOf mode neg).away q part whole := by
  interval_cases mode <;> cases neg <;> simp [roundUp, dirOf, Dir.away]

/-- A magnitude with the unit 2^u above its own 2^e is cut, and rounded by what is cut off. -/
theorem roundMag_coarse {mode : Nat} (h : mode ≤ 3) (neg : Bool) (m : Nat) {e u : Int} (hu : e < u) (rnd k : Nat) :
    roundMag mode neg m e u false rnd k =
      (let w := 2 ^ (u - e).toNat
       (if (dirOf mode neg).away (m / w) (m % w) w then m / w + 1 else m / w, m % w != 0)) := by
  unfold roundMag
  rw [if_neg (not_le.mpr hu)]
  by_cases hfar : Nat.log2 m + 80 < (u - e).toNat
  · -- far below half a unit
    have hm : 2 * m < 2 ^ (u - e).toNat := by
      calc 2 * m < 2 * 2 ^ (m.log2 + 1) := by have := Nat.lt_log2_self (n := m); omega
        _ = 2 ^ (m.log2 + 2) := by ring
        _ ≤ 2 ^ (u - e).toNat := Nat.pow_le_pow_right (by norm_num) (by omega)
    have hw : m < 2 ^ (u - e).toNat := by omega
    have hnear : (decide (2 ^ (u - e).toNat < 2 * m) || (2 ^ (u - e).toNat == 2 * m && (0 : Nat) % 2 == 1)) = false := by simp; omega
    simp only [hfar, if_true, Nat.div_eq_of_lt hw, Nat.mod_eq_of_lt hw, Bool.or_false]
    interval_cases mode <;> cases neg <;> simp [dirOf, Dir.away, hm.le]
  · simp only [hfar, if_false, roundUp_eq h, Bool.or_false]

/-! ## The rounded integer -/

theorem Dir.rounds_self (d : Dir) (q : Nat) : d.Rounds q q := by
  cases d <;> simp [Dir.Rounds]

/-- What a direction makes of an integer and a fraction is the rounding of their sum. -/
theorem Dir.away_rounds (d : Dir) (q : Nat) {part whole : Nat} (h : part < whole) :
    d.Rounds (q + part / whole) (if d.away q part whole then q + 1 else q) := by
  have hw : (0 : ℚ) < whole := by exact_mod_cast (Nat.zero_le part).trans_lt h
  have h0 : (0 : ℚ) ≤ part / whole := by positivity
  have h1 : (part : ℚ) / whole < 1 := by rw [div_lt_one hw]; exact_mod_cast h
  cases d with
  | down => exact ⟨by simp [Dir.away, h0], by simpa [Dir.away] using h1⟩
  | up =>
    by_cases hp : part = 0
    · simp [Dir.away, Dir.Rounds, hp]
    · have : (0 : ℚ) < part / whole := by positivity
      have ha : Dir.away .up q part whole = true := by simp [Dir.away, hp]
      rw [ha, if_pos rfl]
      exact ⟨by push_cast; linarith, by push_cast; linarith⟩
  | near =>
    have half : (part : ℚ) / whole = 1 / 2 ↔ whole = 2 * part := by
      rw [div_eq_iff hw.ne']
      constructor
      · intro e; have : (whole : ℚ) = 2 * part := by linarith
        exact_mod_cast this
      · intro e; rw [e]; push_cast; ring
    have above : (1 : ℚ) / 2 < part / whole ↔ whole < 2 * part := by
      rw [lt_div_iff₀ hw]
      constructor
      · intro e; have : (whole : ℚ) < 2 * part := by linarith
        exact_mod_cast this
      · intro e; have : (whole : ℚ) < 2 * part := by exact_mod_cast e
        linarith
    by_cases ha : Dir.away .near q part whole = true
    · rw [ha, if_pos rfl]
      have hge : (1 : ℚ) / 2 ≤ part / whole := by
        simp only [Dir.away, Bool.or_eq_true, decide_eq_true_eq, Bool.and_eq_true, beq_iff_eq] at ha
        rcases ha with ha | ⟨ha, -⟩
        · exact (above.mpr ha).le
        · exact (half.mpr ha).ge
      have e : |(q : ℚ) + part / whole - (q + 1 : Nat)| = 1 - part / whole := by
        rw [abs_of_nonpos (by push_cast; linarith)]; push_cast; ring
      refine ⟨by rw [e]; linarith, fun ht => ?_⟩
      rw [e] at ht
      have hh := half.mp (by linarith)
      simp only [Dir.away, hh, lt_irrefl, decide_false, Bool.false_or, Bool.and_eq_true, beq_iff_eq, true_and, BEq.rfl] at ha
      omega
    · rw [if_neg ha]
      simp only [Dir.away, Bool.or_eq_true, decide_eq_true_eq, Bool.and_eq_true, beq_iff_eq, not_or, not_and] at ha
      have e : |(q : ℚ) + part / whole - q| = part / whole := by rw [add_sub_cancel_left, abs_of_nonneg h0]
      refine ⟨by rw [e]; exact not_lt.mp (fun z => ha.1 (above.mp z)), fun ht => ?_⟩
      rw [e] at ht
      have := ha.2 (half.mp ht)
      omega

/-- A natural number cut at a power of two. -/
theorem scaled_div (m : Nat) {e u : Int} (hu : e < u) :
    (m : ℚ) * 2 ^ (e - u) =
      ((m / 2 ^ (u - e).toNat : Nat) : ℚ) + ((m % 2 ^ (u - e).toNat : Nat) : ℚ) / ((2 ^ (u - e).toNat : Nat) : ℚ) := by
  obtain ⟨n, hn⟩ : ∃ n : Nat, u - e = n := ⟨(u - e).toNat, by omega⟩
  have hneg : e - u = -(n : Int) := by omega
  rw [hn, hneg, Int.toNat_natCast, zpow_neg, zpow_natCast]
  have : (m : ℚ) = ((2 ^ n * (m / 2 ^ n) + m % 2 ^ n : Nat) : ℚ) := by rw [Nat.div_add_mod]
  rw [this]
  push_cast
  field_simp

theorem scaled_mul (m : Nat) {e u : Int} (hu : u ≤ e) : (m : ℚ) * 2 ^ (e - u) = ((m * 2 ^ (e - u).toNat : Nat) : ℚ) := by
  obtain ⟨n, hn⟩ : ∃ n : Nat, e - u = n := ⟨(e - u).toNat, by omega⟩
  rw [hn]; simp

/-- Rounding to a multiple of 2^u that divides the magnitude changes nothing, in every mode. -/
theorem roundMag_fine (mode : Nat) (neg : Bool) (m : Nat) {e u : Int} (hu : u ≤ e) (rnd k : Nat) :
    roundMag mode neg m e u false rnd k = (m * 2 ^ (e - u).toNat, false) := by
  simp [roundMag, hu]

/-- A magnitude rounds to a multiple of 2^u as its mode says, and is inexact when that multiple is another number. -/
theorem roundMag_rounds {mode : Nat} (h : mode ≤ 3) (neg : Bool) (m : Nat) (e u : Int) (rnd k : Nat) :
    (dirOf mode neg).Rounds (m * 2 ^ (e - u)) (roundMag mode neg m e u false rnd k).1 ∧
      ((roundMag mode neg m e u false rnd k).2 = true ↔ ((roundMag mode neg m e u false rnd k).1 : ℚ) ≠ m * 2 ^ (e - u)) := by
  by_cases hu : u ≤ e
  · rw [roundMag_fine _ _ _ hu, scaled_mul _ hu]
    exact ⟨Dir.rounds_self _ _, by simp⟩
  · have hu : e < u := not_le.mp hu
    rw [roundMag_coarse h _ _ hu, scaled_div m hu]
    have hlt : m % 2 ^ (u - e).toNat < 2 ^ (u - e).toNat := Nat.mod_lt _ (by positivity)
    refine ⟨Dir.away_rounds _ _ hlt, ?_⟩
    dsimp only
    generalize m / 2 ^ (u - e).toNat = q
    generalize m % 2 ^ (u - e).toNat = p at hlt ⊢
    generalize 2 ^ (u - e).toNat = w at hlt ⊢
    have hw : (0 : ℚ) < w := by exact_mod_cast (Nat.zero_le p).trans_lt hlt
    have h1 : (p : ℚ) / w < 1 := by rw [div_lt_one hw]; exact_mod_cast hlt
    by_cases hp : p = 0
    · subst hp
      have : (dirOf mode neg).away q 0 w = false := by
        have : w ≠ 0 := by omega
        cases dirOf mode neg <;> simp [Dir.away, this]
      simp [this]
    · have hp' : (0 : ℚ) < p / w := by positivity
      simp only [bne_iff_ne, ne_eq, hp, not_false_eq_true, true_iff]
      intro e
      split at e <;> · push_cast at e; linarith

end Sys2Proof.Machine.Numbers
end

section
/-! PROOF. Rounding to a floating format (spec 05 R123, R127 to R129). -/

namespace Sys2Proof.Machine.Numbers

set_option Elab.async false

/-! ## The magnitudes of a format -/

/-- What the formats of Table K-22 have in common: a normal code, a sign bit above every code, and an infinity one code past the largest
finite one, which is then odd. -/
structure Proper (f : Fmt) : Prop where
  fraction : 1 ≤ f.mbits
  normal : 2 ^ f.mbits ≤ f.maxCode
  below : f.maxCode < 2 ^ (f.width - 1)
  infinity : f.hasInf = true → f.maxCode + 1 = (2 * f.bias + 1) * 2 ^ f.mbits ∧ f.maxCode + 1 < 2 ^ (f.width - 1)

theorem floatFmts_proper {f : Fmt} (h : f ∈ floatFmts) : Proper f := by
  simp only [floatFmts, List.mem_cons, List.not_mem_nil, or_false] at h
  rcases h with rfl | rfl | rfl | rfl | rfl | rfl <;> constructor <;> decide

/-- The exponent of the smallest subnormal number. -/
def unitExp (f : Fmt) : Int := 1 - (f.bias : Int) - f.mbits

/-- The magnitude of a code, were the exponents of the format unbounded. -/
def mag (f : Fmt) (c : Nat) : ℚ :=
  if c < 2 ^ f.mbits then (c : ℚ) * 2 ^ unitExp f
  else ((2 : ℚ) ^ f.mbits + ((c % 2 ^ f.mbits : Nat) : ℚ)) * 2 ^ (((c / 2 ^ f.mbits : Nat) : Int) - f.bias - f.mbits)

/-- The code of q units of 2^(j + unitExp). -/
theorem mag_units (f : Fmt) {j q : Nat} (hq : q ≤ 2 * 2 ^ f.mbits) (hj : j = 0 ∨ 2 ^ f.mbits ≤ q) :
    mag f (j * 2 ^ f.mbits + q) = q * 2 ^ (unitExp f + j) := by
  have hM : 0 < 2 ^ f.mbits := by positivity
  have hs : ∀ a b : Int, (2 : ℚ) ^ (a + b) = 2 ^ a * 2 ^ b := fun a b => zpow_add₀ (by norm_num) a b
  by_cases h0 : q < 2 ^ f.mbits
  · obtain rfl : j = 0 := hj.resolve_right (by omega)
    simp [mag, h0]
  · have hge : ¬ j * 2 ^ f.mbits + q < 2 ^ f.mbits := by
      have := Nat.zero_le (j * 2 ^ f.mbits); omega
    rw [mag, if_neg hge]
    by_cases h1 : q < 2 * 2 ^ f.mbits
    · obtain ⟨r, rfl, hr⟩ : ∃ r, q = 2 ^ f.mbits + r ∧ r < 2 ^ f.mbits := ⟨q - 2 ^ f.mbits, by omega, by omega⟩
      have e : j * 2 ^ f.mbits + (2 ^ f.mbits + r) = r + 2 ^ f.mbits * (j + 1) := by ring
      rw [e, Nat.add_mul_mod_self_left, Nat.add_mul_div_left _ _ hM, Nat.mod_eq_of_lt hr, Nat.div_eq_of_lt hr]
      push_cast
      congr 2
      unfold unitExp; ring
    · obtain rfl : q = 2 * 2 ^ f.mbits := by omega
      have e : j * 2 ^ f.mbits + 2 * 2 ^ f.mbits = 0 + 2 ^ f.mbits * (j + 2) := by ring
      rw [e, Nat.add_mul_mod_self_left, Nat.add_mul_div_left _ _ hM, Nat.zero_mod, Nat.zero_div]
      have : ((0 + (j + 2) : Nat) : Int) - f.bias - f.mbits = (unitExp f + j) + 1 := by unfold unitExp; push_cast; ring
      rw [this, hs, zpow_one]
      push_cast
      ring

/-- Every code is some units, with the fraction bits full unless it is subnormal. -/
theorem code_units (f : Fmt) (c : Nat) : ∃ j q : Nat, c = j * 2 ^ f.mbits + q ∧ q < 2 * 2 ^ f.mbits ∧ (j = 0 ∨ 2 ^ f.mbits ≤ q) := by
  have hM : 0 < 2 ^ f.mbits := by positivity
  by_cases h : c < 2 ^ f.mbits
  · exact ⟨0, c, by simp, by omega, .inl rfl⟩
  · have hd : 1 ≤ c / 2 ^ f.mbits := (Nat.one_le_div_iff hM).mpr (by omega)
    obtain ⟨j, hj⟩ : ∃ j, c / 2 ^ f.mbits = j + 1 := ⟨c / 2 ^ f.mbits - 1, by omega⟩
    have hc := Nat.div_add_mod c (2 ^ f.mbits)
    have hr := Nat.mod_lt c hM
    rw [hj] at hc
    exact ⟨j, 2 ^ f.mbits + c % 2 ^ f.mbits, by rw [← hc]; simp; ring, by omega, .inr (by omega)⟩

theorem mag_succ (f : Fmt) (c : Nat) : mag f c < mag f (c + 1) := by
  obtain ⟨j, q, rfl, hq, hj⟩ := code_units f c
  have hlt : (0 : ℚ) < 2 ^ (unitExp f + j) := by positivity
  rw [Nat.add_assoc, mag_units f (by omega) hj, mag_units f (by omega) (hj.imp_right (by omega))]
  push_cast
  linarith

theorem mag_strictMono (f : Fmt) : StrictMono (mag f) := strictMono_nat_of_lt_succ (mag_succ f)

theorem mag_nonneg (f : Fmt) (c : Nat) : 0 ≤ mag f c := by
  have h : mag f 0 = 0 := by simp [mag]
  rw [← h]; exact (mag_strictMono f).monotone (Nat.zero_le c)

/-! ## The value of an encoding -/

theorem width_eq (f : Fmt) : f.width = f.width - 1 + 1 := by unfold Fmt.width; omega

/-- The value of a finite encoding: its sign, and its magnitude in few enough units. -/
theorem value_finite {f : Fmt} {bits : Nat} (h : bits % 2 ^ (f.width - 1) ≤ f.maxCode) :
    ∃ m e, f.value bits = .num (bits.testBit (f.width - 1)) m e false ∧ (m : ℚ) * 2 ^ e = mag f (bits % 2 ^ (f.width - 1)) ∧
      m < 2 * 2 ^ f.mbits ∧ unitExp f ≤ e := by
  have hmod : bits % 2 ^ f.width % 2 ^ (f.width - 1) = bits % 2 ^ (f.width - 1) :=
    Nat.mod_mod_of_dvd _ (pow_dvd_pow 2 (by omega))
  have hneg : decide (2 ^ (f.width - 1) ≤ bits % 2 ^ f.width) = bits.testBit (f.width - 1) := by
    have := width_eq f
    generalize f.width - 1 = w at *
    rw [this, pow_succ, Nat.mod_mul, Nat.testBit_eq_decide_div_mod_eq]
    have h1 := Nat.mod_lt bits (show 0 < 2 ^ w by positivity)
    rcases Nat.mod_two_eq_zero_or_one (bits / 2 ^ w) with h2 | h2 <;> simp [h2, h1]
  simp only [Fmt.value, hmod, hneg, not_lt.mpr h, if_false]
  generalize bits % 2 ^ (f.width - 1) = c at h ⊢
  have hM : 0 < 2 ^ f.mbits := by positivity
  by_cases h0 : c < 2 ^ f.mbits
  · exact ⟨c, unitExp f, by simp [Nat.div_eq_of_lt h0, Nat.mod_eq_of_lt h0, unitExp], by simp [mag, h0], by omega, le_rfl⟩
  · have : c / 2 ^ f.mbits ≠ 0 := by rw [Nat.div_ne_zero_iff]; omega
    have hexp : (1 : Int) ≤ ((c / 2 ^ f.mbits : Nat) : Int) := by exact_mod_cast Nat.one_le_iff_ne_zero.mpr this
    refine ⟨2 ^ f.mbits + c % 2 ^ f.mbits, _, if_neg this, by rw [mag, if_neg h0]; push_cast; rfl, ?_, by unfold unitExp; linarith⟩
    have := Nat.mod_lt c hM
    omega

/-- The sign of a number. -/
def sgn (neg : Bool) : ℚ := if neg then -1 else 1

theorem rat_num (neg : Bool) (m : Nat) (e : Int) (rest : Bool) : (Fx.num neg m e rest).rat = sgn neg * (m * 2 ^ e) := by
  simp only [Fx.rat, sgn, mul_assoc]

theorem abs_sgn_mul (neg : Bool) (y : ℚ) : |sgn neg * y| = |y| := by cases neg <;> simp [sgn]

theorem rat_encoding {f : Fmt} {bits : Nat} (h : bits % 2 ^ (f.width - 1) ≤ f.maxCode) :
    f.rat bits = sgn (bits.testBit (f.width - 1)) * mag f (bits % 2 ^ (f.width - 1)) := by
  obtain ⟨m, e, hv, hm, -, -⟩ := value_finite h
  rw [Fmt.rat, hv, rat_num, hm]

theorem signed_mod {f : Fmt} (hf : Proper f) (b : Bool) {c : Nat} (h : c ≤ f.maxCode) : f.signed b c % 2 ^ (f.width - 1) = c := by
  have hc : c < 2 ^ (f.width - 1) := h.trans_lt hf.below
  cases b <;> simp [Fmt.signed, Nat.mod_eq_of_lt hc]

theorem signed_testBit {f : Fmt} (hf : Proper f) (b : Bool) {c : Nat} (h : c ≤ f.maxCode) : (f.signed b c).testBit (f.width - 1) = b := by
  have hc : c < 2 ^ (f.width - 1) := h.trans_lt hf.below
  cases b
  · simpa [Fmt.signed] using Nat.testBit_lt_two_pow hc
  · simp [Fmt.signed, Nat.testBit_two_pow_add_eq, Nat.testBit_lt_two_pow hc]

/-- A finite code with a sign stands for its magnitude with that sign. -/
theorem rat_signed {f : Fmt} (hf : Proper f) (b : Bool) {c : Nat} (h : c ≤ f.maxCode) : f.rat (f.signed b c) = sgn b * mag f c := by
  rw [rat_encoding (by rwa [signed_mod hf b h]), signed_mod hf b h, signed_testBit hf b h]

theorem rat_code {f : Fmt} (hf : Proper f) {c : Nat} (h : c ≤ f.maxCode) : f.rat c = mag f c := by
  have := rat_signed hf false h
  simpa [Fmt.signed, sgn] using this

theorem signed_even {f : Fmt} (hf : Proper f) (b : Bool) (c : Nat) : f.signed b c % 2 = c % 2 := by
  have hw : 1 ≤ f.width - 1 := by have := hf.fraction; unfold Fmt.width; omega
  obtain ⟨w, hw⟩ : ∃ w, f.width - 1 = w + 1 := ⟨f.width - 2, by omega⟩
  cases b
  · rfl
  · simp only [Fmt.signed, hw, if_true, pow_succ]; omega

end Sys2Proof.Machine.Numbers
end

section
/-! PROOF. RoundToFormat gives the code that Table K-25 says (spec 05 R128, R129). -/

namespace Sys2Proof.Machine.Numbers

set_option Elab.async false

/-- A code, among those of unbounded exponents, is the rounding of a magnitude in a direction. -/
def Dir.Picks (d : Dir) (f : Fmt) (y : ℚ) (c : Nat) : Prop :=
  match d with
  | .near => (∀ n, |y - mag f c| ≤ |y - mag f n|) ∧ ∀ n, n ≠ c → |y - mag f c| = |y - mag f n| → c % 2 = 0
  | .down => mag f c ≤ y ∧ ∀ n, mag f n ≤ y → mag f n ≤ mag f c
  | .up => y ≤ mag f c ∧ ∀ n, y ≤ mag f n → mag f c ≤ mag f n

/-! ## From units to codes -/

/-- Rounding does not pass an integer. -/
theorem Dir.Rounds.nat_le {d : Dir} {y : ℚ} {q n : Nat} (h : d.Rounds y q) (hn : (n : ℚ) ≤ y) : n ≤ q := by
  by_contra hlt
  have hq : (q : ℚ) + 1 ≤ n := by exact_mod_cast not_le.mp hlt
  cases d with
  | near => have := (abs_le.mp h.1).2; linarith
  | down => linarith [h.2]
  | up => linarith [h.1]

theorem Dir.Rounds.le_nat {d : Dir} {y : ℚ} {q n : Nat} (h : d.Rounds y q) (hn : y ≤ n) : q ≤ n := by
  by_contra hlt
  have hq : (n : ℚ) + 1 ≤ q := by exact_mod_cast not_le.mp hlt
  cases d with
  | near => have := (abs_le.mp h.1).1; linarith
  | down => linarith [h.1]
  | up => linarith [h.2]

/-- To nearest: no integer is nearer, and one as near is rounded to only when even. -/
theorem nearest_nat {y : ℚ} {q : Nat} (h : Dir.Rounds .near y q) (n : Nat) :
    |y - q| ≤ |y - n| ∧ (n ≠ q → |y - q| = |y - n| → q % 2 = 0) := by
  obtain ⟨hle, htie⟩ := h
  by_cases hn : n = q
  · exact ⟨by rw [hn], fun z => absurd hn z⟩
  · have h1 : (1 : ℚ) ≤ |(q : ℚ) - n| := by
      have : (1 : Int) ≤ |(q : Int) - n| := Int.one_le_abs (by omega)
      exact_mod_cast this
    have h2 : |(q : ℚ) - n| ≤ |y - q| + |y - n| := by
      have e : (q : ℚ) - n = -(y - q) + (y - n) := by ring
      rw [e]; exact (abs_add_le _ _).trans (by rw [abs_neg])
    exact ⟨by linarith, fun _ he => htie (by linarith)⟩

/-- A code is a multiple of a unit, or below the first normal code of that unit. -/
theorem mag_grid (f : Fmt) (j c : Nat) : (∃ n : Nat, mag f c = n * 2 ^ (unitExp f + j)) ∨
    (j ≠ 0 ∧ mag f c < 2 ^ f.mbits * 2 ^ (unitExp f + j)) := by
  obtain ⟨i, q, rfl, hq, hi⟩ := code_units f c
  rw [mag_units f hq.le hi]
  by_cases hij : j ≤ i
  · left
    obtain ⟨k, rfl⟩ := Nat.exists_eq_add_of_le hij
    refine ⟨q * 2 ^ k, ?_⟩
    have : unitExp f + ((j + k : Nat) : Int) = (k : Int) + (unitExp f + j) := by push_cast; ring
    rw [this, zpow_add₀ (by norm_num), zpow_natCast]; push_cast; ring
  · right
    refine ⟨by omega, ?_⟩
    have h1 : (q : ℚ) < 2 * 2 ^ f.mbits := by exact_mod_cast hq
    calc (q : ℚ) * 2 ^ (unitExp f + i) < 2 * 2 ^ f.mbits * 2 ^ (unitExp f + i) := by gcongr
      _ = 2 ^ f.mbits * 2 ^ (unitExp f + i + 1) := by rw [zpow_add_one₀ (by norm_num)]; ring
      _ ≤ 2 ^ f.mbits * 2 ^ (unitExp f + j) := by gcongr 2 ^ f.mbits * ?_; exact zpow_le_zpow_right₀ (by norm_num) (by omega)

/-- A magnitude rounded to its unit is rounded to its code. -/
theorem Dir.Rounds.picks {d : Dir} {f : Fmt} (hf : Proper f) {y : ℚ} {j q : Nat} (h : d.Rounds (y / 2 ^ (unitExp f + j)) q)
    (hlow : j = 0 ∨ 2 ^ f.mbits * 2 ^ (unitExp f + j) ≤ y) (hhigh : y ≤ 2 * 2 ^ f.mbits * 2 ^ (unitExp f + j)) :
    d.Picks f y (j * 2 ^ f.mbits + q) ∧ mag f (j * 2 ^ f.mbits + q) = q * 2 ^ (unitExp f + j) := by
  have hs : (0 : ℚ) < 2 ^ (unitExp f + j) := by positivity
  have hlow' : j = 0 ∨ 2 ^ f.mbits ≤ q := hlow.imp_right fun z => h.nat_le (by rw [le_div_iff₀ hs]; push_cast; exact z)
  have hmag : mag f (j * 2 ^ f.mbits + q) = q * 2 ^ (unitExp f + j) :=
    mag_units f (h.le_nat (by rw [div_le_iff₀ hs]; push_cast; exact hhigh)) hlow'
  refine ⟨?_, hmag⟩
  have heven : q % 2 = 0 → (j * 2 ^ f.mbits + q) % 2 = 0 := fun hq => by
    obtain ⟨w, hw⟩ : ∃ w, f.mbits = w + 1 := ⟨f.mbits - 1, by have := hf.fraction; omega⟩
    rw [hw, pow_succ, ← mul_assoc]; omega
  have hgrid := mag_grid f j
  have hfirst : j ≠ 0 → (2 : ℚ) ^ f.mbits ≤ q := fun z => by exact_mod_cast hlow'.resolve_left z
  generalize (2 : ℚ) ^ (unitExp f + (j : Int)) = s at *
  obtain ⟨x, rfl⟩ : ∃ x, y = x * s := ⟨y / s, by field_simp⟩
  rw [mul_div_assoc, div_self hs.ne', mul_one] at h
  have hx : j ≠ 0 → (2 : ℚ) ^ f.mbits ≤ x := fun z => le_of_mul_le_mul_right (hlow.resolve_left z) hs
  have hdist : ∀ a : ℚ, |x * s - a * s| = |x - a| * s := fun a => by rw [← sub_mul, abs_mul, abs_of_pos hs]
  cases d with
  | near =>
    have far : ∀ n, j ≠ 0 → mag f n < 2 ^ f.mbits * s → |x * s - mag f (j * 2 ^ f.mbits + q)| < |x * s - mag f n| := fun n hj hn => by
      have h1 := (nearest_nat h (2 ^ f.mbits)).1
      have h2 : (0 : ℚ) ≤ x - (2 ^ f.mbits : Nat) := by have := hx hj; push_cast; linarith
      rw [abs_of_nonneg h2] at h1
      rw [hmag, hdist]
      calc |x - q| * s ≤ (x - (2 ^ f.mbits : Nat)) * s := by gcongr
        _ = x * s - 2 ^ f.mbits * s := by push_cast; ring
        _ < x * s - mag f n := by linarith
        _ ≤ |x * s - mag f n| := le_abs_self _
    refine ⟨fun n => ?_, fun n hne he => ?_⟩
    · rcases hgrid n with ⟨k, hk⟩ | ⟨hj, hn⟩
      · rw [hmag, hk, hdist, hdist]
        exact mul_le_mul_of_nonneg_right (nearest_nat h k).1 hs.le
      · exact (far n hj hn).le
    · rcases hgrid n with ⟨k, hk⟩ | ⟨hj, hn⟩
      · have hkq : k ≠ q := fun z => hne ((mag_strictMono f).injective (by rw [hk, hmag, z]))
        rw [hmag, hk, hdist, hdist] at he
        exact heven ((nearest_nat h k).2 hkq (mul_right_cancel₀ hs.ne' he))
      · exact absurd he (far n hj hn).ne
  | down =>
    refine ⟨by rw [hmag]; gcongr; exact h.1, fun n hn => ?_⟩
    rcases hgrid n with ⟨k, hk⟩ | ⟨hj, hlt⟩
    · rw [hk] at hn ⊢
      rw [hmag]
      gcongr
      exact h.nat_le (le_of_mul_le_mul_right hn hs)
    · rw [hmag]
      exact hlt.le.trans (by gcongr; exact hfirst hj)
  | up =>
    refine ⟨by rw [hmag]; gcongr; exact h.1, fun n hn => ?_⟩
    rcases hgrid n with ⟨k, hk⟩ | ⟨hj, hlt⟩
    · rw [hk] at hn ⊢
      rw [hmag]
      gcongr
      exact h.le_nat (le_of_mul_le_mul_right hn hs)
    · have := mul_le_mul_of_nonneg_right (hx hj) hs.le
      linarith

/-! ## RoundToFormat by its code -/

/-- The encoding and the flags of a rounded magnitude: its code when that is finite, and an overflow otherwise (R129). -/
def assembled (f : Fmt) (mode : Nat) (neg : Bool) (code : Nat) (inexact : Bool) : Nat × Flags :=
  if f.maxCode < code then
    (f.signed neg (if f.hasInf && (mode == 0 || mode == 4 || (mode == 2 && !neg) || (mode == 3 && neg)) then f.maxCode + 1 else f.maxCode),
      flOF ||| flNX)
  else (f.signed neg code, if inexact && decide (code < 2 ^ f.mbits) then (if inexact then flNX else 0) ||| flUF else if inexact then flNX else 0)

/-- The unit of a magnitude m × 2^e, counted from the smallest one of the format. -/
def unitAt (f : Fmt) (m : Nat) (e : Int) : Nat := (max (unitExp f) ((Nat.log2 m : Int) + e - f.mbits) - unitExp f).toNat

theorem unitExp_unitAt (f : Fmt) (m : Nat) (e : Int) : unitExp f + unitAt f m e = max (unitExp f) ((Nat.log2 m : Int) + e - f.mbits) := by
  unfold unitAt; omega

theorem round_eq (f : Fmt) (neg : Bool) {m : Nat} (hm : m ≠ 0) (e : Int) (mode rnd k : Nat) :
    f.round (.num neg m e false) mode rnd k =
      (let r := roundMag mode neg m e (unitExp f + unitAt f m e) false rnd k
       assembled f mode neg (unitAt f m e * 2 ^ f.mbits + r.1) r.2) := by
  rw [unitExp_unitAt]
  simp only [Fmt.round, hm, Bool.not_false, Bool.and_true]
  rfl

/-- The unit of a magnitude is the one that its leading bit asks for. -/
theorem unitAt_spec (f : Fmt) {m : Nat} (hm : m ≠ 0) (e : Int) :
    (unitAt f m e = 0 ∨ 2 ^ f.mbits * 2 ^ (unitExp f + unitAt f m e) ≤ (m : ℚ) * 2 ^ e) ∧
      (m : ℚ) * 2 ^ e ≤ 2 * 2 ^ f.mbits * 2 ^ (unitExp f + unitAt f m e) := by
  have hu := unitExp_unitAt f m e
  have hpow : ∀ a : Int, (2 : ℚ) ^ f.mbits * 2 ^ a = 2 ^ ((f.mbits : Int) + a) := fun a => by
    rw [zpow_add₀ (by norm_num), zpow_natCast]
  have hlow : (2 : ℚ) ^ ((m.log2 : Int) + e) ≤ m * 2 ^ e := by
    rw [zpow_add₀ (by norm_num), zpow_natCast]; gcongr; exact_mod_cast Nat.log2_self_le hm
  have hhigh : (m : ℚ) * 2 ^ e ≤ 2 ^ ((m.log2 : Int) + e + 1) := by
    have e1 : (m.log2 : Int) + e + 1 = ((m.log2 + 1 : Nat) : Int) + e := by push_cast; ring
    rw [e1, zpow_add₀ (by norm_num), zpow_natCast]; gcongr; exact_mod_cast Nat.lt_log2_self.le
  refine ⟨?_, ?_⟩
  · by_cases h : unitAt f m e = 0
    · exact .inl h
    · rw [hpow]
      exact .inr ((zpow_le_zpow_right₀ (by norm_num) (by omega)).trans hlow)
  · rw [mul_assoc, hpow, mul_comm (2 : ℚ), ← zpow_add_one₀ (by norm_num)]
    exact hhigh.trans (zpow_le_zpow_right₀ (by norm_num) (by omega))

theorem unscale (m : ℚ) (e v : Int) : m * 2 ^ (e - v) = m * 2 ^ e / 2 ^ v := by rw [zpow_sub₀ (by norm_num)]; ring

/-- A finite value is rounded to the code that its mode picks, and is inexact when that stands for another number. -/
theorem round_picks {f : Fmt} (hf : Proper f) {mode : Nat} (h : mode ≤ 3) (neg : Bool) (m : Nat) (e : Int) (rnd k : Nat) :
    ∃ code inexact, f.round (.num neg m e false) mode rnd k = assembled f mode neg code inexact ∧
      (dirOf mode neg).Picks f (m * 2 ^ e) code ∧ (inexact = true ↔ mag f code ≠ m * 2 ^ e) := by
  by_cases hm : m = 0
  · subst hm
    have h0 : mag f 0 = 0 := by simp [mag]
    refine ⟨0, false, by simp [Fmt.round, assembled], ?_, by simp [h0]⟩
    cases dirOf mode neg <;> simp [Dir.Picks, h0, mag_nonneg]
  · obtain ⟨hr, hx⟩ := roundMag_rounds h neg m e (unitExp f + unitAt f m e) rnd k
    obtain ⟨hlow, hhigh⟩ := unitAt_spec f hm e
    rw [unscale] at hr hx
    obtain ⟨hp, hmag⟩ := hr.picks hf hlow hhigh
    refine ⟨_, _, round_eq f neg hm e mode rnd k, hp, ?_⟩
    rw [hx, hmag, ne_eq, ne_eq, eq_div_iff (by positivity)]

/-- A magnitude that the format holds is rounded, in every mode, to itself. -/
theorem round_exact {f : Fmt} {m : Nat} {e : Int} (hm : m < 2 * 2 ^ f.mbits) (he : unitExp f ≤ e)
    (hmax : (m : ℚ) * 2 ^ e ≤ mag f f.maxCode) (neg : Bool) (mode rnd k : Nat) :
    ∃ c, c ≤ f.maxCode ∧ mag f c = m * 2 ^ e ∧ f.round (.num neg m e false) mode rnd k = (f.signed neg c, 0) := by
  by_cases h0 : m = 0
  · subst h0
    exact ⟨0, Nat.zero_le _, by simp [mag], by simp [Fmt.round]⟩
  · have hu : unitExp f + unitAt f m e ≤ e := by
      have : m.log2 ≤ f.mbits := Nat.lt_succ_iff.mp ((Nat.log2_lt h0).mpr (by rw [pow_succ]; omega))
      rw [unitExp_unitAt]; omega
    have hr := scaled_mul m hu
    rw [unscale, div_eq_iff (by positivity)] at hr
    obtain ⟨hlow, hhigh⟩ := unitAt_spec f h0 e
    have hs : (0 : ℚ) < 2 ^ (unitExp f + unitAt f m e) := by positivity
    rw [hr] at hlow hhigh
    have hmag : mag f (unitAt f m e * 2 ^ f.mbits + m * 2 ^ (e - (unitExp f + unitAt f m e)).toNat) = m * 2 ^ e := by
      rw [hr]
      refine mag_units f ?_ (hlow.imp_right fun z => ?_)
      · exact_mod_cast le_of_mul_le_mul_right hhigh hs
      · exact_mod_cast le_of_mul_le_mul_right z hs
    refine ⟨_, (mag_strictMono f).le_iff_le.mp (hmag.trans_le hmax), hmag, ?_⟩
    rw [round_eq f neg h0, roundMag_fine _ _ _ hu]
    simp [assembled, not_lt.mpr ((mag_strictMono f).le_iff_le.mp (hmag.trans_le hmax))]

end Sys2Proof.Machine.Numbers
end

section
/-! PROOF. The six formats round as Table K-25 and R129 say, within their range and beyond it. -/

namespace Sys2Proof.Machine.Numbers

set_option Elab.async false

/-! ## Within the range of a format -/

theorem Dir.Picks.le_max {d : Dir} {f : Fmt} {y : ℚ} {c : Nat} (h : d.Picks f y c) (hy : y ≤ mag f f.maxCode) : c ≤ f.maxCode := by
  by_contra hlt
  have hc := mag_strictMono f (not_le.mp hlt)
  cases d with
  | near =>
    have := h.1 f.maxCode
    rw [abs_of_nonpos (by linarith), abs_of_nonpos (by linarith)] at this
    linarith
  | down => linarith [h.1]
  | up => linarith [h.2 _ hy]

theorem Dir.Picks.max_le {d : Dir} {f : Fmt} {y : ℚ} {c : Nat} (h : d.Picks f y c) (hy : mag f f.maxCode < y) : f.maxCode ≤ c := by
  by_contra hlt
  have hc := mag_strictMono f (not_le.mp hlt)
  cases d with
  | near =>
    have := h.1 f.maxCode
    rw [abs_of_nonneg (by linarith), abs_of_nonneg (by linarith)] at this
    linarith
  | down => linarith [h.2 _ hy.le]
  | up => linarith [h.1]

/-- To nearest, a code with its sign is the nearest of the numbers of both signs, and even in a tie. -/
theorem nearest_signed {f : Fmt} (hf : Proper f) (neg : Bool) {y : ℚ} (hy : 0 ≤ y) {c : Nat} (hc : c ≤ f.maxCode)
    (h : Dir.Picks .near f y c) : f.RoundsTo 0 (sgn neg * y) (f.signed neg c) := by
  have same : ∀ v, |sgn neg * y - sgn neg * v| = |y - v| := fun v => by rw [← mul_sub, abs_sgn_mul]
  have other : ∀ b v, b ≠ neg → 0 ≤ v → |sgn neg * y - sgn b * v| = y + v := fun b v hb hv => by
    obtain rfl : b = !neg := Bool.eq_not_of_ne hb
    have : sgn neg * y - sgn (!neg) * v = sgn neg * (y + v) := by
      cases neg
      · simp [sgn]
      · simp only [sgn, Bool.not_true, Bool.false_eq_true, if_true, if_false]; ring
    rw [this, abs_sgn_mul, abs_of_nonneg (by linarith)]
  have further : ∀ v, 0 ≤ v → |y - v| ≤ y + v := fun v hv => abs_le.mpr ⟨by linarith, by linarith⟩
  obtain ⟨hle, htie⟩ := h
  refine ⟨fun b n hn => ?_, fun b n hn hne he => ?_⟩
  · rw [rat_signed hf b hn, rat_signed hf neg hc, same]
    by_cases hb : b = neg
    · rw [hb, same]; exact hle n
    · rw [other b _ hb (mag_nonneg f n)]; exact (hle n).trans (further _ (mag_nonneg f n))
  · rw [signed_even hf]
    rw [rat_signed hf b hn, rat_signed hf neg hc] at hne he
    rw [same] at he
    by_cases hb : b = neg
    · subst hb
      rw [same] at he
      exact htie n (fun z => hne (by rw [z])) he
    · rw [other b _ hb (mag_nonneg f n)] at he
      by_cases hnc : n = c
      · -- two zeros: the code is that of zero
        subst hnc
        have hz : mag f n = 0 := by
          have h0 := hle 0
          have hn0 := mag_nonneg f n
          have e0 : mag f 0 = 0 := by simp [mag]
          rw [e0, sub_zero, abs_of_nonneg hy] at h0
          linarith
        have : n = 0 := (mag_strictMono f).injective (by rw [hz]; simp [mag])
        rw [this]
      · exact htie n hnc (le_antisymm (hle n) (he ▸ further _ (mag_nonneg f n)))

/-- Towards zero, a code with its sign is the largest magnitude not beyond the number. -/
theorem truncated_signed {f : Fmt} (hf : Proper f) (neg : Bool) {y : ℚ} (hy : 0 ≤ y) {c : Nat} (hc : c ≤ f.maxCode)
    (h : Dir.Picks .down f y c) : f.RoundsTo 1 (sgn neg * y) (f.signed neg c) := by
  have habs : ∀ n, |mag f n| = mag f n := fun n => abs_of_nonneg (mag_nonneg f n)
  refine ⟨?_, fun n hn hle => ?_⟩
  · rw [rat_signed hf neg hc, abs_sgn_mul, abs_sgn_mul, abs_of_nonneg hy, habs]
    exact h.1
  · rw [rat_code hf hn, abs_sgn_mul, abs_of_nonneg hy, habs] at hle
    rw [rat_code hf hn, rat_signed hf neg hc, abs_sgn_mul, habs, habs]
    exact h.2 n hle

/-- Upwards, the code of a positive number is the next above, and that of a negative one the next magnitude below. -/
theorem upward_signed {f : Fmt} (hf : Proper f) (neg : Bool) {y : ℚ} (hy : 0 ≤ y) {c : Nat} (hc : c ≤ f.maxCode)
    (h : (dirOf 2 neg).Picks f y c) : f.RoundsTo 2 (sgn neg * y) (f.signed neg c) := by
  have hc0 := mag_nonneg f c
  cases neg with
  | false =>
    obtain ⟨h1, h2⟩ : y ≤ mag f c ∧ ∀ n, y ≤ mag f n → mag f c ≤ mag f n := h
    refine ⟨by rw [rat_signed hf _ hc]; simpa [sgn] using h1, fun b n hn hle => ?_⟩
    rw [rat_signed hf _ hc]
    rw [rat_signed hf b hn] at hle ⊢
    have hn0 := mag_nonneg f n
    cases b <;> simp only [sgn, if_true, if_false, Bool.false_eq_true, one_mul, neg_mul] at hle ⊢
    · exact h2 n hle
    · linarith [h2 n (by linarith)]
  | true =>
    obtain ⟨h1, h2⟩ : mag f c ≤ y ∧ ∀ n, mag f n ≤ y → mag f n ≤ mag f c := h
    refine ⟨by rw [rat_signed hf _ hc]; simpa [sgn] using h1, fun b n hn hle => ?_⟩
    rw [rat_signed hf _ hc]
    rw [rat_signed hf b hn] at hle ⊢
    have hn0 := mag_nonneg f n
    cases b <;> simp only [sgn, if_true, if_false, Bool.false_eq_true, one_mul, neg_mul] at hle ⊢
    · linarith
    · linarith [h2 n (by linarith)]

/-- Downwards is upwards with every sign turned. -/
theorem downward_mirror {f : Fmt} (hf : Proper f) (neg : Bool) {x : ℚ} {c : Nat} (hc : c ≤ f.maxCode)
    (h : f.RoundsTo 2 (-x) (f.signed (!neg) c)) : f.RoundsTo 3 x (f.signed neg c) := by
  have turn : ∀ b n, n ≤ f.maxCode → f.rat (f.signed (!b) n) = -f.rat (f.signed b n) := fun b n hn => by
    rw [rat_signed hf _ hn, rat_signed hf _ hn]; cases b <;> simp [sgn]
  obtain ⟨h1, h2⟩ := h
  rw [turn neg c hc] at h1
  refine ⟨neg_le_neg_iff.mp h1, fun b n hn hle => ?_⟩
  have := h2 (!b) n hn (by rw [turn b n hn]; exact neg_le_neg hle)
  rw [turn b n hn, turn neg c hc] at this
  exact neg_le_neg_iff.mp this

/-- A code that a mode picks rounds the number, with its sign, as Table K-25 says. -/
theorem Dir.Picks.roundsTo {f : Fmt} (hf : Proper f) {mode : Nat} (hm : mode ≤ 3) (neg : Bool) {y : ℚ} (hy : 0 ≤ y) {c : Nat}
    (hc : c ≤ f.maxCode) (h : (dirOf mode neg).Picks f y c) : f.RoundsTo mode (sgn neg * y) (f.signed neg c) := by
  interval_cases mode
  · exact nearest_signed hf neg hy hc h
  · have : dirOf 1 neg = .down := by cases neg <;> rfl
    exact truncated_signed hf neg hy hc (this ▸ h)
  · exact upward_signed hf neg hy hc h
  · refine downward_mirror hf neg hc ?_
    have e : -(sgn neg * y) = sgn (!neg) * y := by cases neg <;> simp [sgn]
    have ed : dirOf 3 neg = dirOf 2 (!neg) := by cases neg <;> rfl
    rw [e]
    exact upward_signed hf _ hy hc (ed ▸ h)

/-! ## Beyond the range -/

/-- The largest finite magnitude, the next one, and the number half-way between them. -/
theorem max_halfway {f : Fmt} (hf : Proper f) (h : f.hasInf = true) :
    ((2 : ℚ) ^ (f.mbits + 2) - 1) * 2 ^ ((f.bias : Int) - f.mbits - 1) = (mag f f.maxCode + mag f (f.maxCode + 1)) / 2 := by
  have hM : 0 < 2 ^ f.mbits := by positivity
  obtain ⟨he, -⟩ := hf.infinity h
  have hb : 1 ≤ f.bias := by
    by_contra hb
    have hb0 : f.bias = 0 := by omega
    have := hf.normal
    rw [hb0] at he
    omega
  have h1 : mag f (f.maxCode + 1) = 2 * 2 ^ f.mbits * 2 ^ ((f.bias : Int) - f.mbits) := by
    have e : f.maxCode + 1 = (2 * f.bias) * 2 ^ f.mbits + 2 ^ f.mbits := by rw [he]; ring
    rw [e, mag_units f (by omega) (.inr le_rfl)]
    have : unitExp f + ((2 * f.bias : Nat) : Int) = ((f.bias : Int) - f.mbits) + 1 := by unfold unitExp; push_cast; ring
    rw [this, zpow_add_one₀ (by norm_num)]; push_cast; ring
  have h2 : mag f f.maxCode = (2 * 2 ^ f.mbits - 1) * 2 ^ ((f.bias : Int) - f.mbits) := by
    obtain ⟨j, hj⟩ : ∃ j, f.bias = j + 1 := ⟨f.bias - 1, by omega⟩
    have e : f.maxCode = (2 * j + 1) * 2 ^ f.mbits + (2 * 2 ^ f.mbits - 1) := by
      have : f.maxCode + 1 = (2 * j + 1) * 2 ^ f.mbits + 2 * 2 ^ f.mbits := by rw [he, hj]; ring
      omega
    rw [e, mag_units f (by omega) (.inr (by omega))]
    have : unitExp f + ((2 * j + 1 : Nat) : Int) = (f.bias : Int) - f.mbits := by unfold unitExp; rw [hj]; push_cast; ring
    rw [this, Nat.cast_sub (by omega)]; push_cast; ring
  have h3 : (2 : ℚ) ^ ((f.bias : Int) - f.mbits) = 2 * 2 ^ ((f.bias : Int) - f.mbits - 1) := by
    rw [zpow_sub_one₀ (by norm_num)]; ring
  rw [h1, h2, h3, pow_add]
  ring

/-- To nearest, from half-way to the next code on, a magnitude overflows: the largest finite code is odd. -/
theorem nearest_overflows {f : Fmt} (hf : Proper f) (h : f.hasInf = true) {y : ℚ} {c : Nat} (hp : Dir.Picks .near f y c)
    (hy : (mag f f.maxCode + mag f (f.maxCode + 1)) / 2 ≤ y) : f.maxCode < c := by
  by_contra hlt
  have hstep := mag_succ f f.maxCode
  have hc := (mag_strictMono f).monotone (not_lt.mp hlt)
  have hodd : f.maxCode % 2 = 1 := by
    obtain ⟨w, hw⟩ : ∃ w, f.mbits = w + 1 := ⟨f.mbits - 1, by have := hf.fraction; omega⟩
    have := (hf.infinity h).1
    rw [hw, pow_succ, ← mul_assoc] at this
    omega
  have h1 := hp.1 (f.maxCode + 1)
  rw [abs_of_nonneg (by linarith)] at h1
  by_cases hbig : mag f (f.maxCode + 1) ≤ y
  · rw [abs_of_nonneg (by linarith)] at h1; linarith
  · rw [abs_of_nonpos (by linarith)] at h1
    have heq : mag f c = mag f f.maxCode := by linarith
    obtain rfl := (mag_strictMono f).injective heq
    have := hp.2 (f.maxCode + 1) (by omega) (by rw [abs_of_nonneg (by linarith), abs_of_nonpos (by linarith)]; linarith)
    omega

/-- To nearest, below half-way to the next code, a magnitude beyond the largest finite one is rounded back to it. -/
theorem nearest_max {f : Fmt} {y : ℚ} {c : Nat} (hp : Dir.Picks .near f y c) (hmax : mag f f.maxCode < y)
    (hy : y < (mag f f.maxCode + mag f (f.maxCode + 1)) / 2) : c = f.maxCode := by
  refine le_antisymm (not_lt.mp fun hlt => ?_) (hp.max_le hmax)
  have hc := (mag_strictMono f).monotone (Nat.succ_le_of_lt hlt)
  have h1 := hp.1 f.maxCode
  rw [abs_of_nonneg (a := y - mag f f.maxCode) (by linarith), abs_of_nonpos (by linarith)] at h1
  linarith

/-- A format rounds as Table K-25 and R129 say. -/
theorem rounding {f : Fmt} (hf : Proper f) : f.Rounding := by
  intro neg m e k mode hm x r
  obtain ⟨c, inexact, hr, hp, hx⟩ := round_picks hf hm neg m e 0 k
  have hy : (0 : ℚ) ≤ m * 2 ^ e := by positivity
  have hxe : x = sgn neg * (m * 2 ^ e) := rat_num neg m e false
  have habs : |x| = m * 2 ^ e := by rw [hxe, abs_sgn_mul, abs_of_nonneg hy]
  have hre : r = assembled f mode neg c inexact := hr
  rw [hre, habs, rat_code hf le_rfl, hxe]
  refine ⟨fun hle => ?_, fun hlt => ?_⟩
  · -- the number is in range
    have hc := hp.le_max hle
    have hne : f.rat (f.signed neg c) ≠ sgn neg * (m * 2 ^ e) ↔ inexact = true := by
      rw [hx, rat_signed hf neg hc]
      cases neg <;> simp [sgn]
    rw [assembled, if_neg (not_lt.mpr hc)]
    refine ⟨c, hc, rfl, hp.roundsTo hf hm neg hy hc, ?_⟩
    rw [hne]
    cases inexact with
    | false => simp
    | true => by_cases ht : c < 2 ^ f.mbits <;> simp [ht, flNX, flUF]
  · -- the number is beyond the largest finite one
    have hc := hp.max_le hlt
    refine ⟨fun hi h0 => ?_, fun hi hup => ?_, fun hback => ?_⟩
    · subst h0
      rw [max_halfway hf hi]
      refine ⟨fun hge => ?_, fun hlt' => ?_⟩
      · simp [assembled, nearest_overflows hf hi hp hge, hi]
      · obtain rfl := nearest_max hp hlt hlt'
        have hin : inexact = true := hx.mpr hlt.ne
        simp [assembled, hin, not_lt.mpr hf.normal]
    · have hd : dirOf mode neg = .up := by
        rcases hup with ⟨rfl, rfl⟩ | ⟨rfl, rfl⟩ <;> rfl
      rw [hd] at hp
      have : f.maxCode < c := (mag_strictMono f).lt_iff_lt.mp (hlt.trans_le hp.1)
      rcases hup with ⟨rfl, rfl⟩ | ⟨rfl, rfl⟩ <;> simp [assembled, this, hi]
    · by_cases hgt : f.maxCode < c
      · simp only [assembled, hgt, if_true]
        rcases hback with h | rfl | ⟨rfl, rfl⟩ | ⟨rfl, rfl⟩ <;> simp [*]
      · obtain rfl : c = f.maxCode := le_antisymm (not_lt.mp hgt) hc
        simp [assembled]

end Sys2Proof.Machine.Numbers
end

section
/-! PROOF. Exact sums and products, and the rows that leave a floating result with flags (spec 05 R129 to R131, spec 07 R167, R175 to R179). -/

namespace Sys2Proof.Machine.Numbers

open Storage

set_option Elab.async false

/-! ## Exact arithmetic -/

/-- A finite exact value. -/
def Finite (x : Fx) : Prop := ∃ neg m e, x = .num neg m e false

theorem finite_num (neg : Bool) (m : Nat) (e : Int) : Finite (.num neg m e false) := ⟨neg, m, e, rfl⟩

theorem rat_mul (a b : Bool) (m n : Nat) (e g : Int) :
    ((Fx.num a m e false).mul (.num b n g false)).rat = (Fx.num a m e false).rat * (Fx.num b n g false).rat := by
  simp only [Fx.mul, rat_num]
  have : sgn (a != b) = sgn a * sgn b := by cases a <;> cases b <;> simp [sgn]
  rw [this, zpow_add₀ (by norm_num)]; push_cast; ring

/-- A value in units no larger than its own. -/
theorem rat_units {x : Fx} (hx : Finite x) {e : Int} (he : e ≤ x.exp) : x.rat = x.units e * 2 ^ e := by
  obtain ⟨neg, m, g, rfl⟩ := hx
  have hge : e ≤ g := he
  have hs := scaled_mul m hge
  rw [unscale, div_eq_iff (by positivity)] at hs
  rw [rat_num, hs]
  cases neg <;> simp [Fx.units, sgn]

theorem foldl_min_le (xs : List Fx) (a : Int) : xs.foldl (fun (b : Int) x => min b x.exp) a ≤ a ∧
    ∀ x ∈ xs, xs.foldl (fun (b : Int) x => min b x.exp) a ≤ x.exp := by
  induction xs generalizing a with
  | nil => simp
  | cons y ys ih =>
    obtain ⟨h1, h2⟩ := ih (min a y.exp)
    rw [List.foldl_cons]
    refine ⟨h1.trans (min_le_left _ _), fun x hx => ?_⟩
    rcases List.mem_cons.mp hx with rfl | hx
    · exact h1.trans (min_le_right _ _)
    · exact h2 x hx

theorem foldl_units (xs : List Fx) (e a : Int) : xs.foldl (fun (b : Int) x => b + x.units e) a = a + (xs.map (fun x => x.units e)).sum := by
  induction xs generalizing a with
  | nil => simp
  | cons y ys ih => rw [List.foldl_cons, ih]; simp [add_assoc]

theorem rat_sum_units {xs : List Fx} (hx : ∀ x ∈ xs, Finite x) {e : Int} (he : ∀ x ∈ xs, e ≤ x.exp) :
    (xs.map Fx.rat).sum = ((xs.map (fun x => x.units e)).sum : Int) * 2 ^ e := by
  induction xs with
  | nil => simp
  | cons y ys ih =>
    simp only [List.forall_mem_cons] at hx he
    rw [List.map_cons, List.sum_cons, List.map_cons, List.sum_cons, ih hx.2 he.2, rat_units hx.1 he.1]
    push_cast; ring

/-- The exact sum of finite values is finite, and is their sum. -/
theorem sumFx_finite (mode : Nat) (pos : Bool) {xs : List Fx} (hx : ∀ x ∈ xs, Finite x) :
    Finite (sumFx mode pos xs) ∧ (sumFx mode pos xs).rat = (xs.map Fx.rat).sum := by
  have hnan : xs.any Fx.isNan = false := List.any_eq_false.mpr fun x h => by obtain ⟨_, _, _, rfl⟩ := hx x h; simp [Fx.isNan]
  have hinf : ∀ b, xs.any (· == .inf b) = false := fun b => List.any_eq_false.mpr fun x h => by
    obtain ⟨_, _, _, rfl⟩ := hx x h; simp
  rw [rat_sum_units hx (foldl_min_le xs 0).2]
  simp only [sumFx, hnan, hinf, Bool.false_eq_true, if_false, foldl_units, zero_add]
  generalize (xs.map fun x => x.units (xs.foldl (fun (b : Int) x => min b x.exp) 0)).sum = v
  split
  · next h => exact ⟨finite_num _ _ _, by rw [rat_num, h]; simp⟩
  · refine ⟨finite_num _ _ _, ?_⟩
    rw [rat_num, ← mul_assoc]
    congr 1
    have hv : ((v.natAbs : Int) : ℚ) = ((|v| : Int) : ℚ) := by rw [Int.natCast_natAbs]
    rw [Int.cast_natCast] at hv
    rw [hv]
    by_cases hneg : v < 0
    · simp [sgn, hneg, abs_of_neg hneg]
    · simp [sgn, hneg, abs_of_nonneg (not_lt.mp hneg)]

/-- Products, sums and fused sums of finite values are exact (R175). -/
theorem exact_arithmetic (a b : Bool) (m n : Nat) (e g : Int) (mode : Nat) :
    let x := Fx.num a m e false
    let y := Fx.num b n g false
    (x.mul y).rat = x.rat * y.rat ∧ (Fx.add mode x y).rat = x.rat + y.rat ∧
    (∀ (z : Bool) (k : Nat) (h : Int), (Fx.fma mode x y (.num z k h false)).rat = x.rat * y.rat + (Fx.num z k h false).rat) := by
  have add : ∀ x y, Finite x → Finite y → (Fx.add mode x y).rat = x.rat + y.rat := fun x y hx hy => by
    rw [Fx.add, (sumFx_finite mode true (xs := [x, y]) (by simp [hx, hy])).2]; simp
  intro x y
  refine ⟨rat_mul a b m n e g, add x y (finite_num _ _ _) (finite_num _ _ _), fun z k h => ?_⟩
  have hp : (x.mul y).rat = x.rat * y.rat := rat_mul a b m n e g
  rw [Fx.fma, add (x.mul y) _ (finite_num _ _ _) (finite_num _ _ _), hp]

/-! ## The rows -/

theorem flagDetail_eq (m : Mask) (fl : Lane → Flags) : flagDetail m fl = 0 ↔ ∀ i : Lane, inMask m i = true → fl i &&& 7 = 0 := by
  have fold : ∀ (xs : List Lane) (a : Flags),
      xs.foldl (fun acc i => acc ||| trapBits (fl i)) a = 0 ↔ a = 0 ∧ ∀ i ∈ xs, fl i &&& 7 = 0 := by
    intro xs
    induction xs with
    | nil => simp
    | cons y ys ih => intro a; rw [List.foldl_cons, ih]; simp [BitVec.or_eq_zero_iff, trapBits, and_assoc]
  rw [flagDetail, fold]
  simp

/-- The arithmetic trap takes an issue exactly when the detail of its flags is not zero (R131). -/
theorem arithTraps_iff (c : Ctx) (fl : Lane → Flags) : c.arithTraps fl ↔ (c.t.desc.fptrap && flagDetail c.m fl != 0) = true := by
  rw [Bool.and_eq_true, bne_iff_ne, ne_eq, flagDetail_eq]
  simp [Ctx.arithTraps]

/-- A floating result by its flags: the arithmetic trap, or the flags and the result. -/
theorem fpResult_eq (c : Ctx) (op : Op) (x : Lane → Word × Flags) :
    (c.go op).fpResult x = if (c.t.desc.fptrap && flagDetail c.m (fun i => (x i).2) != 0) = true then
        .trap (c.s0.modGroup c.r (fun g => Group.entered { c.flagged g (fun i => (x i).2) with hold := none } .noResult))
          (c.info 0x0A ((flagDetail c.m (fun i => (x i).2)).setWidth 8) 0 0)
      else Ctx.result32 { c.go op with s := (c.go op).withGroup (fun g => c.flagged g (fun i => (x i).2)) } (fun i => (x i).1) := by
  simp only [Ctx.fpResult, Ctx.withFlags, Fin.getElem_fin, getElem_lanes]
  rfl

/-- A floating result without the arithmetic trap. -/
theorem settle_fp_result {c : Ctx} (op : Op) (x : Lane → Word × Flags) (h : ¬ c.arithTraps (fun i => (x i).2)) :
    c.settle ((c.go op).fpResult x) = c.afterFp op x := by
  rw [arithTraps_iff] at h
  rw [fpResult_eq, if_neg h]
  simp only [Ctx.result32, Ctx.withGroup, Ctx.go, State.modGroup_setGroup]
  exact c.settle_done _ _

theorem charged_setGroup (c : Ctx) (s : State) (g : Group) : c.charged (s.setGroup c.r g) = c.counted (s.setGroup c.r (c.timed g)) := by
  unfold Ctx.charged Ctx.counted; split <;> simp

/-- The arithmetic trap (R131, R167). -/
theorem settle_fp_trap {c : Ctx} {f : Fields} {s : State} (hc : s.ctx? f = some c) (op : Op) (x : Lane → Word × Flags)
    (h : c.arithTraps (fun i => (x i).2)) :
    c.settle ((c.go op).fpResult x) = (c.afterArith (fun i => (x i).2)).raise c.r
      (c.info 0x0A ((flagDetail c.m (fun i => (x i).2)).setWidth 8) 0 0) := by
  rw [arithTraps_iff] at h
  obtain ⟨-, hg, -, -, h0, -⟩ := State.ctx?_spec hc
  rw [← h0] at hg
  rw [fpResult_eq, if_pos h, State.modGroup_some _ _ _ _ hg]
  simp only [Ctx.settle, charged_setGroup]
  rfl

/-- A row whose meaning is a floating result leaves it, or takes the arithmetic trap (R167). -/
theorem leavesFp_of {op : Op} {row : Fields → Instr} {x : Ctx → Lane → Word × Flags}
    (h : ∀ f s, exec (row f) s = issue op f s fun c => c.fpResult (x c)) (hx : ∀ c : Ctx, x (c.go op) = x c) : LeavesFp op row x := by
  intro f s c hr
  rw [h, issue_ready hr, hx]
  exact ⟨fun ht => by rw [settle_fp_result op _ ht], fun ht => by rw [settle_fp_trap hr.issuing op _ ht]⟩

/-- A row whose meaning is a 32-bit result leaves it. -/
theorem leaves32_of {op : Op} {row : Fields → Instr} {x : Ctx → Lane → Word}
    (h : ∀ f s, exec (row f) s = issue op f s fun c => c.result32 (x c)) (hx : ∀ c : Ctx, x (c.go op) = x c) : Leaves32 op row x := by
  intro f s c hr
  rw [h, issue_ready hr, hx, Ctx.settle_result32]

/-- A row whose meaning is a result of the width of MOD leaves it. -/
theorem leavesMod_of {op : Op} {row : Fields → Instr} {x : Ctx → Lane → DWord}
    (h : ∀ f s, exec (row f) s = issue op f s fun c => c.resultMod (x c)) (hx : ∀ c : Ctx, x (c.go op) = x c) : LeavesMod op row x := by
  intro f s c hr
  rw [h, issue_ready hr, hx, Ctx.settle_resultMod]

end Sys2Proof.Machine.Numbers
end

section
/-! PROOF. Rows 0x2 and 0x3 leave what Tables K-41 to K-43 say (spec 05 R123, R127 to R131, spec 07 R167, R175 to R179). -/

namespace Sys2Proof.Machine.Numbers

set_option Elab.async false

/-- An FP32 result, and a subnormal one under `.ftz` (R127). -/
theorem f32Out_eq (mode : Nat) (x : Fx) :
    f32Out mode false x = (BitVec.ofNat 32 (fmtF32.round x mode 0 32).1, (fmtF32.round x mode 0 32).2) ∧
    f32Out mode true x = (let w : Word := BitVec.ofNat 32 (fmtF32.round x mode 0 32).1
      if w.extractLsb' 23 8 = 0 ∧ w.extractLsb' 0 23 ≠ 0 then (w &&& 0x80000000, (fmtF32.round x mode 0 32).2 ||| flUF ||| flNX)
      else (w, (fmtF32.round x mode 0 32).2)) :=
  ⟨rfl, by simp only [f32Out, ftzOut, Bool.true_and, Bool.and_eq_true, beq_iff_eq, bne_iff_ne]⟩

/-- The class mask of a pattern has the one bit of its class (R176). -/
theorem classOf_eq (x : Word) : classOf x =
    (let e := (x.extractLsb' 23 8).toNat
     let m := (x.extractLsb' 0 23).toNat
     let bit : Nat := if e = 255 then (if m = 0 then (if x.msb then 0 else 7) else if x.getLsbD 22 then 9 else 8)
       else if e = 0 then (if m = 0 then (if x.msb then 3 else 4) else if x.msb then 2 else 5)
       else if x.msb then 1 else 6
     1#32 <<< bit) := by
  have hneg : x.getLsbD 31 = x.msb := by simp [BitVec.msb_eq_getLsbD_last]
  have hq : (x.extractLsb' 0 23).getLsbD 22 = x.getLsbD 22 := by simp
  have he : ∀ n : BitVec 8, x.extractLsb' 23 8 = n ↔ (x.extractLsb' 23 8).toNat = n.toNat := fun n => BitVec.toNat_inj.symm
  have hm : x.extractLsb' 0 23 = 0 ↔ (x.extractLsb' 0 23).toNat = 0 := BitVec.toNat_inj.symm
  simp only [classOf, hneg, hq, Bool.and_eq_true, beq_iff_eq, bne_iff_ne, ne_eq, he, hm]
  generalize (x.extractLsb' 23 8).toNat = e
  generalize (x.extractLsb' 0 23).toNat = m
  by_cases h255 : e = 255
  · by_cases h0 : m = 0
    · cases x.msb <;> simp [h255, h0]
    · cases x.getLsbD 22 <;> simp [h255, h0]
  · by_cases he0 : e = 0
    · by_cases h0 : m = 0 <;> cases x.msb <;> simp [he0, h0]
    · cases x.msb <;> simp [h255, he0]

/-- A code of a format by its exponent and its fraction, and the code with the other sign (Table K-22). -/
theorem rat_fields {f : Fmt} (hf : Proper f) {c : Nat} (h : c ≤ f.maxCode) : f.rat c =
    (if c < 2 ^ f.mbits then (c : ℚ) * 2 ^ (1 - (f.bias : Int) - f.mbits)
     else ((2 : ℚ) ^ f.mbits + ((c % 2 ^ f.mbits : Nat) : ℚ)) * 2 ^ (((c / 2 ^ f.mbits : Nat) : Int) - f.bias - f.mbits)) ∧
    f.rat (f.signed true c) = -f.rat c :=
  ⟨rat_code hf h, by rw [rat_signed hf true h, rat_code hf h]; simp [sgn]⟩

/-- Settles O7: rounding by the code that a direction picks, sums and products by their units, and each row by its meaning. -/
theorem floatResults : Obligations.FloatResults := by
  refine ⟨fun f hf => rounding (floatFmts_proper hf), fun f hf c hc => rat_fields (floatFmts_proper hf) hc, exact_arithmetic, f32Out_eq,
    ?_, ?_, ?_, ?_, ?_, ?_, ?_, ?fclass, ?_, ?_, ?_, ?_, ?_, ?_, ?_, ?_, ?_, ?_, ?_, ?_, ?_, ?_, ?_⟩
  case fclass =>
    have h : Leaves32 .fclass .fclass (fun c i => classOf (c.a32 i)) := leaves32_of (fun _ _ => rfl) fun _ => rfl
    simpa only [classOf_eq] using h
  all_goals exact leavesFp_of (fun _ _ => rfl) fun _ => rfl

end Sys2Proof.Machine.Numbers
end

section
/-! PROOF. Conversions between integers and floating formats (spec 05 R123, R128, R129, spec 07 R181). -/

namespace Sys2Proof.Machine.Numbers

set_option Elab.async false

/-! ## Rounding to an integer -/

/-- An integer that a direction rounds a magnitude to, with its sign, rounds the number as Table K-25 says. -/
theorem Dir.Rounds.roundsInt {mode : Nat} (hm : mode ≤ 3) (neg : Bool) {y : ℚ} (hy : 0 ≤ y) {q : Nat} (h : (dirOf mode neg).Rounds y q) :
    RoundsInt mode (sgn neg * y) (if neg then -(q : Int) else q) := by
  have hcast : ((if neg then -(q : Int) else q : Int) : ℚ) = sgn neg * q := by cases neg <;> simp [sgn]
  interval_cases mode
  · obtain ⟨h1, h2⟩ : |y - q| ≤ 1 / 2 ∧ (|y - q| = 1 / 2 → q % 2 = 0) := h
    have e : |sgn neg * y - ((if neg then -(q : Int) else q : Int) : ℚ)| = |y - q| := by rw [hcast, ← mul_sub, abs_sgn_mul]
    refine ⟨by rw [e]; exact h1, fun ht => ?_⟩
    have := h2 (by rw [← e]; exact ht)
    cases neg <;> simp <;> omega
  · obtain ⟨h1, h2⟩ : (q : ℚ) ≤ y ∧ y < q + 1 := by cases neg <;> exact h
    cases neg with
    | false =>
      show (q : Int) = if 0 ≤ sgn false * y then _ else _
      simp only [sgn, Bool.false_eq_true, if_false, one_mul, hy, if_true]
      exact (Int.floor_eq_iff.mpr ⟨by exact_mod_cast h1, by exact_mod_cast h2⟩).symm
    | true =>
      show -(q : Int) = if 0 ≤ sgn true * y then _ else _
      simp only [sgn, if_true, neg_mul, one_mul]
      by_cases h0 : (0 : ℚ) ≤ -y
      · have hq : q = 0 := by
          have : (q : ℚ) ≤ 0 := by linarith
          exact_mod_cast le_antisymm this (Nat.cast_nonneg q)
        rw [if_pos h0, hq]
        exact (Int.floor_eq_iff.mpr ⟨by push_cast; linarith, by push_cast; linarith⟩).symm
      · rw [if_neg h0]
        exact (Int.ceil_eq_iff.mpr ⟨by push_cast; linarith, by push_cast; linarith⟩).symm
  · cases neg with
    | false =>
      obtain ⟨h1, h2⟩ : y ≤ q ∧ (q : ℚ) < y + 1 := h
      exact (Int.ceil_eq_iff.mpr ⟨by simp [sgn]; linarith, by simpa [sgn] using h1⟩).symm
    | true =>
      obtain ⟨h1, h2⟩ : (q : ℚ) ≤ y ∧ y < q + 1 := h
      exact (Int.ceil_eq_iff.mpr ⟨by simp [sgn]; linarith, by simpa [sgn] using h1⟩).symm
  · cases neg with
    | false =>
      obtain ⟨h1, h2⟩ : (q : ℚ) ≤ y ∧ y < q + 1 := h
      exact (Int.floor_eq_iff.mpr ⟨by simpa [sgn] using h1, by simp [sgn]; linarith⟩).symm
    | true =>
      obtain ⟨h1, h2⟩ : y ≤ q ∧ (q : ℚ) < y + 1 := h
      exact (Int.floor_eq_iff.mpr ⟨by simpa [sgn] using h1, by simp [sgn]; linarith⟩).symm

/-- An integer out of the bounds of a format is saturated with NV, and one within them inexact as a flag says (R129). -/
theorem saturate_eq {lo hi : Int} (h : lo ≤ hi) (z : Int) (fl : Flags) :
    (if z < lo then (lo, flNV) else if hi < z then (hi, flNV) else (z, fl)) =
      (max lo (min hi z), if z < lo ∨ hi < z then flNV else fl) := by
  by_cases h1 : z < lo
  · simp [h1, show min hi z = z by omega, show max lo z = lo by omega]
  · by_cases h2 : hi < z
    · simp [h1, h2, show min hi z = hi by omega, show max lo hi = hi by omega]
    · simp [h1, h2, show min hi z = z by omega, show max lo z = z by omega]

/-- A finite value is rounded to an integer as its mode says, and saturates with NV. -/
theorem roundInt_finite {lo hi : Int} (hb : lo ≤ hi) {mode : Nat} (hm : mode ≤ 3) (neg : Bool) (m : Nat) (e : Int) (rnd k : Nat) :
    ∃ z : Int, RoundsInt mode (Fx.num neg m e false).rat z ∧ roundInt lo hi (.num neg m e false) mode rnd k =
      (max lo (min hi z), if z < lo ∨ hi < z then flNV else if (z : ℚ) ≠ (Fx.num neg m e false).rat then flNX else 0) := by
  obtain ⟨hr, hx⟩ := roundMag_rounds hm neg m e 0 rnd k
  rw [sub_zero] at hr hx
  refine ⟨_, by rw [rat_num]; exact hr.roundsInt hm neg (by positivity), ?_⟩
  have hne : ((if neg then -((roundMag mode neg m e 0 false rnd k).1 : Int) else (roundMag mode neg m e 0 false rnd k).1 : Int) : ℚ) ≠
      (Fx.num neg m e false).rat ↔ (roundMag mode neg m e 0 false rnd k).2 = true := by
    rw [hx, rat_num]; cases neg <;> simp [sgn]
  simp only [roundInt, saturate_eq hb, hne]

/-- An integer is rounded to itself, and saturates with NV. -/
theorem roundInt_ofInt {lo hi : Int} (hb : lo ≤ hi) (x : Int) (mode rnd k : Nat) :
    roundInt lo hi (Fx.ofInt x) mode rnd k = (max lo (min hi x), if x < lo ∨ hi < x then flNV else 0) := by
  have hx : (if decide (x < 0) = true then -((x.natAbs * 2 ^ ((0 : Int) - 0).toNat : Nat) : Int)
      else ((x.natAbs * 2 ^ ((0 : Int) - 0).toNat : Nat) : Int)) = x := by
    by_cases h : x < 0
    · simp [h, abs_of_neg h]
    · simp [h, abs_of_nonneg (not_lt.mp h)]
  simp only [roundInt, Fx.ofInt, roundMag_fine _ _ _ le_rfl, hx, Bool.false_eq_true, if_false, saturate_eq hb]

/-! ## Conversions -/

/-- A word whose exponent is not all ones is finite. -/
theorem finite_word {a : Word} (h : a.extractLsb' 23 8 ≠ 0xFF) : a.toNat % 2 ^ (fmtF32.width - 1) ≤ fmtF32.maxCode := by
  have he : (a.extractLsb' 23 8).toNat ≠ 255 := fun z => h (BitVec.eq_of_toNat_eq z)
  rw [BitVec.extractLsb'_toNat, Nat.shiftRight_eq_div_pow] at he
  show a.toNat % 2 ^ 31 ≤ 0x7F7FFFFF
  omega

theorem value_word {a : Word} (h : a.extractLsb' 23 8 ≠ 0xFF) : Finite (fmtF32.value a.toNat) := by
  obtain ⟨m, e, hv, -⟩ := value_finite (finite_word h)
  exact ⟨_, m, e, hv⟩

/-- A conversion of a finite word to an integer format with bounds lo and hi. -/
theorem cvt_toInt {md : BitVec 5} {lo hi : Int} (hb : lo ≤ hi) {mode : Nat} (hm : mode ≤ 3) {a rnd : Word} (ha : a.extractLsb' 23 8 ≠ 0xFF)
    (hc : cvtOf md mode a rnd = (BitVec.ofInt 32 (roundInt lo hi (fmtF32.value a.toNat) mode rnd.toNat 32).1,
      (roundInt lo hi (fmtF32.value a.toNat) mode rnd.toNat 32).2)) :
    ∃ z : Int, RoundsInt mode (fmtF32.rat a.toNat) z ∧ (cvtOf md mode a rnd).1 = BitVec.ofInt 32 (max lo (min hi z)) ∧
      (cvtOf md mode a rnd).2 = (if z < lo ∨ hi < z then flNV else if (z : ℚ) ≠ fmtF32.rat a.toNat then flNX else 0) := by
  obtain ⟨neg, m, e, hv⟩ := value_word ha
  obtain ⟨z, hz, hr⟩ := roundInt_finite hb hm neg m e rnd.toNat 32
  rw [Fmt.rat, hv]
  exact ⟨z, hz, by rw [hc, hv, hr], by rw [hc, hv, hr]⟩

/-- A conversion of a word to a narrower integer format with bounds lo and hi. -/
theorem cvt_saturates {md : BitVec 5} {lo hi : Int} (hb : lo ≤ hi) {mode : Nat} {a rnd : Word}
    (hc : cvtOf md mode a rnd = (BitVec.ofInt 32 (roundInt lo hi (Fx.ofInt (a.setWidth 32).toInt) mode rnd.toNat 32).1,
      (roundInt lo hi (Fx.ofInt (a.setWidth 32).toInt) mode rnd.toNat 32).2)) :
    cvtOf md mode a rnd = (BitVec.ofInt 32 (max lo (min hi a.toInt)), if a.toInt < lo ∨ hi < a.toInt then flNV else 0) := by
  rw [hc, roundInt_ofInt hb, BitVec.setWidth_eq]

/-- The finite codes of a narrower format are numbers of FP32. -/
structure Narrow (f : Fmt) : Prop where
  proper : Proper f
  fraction : f.mbits ≤ fmtF32.mbits
  unit : unitExp fmtF32 ≤ unitExp f
  range : mag f f.maxCode ≤ mag fmtF32 fmtF32.maxCode

theorem narrow_formats : ∀ f ∈ [fmtF16, fmtBF16, fmtE4M3, fmtE5M2, fmtE2M1], Narrow f := by
  have mem : ∀ f ∈ [fmtF16, fmtBF16, fmtE4M3, fmtE5M2, fmtE2M1], f ∈ floatFmts := by decide
  have range : ∀ f ∈ [fmtF16, fmtBF16, fmtE4M3, fmtE5M2, fmtE2M1], mag f f.maxCode ≤ mag fmtF32 fmtF32.maxCode := by
    simp only [List.forall_mem_cons, List.not_mem_nil, false_imp_iff, implies_true, and_true]
    refine ⟨?_, ?_, ?_, ?_, ?_⟩ <;> norm_num [mag, fmtF16, fmtBF16, fmtE4M3, fmtE5M2, fmtE2M1, fmtF32, zpow_neg]
  have unit : ∀ f ∈ [fmtF16, fmtBF16, fmtE4M3, fmtE5M2, fmtE2M1], f.mbits ≤ fmtF32.mbits ∧ unitExp fmtF32 ≤ unitExp f := by decide
  exact fun f hf => ⟨floatFmts_proper (mem f hf), (unit f hf).1, (unit f hf).2, range f hf⟩

/-- A conversion to a wider format is exact, in every mode. -/
theorem widen_exact {f : Fmt} (hf : Narrow f) {bits : Nat} (h : bits % 2 ^ (f.width - 1) ≤ f.maxCode) (mode rnd : Nat) :
    fmtF32.rat (BitVec.ofNat 32 (fmtF32.round (f.value bits) mode rnd 32).1).toNat = f.rat bits ∧
      (fmtF32.round (f.value bits) mode rnd 32).2 = 0 := by
  obtain ⟨m, e, hv, hm, hlt, he⟩ := value_finite h
  have hw : m < 2 * 2 ^ fmtF32.mbits := hlt.trans_le (by have := Nat.pow_le_pow_right (show 0 < 2 by norm_num) hf.fraction; omega)
  have hmax : (m : ℚ) * 2 ^ e ≤ mag fmtF32 fmtF32.maxCode := by
    rw [hm]; exact ((mag_strictMono f).monotone h).trans hf.range
  obtain ⟨c, hc, hcm, hr⟩ := round_exact hw (hf.unit.trans he) hmax (bits.testBit (f.width - 1)) mode rnd 32
  have h32 : Proper fmtF32 := floatFmts_proper (by simp)
  have hlt32 : fmtF32.signed (bits.testBit (f.width - 1)) c < 2 ^ 32 := by
    have hc' : c ≤ 0x7F7FFFFF := hc
    cases bits.testBit (f.width - 1) <;> simp [Fmt.signed, Fmt.width, fmtF32] <;> omega
  rw [hv, hr, BitVec.toNat_ofNat, Nat.mod_eq_of_lt hlt32, rat_signed h32 _ hc, hcm, rat_encoding h, hm]
  exact ⟨rfl, rfl⟩

end Sys2Proof.Machine.Numbers
end

section
/-! PROOF. Blocks of MX elements: the scale, and the nearest element codes (spec 05 R132, spec 07 R184). -/

namespace Sys2Proof.Machine.Numbers

open Storage

set_option Elab.async false

/-! ## The scale of a block -/

theorem rat_eq_zero {neg : Bool} {m : Nat} {e : Int} (rest : Bool) : (Fx.num neg m e rest).rat = 0 ↔ m = 0 := by
  have : (2 : ℚ) ^ e ≠ 0 := by positivity
  rw [rat_num]; cases neg <;> simp [sgn, this]

/-- The leading bit of a finite value that is not zero. -/
theorem abs_rat_log2 (neg : Bool) {m : Nat} (hm : m ≠ 0) (e : Int) :
    (2 : ℚ) ^ ((m.log2 : Int) + e) ≤ |(Fx.num neg m e false).rat| ∧ |(Fx.num neg m e false).rat| < 2 ^ ((m.log2 : Int) + e + 1) := by
  have habs : |(Fx.num neg m e false).rat| = m * 2 ^ e := by rw [rat_num, abs_sgn_mul, abs_of_nonneg (by positivity)]
  have e1 : (m.log2 : Int) + e + 1 = ((m.log2 + 1 : Nat) : Int) + e := by push_cast; ring
  rw [habs, e1, zpow_add₀ (by norm_num), zpow_add₀ (by norm_num), zpow_natCast, zpow_natCast]
  constructor
  · gcongr; exact_mod_cast Nat.log2_self_le hm
  · gcongr; exact_mod_cast Nat.lt_log2_self

/-- What the largest leading bit of a list says of its values: all are zero, or one reaches it and none passes it. -/
def Leads (o : Option Int) (xs : List Fx) : Prop :=
  match o with
  | none => ∀ x ∈ xs, x.rat = 0
  | some k => (∃ x ∈ xs, (2 : ℚ) ^ k ≤ |x.rat|) ∧ ∀ x ∈ xs, |x.rat| < (2 : ℚ) ^ (k + 1)

theorem Leads.append_zero {o : Option Int} {xs : List Fx} (h : Leads o xs) {y : Fx} (hy : y.rat = 0) : Leads o (xs ++ [y]) := by
  cases o with
  | none =>
    intro x hx
    rcases List.mem_append.mp hx with hx | hx
    · exact h x hx
    · rw [List.mem_singleton.mp hx]; exact hy
  | some k =>
    obtain ⟨⟨x, hxm, hk⟩, hall⟩ := h
    refine ⟨⟨x, List.mem_append_left _ hxm, hk⟩, fun z hz => ?_⟩
    rcases List.mem_append.mp hz with hz | hz
    · exact hall z hz
    · rw [List.mem_singleton.mp hz, hy, abs_zero]; positivity

theorem two_zpow_le {a b : Int} (h : a ≤ b) : (2 : ℚ) ^ a ≤ 2 ^ b := zpow_le_zpow_right₀ (by norm_num) h

theorem Leads.append {o : Option Int} {xs : List Fx} (h : Leads o xs) {y : Fx} {k : Int} (hlow : (2 : ℚ) ^ k ≤ |y.rat|)
    (hhigh : |y.rat| < (2 : ℚ) ^ (k + 1)) : Leads (some (o.elim k (fun a => max a k))) (xs ++ [y]) := by
  have last : y ∈ xs ++ [y] := by simp
  cases o with
  | none =>
    refine ⟨⟨y, last, hlow⟩, fun z hz => ?_⟩
    rcases List.mem_append.mp hz with hz | hz
    · rw [h z hz, abs_zero]; positivity
    · rw [List.mem_singleton.mp hz]; exact hhigh
  | some a =>
    obtain ⟨⟨x, hxm, hk⟩, hall⟩ := h
    simp only [Option.elim_some]
    refine ⟨?_, fun z hz => ?_⟩
    · rcases max_cases a k with ⟨e, -⟩ | ⟨e, -⟩
      · exact ⟨x, List.mem_append_left _ hxm, by rw [e]; exact hk⟩
      · exact ⟨y, last, by rw [e]; exact hlow⟩
    · rcases List.mem_append.mp hz with hz | hz
      · exact (hall z hz).trans_le (two_zpow_le (by omega))
      · rw [List.mem_singleton.mp hz]; exact hhigh.trans_le (two_zpow_le (by omega))

theorem maxLog2_append (xs : List Fx) (neg : Bool) (m : Nat) (e : Int) : maxLog2 (xs ++ [.num neg m e false]) =
    if m = 0 then maxLog2 xs else some ((maxLog2 xs).elim ((m.log2 : Int) + e) (fun a => max a ((m.log2 : Int) + e))) := by
  simp only [maxLog2, List.foldl_append, List.foldl_cons, List.foldl_nil]
  split
  · rfl
  · split <;> simp [*]

/-- The largest leading bit of finite values is what it is taken for. -/
theorem maxLog2_leads {xs : List Fx} (hx : ∀ x ∈ xs, Finite x) : Leads (maxLog2 xs) xs := by
  induction xs using List.reverseRecOn with
  | nil => simp [maxLog2, Leads]
  | append_singleton ys y ih =>
    have ih := ih fun x h => hx x (List.mem_append_left _ h)
    obtain ⟨neg, m, e, rfl⟩ := hx y (by simp)
    rw [maxLog2_append]
    by_cases hm : m = 0
    · rw [if_pos hm]
      exact ih.append_zero ((rat_eq_zero false).mpr hm)
    · rw [if_neg hm]
      exact ih.append (abs_rat_log2 neg hm e).1 (abs_rat_log2 neg hm e).2

/-- The scale exponent of a block: the largest leading bit less emax, held to the range of a scale byte (R132). -/
def blockExp (emax : Int) (o : Option Int) : Int :=
  match o with
  | none => 0
  | some k => max (-127) (min 127 (k - emax))

theorem blockExp_range (emax : Int) (o : Option Int) : -127 ≤ blockExp emax o ∧ blockExp emax o ≤ 127 := by
  cases o <;> simp [blockExp]

/-- The scale brings the largest magnitude of a block into the topmost binade of the element format, unless it is held at its range. -/
theorem blockExp_largest (emax : Int) {o : Option Int} {xs : List Fx} (h : Leads o xs) {y : Fx} (hy : y ∈ xs) (h0 : y.rat ≠ 0)
    (hmax : ∀ x ∈ xs, |x.rat| ≤ |y.rat|) :
    (-127 < blockExp emax o → (2 : ℚ) ^ (blockExp emax o + emax) ≤ |y.rat|) ∧
      (blockExp emax o < 127 → |y.rat| < (2 : ℚ) ^ (blockExp emax o + emax + 1)) := by
  cases o with
  | none => exact absurd (h y hy) h0
  | some k =>
    obtain ⟨⟨x, hx, hk⟩, hall⟩ := h
    simp only [blockExp]
    exact ⟨fun hlow => (two_zpow_le (by omega)).trans (hk.trans (hmax x hx)), fun hhigh => (hall y hy).trans_le (two_zpow_le (by omega))⟩

/-! ## The nearest element -/

/-- A format without an infinity saturates: to nearest, it gives the nearest of its numbers to any number. -/
theorem saturating_nearest {f : Fmt} (hf : Proper f) (hi : f.hasInf = false) (neg : Bool) (m : Nat) (e : Int) (rnd k : Nat) :
    ∃ c, c ≤ f.maxCode ∧ (f.round (.num neg m e false) 0 rnd k).1 = f.signed neg c ∧ ∀ (b : Bool) (n : Nat), n ≤ f.maxCode →
      |(Fx.num neg m e false).rat - f.rat (f.signed neg c)| ≤ |(Fx.num neg m e false).rat - f.rat (f.signed b n)| := by
  obtain ⟨c, inexact, hr, hp, -⟩ := round_picks hf (show 0 ≤ 3 by norm_num) neg m e rnd k
  have hy : (0 : ℚ) ≤ m * 2 ^ e := by positivity
  rw [hr, rat_num]
  by_cases hle : (m : ℚ) * 2 ^ e ≤ mag f f.maxCode
  · have hc := hp.le_max hle
    exact ⟨c, hc, by simp [assembled, not_lt.mpr hc], (nearest_signed hf neg hy hc hp).1⟩
  · have hlt := not_le.mp hle
    have hc := hp.max_le hlt
    refine ⟨f.maxCode, le_rfl, ?_, fun b n hn => ?_⟩
    · by_cases hgt : f.maxCode < c
      · simp [assembled, hgt, hi]
      · obtain rfl : c = f.maxCode := le_antisymm (not_lt.mp hgt) hc
        simp [assembled]
    · have hnm := (mag_strictMono f).monotone hn
      have hn0 := mag_nonneg f n
      rw [rat_signed hf neg le_rfl, rat_signed hf b hn, ← mul_sub, abs_sgn_mul, abs_of_nonneg (by linarith)]
      have : |sgn neg * (m * 2 ^ e)| - |sgn b * mag f n| ≤ |sgn neg * (m * 2 ^ e) - sgn b * mag f n| := abs_sub_abs_le_abs_sub _ _
      rw [abs_sgn_mul, abs_sgn_mul, abs_of_nonneg hy, abs_of_nonneg hn0] at this
      linarith

/-- The nearest integer, held to bounds, is the nearest within them. -/
theorem clamp_nearest {lo hi : Int} (hb : lo ≤ hi) {x : ℚ} {z : Int} (h : |x - z| ≤ 1 / 2) {n : Int} (hlo : lo ≤ n) (hhi : n ≤ hi) :
    |x - (max lo (min hi z) : Int)| ≤ |x - n| := by
  obtain ⟨h1, h2⟩ := abs_le.mp h
  by_cases hn : n = max lo (min hi z)
  · rw [hn]
  · rcases lt_or_gt_of_ne hn with hlt | hgt
    · have c1 : (n : ℚ) + 1 ≤ (max lo (min hi z) : Int) := by exact_mod_cast hlt
      have c2 : ((max lo (min hi z) : Int) : ℚ) ≤ z := by exact_mod_cast (show max lo (min hi z) ≤ z by omega)
      rw [abs_of_nonneg (a := x - n) (by linarith), abs_le]
      constructor <;> linarith
    · have c1 : ((max lo (min hi z) : Int) : ℚ) + 1 ≤ n := by exact_mod_cast hgt
      have c2 : (z : ℚ) ≤ (max lo (min hi z) : Int) := by exact_mod_cast (show z ≤ max lo (min hi z) by omega)
      rw [abs_of_nonpos (a := x - n) (by linarith), abs_le]
      constructor <;> linarith

theorem rat_scale {x : Fx} (hx : Finite x) (k : Int) : (x.scale k).rat = x.rat * 2 ^ k := by
  obtain ⟨neg, m, e, rfl⟩ := hx
  rw [Fx.scale, rat_num, rat_num, zpow_add₀ (by norm_num)]; ring

/-- The codes of E2M1 are its finite codes with a sign. -/
theorem e2m1_codes : ∀ c < 16, ∃ b n, n ≤ fmtE2M1.maxCode ∧ c = fmtE2M1.signed b n := by
  intro c hc
  by_cases h : c < 8
  · exact ⟨false, c, by show c ≤ 7; omega, rfl⟩
  · exact ⟨true, c - 8, by show c - 8 ≤ 7; omega, by show c = 8 + (c - 8); omega⟩

/-- An MXFP4 element has the code nearest to its quotient by the scale (R132). -/
theorem mxElem_fp4 {x : Fx} (hx : Finite x) (X : Int) (rnd : Nat) : (mxElem false x X 0 rnd).1 < 16 ∧
    ∀ c : Nat, c < 16 → |x.rat / 2 ^ X - fmtE2M1.rat (mxElem false x X 0 rnd).1| ≤ |x.rat / 2 ^ X - fmtE2M1.rat c| := by
  have hq : x.rat / 2 ^ X = (x.scale (-X)).rat := by rw [rat_scale hx, zpow_neg]; rfl
  obtain ⟨neg, m, e, rfl⟩ := hx
  obtain ⟨c, hc, hr, hn⟩ := saturating_nearest (floatFmts_proper (show fmtE2M1 ∈ floatFmts by simp)) rfl neg m (e + -X) rnd 16
  have he : (mxElem false (.num neg m e false) X 0 rnd).1 = fmtE2M1.signed neg c := hr
  rw [he, hq]
  refine ⟨?_, fun n hlt => ?_⟩
  · have : c ≤ 7 := hc
    cases neg <;> simp [Fmt.signed, Fmt.width, fmtE2M1] <;> omega
  · obtain ⟨b, i, hi, rfl⟩ := e2m1_codes n hlt
    exact hn b i hi

theorem toInt_ofNat_byte (c : Nat) : -128 ≤ (BitVec.ofNat 8 c).toInt ∧ (BitVec.ofNat 8 c).toInt ≤ 127 := by
  have h1 := BitVec.le_toInt (BitVec.ofNat 8 c)
  have h2 := BitVec.toInt_lt (x := BitVec.ofNat 8 c)
  norm_num at h1 h2
  omega

/-- An MXINT8 element has the code nearest to its quotient by the scale (R132). -/
theorem mxElem_int8 {x : Fx} (hx : Finite x) (X : Int) (rnd : Nat) : (mxElem true x X 0 rnd).1 < 256 ∧
    ∀ c : Nat, c < 256 → |x.rat / 2 ^ (X - 6) - (BitVec.ofNat 8 (mxElem true x X 0 rnd).1).toInt| ≤
      |x.rat / 2 ^ (X - 6) - (BitVec.ofNat 8 c).toInt| := by
  have hq : x.rat / 2 ^ (X - 6) = (x.scale (6 - X)).rat := by
    rw [rat_scale hx, ← neg_sub X 6, zpow_neg]; rfl
  obtain ⟨neg, m, e, rfl⟩ := hx
  obtain ⟨z, ⟨hz, -⟩, hr⟩ := roundInt_finite (show (-128 : Int) ≤ 127 by norm_num) (show 0 ≤ 3 by norm_num) neg m (e + (6 - X)) rnd 16
  have he : (mxElem true (.num neg m e false) X 0 rnd).1 = (BitVec.ofInt 8 (max (-128) (min 127 z))).toNat := by
    show (BitVec.ofInt 8 (roundInt (-128) 127 (.num neg m (e + (6 - X)) false) 0 rnd 16).1).toNat = _
    rw [hr]
  have hi : (BitVec.ofNat 8 (BitVec.ofInt 8 (max (-128) (min 127 z))).toNat).toInt = max (-128) (min 127 z) := by
    rw [BitVec.ofNat_toNat, BitVec.setWidth_eq, BitVec.toInt_ofInt]
    exact Int.bmod_eq_of_le (by norm_num) (by norm_num)
  rw [he, hi, hq]
  exact ⟨BitVec.isLt _, fun c _ => clamp_nearest (by norm_num) hz (toInt_ofNat_byte c).1 (toInt_ofNat_byte c).2⟩

/-! ## A whole block -/

/-- A block with a NaN or an infinity has no code, and the scale of a NaN (R132). -/
theorem mxQuantise_special (i8 : Bool) {xs : List Fx} (mode : Nat) (rnd : List Nat) (h : ∃ x ∈ xs, x.isNan = true ∨ x.isInf = true) :
    mxQuantise i8 xs mode rnd = (xs.map (fun _ => 0), 0xFF, flNV) := by
  have : xs.any Fx.special = true := by simpa [Fx.special] using h
  simp [mxQuantise, this]

/-- A finite block: its scale byte, and the element of each place. -/
theorem mxQuantise_finite (i8 : Bool) {xs : List Fx} (hx : ∀ x ∈ xs, Finite x) (mode : Nat) (rnd : List Nat) :
    mxQuantise i8 xs mode rnd = mxAt i8 xs (blockExp (if i8 then 0 else 2) (maxLog2 xs)) mode rnd := by
  have : xs.any Fx.special = false := List.any_eq_false.mpr fun x h => by
    obtain ⟨_, _, _, rfl⟩ := hx x h; simp [Fx.special, Fx.isNan, Fx.isInf]
  simp only [mxQuantise, this, Bool.false_eq_true, if_false]
  rfl

theorem mxAt_code (i8 : Bool) (v : Lane → Fx) (X : Int) (mode : Nat) {rnd : List Nat} (hlen : rnd.length = 32) (i : Lane) :
    ∃ n, (mxAt i8 (allLanes.map v) X mode rnd).1[i.val]? = some (mxElem i8 (v i) X mode n).1 := by
  have h1 : (allLanes.map v)[i.val]? = some (v i) := by simp [allLanes]
  have h2 : rnd[i.val]? = some (rnd[i.val]'(by omega)) := List.getElem?_eq_getElem _
  have hz : ((allLanes.map v).zip rnd)[i.val]? = some (v i, rnd[i.val]'(by omega)) := List.getElem?_zip_eq_some.mpr ⟨h1, h2⟩
  exact ⟨rnd[i.val]'(by omega), by simp only [mxAt, List.getElem?_map, hz, Option.map_some]⟩

end Sys2Proof.Machine.Numbers
end

section
/-! PROOF. Row 0x4: moves, conversions, packing and the MX formats (spec 05 R123, R132, spec 07 R180 to R185). -/

namespace Sys2Proof.Machine.Numbers

open Storage

set_option Elab.async false

/-! ## Conversions by their codes (Table K-44) -/

/-- Conversions of a finite FP32 word to the integer formats. -/
theorem cvt_integers : ∀ p ∈ ([(0x02, -2147483648, 2147483647), (0x03, 0, 4294967295), (0x0E, -32768, 32767), (0x0F, 0, 65535),
      (0x10, -128, 127), (0x11, 0, 255)] : List (BitVec 5 × Int × Int)),
    ∀ (mode : Nat) (a rnd : Word), mode ≤ 3 → (a.extractLsb' 23 8 ≠ 0xFF) →
    ∃ z : Int, RoundsInt mode (fmtF32.rat a.toNat) z ∧ (cvtOf p.1 mode a rnd).1 = BitVec.ofInt 32 (max p.2.1 (min p.2.2 z)) ∧
      (cvtOf p.1 mode a rnd).2 = (if z < p.2.1 ∨ p.2.2 < z then flNV else if (z : ℚ) ≠ fmtF32.rat a.toNat then flNX else 0) := by
  simp only [List.forall_mem_cons, List.not_mem_nil, false_imp_iff, implies_true, and_true]
  refine ⟨?_, ?_, ?_, ?_, ?_, ?_⟩ <;> exact fun mode a rnd hm ha => cvt_toInt (by norm_num) hm ha rfl

/-- Conversions of an INT32 to the narrower integer formats. -/
theorem cvt_narrow : ∀ p ∈ ([(0x12, -128, 127), (0x13, 0, 255), (0x14, -32768, 32767), (0x15, 0, 65535)] : List (BitVec 5 × Int × Int)),
    ∀ (mode : Nat) (a rnd : Word), cvtOf p.1 mode a rnd =
      (BitVec.ofInt 32 (max p.2.1 (min p.2.2 a.toInt)), if a.toInt < p.2.1 ∨ p.2.2 < a.toInt then flNV else 0) := by
  simp only [List.forall_mem_cons, List.not_mem_nil, false_imp_iff, implies_true, and_true]
  refine ⟨?_, ?_, ?_, ?_⟩ <;> exact fun mode a rnd => cvt_saturates (by norm_num) rfl

/-- Conversions of an FP32 word to the narrower floating formats. -/
theorem cvt_floats : ∀ p ∈ ([(0x04, fmtF16), (0x05, fmtBF16), (0x06, fmtE4M3), (0x07, fmtE5M2), (0x08, fmtE2M1)] : List (BitVec 5 × Fmt)),
    ∀ (mode : Nat) (a rnd : Word), cvtOf p.1 mode a rnd = (BitVec.ofNat 32 (p.2.round (fmtF32.value a.toNat) mode rnd.toNat 32).1,
      (p.2.round (fmtF32.value a.toNat) mode rnd.toNat 32).2) := by
  simp only [List.forall_mem_cons, List.not_mem_nil, false_imp_iff, implies_true, and_true]
  exact ⟨fun _ _ _ => rfl, fun _ _ _ => rfl, fun _ _ _ => rfl, fun _ _ _ => rfl, fun _ _ _ => rfl⟩

/-- Conversions of an integer word to FP32. -/
theorem cvt_fromInt (mode : Nat) (a rnd : Word) :
    cvtOf 0x00 mode a rnd = (BitVec.ofNat 32 (fmtF32.round (Fx.ofInt a.toInt) mode rnd.toNat 32).1,
      (fmtF32.round (Fx.ofInt a.toInt) mode rnd.toNat 32).2) ∧
    cvtOf 0x01 mode a rnd = (BitVec.ofNat 32 (fmtF32.round (Fx.ofInt a.toNat) mode rnd.toNat 32).1,
      (fmtF32.round (Fx.ofInt a.toNat) mode rnd.toNat 32).2) := by
  have h : a.setWidth 32 = a := BitVec.setWidth_eq a
  constructor
  · show (BitVec.ofNat 32 (fmtF32.round (Fx.ofInt (a.setWidth 32).toInt) mode rnd.toNat 32).1,
      (fmtF32.round (Fx.ofInt (a.setWidth 32).toInt) mode rnd.toNat 32).2) = _
    rw [h]
  · show (BitVec.ofNat 32 (fmtF32.round (Fx.ofInt (a.setWidth 32).toNat) mode rnd.toNat 32).1,
      (fmtF32.round (Fx.ofInt (a.setWidth 32).toNat) mode rnd.toNat 32).2) = _
    rw [h]

/-- Conversions to FP32 are exact. -/
theorem cvt_widens : ∀ p ∈ ([(0x09, fmtF16), (0x0A, fmtBF16), (0x0B, fmtE4M3), (0x0C, fmtE5M2), (0x0D, fmtE2M1)] : List (BitVec 5 × Fmt)),
    ∀ (mode : Nat) (a rnd : Word), mode ≤ 4 → a.toNat % 2 ^ (p.2.width - 1) ≤ p.2.maxCode →
      fmtF32.rat (cvtOf p.1 mode a rnd).1.toNat = p.2.rat a.toNat ∧ (cvtOf p.1 mode a rnd).2 = 0 := by
  have hn := narrow_formats
  simp only [List.forall_mem_cons, List.not_mem_nil, false_imp_iff, implies_true, and_true] at hn ⊢
  obtain ⟨h1, h2, h3, h4, h5⟩ := hn
  exact ⟨fun mode _ rnd _ h => widen_exact h1 h mode rnd.toNat, fun mode _ rnd _ h => widen_exact h2 h mode rnd.toNat,
    fun mode _ rnd _ h => widen_exact h3 h mode rnd.toNat, fun mode _ rnd _ h => widen_exact h4 h mode rnd.toNat,
    fun mode _ rnd _ h => widen_exact h5 h mode rnd.toNat⟩

/-! ## Blocks -/

/-- A block of finite values: its scale, and the nearest codes (R132). -/
theorem mxQuantise_nearest (i8 : Bool) (v : Lane → Fx) {rnd : List Nat} (hlen : rnd.length = 32) (hv : ∀ i : Lane, Finite (v i)) :
    ∃ X : Int, -127 ≤ X ∧ X ≤ 127 ∧ (mxQuantise i8 (allLanes.map v) 0 rnd).2.1 = BitVec.ofInt 8 (X + 127) ∧
      ((∀ i : Lane, (v i).rat = 0) → X = 0) ∧
      (∀ k : Lane, (v k).rat ≠ 0 → (∀ i : Lane, |(v i).rat| ≤ |(v k).rat|) →
        (-127 < X → (2 : ℚ) ^ (X + (if i8 then 0 else 2)) ≤ |(v k).rat|) ∧
        (X < 127 → |(v k).rat| < (2 : ℚ) ^ (X + (if i8 then 1 else 3)))) ∧
      ∀ i : Lane, ∃ q, (mxQuantise i8 (allLanes.map v) 0 rnd).1[i.val]? = some q ∧
        (i8 = false → q < 16 ∧ ∀ c : Nat, c < 16 → |(v i).rat / 2 ^ X - fmtE2M1.rat q| ≤ |(v i).rat / 2 ^ X - fmtE2M1.rat c|) ∧
        (i8 = true → q < 256 ∧ ∀ c : Nat, c < 256 →
          |(v i).rat / 2 ^ (X - 6) - (BitVec.ofNat 8 q).toInt| ≤ |(v i).rat / 2 ^ (X - 6) - (BitVec.ofNat 8 c).toInt|) := by
  have hfin : ∀ x ∈ allLanes.map v, Finite x := fun x hx => by obtain ⟨i, -, rfl⟩ := List.mem_map.mp hx; exact hv i
  have hmem : ∀ i : Lane, v i ∈ allLanes.map v := fun i => List.mem_map.mpr ⟨i, by simp [allLanes], rfl⟩
  have hlead := maxLog2_leads hfin
  rw [mxQuantise_finite i8 hfin]
  obtain ⟨hlo, hhi⟩ := blockExp_range (if i8 then 0 else 2) (maxLog2 (allLanes.map v))
  refine ⟨blockExp (if i8 then 0 else 2) (maxLog2 (allLanes.map v)), hlo, hhi, rfl, fun hz => ?_, fun k h0 hmax => ?_, fun i => ?_⟩
  · cases ho : maxLog2 (allLanes.map v) with
    | none => rfl
    | some k =>
      rw [ho] at hlead
      obtain ⟨⟨x, hx, hk⟩, -⟩ := hlead
      obtain ⟨i, -, rfl⟩ := List.mem_map.mp hx
      rw [hz i, abs_zero] at hk
      exact absurd hk (not_le.mpr (by positivity))
  · obtain ⟨h1, h2⟩ := blockExp_largest (if i8 then 0 else 2) hlead (hmem k) h0 (fun x hx => by
      obtain ⟨i, -, rfl⟩ := List.mem_map.mp hx; exact hmax i)
    have e : ∀ X : Int, X + (if i8 = true then 0 else 2) + 1 = X + (if i8 = true then 1 else 3) := fun X => by cases i8 <;> simp [add_assoc]
    rw [e] at h2
    exact ⟨h1, h2⟩
  · obtain ⟨n, hn⟩ := mxAt_code i8 v (blockExp (if i8 then 0 else 2) (maxLog2 (allLanes.map v))) 0 hlen i
    refine ⟨_, hn, fun h => ?_, fun h => ?_⟩
    · subst h; exact mxElem_fp4 (hv i) _ n
    · subst h; exact mxElem_int8 (hv i) _ n

/-- An omitted operand reads zero. -/
theorem orElse_zero (c : Ctx) (x : Operand) (i : Lane) : c.orElse x i 0 = c.g.read32 c.f x i := by
  unfold Ctx.orElse
  split
  · next h => rw [beq_iff_eq.mp h]; rfl
  · rfl

theorem extractLsb'_low {w : Nat} (x : BitVec w) (n : Nat) : (x.extractLsb' 0 n).toNat = x.toNat % 2 ^ n := by
  simp [BitVec.extractLsb'_toNat]

/-- The values and the random bits of block e (R184). -/
theorem mxBlock_eq (c : Ctx) (e : Nat) : c.mxBlock e =
    (let xs := allLanes.map (c.mxValue e)
     let rnd := allLanes.map (fun i => if inMask c.m i = true then
       (if c.f.sb = .none then 0 else ((c.b32 i).extractLsb' (16 * e) 16).toNat) else 0)
     if c.f.sx = .none then mxQuantise (c.f.md.getLsbD 4) xs (c.f.md.toNat % 8) rnd
     else mxFixed (c.f.md.getLsbD 4) xs (c.cLevel.extractLsb' (8 * e) 8) (c.f.md.toNat % 8) rnd) := by
  have hv : (fun i : Lane => if (!inMask c.m i) = true then Fx.num false 0 0 false
      else if c.f.sub = 0 then f32In c.ftz (c.a32 i)
      else (if c.f.sub = 1 then fmtBF16 else fmtF16).value ((c.a32 i).extractLsb' (16 * e) 16).toNat) = c.mxValue e := by
    funext i
    simp only [Ctx.mxValue, Bool.not_eq_true']
    split_ifs <;> rfl
  have hr : (fun i : Lane => if inMask c.m i = true then ((c.orElse c.f.sb i 0).extractLsb' (16 * e) 16).toNat else 0) =
      (fun i => if inMask c.m i = true then (if c.f.sb = .none then 0 else ((c.b32 i).extractLsb' (16 * e) 16).toNat) else 0) := by
    funext i
    by_cases hb : c.f.sb = .none
    · simp [Ctx.orElse, hb]
    · simp [Ctx.orElse, hb, Ctx.b32]
  have h8 : (c.f.md.extractLsb' 0 3).toNat = c.f.md.toNat % 8 := extractLsb'_low _ _
  simp only [Ctx.mxBlock, h8, beq_iff_eq]
  rw [hv, hr]

/-! ## The rows -/

/-- The source of the width that MOD gives (R171, R172). -/
theorem wideOf_eq (c : Ctx) (x : Operand) (i : Lane) : c.wideOf x i = c.bitsOf x i := by
  simp [Ctx.wideOf, Ctx.bitsOf, isB64]

/-- A word saturated to an element of `pack` (R183). -/
theorem satElem_eq (md : BitVec 5) (x : Word) : satElem md x =
    (let bits := if md.getLsbD 1 then 8 else 16
     let v : Int := if md.getLsbD 0 then (x.toNat : Int) else x.toInt
     let lo : Int := if md.getLsbD 0 then 0 else -2 ^ (bits - 1)
     let hi : Int := if md.getLsbD 0 then 2 ^ bits - 1 else 2 ^ (bits - 1) - 1
     (BitVec.ofInt 32 (max lo (min hi v))) &&& BitVec.ofNat 32 (2 ^ bits - 1)) := by
  have clamp : ∀ lo hi v : Int, lo ≤ hi → (if v < lo then lo else if hi < v then hi else v) = max lo (min hi v) := fun lo hi v h => by
    split
    · omega
    · split <;> omega
  unfold satElem extOf
  cases md.getLsbD 0 <;> cases md.getLsbD 1 <;> simp only [Bool.not_true, Bool.not_false, if_true, if_false, Bool.false_eq_true] <;>
    rw [clamp _ _ _ (by norm_num)] <;> norm_num

/-- `pack` (R183). -/
theorem pack_leaves : Leaves32 .pack .pack (fun c i =>
    if c.f.md.getLsbD 1 then satElem c.f.md (c.a32 i) ||| (satElem c.f.md (c.b32 i) <<< 8) ||| (c.c32 i <<< 16)
    else satElem c.f.md (c.a32 i) ||| (satElem c.f.md (c.b32 i) <<< 16)) := by
  refine leaves32_of (fun f s => ?_) fun _ => rfl
  have h : ∀ (c : Ctx) (i : Lane), c.orElse c.f.sx i 0 = c.c32 i := fun c i => orElse_zero c _ i
  simp only [← h]
  rfl

/-- `unpack` (R183). -/
theorem unpack_leaves : Leaves32 .unpack .unpack (fun c i =>
    if c.f.md.getLsbD 1 then
      let x : Byte := (c.a32 i).extractLsb' (8 * ((c.b32 i).toNat % 4)) 8
      if c.f.md.getLsbD 0 then x.setWidth 32 else x.signExtend 32
    else
      let x : BitVec 16 := (c.a32 i).extractLsb' (16 * ((c.b32 i).toNat % 2)) 16
      if c.f.md.getLsbD 0 then x.setWidth 32 else x.signExtend 32) := by
  refine leaves32_of (fun f s => ?_) fun _ => rfl
  have h2 : ∀ (c : Ctx) (i : Lane), (c.b32 i).toNat % 4 = ((c.orElse c.f.sb i 0).extractLsb' 0 2).toNat := fun c i => by
    rw [extractLsb'_low, orElse_zero]; rfl
  have h1 : ∀ (c : Ctx) (i : Lane), (c.b32 i).toNat % 2 = ((c.orElse c.f.sb i 0).extractLsb' 0 1).toNat := fun c i => by
    rw [extractLsb'_low, orElse_zero]; rfl
  simp only [h1, h2]
  rfl

/-- `cvtq` (R182). -/
theorem cvtq_leaves : LeavesFp .cvtq .cvtq (fun c i =>
    cvtqPack (cvtqFmt c.f.sub) c.mode c.ftz (c.c32 i) (c.cvtqWords c.f.sa i ++ c.cvtqWords c.f.sb i)) := by
  refine leavesFp_of (fun f s => ?_) fun _ => rfl
  have h : ∀ (c : Ctx) (i : Lane), c.orElse c.f.sx i 0 = c.c32 i := fun c i => orElse_zero c _ i
  simp only [← h]
  rfl

/-- `cvt` (R181). -/
theorem cvt_leaves : LeavesFp .cvt .cvt (fun c i => cvtOf c.f.md c.f.sub.toNat (c.a32 i) (if c.f.sub = 4 then c.b32 i else 0)) := by
  refine leavesFp_of (fun f s => ?_) fun _ => rfl
  simp only [← beq_iff_eq (a := _) (b := (4 : BitVec 3))]
  rfl

/-- The word of a lane of `mxq` and its flags, of one block or of two (R184). -/
def mxqWord (c : Ctx) (i : Lane) : Word × Flags :=
  let b0 := c.mxBlock 0
  let b1 := c.mxBlock 1
  if c.f.sub = 0 then (BitVec.ofNat 32 (b0.1[i.val]?.getD 0) ||| (b0.2.1.setWidth 32 <<< 16), b0.2.2)
  else (BitVec.ofNat 32 (b0.1[i.val]?.getD 0) ||| (BitVec.ofNat 32 (b1.1[i.val]?.getD 0) <<< (if c.f.md.getLsbD 4 then 8 else 4)) |||
    (b0.2.1.setWidth 32 <<< 16) ||| (b1.2.1.setWidth 32 <<< 24), b0.2.2 ||| b1.2.2)

theorem execMxq_eq (f : Fields) (s : State) : execMxq f s = issue .mxq f s fun c => c.fpResult (mxqWord c) := by
  unfold execMxq
  refine congrArg (issue .mxq f s) (funext fun c => congrArg c.fpResult (funext fun i => ?_))
  unfold mxqWord
  generalize c.mxBlock 0 = b0
  generalize c.mxBlock 1 = b1
  by_cases h : c.f.sub = 0
  · simp [h]
  · simp [show ¬ c.f.sub = 0#3 from h]

theorem mxqWord_go (c : Ctx) (op : Op) : mxqWord (c.go op) = mxqWord c := by
  have h : ∀ e, (c.go op).mxBlock e = c.mxBlock e := fun _ => rfl
  funext i
  simp only [mxqWord, h]
  rfl

/-- `mxq` (R184). -/
theorem mxq_leaves : LeavesFp .mxq .mxq mxqWord := leavesFp_of execMxq_eq fun c => mxqWord_go c _

/-- `mxdq` (R185). -/
theorem mxdq_leaves : LeavesFp .mxdq .mxdq (fun c i =>
    let e := if c.f.sub.getLsbD 0 then 1 else 0
    mxDecode (c.f.md.getLsbD 4) e (c.a32 i) (if c.f.sb = .none then (c.a32 i).extractLsb' (8 * e + 16) 8 else (c.b32 i).setWidth 8)) := by
  refine leavesFp_of (fun f s => ?_) fun _ => rfl
  show issue .mxdq f s _ = _
  simp only [beq_iff_eq]

/-- `movs` (R180). -/
theorem movs_leaves : LeavesMod .movs .movs (fun c i => c.wideOf c.f.sa (c.laneOf i)) := leavesMod_of (fun _ _ => rfl) fun _ => rfl

theorem laneOf_given {c : Ctx} (h : c.f.sb ≠ .none) (i : Lane) : c.laneOf i = Fin.ofNat 32 (c.b32 i).toNat := by
  have : (c.f.sb == .none) = false := by simpa using h
  rw [Ctx.laneOf, this, extractLsb'_low]
  exact Fin.ext (Nat.mod_mod _ _)

theorem laneOf_omitted {c : Ctx} (h : c.f.sb = .none) {k : Lane} (hk : lowest c.m = some k) (i : Lane) : c.laneOf i = k := by
  simp [Ctx.laneOf, h, hk]

/-- Settles O8: conversions by what they round, blocks by the largest leading bit and the nearest codes, and each row by its meaning. -/
theorem moveResults : Obligations.MoveResults := by
  refine ⟨cvt_integers, cvt_narrow, cvt_floats, cvt_fromInt, cvt_widens, fun i8 v rnd hlen hv => mxQuantise_nearest i8 v hlen hv,
    fun i8 xs mode rnd h => mxQuantise_special i8 mode rnd h, fun c e h => by rw [mxBlock_eq]; exact if_pos h,
    fun c e h => by rw [mxBlock_eq]; exact if_neg h, ?mov, leavesMod_of (fun _ _ => rfl) fun _ => rfl, fun f s c hb hr => ?given,
    fun f s c k hb hk hr => ?omitted, cvt_leaves, cvtq_leaves, ?pack, unpack_leaves, mxq_leaves, mxdq_leaves⟩
  case mov =>
    have h : LeavesMod .mov .mov (fun c i => c.wideOf c.f.sa i) := leavesMod_of (fun _ _ => rfl) fun _ => rfl
    simpa only [wideOf_eq] using h
  case given =>
    have hf : c.f = f := (State.ctx?_spec hr.issuing).2.2.2.2.2.2.1
    subst hf
    rw [movs_leaves c.f s c hr]
    simp only [wideOf_eq, laneOf_given hb]
  case omitted =>
    have hf : c.f = f := (State.ctx?_spec hr.issuing).2.2.2.2.2.2.1
    subst hf
    rw [movs_leaves c.f s c hr]
    simp only [wideOf_eq, laneOf_omitted hb hk]
  case pack =>
    have h := pack_leaves
    simp only [satElem_eq] at h
    exact h

end Sys2Proof.Machine.Numbers
end

section
/-! PROOF. The arithmetic of a bank: block sums and terms, FP32 accumulation, and the string of a drain (spec 05 R133 to R135, spec 10 R261,
R271). -/

namespace Sys2Proof.Machine.Numbers

open Storage

set_option Elab.async false

/-! ## Block terms (R133, R134) -/

/-- Twice an E2M1 number is an integer, and an INT8 code is its own (R133). -/
theorem elemInt_eq : (∀ c : Nat, c < 16 → (elemInt false c : ℚ) = 2 * fmtE2M1.rat c) ∧
    (∀ c : Nat, c < 256 → elemInt true c = (BitVec.ofNat 8 c).toInt) := by
  refine ⟨fun c hc => ?_, fun _ _ => rfl⟩
  interval_cases c <;> norm_num [elemInt, twiceMag, Fmt.rat, Fmt.value, Fmt.width, fmtE2M1, Fx.rat]

theorem sum_map_range (f : Nat → Int) (n : Nat) : ((List.range n).map f).sum = ∑ i : Fin n, f i := by
  rw [← Finset.sum_range]
  rfl

/-- A block sum is the sum of the products of its elements (R134). -/
theorem blockSum_eq (i8 : Bool) (a w : Nat → Nat) :
    blockSum i8 ((List.range 32).map a) ((List.range 32).map w) = ∑ i : Fin 32, elemInt i8 (a i) * elemInt i8 (w i) := by
  rw [blockSum, List.zip_map', List.map_map, ← List.sum_eq_foldl, ← sum_map_range (fun i => elemInt i8 (a i) * elemInt i8 (w i))]
  rfl

/-- The terms of a block, in the columns that receive one (R134, R261). -/
theorem terms_eq (op : BankOp) (b : Bank) (act : ActRow) (j kb : Nat) (n : Fin 128) (hn : n.val < (if op.entry.i8 then 64 else 128))
    (ha : op.absent j kb (n.val / 32) = false) : (op.terms b act j kb)[n] = blockTerm op.entry.i8
      (∑ i : Fin 32, elemInt op.entry.i8 (act.elem op.entry.i8 (32 * kb + i.val)) *
        elemInt op.entry.i8 (b.weight op.entry.i8 (32 * kb + i.val) n.val)) (act.scales[kb]?.getD 0) (b.weightScale op.entry.i8 kb n.val) := by
  have hc : n.val < columnsOf op.entry.i8 ∧ (!op.absent j kb (n.val / 32)) = true := ⟨hn, by simp [ha]⟩
  simp only [BankOp.terms, Fin.getElem_fin, Vector.getElem_ofFn]
  rw [if_pos hc, blockSum_eq]

/-- A block term is a NaN beside a NaN scale, and else the scaled sum rounded once (R134). -/
theorem blockTerm_eq (i8 : Bool) (S : Int) (sa sw : Byte) :
    (sa = 0xFF ∨ sw = 0xFF → blockTerm i8 S sa sw = 0x7FC00000) ∧
    (sa ≠ 0xFF → sw ≠ 0xFF → ∃ neg m e,
      (Fx.num neg m e false).rat = (S : ℚ) * 2 ^ ((sa.toNat : Int) + sw.toNat - 254 + (if i8 then -12 else -2)) ∧
      blockTerm i8 S sa sw = BitVec.ofNat 32 (fmtF32.round (.num neg m e false) 0 0 32).1) := by
  refine ⟨fun h => ?_, fun h1 h2 => ⟨decide (S < 0), S.natAbs, 0 + ((sa.toNat : Int) + sw.toNat - 254 + (if i8 then -12 else -2)), ?_, ?_⟩⟩
  · rcases h with rfl | rfl <;> simp [blockTerm]
  · have hS : (S : ℚ) = sgn (decide (S < 0)) * S.natAbs := by
      have hv : ((S.natAbs : Int) : ℚ) = ((|S| : Int) : ℚ) := by rw [Int.natCast_natAbs]
      rw [Int.cast_natCast] at hv
      by_cases h : S < 0
      · simp [sgn, h, hv, abs_of_neg h]
      · simp [sgn, h, hv, abs_of_nonneg (not_lt.mp h)]
    rw [rat_num, zero_add, ← mul_assoc, ← hS]
  · have hff : (sa == 0xFF || sw == 0xFF) = false := by rw [Bool.or_eq_false_iff, beq_eq_false_iff_ne, beq_eq_false_iff_ne]; exact ⟨h1, h2⟩
    simp only [blockTerm, hff, Bool.false_eq_true, if_false]
    rfl

/-! ## FP32 additions (R135) -/

theorem fAdd32_eq (a b : Word) : fAdd32 a b =
    BitVec.ofNat 32 (fmtF32.round (sumFx 0 true [f32In false a, f32In false b]) 0 0 32).1 := rfl

theorem f32In_false (w : Word) : f32In false w = fmtF32.value w.toNat := by
  unfold f32In
  split
  · next h => rw [h]; simp
  · rfl

/-- The exponent and the fraction of a word as numbers. -/
theorem exponent_toNat {a : Word} {n : BitVec 8} (h : a.extractLsb' 23 8 = n) : a.toNat / 8388608 % 256 = n.toNat := by
  rw [← h, BitVec.extractLsb'_toNat, Nat.shiftRight_eq_div_pow]

theorem fraction_zero {a : Word} : a.extractLsb' 0 23 = 0 ↔ a.toNat % 8388608 = 0 := by
  rw [← BitVec.toNat_inj, extractLsb'_low]; rfl

/-- The value of a word whose exponent is all ones. -/
theorem value_ones {a : Word} (h : a.extractLsb' 23 8 = 0xFF) : fmtF32.value a.toNat =
    if a.extractLsb' 0 23 = 0 then .inf (decide (2 ^ 31 ≤ a.toNat)) else .nan (decide ((a.extractLsb' 0 23).toNat < 2 ^ 22)) := by
  have he : a.toNat / 8388608 % 256 = 255 := exponent_toNat h
  have hlt := a.isLt
  rw [extractLsb'_low]
  simp only [fraction_zero, Fmt.value, Fmt.width, fmtF32]
  generalize a.toNat = n at he hlt ⊢
  have h1 : n % 2 ^ (1 + 8 + 23) = n := Nat.mod_eq_of_lt hlt
  have h2 : 0x7F7FFFFF < n % 2 ^ (1 + 8 + 23 - 1) := by omega
  have h3 : n % 2 ^ (1 + 8 + 23 - 1) = 0x7F7FFFFF + 1 ↔ n % 8388608 = 0 := by omega
  have h4 : n % 2 ^ (1 + 8 + 23 - 1) % 2 ^ 23 = n % 2 ^ 23 := by omega
  simp only [h1, h2, h4, if_true, Bool.true_and, beq_iff_eq, h3]

/-- A sum with a NaN is a NaN (R126). -/
theorem fAdd32_nan {a b : Word} (h : (fmtF32.value a.toNat).isNan = true ∨ (fmtF32.value b.toNat).isNan = true) : fAdd32 a b = 0x7FC00000 := by
  have : [fmtF32.value a.toNat, fmtF32.value b.toNat].any Fx.isNan = true := by simpa using h
  rw [fAdd32_eq, f32In_false, f32In_false, sumFx, if_pos this]
  rfl

/-- A sum of opposite infinities is a NaN (R126). -/
theorem fAdd32_opposite {a b : Word} {neg : Bool} (ha : fmtF32.value a.toNat = .inf neg) (hb : fmtF32.value b.toNat = .inf (!neg)) :
    fAdd32 a b = 0x7FC00000 := by
  rw [fAdd32_eq, f32In_false, f32In_false, ha, hb]
  cases neg <;> rfl

/-- A sum of an infinity and a finite word is that infinity. -/
theorem fAdd32_inf {a b : Word} {neg : Bool} (ha : fmtF32.value a.toNat = .inf neg) (hb : Finite (fmtF32.value b.toNat)) :
    fAdd32 a b = (if neg then 0xFF800000 else 0x7F800000) ∧ fAdd32 b a = if neg then 0xFF800000 else 0x7F800000 := by
  obtain ⟨n, m, e, hv⟩ := hb
  rw [fAdd32_eq, fAdd32_eq, f32In_false, f32In_false, ha, hv]
  cases neg <;> simp [sumFx, Fx.isNan, Fmt.round, fmtF32, Fmt.signed, Fmt.width]

/-- FAdd of R135: exact and rounded once on finite words, and by R126 beside a NaN or an infinity. -/
theorem fAdd32_spec (a b : Word) :
    (a.extractLsb' 23 8 ≠ 0xFF → b.extractLsb' 23 8 ≠ 0xFF → ∃ neg m e,
      (Fx.num neg m e false).rat = fmtF32.rat a.toNat + fmtF32.rat b.toNat ∧
      fAdd32 a b = BitVec.ofNat 32 (fmtF32.round (.num neg m e false) 0 0 32).1) ∧
    (a.extractLsb' 23 8 = 0xFF → a.extractLsb' 0 23 ≠ 0 → fAdd32 a b = 0x7FC00000 ∧ fAdd32 b a = 0x7FC00000) ∧
    (a = 0x7F800000 → b = 0xFF800000 → fAdd32 a b = 0x7FC00000 ∧ fAdd32 b a = 0x7FC00000) ∧
    (a.extractLsb' 23 8 = 0xFF → a.extractLsb' 0 23 = 0 → b.extractLsb' 23 8 ≠ 0xFF → fAdd32 a b = a ∧ fAdd32 b a = a) := by
  refine ⟨fun ha hb => ?_, fun h h0 => ?_, fun ha hb => ?_, fun h h0 hb => ?_⟩
  · have hx : ∀ x ∈ [fmtF32.value a.toNat, fmtF32.value b.toNat], Finite x := by simp [value_word ha, value_word hb]
    obtain ⟨⟨neg, m, e, hs⟩, hr⟩ := sumFx_finite 0 true hx
    refine ⟨neg, m, e, ?_, ?_⟩
    · rw [← hs, hr]; simp
    · rw [fAdd32_eq, f32In_false, f32In_false, hs]
  · have hn : (fmtF32.value a.toNat).isNan = true := by rw [value_ones h, if_neg h0]; rfl
    exact ⟨fAdd32_nan (.inl hn), fAdd32_nan (.inr hn)⟩
  · subst ha hb; exact ⟨fAdd32_opposite (neg := false) rfl rfl, fAdd32_opposite (neg := true) rfl rfl⟩
  · have hv := value_ones h
    rw [if_pos h0] at hv
    have ha : (if decide (2 ^ 31 ≤ a.toNat) = true then 0xFF800000 else 0x7F800000 : Word) = a := by
      have he : a.toNat / 8388608 % 256 = 255 := exponent_toNat h
      have hm := fraction_zero.mp h0
      have hlt := a.isLt
      apply BitVec.eq_of_toNat_eq
      by_cases h31 : 2 ^ 31 ≤ a.toNat
      · simp only [h31, decide_true, if_true]
        show 0xFF800000 = a.toNat
        omega
      · simp only [h31, decide_false, Bool.false_eq_true, if_false]
        show 0x7F800000 = a.toNat
        omega
    have := fAdd32_inf hv (value_word hb)
    rwa [ha] at this

/-! ## The string of a drain (R271) -/

theorem leNat_leBytes (n v : Nat) : leNat (leBytes n v) = v % 256 ^ n := by
  induction n generalizing v with
  | zero => simp [leBytes, leNat, Nat.mod_one]
  | succ n ih =>
    rw [leBytes, leNat, ih, BitVec.toNat_ofNat]
    show v % 256 + 256 * (v / 256 % 256 ^ n) = v % 256 ^ (n + 1)
    rw [pow_succ', Nat.mod_mul]

/-- A string of pieces of one length, read at a piece. -/
theorem bytesAt_pieces {α : Type} (f : α → List Byte) {k : Nat} (hk : ∀ x, (f x).length = k) (xs : List α) (j : Nat) (hj : j < xs.length) :
    bytesAt (xs.flatMap f) (k * j) k = leNat (f xs[j]) := by
  have piece : ∀ (xs : List α) (j : Nat) (hj : j < xs.length), ((xs.flatMap f).drop (k * j)).take k = f xs[j] := by
    intro xs
    induction xs with
    | nil => intro j hj; simp at hj
    | cons x xs ih =>
      intro j hj
      cases j with
      | zero => simp [← hk x]
      | succ j =>
        have : k * (j + 1) = (f x).length + k * j := by rw [hk]; ring
        rw [List.flatMap_cons, this, List.drop_append, List.drop_of_length_le (by omega), List.nil_append, Nat.add_sub_cancel_left]
        exact ih j (by simpa using hj)
  rw [bytesAt, piece xs j hj]

/-- A whole row as FP32, word by word of its quads. -/
theorem drainWord_string (acc : Vector Word 128) (w : Fin 4) (i : Lane) : drainWord (drainString acc 0) w.val i = acc[32 * w.val + i.val] := by
  have hs : drainString acc 0 = acc.toList.flatMap (fun x => leBytes 4 x.toNat) := by
    have ht : acc.toList.take 128 = acc.toList := List.take_of_length_le (by simp)
    simp [drainString, ht]
  have hb := bytesAt_pieces (fun x : Word => leBytes 4 x.toNat) (fun x => leBytes_length 4 _) acc.toList (32 * w.val + i.val) (by simp; omega)
  have hn : 128 * w.val + 4 * i.val = 4 * (32 * w.val + i.val) := by ring
  have hlt : ∀ x : Word, x.toNat % 256 ^ 4 = x.toNat := fun x => Nat.mod_eq_of_lt x.isLt
  rw [drainWord, hs, hn, hb, leNat_leBytes, hlt, BitVec.ofNat_toNat, BitVec.setWidth_eq]
  simp

end Sys2Proof.Machine.Numbers
end

section
/-! PROOF. What the array cycles and the end of an operation change in a core (spec 05 R135, spec 10 R261 to R263, R270). -/

namespace Sys2Proof.Machine.Numbers

open Storage

set_option Elab.async false

theorem getElem_modBank (k : Core) (n b : Fin 64) (f : Bank → Bank) : (k.modBank n f).banks[b] = if n = b then f k.banks[n] else k.banks[b] :=
  getElem_setBank k.banks n b _

/-! ## The array cycles leave memory, accumulators and feeds -/

/-- Two banks hold the same weights and sums: their counters may differ. -/
def SameRows (a b : Bank) : Prop := b.mem = a.mem ∧ b.acc = a.acc

/-- Two cores hold the same rows and feeds. -/
structure Undisturbed (k l : Core) : Prop where
  banks : ∀ b : Fin 64, SameRows k.banks[b] l.banks[b]
  octets : l.octets = k.octets

theorem Undisturbed.refl (k : Core) : Undisturbed k k := ⟨fun _ => ⟨rfl, rfl⟩, rfl⟩

theorem Undisturbed.trans {k l m : Core} (h : Undisturbed k l) (h' : Undisturbed l m) : Undisturbed k m :=
  ⟨fun b => ⟨(h'.banks b).1.trans (h.banks b).1, (h'.banks b).2.trans (h.banks b).2⟩, h'.octets.trans h.octets⟩

theorem undisturbed_modBank (k : Core) (n : Fin 64) {f : Bank → Bank} (h : ∀ x, SameRows x (f x)) : Undisturbed k (k.modBank n f) := by
  refine ⟨fun b => ?_, rfl⟩
  rw [getElem_modBank]
  split
  · next e => subst e; exact h _
  · exact ⟨rfl, rfl⟩

theorem undisturbed_foldl {α β : Type} (xs : List α) (core : β → Core) (f : β → α → β) (p : β)
    (h : ∀ p x, Undisturbed (core p) (core (f p x))) :
    Undisturbed (core p) (core (xs.foldl f p)) := by
  induction xs generalizing p with
  | nil => exact .refl _
  | cons x xs ih => exact (h p x).trans (ih _)

theorem sameRows_addSkips (b : Bank) (n : Nat) : SameRows b (b.addSkips n) := ⟨rfl, rfl⟩

theorem undisturbed_settle (op : BankOp) (k : Core) (run : MacRun) : Undisturbed k (op.settle k run).2 :=
  undisturbed_foldl _ Prod.snd _ (run, k) fun p _ => undisturbed_modBank p.2 _ fun b => sameRows_addSkips b _

theorem sameRows_busy (b : Bank) (n : Word) : SameRows b { b with busy := n } := ⟨rfl, rfl⟩

theorem sameRows_tick (op : BankOp) (j : Nat) (x : BankRun) (b : Bank) : SameRows b (op.tick j x b) := by
  unfold BankOp.tick
  dsimp only
  split_ifs <;> exact ⟨rfl, rfl⟩

theorem undisturbed_cycle (x : SeqItem) (op : BankOp) (stop : Bool) (k : Core) : Undisturbed k (x.cycle op stop k).2.1 := by
  unfold SeqItem.cycle
  by_cases h : (!x.run.setup) = true
  · rw [if_pos h]
    exact (undisturbed_foldl (List.range op.entry.chain.length) id _ k fun k _ => undisturbed_modBank k _ fun b => sameRows_busy b _).trans
      (undisturbed_settle op _ _)
  · rw [if_neg h]
    refine undisturbed_foldl x.run.banks.zipIdx id _ k fun k y => ?_
    dsimp only [id]
    split
    · exact .refl k
    · exact undisturbed_modBank k _ fun b => sameRows_tick op _ _ b

theorem undisturbed_afterCycle (x before : SeqItem) (op : BankOp) (limited : Bool) (k : Core) :
    Undisturbed k (x.afterCycle before op limited k).2 := undisturbed_settle op k _

theorem undisturbed_setItem {k l : Core} (h : Undisturbed k l) (x : SeqItem) : Undisturbed k (l.setItem x) := ⟨h.banks, h.octets⟩

/-- A core replaced by one with the same rows and feeds. -/
theorem undisturbed_replace (s : State) (d : DieId) (c : CoreId) {l : Core} (h : Undisturbed (s.core d c) l) (b : CoreId) :
    Undisturbed (s.core d b) ((s.modCore d c (fun _ => l)).core d b) := by
  by_cases hc : c = b
  · subst hc; rw [State.core_modCore_same]; exact h
  · rw [State.core_modCore_other _ _ _ _ _ _ (.inr hc)]; exact .refl _

/-- An array cycle leaves the rows and the feeds of every core of its die (R263). -/
theorem arrayOver_undisturbed (s : State) (d : DieId) (stop : Bool) (xs : List (CoreId × SeqItem × BankOp)) (k : CoreId) :
    Undisturbed (s.core d k) ((s.arrayOver d stop xs).core d k) := by
  have hedge : (s.arrayEdge d).core d k = s.core d k := State.core_modDie _ d _ d k rfl
  unfold State.arrayOver
  dsimp only
  rw [State.core_count, State.core_count, State.core_modDie]
  · rw [← hedge]
    refine Undisturbed.trans
      (undisturbed_foldl xs (fun (p : State × List (CoreId × SeqItem × SeqItem × BankOp) × Nat × Nat) => p.1.core d k) _
      (s.arrayEdge d, [], 0, 0) fun p x => ?_)
      (undisturbed_foldl _ (fun (u : State) => u.core d k) _ _ fun u x => ?_)
    · exact undisturbed_replace _ d _ (undisturbed_setItem (undisturbed_cycle _ _ _ _) _) k
    · exact undisturbed_replace _ d _ (undisturbed_setItem (undisturbed_afterCycle _ _ _ _ _) _) k
  · rfl

/-! ## The end of an operation -/

/-- The origins of poison of a list of terms put on a row. -/
def poisonTerms (row : Fin 8) (ts : List BlockTerms) (b : Bank) : Bank :=
  ts.foldl (fun b t => match t.poison with | some o => b.poisonRow row o | none => b) b

theorem poisonTerms_keeps (row : Fin 8) (ts : List BlockTerms) (b : Bank) : (poisonTerms row ts b).mem = b.mem ∧
    (poisonTerms row ts b).acc = b.acc ∧ ∀ r : Fin 8, r ≠ row → (poisonTerms row ts b).accPoison[r] = b.accPoison[r] := by
  induction ts generalizing b with
  | nil => exact ⟨rfl, rfl, fun _ _ => rfl⟩
  | cons t ts ih =>
    obtain ⟨h1, h2, h3⟩ := ih (match t.poison with | some o => b.poisonRow row o | none => b)
    have e : poisonTerms row (t :: ts) b = poisonTerms row ts (match t.poison with | some o => b.poisonRow row o | none => b) := rfl
    rw [e, h1, h2]
    cases hp : t.poison with
    | none => rw [hp] at h3; exact ⟨rfl, rfl, h3⟩
    | some o =>
      rw [hp] at h3
      refine ⟨rfl, rfl, fun r hr => (h3 r hr).trans ?_⟩
      have : row.val ≠ r.val := fun z => hr (Fin.ext z.symm)
      simp [Bank.poisonRow, this]

theorem poisonTerms_clean (row : Fin 8) {ts : List BlockTerms} (h : ∀ t ∈ ts, t.poison = none) (b : Bank) : poisonTerms row ts b = b := by
  induction ts generalizing b with
  | nil => rfl
  | cons t ts ih =>
    rw [List.forall_mem_cons] at h
    have e : poisonTerms row (t :: ts) b = poisonTerms row ts b := by simp [poisonTerms, h.1]
    rw [e, ih h.2]

/-- The target row of a member with its sums, or free when it is poisoned. -/
def memberRow (op : BankOp) (run : MacRun) (fresh : Nat) (p : Member × Nat) (b : Bank) : Bank :=
  let ts := run.ordered op p.2
  let b1 := poisonTerms p.1.row ts b
  { b1 with acc := b1.acc.set p.1.row (if b1.accPoison[p.1.row].isSome then
      Vector.ofFn fun (n : Fin 128) => Config.freeWord (freeAt fresh (128 * p.1.row.val + n.val))
    else ts.foldl (fun acc t => op.addTerms t acc) b.acc[p.1.row]) }

theorem apply_eq (op : BankOp) (run : MacRun) (k : Core) (fresh : Nat) : op.apply run k fresh =
    op.members.zipIdx.foldl (fun k p => k.modBank op.entry.accBank (memberRow op run fresh p)) k := rfl

theorem memberRow_keeps (op : BankOp) (run : MacRun) (fresh : Nat) (p : Member × Nat) (b : Bank) : (memberRow op run fresh p b).mem = b.mem ∧
    ∀ r : Fin 8, p.1.row ≠ r →
      (memberRow op run fresh p b).acc[r] = b.acc[r] ∧ (memberRow op run fresh p b).accPoison[r] = b.accPoison[r] := by
  obtain ⟨h1, h2, h3⟩ := poisonTerms_keeps p.1.row (run.ordered op p.2) b
  refine ⟨h1, fun r hr => ⟨?_, h3 r (Ne.symm hr)⟩⟩
  have : p.1.row.val ≠ r.val := fun z => hr (Fin.ext z)
  simp [memberRow, this, h2]

/-- An operation changes its target rows alone (R261). -/
theorem apply_keeps (op : BankOp) (run : MacRun) (k : Core) (fresh : Nat) (b : Fin 64) :
    ((op.apply run k fresh).banks[b]).mem = (k.banks[b]).mem ∧ (op.apply run k fresh).seq = k.seq ∧ (op.apply run k fresh).octets = k.octets ∧
    ∀ r : Fin 8, (b ≠ op.entry.accBank ∨ ∀ m ∈ op.members, m.row ≠ r) →
      (op.apply run k fresh).banks[b].acc[r] = k.banks[b].acc[r] ∧ (op.apply run k fresh).banks[b].accPoison[r] = k.banks[b].accPoison[r] := by
  rw [apply_eq]
  have rows : ∀ p ∈ op.members.zipIdx, p.1 ∈ op.members := fun p hp => List.fst_mem_of_mem_zipIdx hp
  generalize op.members.zipIdx = ps at rows ⊢
  induction ps generalizing k with
  | nil => exact ⟨rfl, rfl, rfl, fun _ _ => ⟨rfl, rfl⟩⟩
  | cons p ps ih =>
    rw [List.forall_mem_cons] at rows
    obtain ⟨hm, hs, ho, hr⟩ := ih (k.modBank op.entry.accBank (memberRow op run fresh p)) rows.2
    obtain ⟨h1, h2⟩ := memberRow_keeps op run fresh p k.banks[op.entry.accBank]
    rw [getElem_modBank] at hm hr
    rw [List.foldl_cons]
    refine ⟨hm.trans ?_, hs, ho, fun r hb => ?_⟩
    · split
      · next e => subst e; exact h1
      · rfl
    · obtain ⟨ha, hp⟩ := hr r hb
      by_cases e : op.entry.accBank = b
      · subst e
        rw [if_pos rfl] at ha hp
        have hne := h2 r ((hb.resolve_left (by simp)) p.1 rows.1)
        exact ⟨ha.trans hne.1, hp.trans hne.2⟩
      · rw [if_neg e] at ha hp
        exact ⟨ha, hp⟩

/-- A column of a row to which terms are added, in order (R135, R261). -/
theorem addTerms_column (op : BankOp) (ts : List BlockTerms) (acc : Vector Word 128) (n : Fin 128)
    (hn : n.val < (if op.entry.i8 then 64 else 128)) :
    (ts.foldl (fun acc t => op.addTerms t acc) acc)[n] =
      (ts.filter (fun t => !op.absent t.chain t.kb (n.val / 32))).foldl (fun acc t => fAdd32 acc t.cols[n]) acc[n] := by
  induction ts generalizing acc with
  | nil => rfl
  | cons t ts ih =>
    have hc : ¬ columnsOf op.entry.i8 ≤ n.val := not_le.mpr hn
    have hcol : (op.addTerms t acc)[n] = if op.absent t.chain t.kb (n.val / 32) then acc[n] else fAdd32 acc[n] t.cols[n] := by
      simp [BankOp.addTerms, hc]
    rw [List.foldl_cons, ih, hcol]
    cases ha : op.absent t.chain t.kb (n.val / 32) <;> simp [ha]

theorem ordered_eq (run : MacRun) (op : BankOp) (m : Nat) : run.ordered op m =
    (List.range op.entry.chain.length).flatMap (fun j => run.terms.filter (fun t => decide (t.member = m ∧ t.chain = j))) := by
  have : ∀ j, (fun t : BlockTerms => t.member == m && t.chain == j) = fun t => decide (t.member = m ∧ t.chain = j) := fun j => by
    funext t; rw [Bool.decide_and]; rfl
  simp only [MacRun.ordered, this]

/-- The sums of an operation of one member without poison (R135, R261). -/
theorem apply_sums (op : BankOp) (run : MacRun) (k : Core) (fresh : Nat) (x : Member) (hx : op.members = [x])
    (hk : k.banks[op.entry.accBank].accPoison[x.row] = none) (ht : ∀ t ∈ run.terms, t.poison = none) :
    ((op.apply run k fresh).banks[op.entry.accBank]).accPoison[x.row] = none ∧
    ∀ n : Fin 128, n.val < (if op.entry.i8 then 64 else 128) →
      (((op.apply run k fresh).banks[op.entry.accBank]).acc[x.row])[n] =
        (((List.range op.entry.chain.length).flatMap (fun j => run.terms.filter (fun t => decide (t.member = 0 ∧ t.chain = j)))).filter
          (fun t => !op.absent t.chain t.kb (n.val / 32))).foldl (fun acc t => fAdd32 acc t.cols[n]) (k.banks[op.entry.accBank].acc[x.row])[n] := by
  have happ : (op.apply run k fresh).banks[op.entry.accBank] = memberRow op run fresh (x, 0) k.banks[op.entry.accBank] := by
    rw [apply_eq, hx]
    simp only [List.zipIdx_cons, List.zipIdx_nil, List.foldl_cons, List.foldl_nil]
    rw [getElem_modBank, if_pos rfl]
  have hclean : ∀ t ∈ run.ordered op 0, t.poison = none := fun t h => by
    obtain ⟨j, -, hj⟩ := List.mem_flatMap.mp h
    exact ht t (List.mem_filter.mp hj).1
  rw [happ, ← ordered_eq]
  generalize k.banks[op.entry.accBank] = b at hk ⊢
  have hrow : memberRow op run fresh (x, 0) b = { b with
      acc := b.acc.set x.row ((run.ordered op 0).foldl (fun acc t => op.addTerms t acc) b.acc[x.row]) } := by
    simp only [memberRow, poisonTerms_clean _ hclean, hk, Option.isSome_none, Bool.false_eq_true, if_false]
  rw [hrow]
  refine ⟨hk, fun n hn => ?_⟩
  rw [← addTerms_column op _ _ n hn]
  simp

/-- A block that a chain bank has finished gives its terms unless it is skipped (R136, R262). -/
theorem finishBlock_eq (k : Core) (op : BankOp) (j blk : Nat) (act : ActRow) (h : op.act? (blk / 8) j = some act) :
    (op.skipped act j (blk % 8) = true → op.finishBlock k j blk = none) ∧
    (op.skipped act j (blk % 8) = false → ∃ p, op.finishBlock k j blk =
      some ⟨blk / 8, j, blk % 8, op.terms k.banks[op.chainBank j] act j (blk % 8), p⟩) := by
  unfold BankOp.finishBlock
  rw [h]
  exact ⟨fun hs => by simp [hs], fun hs => ⟨op.blockPoison k.banks[op.chainBank j] j (blk % 8), by simp [hs]⟩⟩

end Sys2Proof.Machine.Numbers
end

section
/-! PROOF. The events of the banks: acceptance, feeds, starts, ends and drains (spec 10 R259 to R271, spec 18 R360). -/

namespace Sys2Proof.Machine.Numbers

open Storage

set_option Elab.async false

/-! ## Acceptance and feeds -/

theorem acceptRoom_eq (k : Core) : k.acceptRoom = decide (k.macsHeld < 32) := rfl

theorem acceptItem_teams (k : Core) (id : Nat) (op : BankOp) : (k.acceptItem id op).teams = k.teams := by
  have fold : ∀ (bs : List (Fin 64)) (l : Core),
      (bs.foldl (fun k b => k.modBank b (fun x => { x with lastI8 := op.entry.i8 })) l).teams = l.teams := by
    intro bs
    induction bs with
    | nil => exact fun _ => rfl
    | cons b bs ih => exact fun l => (ih _).trans rfl
  exact fold op.entry.chain _

/-- The first operation that waits for the sequencer is accepted, and its group or its gang goes on (R260, R264). -/
theorem bmac_accepted (s : State) (r : GRef) (g : Group) (id : Nat) (running : Bool) (run : MacRun) (op : BankOp) (hg : s.group? r = some g)
    (hn : (s.core r.die r.core).nextAccepted = some ⟨id, false, running, run, .mac op⟩) (hroom : (s.core r.die r.core).macsHeld < 32) :
    let u := s.modCore r.die r.core (fun k => k.acceptItem id op)
    (∀ consume, g.hold = some (.bank id consume) → exec (.bmacAccepted r) s =
      .next ((if consume then u.modCore r.die r.core (fun k => k.consumeRows r.slot op.entry) else u).finishHold r .noResult)) ∧
    (∀ (t : Team) (l : Latch), g.hold = none → s.team? r.die r.core g.team = some t → t.latch = some l → l.pending = some id →
      exec (.bmacAccepted r) s = .next (u.releaseGang r.die r.core t.uid l op)) := by
  intro u
  have hexec : exec (.bmacAccepted r) s = execBmacAccepted r s := rfl
  have hacc : s.waitsWith r g id = true → exec (.bmacAccepted r) s = .next (u.goAccepted r g id op) := fun hw => by
    rw [hexec]
    simp only [execBmacAccepted, hg, hn, acceptRoom_eq, hroom, decide_true, hw, Bool.and_self, if_true]
    rfl
  refine ⟨fun consume hh => ?_, fun t l hh ht hl hp => ?_⟩
  · rw [hacc (by simp [State.waitsWith, hh])]
    simp only [State.goAccepted, hh, beq_self_eq_true, if_true]
  · have ht' : u.team? r.die r.core g.team = some t := by
      rw [← ht]
      simp only [State.team?, u, State.core_modCore_same, acceptItem_teams]
    rw [hacc (by simp [State.waitsWith, ht, hl, hp])]
    simp only [State.goAccepted, hh, ht', hl, hp, beq_self_eq_true, if_true]

/-- A full sequencer accepts nothing (R260). -/
theorem bmac_full (s : State) (r : GRef) (h : 32 ≤ (s.core r.die r.core).macsHeld) : exec (.bmacAccepted r) s = .next s := by
  have hexec : exec (.bmacAccepted r) s = execBmacAccepted r s := rfl
  have hroom : (s.core r.die r.core).acceptRoom = false := by rw [acceptRoom_eq]; exact decide_eq_false (not_lt.mpr h)
  rw [hexec, execBmacAccepted]
  split
  · simp [hroom]
  · rfl

/-- The feeds with room take a waiting row, and the group waits for the others (R259). -/
theorem feed_accepted (s : State) (r : GRef) (g : Group) (todo : List (Fin 8)) (row : ActRow) (hg : s.group? r = some g)
    (hh : g.hold = some (.feed todo row)) :
    let k := s.core r.die r.core
    let live := todo.filter (k.feeds g.team)
    let u := s.modCore r.die r.core (fun k => k.pushRows r.slot row live)
    ((∀ o ∈ live, k.feedRoom o = true) → exec (.feedRowAccepted r) s = .next (u.finishHold r .noResult)) ∧
    ((∃ o ∈ live, k.feedRoom o = false) → exec (.feedRowAccepted r) s = .next (u.modGroup r (fun g =>
      { g with hold := some (.feed (live.filter (fun o => !k.feedRoom o)) row) }))) := by
  intro k live u
  have hexec : exec (.feedRowAccepted r) s = if (live.filter (fun o => !k.feedRoom o)).isEmpty then .next (u.finishHold r .noResult)
      else .next (u.modGroup r (fun g => { g with hold := some (.feed (live.filter (fun o => !k.feedRoom o)) row) })) := by
    have e : exec (.feedRowAccepted r) s = execFeedRowAccepted r s := rfl
    rw [e]
    simp only [execFeedRowAccepted, hg, hh]
    rfl
  refine ⟨fun hall => ?_, fun hsome => ?_⟩
  · have : (live.filter (fun o => !k.feedRoom o)).isEmpty = true := by
      rw [List.isEmpty_iff, List.filter_eq_nil_iff]
      intro o ho
      simp [hall o ho]
    rw [hexec, if_pos this]
  · obtain ⟨o, ho, hf⟩ := hsome
    have : ¬ (live.filter (fun o => !k.feedRoom o)).isEmpty = true := by
      rw [List.isEmpty_iff]
      exact List.ne_nil_of_mem (List.mem_filter.mpr ⟨ho, by simp [hf]⟩)
    rw [hexec, if_neg this]

/-! ## Start and end -/

/-- An accepted operation starts when nothing earlier in bank order is in its way (R263, R266, R269, R360). -/
theorem operation_starts (s : State) (d : DieId) (c : CoreId) (i id : Nat) (run : MacRun) (op : BankOp)
    (hf : (s.core d c).seq.find? (fun x => x.id == id) = some ⟨i, true, false, run, .mac op⟩)
    (hb : (s.core d c).banksBlocked ⟨i, true, false, run, .mac op⟩ = false)
    (hr : (s.core d c).rowsBlocked ⟨i, true, false, run, .mac op⟩ = false) :
    ((∀ b ∈ op.entry.chain, (s.core d c).banks[b].failed = false ∧ (s.core d c).banks[b].quarantined = false) →
      let u := s.modCore d c (fun k => k.startItem id op)
      exec (.bankOperationStart d c id none) s = .next u ∧
      ∀ b ∈ op.entry.chain, exec (.bankOperationStart d c id (some b)) s = .next (u.residueError d c op b)) ∧
    ((∃ b ∈ op.entry.chain, (s.core d c).banks[b].failed = true) →
      exec (.bankOperationStart d c id none) s = .next (s.modCore d c (fun k => (op.poisonRows k 0x03).finishItem id))) := by
  have hexec : ∀ x, exec (.bankOperationStart d c id x) s = execBankOperationStart d c id x s := fun _ => rfl
  refine ⟨fun hok => ?_, fun hbad => ?_⟩
  · have h1 : op.entry.chain.any (fun b => (s.core d c).banks[b].failed) = false :=
      List.any_eq_false.mpr fun b hb => Bool.eq_false_iff.mp (hok b hb).1
    have h2 : op.entry.chain.any (fun b => (s.core d c).banks[b].quarantined) = false :=
      List.any_eq_false.mpr fun b hb => Bool.eq_false_iff.mp (hok b hb).2
    refine ⟨?_, fun b hm => ?_⟩
    · rw [hexec]
      simp only [execBankOperationStart, hf, hb, hr, h1, h2, Bool.or_self, Bool.false_eq_true, if_false]
    · have hc : op.entry.chain.contains b = true := List.contains_iff_mem.mpr hm
      rw [hexec]
      simp only [execBankOperationStart, hf, hb, hr, h1, h2, Bool.or_self, Bool.false_eq_true, if_false, hc, if_true]
  · have h1 : op.entry.chain.any (fun b => (s.core d c).banks[b].failed) = true := List.any_eq_true.mpr hbad
    rw [hexec]
    simp only [execBankOperationStart, hf, hb, hr, h1, Bool.or_self, Bool.false_eq_true, if_false, if_true]

/-- An operation ends with its sums after the array cycles that it still needs (R261, R263). -/
theorem operation_ends (s : State) (d : DieId) (c : CoreId) (i id : Nat) (acc : Bool) (run : MacRun) (op : BankOp)
    (hf : (s.core d c).seq.find? (fun x => x.id == id) = some ⟨i, acc, true, run, .mac op⟩) :
    let t := s.runOut d id op.cycles
    ∀ x, (t.core d c).seq.find? (fun y => y.id == id) = some x →
      exec (.bankOperationEnd d c id) s = .next (t.modCore d c (fun k => (op.apply x.run k t.fresh).finishItem id)).freshened := by
  intro t x hx
  have hexec : exec (.bankOperationEnd d c id) s = execBankOperationEnd d c id s := rfl
  rw [hexec]
  simp only [execBankOperationEnd, hf]
  rw [hx]

/-! ## Drains -/

/-- A drain reads its row in bank order, and lands once its destination has room (R271). -/
theorem drain_completes (s : State) (r : GRef) (g : Group) (x : Flight) (y : DrainSpec) (id : Nat) (hg : s.group? r = some g)
    (hd : g.drain? id = some (x, y)) :
    (y.read = none → (s.core r.die r.core).rowsBlocked (seqItem id (.drain r y.bank y.row)) = false →
      exec (.bdrainComplete r id) s = .next ((s.drainRead r g x y).landRead r id)) ∧
    (∀ bs, y.read = some bs → g.drainRoom x = true → exec (.bdrainComplete r id) s = .next (s.drainLand r g x y bs)) := by
  have hexec : exec (.bdrainComplete r id) s = execBdrainComplete r id s := rfl
  refine ⟨fun hn hb => ?_, fun bs hr _ => ?_⟩
  · rw [hexec]
    simp only [execBdrainComplete, hg, hd, hn, hb, Option.isSome_none, Bool.false_eq_true, if_false]
  · rw [hexec]
    simp only [execBdrainComplete, hg, hd, hr, Option.isSome_some, if_true, State.landRead]

theorem setV_vLimit (g : Group) (n : BitVec 8) (m : Mask) (f : Lane → Word) : (g.setV n m f).vLimit = g.vLimit := rfl

/-- A quad of vector registers that a drain writes. -/
theorem landDrain_quad {g : Group} {x : Flight} {n : BitVec 8} (hx : x.dst = .v n) (hw : x.words = 4) (hlim : n.toNat + 4 ≤ g.vLimit)
    (quarter : Nat) (bs : List Byte) :
    let m := x.mask &&& g.liveMask
    g.landDrain x quarter bs = (((g.setV (n + 0#8) m (drainWord bs 0)).setV (n + 1#8) m (drainWord bs 1)).setV (n + 2#8) m (drainWord bs 2)).setV
      (n + 3#8) m (drainWord bs 3) := by
  have hr : List.range 4 = [0, 1, 2, 3] := rfl
  have hi : ∀ w, w < 4 → n.toNat + w < g.vLimit := fun w h => by omega
  simp only [Group.landDrain, hx, hw, hr, List.foldl_cons, List.foldl_nil, setV_vLimit, hi 0 (by norm_num), hi 1 (by norm_num),
    hi 2 (by norm_num), hi 3 (by norm_num), if_true]

theorem inMask_live (m : Mask) (g : Group) (i : Lane) : inMask (m &&& g.liveMask) i = true ↔ inMask m i = true ∧ g.status[i] ≠ .exited := by
  have h : inMask (m &&& g.liveMask) i = (inMask m i && inMask g.liveMask i) := by simp [inMask]
  rw [h, Group.liveMask, inMask_maskOf]
  simp

/-- A drain of a quad leaves its words in the lanes that live, and is in flight no longer (R271). -/
theorem drainLand_quad (s : State) (r : GRef) (g : Group) (x : Flight) (y : DrainSpec) (bs : List Byte) (n : BitVec 8)
    (hg : s.group? r = some g) (hx : x.dst = .v n) (hw : x.words = 4) (hlim : n.toNat + 4 ≤ g.vLimit) :
    ∃ g', (s.drainLand r g x y bs).group? r = some g' ∧ g'.flights = g.flights.filter (fun z => z.id != x.id) ∧
      ∀ (w : Fin 4) (i : Lane), inMask x.mask i = true → g.status[i] ≠ .exited →
        g'.vreg (n + BitVec.ofNat 8 w.val) i = drainWord bs w.val i := by
  have hroom : g.drainRoom x = true := by simp [Group.drainRoom, hx]
  have hland := landDrain_quad hx hw hlim y.quarter bs
  have hstate : s.drainLand r g x y bs =
      s.setGroup r ((((g.landDrain x y.quarter bs).fillSlot x.seq (drainSlot x bs)).dropFlight x.id).roused (s.eligible r) s.now) := by
    rw [State.drainLand, if_pos hroom, State.rouse, hg]
  refine ⟨_, by rw [hstate, State.group?_setGroup_same], ?_, fun w i hm hs => ?_⟩
  · rw [hland]; rfl
  · have hv : ∀ h : Group, (((h.fillSlot x.seq (drainSlot x bs)).dropFlight x.id).roused (s.eligible r) s.now).vreg = h.vreg := fun _ => rfl
    have hin := (inMask_live x.mask g i).mpr ⟨hm, hs⟩
    rw [hv, hland]
    simp only [vreg_setV, hin, and_true, BitVec.add_right_inj]
    fin_cases w <;> simp

/-- Settles O54: each event by the branches of its meaning, the array cycles by what leaves the rows alone, and the sums by the terms of each
column. -/
theorem bankEvents : Obligations.BankEvents :=
  ⟨bmac_accepted, bmac_full, feed_accepted, operation_starts, operation_ends,
    fun s d stop xs k b => let h := arrayOver_undisturbed s d stop xs k; ⟨(h.banks b).1, (h.banks b).2, h.octets⟩,
    fun op run k n b => apply_keeps op run k n b, apply_sums, terms_eq, finishBlock_eq, elemInt_eq, blockTerm_eq, fAdd32_spec, drain_completes,
    drainLand_quad, drainWord_string⟩

end Sys2Proof.Machine.Numbers
end

section
/-! PROOF. Row 0x0: the exact integer result of Table K-39, reduced or saturated (spec 07 R169 to R171). -/

namespace Sys2Proof.Machine.Numbers

open Storage

set_option Elab.async false

/-! ## Rows by what their result is -/

/-- The fields that an issue's context holds are those of its instruction. -/
theorem ready_fields {op : Op} {always : Bool} {f : Fields} {s : State} {c : Ctx} (h : Ready op always f s c) : c.f = f := by
  obtain ⟨-, -, -, -, -, -, hf, -⟩ := State.ctx?_spec h.issuing
  exact hf

/-- A row whose meaning is a 32-bit result leaves every word that equals it. -/
theorem leaves32_eq {op : Op} {row : Fields → Instr} {x y : Ctx → Lane → Word}
    (h : ∀ f s, exec (row f) s = issue op f s fun c => c.result32 (y c)) (e : ∀ c i, y c i = x c i)
    (hx : ∀ c : Ctx, x (c.go op) = x c := by exact fun _ => rfl) : Leaves32 op row x := by
  obtain rfl : y = x := funext₂ e
  exact leaves32_of h hx

/-- The same for a 64-bit result. -/
theorem leaves64_eq {op : Op} {row : Fields → Instr} {x y : Ctx → Lane → DWord}
    (h : ∀ f s, exec (row f) s = issue op f s fun c => c.result64 (y c)) (e : ∀ c i, y c i = x c i)
    (hx : ∀ c : Ctx, x (c.go op) = x c := by exact fun _ => rfl) : Leaves64 op row x := by
  obtain rfl : y = x := funext₂ e
  intro f s c hr
  rw [h, issue_ready hr, hx, Ctx.settle_result64]

/-- The same for a result of the width of MOD. -/
theorem leavesMod_eq {op : Op} {row : Fields → Instr} {x y : Ctx → Lane → DWord}
    (h : ∀ f s, exec (row f) s = issue op f s fun c => c.resultMod (y c)) (e : ∀ c i, y c i = x c i)
    (hx : ∀ c : Ctx, x (c.go op) = x c := by exact fun _ => rfl) : LeavesMod op row x := by
  obtain rfl : y = x := funext₂ e
  exact leavesMod_of h hx

/-! ## Integers of words (R169) -/

theorem extOf_read (c : Ctx) (x : Operand) (i : Lane) : extOf c.signed (c.g.read32 c.f x i) = c.intOf x i := by
  simp [extOf, Ctx.signed, Ctx.intOf]

@[simp] theorem aInt_eq (c : Ctx) (i : Lane) : c.aInt i = c.intOf c.f.sa i := extOf_read c _ i
@[simp] theorem bInt_eq (c : Ctx) (i : Lane) : c.bInt i = c.intOf c.f.sb i := extOf_read c _ i
@[simp] theorem cInt_eq (c : Ctx) (i : Lane) : c.cInt i = c.intOf c.f.sx i := extOf_read c _ i

/-- Signed or unsigned, the integer of a word reduces to that word. -/
@[simp] theorem ofInt_intOf (c : Ctx) (x : Operand) (i : Lane) : BitVec.ofInt 32 (c.intOf x i) = c.g.read32 c.f x i := by
  unfold Ctx.intOf
  split <;> simp

/-- Saturation is the nearest number within the limits of the type. -/
theorem saturate_clamp (signed : Bool) (z : Int) :
    saturate signed z = if signed then max (-2 ^ 31) (min (2 ^ 31 - 1) z) else max 0 (min (2 ^ 32 - 1) z) := by
  cases signed <;> simp only [saturate, Bool.false_eq_true, if_false, if_true] <;> split_ifs <;> omega

/-- An exact result under `.sat` or without it (R169). -/
theorem ofInt_reduce (c : Ctx) (z : Int) :
    BitVec.ofInt 32 (if c.f.sub.getLsbD 0 then saturate c.signed z else z) = c.reduce z := by
  have hs : (c.signed = true) = (c.f.md = 0) := by simp [Ctx.signed]
  simp only [saturate_clamp, hs, Ctx.reduce]
  split_ifs <;> rfl

/-- The high word of a product is its quotient by 2^32. -/
theorem ofInt_high (z : Int) : BitVec.ofInt 32 (z / 4294967296) = (BitVec.ofInt 64 z).extractLsb' 32 32 := by
  apply BitVec.eq_of_toNat_eq
  rw [BitVec.toNat_ofInt, BitVec.extractLsb'_toNat, BitVec.toNat_ofInt, Nat.shiftRight_eq_div_pow]
  omega

/-- The magnitude of a signed word, which exceeds the type for the lowest one alone. -/
theorem reduce_natAbs {c : Ctx} (hmd : c.f.md = 0) (a : Word) : c.reduce (a.toInt.natAbs : Int) =
    if a = 0x80000000 then (if c.f.sub.getLsbD 0 then 0x7FFFFFFF else 0x80000000) else if a.msb then -a else a := by
  have habs : (a.toInt.natAbs : Int) = if a.msb then -a.toInt else a.toInt := by
    simp only [BitVec.msb_eq_toInt, decide_eq_true_eq]; split <;> omega
  by_cases hmin : a = 0x80000000
  · subst hmin
    simp only [Ctx.reduce, hmd, if_true]
    split <;> rfl
  · have hne : a.toInt ≠ -2 ^ 31 := fun h => hmin (BitVec.eq_of_toInt_eq h)
    have hlo := BitVec.le_toInt a
    have hhi := BitVec.toInt_lt (x := a)
    have hfit : max (-2 ^ 31) (min (2 ^ 31 - 1) (a.toInt.natAbs : Int)) = a.toInt.natAbs := by omega
    rw [if_neg hmin, Ctx.reduce, if_pos hmd, hfit, ite_self, habs]
    split <;> simp [BitVec.ofInt_neg]

/-- A product by a power of two is a shift. -/
theorem ofInt_mul_two_pow {w : Nat} (z : Int) (k : Nat) : BitVec.ofInt w (z * 2 ^ k) = BitVec.ofInt w z <<< k := by
  rw [BitVec.shiftLeft_eq_mul_twoPow, BitVec.ofInt_mul]
  have hp : BitVec.ofInt w (2 ^ k) = BitVec.twoPow w k := by
    rw [← Nat.cast_ofNat (R := Int), ← Nat.cast_pow, BitVec.ofInt_natCast]
    exact BitVec.eq_of_toNat_eq (by simp [Nat.pow_mod])
  rw [hp]

/-! ## Conditions and dot products (R170, R171) -/

theorem intCond_iff (cc : BitVec 3) (a b : Int) : intCond cc a b = true ↔
    (cc = 0 ∧ a = b) ∨ (cc = 1 ∧ a ≠ b) ∨ (cc = 2 ∧ a < b) ∨ (cc = 3 ∧ a ≤ b) ∨ (cc = 4 ∧ b < a) ∨ (5 ≤ cc.toNat ∧ b ≤ a) := by
  have hcc : ∀ k : BitVec 3, cc = k ↔ cc.toNat = k.toNat := fun k => BitVec.toNat_inj.symm
  have hlt := cc.isLt
  simp only [intCond, hcc]
  generalize cc.toNat = n at hlt ⊢
  interval_cases n <;> simp

/-- The result of a dot product x, saturated to the type that its suffixes give. -/
theorem ofInt_dot (sat u : Bool) (x : Int) : BitVec.ofInt 32 (if sat then saturate (!u) x else x) =
    BitVec.ofInt 32 (if sat then (if u then max 0 (min (2 ^ 32 - 1) x) else max (-2 ^ 31) (min (2 ^ 31 - 1) x)) else x) := by
  rw [saturate_clamp]
  cases u <;> simp only [Bool.not_true, Bool.not_false, Bool.false_eq_true, if_true, if_false]

theorem dotOf_four (ua ub : Bool) (a b c : Word) : dotOf 8 4 ua ub a b c =
    extOf (!(ua && ub)) c + packedElem 8 0 ua a * packedElem 8 0 ub b + packedElem 8 1 ua a * packedElem 8 1 ub b +
      packedElem 8 2 ua a * packedElem 8 2 ub b + packedElem 8 3 ua a * packedElem 8 3 ub b := rfl

theorem dotOf_two (ua ub : Bool) (a b c : Word) : dotOf 16 2 ua ub a b c =
    extOf (!(ua && ub)) c + packedElem 16 0 ua a * packedElem 16 0 ub b + packedElem 16 1 ua a * packedElem 16 1 ub b := rfl

/-- C of a dot product is unsigned when both suffixes are. -/
theorem extOf_not (u : Bool) (x : Word) : extOf (!u) x = if u then (x.toNat : Int) else x.toInt := by
  cases u <;> rfl

/-! ## The rows -/

/-- A row of Table K-39 that saturates leaves its exact result reduced. -/
theorem reduce_leaves {op : Op} {row : Fields → Instr} {z : Ctx → Lane → Int}
    (h : ∀ f s, exec (row f) s = issue op f s fun c => c.int32 true (z c)) (hz : ∀ c : Ctx, z (c.go op) = z c := by exact fun _ => rfl) :
    Leaves32 op row (fun c i => c.reduce (z c i)) :=
  leaves32_eq h (fun c i => ofInt_reduce c (z c i)) fun c => by rw [hz]; rfl

/-- A row of Table K-39 without `.sat` leaves the low word of its exact result. -/
theorem low_leaves {op : Op} {row : Fields → Instr} {z : Ctx → Lane → Int} {x : Ctx → Lane → Word}
    (h : ∀ f s, exec (row f) s = issue op f s fun c => c.int32 false (z c)) (e : ∀ c i, BitVec.ofInt 32 (z c i) = x c i)
    (hx : ∀ c : Ctx, x (c.go op) = x c := by exact fun _ => rfl) : Leaves32 op row x :=
  leaves32_eq h e hx

theorem iadd_leaves : Leaves32 .iadd .iadd (fun c i => c.reduce (c.intOf c.f.sa i + c.intOf c.f.sb i)) := by
  simpa only [aInt_eq, bInt_eq] using reduce_leaves (row := .iadd) (fun _ _ => rfl)

theorem isub_leaves : Leaves32 .isub .isub (fun c i => c.reduce (c.intOf c.f.sa i - c.intOf c.f.sb i)) := by
  simpa only [aInt_eq, bInt_eq] using reduce_leaves (row := .isub) (fun _ _ => rfl)

theorem imul_leaves : Leaves32 .imul .imul (fun c i => c.a32 i * c.b32 i) :=
  low_leaves (fun _ _ => rfl) fun c i => by simp [BitVec.ofInt_mul, Ctx.a32, Ctx.b32]

theorem imulh_leaves :
    Leaves32 .imulh .imulh (fun c i => (BitVec.ofInt 64 (c.intOf c.f.sa i * c.intOf c.f.sb i)).extractLsb' 32 32) :=
  low_leaves (fun _ _ => rfl) fun c i => by rw [ofInt_high, aInt_eq, bInt_eq]

theorem imad_leaves : Leaves32 .imad .imad (fun c i => c.a32 i * c.b32 i + c.c32 i) :=
  low_leaves (fun _ _ => rfl) fun c i => by simp [BitVec.ofInt_mul, BitVec.ofInt_add, Ctx.a32, Ctx.b32, Ctx.c32]

theorem imadw_leaves : Leaves64 .imadw .imadw (fun c i => BitVec.ofInt 64 (c.intOf c.f.sa i * c.intOf c.f.sb i) + c.c64 i) :=
  leaves64_eq (fun _ _ => rfl) fun c i => by rw [BitVec.ofInt_add, BitVec.ofInt_toInt, aInt_eq, bInt_eq]

theorem imin_leaves : Leaves32 .imin .imin (fun c i => if c.intOf c.f.sa i ≤ c.intOf c.f.sb i then c.a32 i else c.b32 i) :=
  low_leaves (fun _ _ => rfl) fun c i => by rw [min_def, apply_ite (BitVec.ofInt 32)]; simp [Ctx.a32, Ctx.b32]

theorem imax_leaves : Leaves32 .imax .imax (fun c i => if c.intOf c.f.sa i ≤ c.intOf c.f.sb i then c.b32 i else c.a32 i) :=
  low_leaves (fun _ _ => rfl) fun c i => by rw [max_def, apply_ite (BitVec.ofInt 32)]; simp [Ctx.a32, Ctx.b32]

/-- `iabs` (R169): MOD 0 is the only type that it has. -/
theorem iabs_leaves (f : Fields) (s : State) (c : Ctx) (hmd : f.md = 0) (hr : Ready .iabs false f s c) :
    exec (.iabs f) s = .next (c.after32 .iabs (fun i =>
      if c.a32 i = 0x80000000 then (if f.sub.getLsbD 0 then 0x7FFFFFFF else 0x80000000)
      else if (c.a32 i).msb then -c.a32 i else c.a32 i)) := by
  obtain rfl := ready_fields hr
  have h : Leaves32 .iabs .iabs (fun c i => c.reduce ((c.aInt i).natAbs : Int)) := reduce_leaves (fun _ _ => rfl)
  have hint : ∀ i, c.aInt i = (c.a32 i).toInt := fun i => by rw [aInt_eq, Ctx.intOf, if_pos hmd]; rfl
  simp only [h _ s c hr, hint, reduce_natAbs hmd]

theorem iaddx_leaves : Leaves64 .iaddx .iaddx (fun c i =>
    if c.f.sub.getLsbD 0 then c.a64 i - c.b64 i - BitVec.ofInt 64 (c.intOf c.f.sx i)
    else c.a64 i + c.b64 i + BitVec.ofInt 64 (c.intOf c.f.sx i)) := by
  refine leaves64_eq (fun _ _ => rfl) fun c i => ?_
  simp only [orElse_zero, extOf_read, apply_ite (BitVec.ofInt 64), sub_eq_add_neg, BitVec.ofInt_add, BitVec.ofInt_neg,
    BitVec.ofInt_toInt]

theorem lea_leaves : Leaves64 .lea .lea (fun c i =>
    c.a64 i + (BitVec.ofInt 64 (c.intOf c.f.sb i) <<< ((c.c32 i).extractLsb' 0 6).toNat)) := by
  refine leaves64_eq (fun _ _ => rfl) fun c i => ?_
  simp only [orElse_zero, BitVec.ofInt_add, BitVec.ofInt_toInt, ofInt_mul_two_pow, bInt_eq]
  rfl

theorem iclamp_leaves : Leaves32 .iclamp .iclamp (fun c i =>
    let x := max (c.intOf c.f.sa i) (c.intOf c.f.sb i)
    BitVec.ofInt 32 (if c.intOf c.f.sx i < x then c.intOf c.f.sx i else x)) :=
  low_leaves (fun _ _ => rfl) fun c i => by rw [aInt_eq, bInt_eq, cInt_eq, min_comm, min_def_lt]

theorem icmp_leaves : Leaves32 .icmp .icmp (fun c i =>
    let a := c.intOf c.f.sa i
    let b := c.intOf c.f.sb i
    if (c.f.sub = 0 ∧ a = b) ∨ (c.f.sub = 1 ∧ a ≠ b) ∨ (c.f.sub = 2 ∧ a < b) ∨ (c.f.sub = 3 ∧ a ≤ b) ∨ (c.f.sub = 4 ∧ b < a)
      ∨ (5 ≤ c.f.sub.toNat ∧ b ≤ a) then 1 else 0) :=
  leaves32_eq (fun _ _ => rfl) fun c i => by simp only [intCond_iff, aInt_eq, bInt_eq]

theorem isel_leaves : LeavesMod .isel .isel (fun c i => if c.c32 i = 0 then c.bitsOf c.f.sb i else c.bitsOf c.f.sa i) :=
  leavesMod_eq (fun _ _ => rfl) fun c i => by simp only [wideOf_eq, bne_iff_ne, ne_eq, ite_not]

theorem idot4_leaves : Leaves32 .idot4 .idot4 (fun c i =>
    let el := fun (u : Bool) (x : Word) (k : Nat) => if u then ((x.extractLsb' (8 * k) 8).toNat : Int) else (x.extractLsb' (8 * k) 8).toInt
    let ua := c.f.md.getLsbD 0
    let ub := c.f.md.getLsbD 1
    let x := (if ua && ub then ((c.c32 i).toNat : Int) else (c.c32 i).toInt)
      + el ua (c.a32 i) 0 * el ub (c.b32 i) 0 + el ua (c.a32 i) 1 * el ub (c.b32 i) 1
      + el ua (c.a32 i) 2 * el ub (c.b32 i) 2 + el ua (c.a32 i) 3 * el ub (c.b32 i) 3
    BitVec.ofInt 32 (if c.f.sub.getLsbD 0 then
      (if ua && ub then max 0 (min (2 ^ 32 - 1) x) else max (-2 ^ 31) (min (2 ^ 31 - 1) x)) else x)) :=
  leaves32_eq (fun _ _ => rfl) fun c i => by rw [dotOf_four, extOf_not, ofInt_dot]; rfl

theorem idot2_leaves : Leaves32 .idot2 .idot2 (fun c i =>
    let el := fun (u : Bool) (x : Word) (k : Nat) =>
      if u then ((x.extractLsb' (16 * k) 16).toNat : Int) else (x.extractLsb' (16 * k) 16).toInt
    let ua := c.f.md.getLsbD 0
    let ub := c.f.md.getLsbD 1
    let x := (if ua && ub then ((c.c32 i).toNat : Int) else (c.c32 i).toInt)
      + el ua (c.a32 i) 0 * el ub (c.b32 i) 0 + el ua (c.a32 i) 1 * el ub (c.b32 i) 1
    BitVec.ofInt 32 (if c.f.sub.getLsbD 0 then
      (if ua && ub then max 0 (min (2 ^ 32 - 1) x) else max (-2 ^ 31) (min (2 ^ 31 - 1) x)) else x)) :=
  leaves32_eq (fun _ _ => rfl) fun c i => by rw [dotOf_two, extOf_not, ofInt_dot]; rfl

/-- Settles O5, row by row: the word of the exact integer, the saturated one, or the high one. -/
theorem integerResults : Obligations.IntegerResults :=
  ⟨iadd_leaves, isub_leaves, imul_leaves, imulh_leaves, imad_leaves, imadw_leaves, imin_leaves, imax_leaves, iabs_leaves, iaddx_leaves,
    lea_leaves, iclamp_leaves, icmp_leaves, isel_leaves, idot4_leaves, idot2_leaves⟩

end Sys2Proof.Machine.Numbers
end

section
/-! PROOF. Row 0x1: raw bits, shifts, fields, counts and bytes (spec 07 Table K-40, R172 to R174). -/

namespace Sys2Proof.Machine.Numbers

open Storage

set_option Elab.async false

/-! ## Words by their bits -/

/-- A word is the bits that a function gives when each of its bits is. -/
theorem eq_ofFnLE {w : Nat} {x : BitVec w} {b : Fin w → Bool} (h : ∀ j (hj : j < w), x.getLsbD j = b ⟨j, hj⟩) : x = BitVec.ofFnLE b :=
  BitVec.eq_of_getLsbD_eq fun j hj => by rw [h j hj, BitVec.getLsbD_ofFnLE, dif_pos hj]

theorem reverse_eq {w : Nat} (x : BitVec w) : x.reverse = BitVec.ofFnLE fun j => x.getLsbD (w - 1 - j.val) :=
  eq_ofFnLE fun j hj => by rw [BitVec.getLsbD_reverse, BitVec.getMsbD_eq_getLsbD, decide_eq_true hj, Bool.true_and]

/-! ## Shifts (R172, R173) -/

/-- A shift by the width moves out every bit, as a shift by more does. -/
theorem shiftLeft_min {w : Nat} (x : BitVec w) (n : Nat) : x <<< min n w = x <<< n := by
  rcases le_total n w with h | h
  · rw [min_eq_left h]
  · rw [min_eq_right h, BitVec.shiftLeft_eq_zero le_rfl, BitVec.shiftLeft_eq_zero h]

theorem ushiftRight_min {w : Nat} (x : BitVec w) (n : Nat) : x >>> min n w = x >>> n := by
  rcases le_total n w with h | h
  · rw [min_eq_left h]
  · rw [min_eq_right h, BitVec.ushiftRight_eq_zero le_rfl, BitVec.ushiftRight_eq_zero h]

theorem sshiftRight_min {w : Nat} (x : BitVec w) (n : Nat) : x.sshiftRight (min n w) = x.sshiftRight n := by
  rcases le_total n w with h | h
  · rw [min_eq_left h]
  · refine BitVec.eq_of_getLsbD_eq fun j _ => ?_
    rw [min_eq_right h, BitVec.getLsbD_sshiftRight, BitVec.getLsbD_sshiftRight, if_neg (by omega), if_neg (by omega)]

/-- A shift row whose operation does the same for every amount from the width on leaves the value shifted by B. -/
theorem shift_leaves {op : Op} {row : Fields → Instr} (g : (w : Nat) → BitVec w → Nat → BitVec w)
    (h : ∀ f s, exec (row f) s = issue op f s fun c => c.shift g) (hg : ∀ {w : Nat} (x : BitVec w) n, g w x (min n w) = g w x n) :
    LeavesMod op row (fun c i =>
      if c.f.md = 0x0B then g 64 (c.a64 i) (c.b32 i).toNat else (g 32 (c.a32 i) (c.b32 i).toNat).setWidth 64) :=
  leavesMod_eq h fun c i => by simp only [hg, isB64, beq_iff_eq]

theorem funnel_eq (left : Bool) (a b c : Word) : funnel left a b c =
    if left then ((b ++ a) <<< (c.toNat % 64)).extractLsb' 32 32 else ((b ++ a) >>> (c.toNat % 64)).extractLsb' 0 32 := by
  simp only [funnel, extractLsb'_low]
  rfl

/-! ## Fields (R173) -/

/-- Bit k of a word that is extended by its type. -/
def extendedBit (signed : Bool) (a : Word) (k : Nat) : Bool := if k < 32 then a.getLsbD k else signed && a.getLsbD 31

/-- The bits of a word extended to 64 bits by its type. -/
theorem getLsbD_extend (signed : Bool) (a : Word) {k : Nat} (hk : k < 64) :
    (if signed then a.signExtend 64 else a.setWidth 64 : DWord).getLsbD k = extendedBit signed a k := by
  unfold extendedBit
  cases signed with
  | false =>
    by_cases h : k < 32
    · simp [h, hk]
    · simp [h, BitVec.getLsbD_of_ge a k (by omega)]
  | true => simp only [if_true, BitVec.getLsbD_signExtend, hk, decide_true, Bool.true_and, BitVec.msb_eq_getLsbD_last]

/-- The low word of an extended word moved down. -/
theorem getLsbD_extended (signed : Bool) (a : Word) (p : Nat) {j : Nat} (hj : j < 32) :
    ((if signed then (if signed then a.signExtend 64 else a.setWidth 64 : DWord).sshiftRight (min p 64)
      else (if signed then a.signExtend 64 else a.setWidth 64 : DWord) >>> min p 64).setWidth 32).getLsbD j =
      extendedBit signed a (p + j) := by
  have hbit := fun k (hk : k < 64) => getLsbD_extend signed a hk
  generalize hx : (if signed then a.signExtend 64 else a.setWidth 64 : DWord) = x at hbit ⊢
  rw [sshiftRight_min, ushiftRight_min, BitVec.getLsbD_setWidth, decide_eq_true hj, Bool.true_and]
  have htop : 64 ≤ p + j → extendedBit signed a (p + j) = (signed && a.getLsbD 31) := fun h => if_neg (by omega)
  cases signed with
  | false =>
    rw [if_neg Bool.false_ne_true, BitVec.getLsbD_ushiftRight]
    by_cases hk : p + j < 64
    · exact hbit _ hk
    · rw [BitVec.getLsbD_of_ge _ _ (by omega), htop (by omega), Bool.false_and]
  | true =>
    rw [if_pos rfl, BitVec.getLsbD_sshiftRight, decide_eq_false (by omega), Bool.not_false, Bool.true_and]
    by_cases hk : p + j < 64
    · rw [if_pos hk, hbit _ hk]
    · rw [if_neg hk, BitVec.msb_eq_getLsbD_last, hbit _ (by norm_num), htop (by omega)]
      rfl

/-- The low l bits of a word, extended by its type. -/
theorem getLsbD_lowField (signed : Bool) (x : Word) {l j : Nat} (h0 : l ≠ 0) (hl : l ≤ 32) (hj : j < 32) :
    (if signed then (x <<< (32 - l)).sshiftRight (32 - l) else (x <<< (32 - l)) >>> (32 - l)).getLsbD j =
      if j < l then x.getLsbD j else signed && x.getLsbD (l - 1) := by
  have hup : ∀ k, k < 32 → 32 - l ≤ k → (x <<< (32 - l)).getLsbD k = x.getLsbD (k - (32 - l)) := fun k h1 h2 => by
    rw [BitVec.getLsbD_shiftLeft, decide_eq_true h1, decide_eq_false (not_lt.mpr h2)]; rfl
  have hmsb : (x <<< (32 - l)).msb = x.getLsbD (l - 1) := by
    rw [BitVec.msb_eq_getLsbD_last, hup _ (by norm_num) (by omega)]; congr 1; omega
  have hlow : j < l → (x <<< (32 - l)).getLsbD (32 - l + j) = x.getLsbD j := fun h => by
    rw [hup _ (by omega) (by omega), Nat.add_sub_cancel_left]
  cases signed with
  | false =>
    rw [if_neg Bool.false_ne_true, BitVec.getLsbD_ushiftRight]
    by_cases h : j < l
    · rw [if_pos h, hlow h]
    · rw [if_neg h, BitVec.getLsbD_of_ge _ _ (by omega), Bool.false_and]
  | true =>
    rw [if_pos rfl, BitVec.getLsbD_sshiftRight, decide_eq_false (by omega), Bool.not_false, Bool.true_and]
    by_cases h : j < l
    · rw [if_pos h, if_pos (by omega), hlow h]
    · rw [if_neg h, if_neg (by omega), hmsb, Bool.true_and]

theorem extractField_eq (signed : Bool) (a p l : Word) : extractField signed a p l = BitVec.ofFnLE (n := 32) (fun j =>
    min l.toNat 32 ≠ 0 && (if j.val < min l.toNat 32 then extendedBit signed a (p.toNat + j.val)
      else (signed && extendedBit signed a (p.toNat + min l.toNat 32 - 1)))) := by
  refine eq_ofFnLE fun j hj => ?_
  unfold extractField
  have hl : min l.toNat 32 ≤ 32 := min_le_right _ _
  generalize min l.toNat 32 = n at hl ⊢
  by_cases h0 : n = 0
  · simp [h0]
  · rw [if_neg h0, getLsbD_lowField signed _ h0 hl hj, getLsbD_extended signed a _ hj, getLsbD_extended signed a _ (by omega)]
    simp [h0, Nat.add_sub_assoc (Nat.one_le_iff_ne_zero.mpr h0)]

theorem insertField_eq (a b c : Word) : insertField a b c =
    (let p := (c.extractLsb' 0 8).toNat
     let l := min (c.extractLsb' 8 8).toNat 32
     BitVec.ofFnLE (n := 32) (fun j => if p ≤ j.val ∧ j.val < p + l then b.getLsbD (j.val - p) else a.getLsbD j.val)) := by
  refine eq_ofFnLE fun j hj => ?_
  unfold insertField
  generalize (c.extractLsb' 0 8).toNat = p
  generalize min (c.extractLsb' 8 8).toNat 32 = l
  have hmask : (BitVec.ofNat 32 (2 ^ l - 1) <<< p).getLsbD j = decide (p ≤ j ∧ j < p + l) := by
    rw [BitVec.getLsbD_shiftLeft, BitVec.getLsbD_ofNat, Nat.testBit_two_pow_sub_one]
    simp only [hj, decide_true, Bool.true_and, ← decide_not, ← Bool.decide_and, decide_eq_decide]
    omega
  simp only [BitVec.getLsbD_or, BitVec.getLsbD_and, BitVec.getLsbD_not, hmask, BitVec.getLsbD_shiftLeft, hj]
  by_cases h : p ≤ j ∧ j < p + l
  · simp [h, show ¬ j < p by omega]
  · simp [h]

/-! ## Counts (R172) -/

theorem width_le (c : Ctx) : c.width ≤ 64 := by
  unfold Ctx.width; split <;> omega

/-- A source of the width that MOD selects has no bit above it. -/
theorem bitsOf_lt (c : Ctx) (x : Operand) (i : Lane) : (c.bitsOf x i).toNat < 2 ^ c.width := by
  have hw : c.width = if c.f.md = 0x0B then 64 else 32 := by simp [Ctx.width, isB64]
  rw [hw, Ctx.bitsOf]
  split
  · exact BitVec.isLt _
  · rw [BitVec.toNat_setWidth_of_le (by omega)]; exact BitVec.isLt _

theorem popCount_eq {x : DWord} {w : Nat} (hw : w ≤ 64) (hx : x.toNat < 2 ^ w) : popCount x w = ((List.range 64).filter x.getLsbD).length := by
  obtain ⟨k, hk⟩ := Nat.exists_eq_add_of_le hw
  have hsplit : List.range 64 = List.range w ++ (List.range k).map (w + ·) := by rw [hk, List.range_add]
  have hnone : ((List.range k).map (w + ·)).filter x.getLsbD = [] := by
    refine List.filter_eq_nil_iff.mpr fun j hj => ?_
    obtain ⟨n, -, rfl⟩ := List.mem_map.mp hj
    have : x.getLsbD (w + n) = false := Nat.testBit_lt_two_pow (hx.trans_le (Nat.pow_le_pow_right (by norm_num) (Nat.le_add_right w n)))
    simp [this]
  rw [popCount, hsplit, List.filter_append, hnone, List.append_nil]

/-- n is the number of the first set bit among w, or w when none is set. -/
def FirstSet (w : Nat) (b : Nat → Bool) (n : Nat) : Prop := n ≤ w ∧ (∀ j, j < n → b j = false) ∧ (n < w → b n = true)

theorem firstSet_leading {x : DWord} {w : Nat} (hx : x.toNat < 2 ^ w) :
    FirstSet w (fun j => x.getLsbD (w - 1 - j)) (if x = 0 then w else w - 1 - Nat.log2 x.toNat) := by
  by_cases h0 : x = 0
  · rw [if_pos h0]
    exact ⟨le_rfl, fun j _ => by simp [h0], fun h => absurd h (lt_irrefl _)⟩
  · have hne : x.toNat ≠ 0 := fun h => h0 (BitVec.eq_of_toNat_eq h)
    have hlog : Nat.log2 x.toNat < w := (Nat.log2_lt hne).mpr hx
    rw [if_neg h0]
    refine ⟨by omega, fun j hj => ?_, fun _ => ?_⟩
    · exact Nat.testBit_lt_two_pow ((Nat.log2_lt hne).mp (by omega))
    · have : w - 1 - (w - 1 - Nat.log2 x.toNat) = Nat.log2 x.toNat := by omega
      show x.getLsbD _ = true
      rw [this]
      exact Nat.testBit_log2 hne

theorem firstSet_find (w : Nat) (b : Nat → Bool) : FirstSet w b (((List.range w).find? b).getD w) := by
  cases h : (List.range w).find? b with
  | none => exact ⟨le_rfl, fun j hj => by simpa using List.find?_range_eq_none.mp h j hj, fun hlt => absurd hlt (lt_irrefl _)⟩
  | some n =>
    obtain ⟨hb, hmem, hbelow⟩ := List.find?_range_eq_some.mp h
    exact ⟨(List.mem_range.mp hmem).le, fun j hj => by simpa using hbelow j hj, fun _ => hb⟩

/-- A row that counts to the first set bit of its source. -/
theorem firstSet_leaves {op : Op} {row : Fields → Instr} {n : Ctx → Lane → Nat} {b : Ctx → Lane → Nat → Bool}
    (h : ∀ f s, exec (row f) s = issue op f s fun c => c.result32 (fun i => BitVec.ofNat 32 (n c i)))
    (hn : ∀ c i, FirstSet c.width (b c i) (n c i)) (hx : ∀ c : Ctx, n (c.go op) = n c := by exact fun _ => rfl) :
    ∀ f s c, Ready op false f s c → ∃ x : Lane → Word, exec (row f) s = .next (c.after32 op x) ∧
      ∀ i, FirstSet c.width (b c i) (x i).toNat := by
  intro f s c hr
  refine ⟨_, leaves32_of h (fun c => by rw [hx]) f s c hr, fun i => ?_⟩
  have hfit : n c i < 2 ^ 32 := (hn c i).1.trans_lt ((width_le c).trans_lt (by norm_num))
  rw [BitVec.toNat_ofNat, Nat.mod_eq_of_lt hfit]
  exact hn c i

/-! ## Bytes (R174) -/

/-- The byte that nibble k of C chooses from B:A, or copies of its top bit. -/
def chosenByte (a b c : Word) (k : Nat) : Byte :=
  let byte : Byte := (b ++ a).extractLsb' (8 * (c.extractLsb' (4 * k) 3).toNat) 8
  if c.getLsbD (4 * k + 3) then (if byte.msb then 0xFF else 0) else byte

theorem permute_eq (a b c : Word) : permute a b c = chosenByte a b c 3 ++ chosenByte a b c 2 ++ chosenByte a b c 1 ++ chosenByte a b c 0 := by
  have hsel : ∀ k, (c.extractLsb' (4 * k) 4).extractLsb' 0 3 = c.extractLsb' (4 * k) 3 := fun k => by
    refine BitVec.eq_of_getLsbD_eq fun j hj => ?_
    simp [hj, show j < 4 by omega]
  have htop : ∀ k, (c.extractLsb' (4 * k) 4).getLsbD 3 = c.getLsbD (4 * k + 3) := fun k => by simp
  have hmsb : ∀ x : Byte, x.getLsbD 7 = x.msb := fun x => (BitVec.msb_eq_getLsbD_last x).symm
  simp only [permute, hsel, htop, hmsb]
  rfl

/-- Byte k of four bytes put together. -/
theorem extractLsb'_bytes (x : Nat → Byte) {k : Nat} (hk : k < 4) : (x 3 ++ x 2 ++ x 1 ++ x 0).extractLsb' (8 * k) 8 = x k := by
  have hup : ∀ {v : Nat} (y : BitVec v) (b : Byte) (n : Nat), (y ++ b).extractLsb' (n + 8) 8 = y.extractLsb' n 8 := fun y b n =>
    BitVec.extractLsb'_append_eq_of_le (Nat.le_add_left 8 n)
  interval_cases k
  · exact BitVec.extractLsb'_append_eq_right
  · exact (hup _ _ 0).trans BitVec.extractLsb'_append_eq_right
  · exact (hup _ _ 8).trans ((hup _ _ 0).trans BitVec.extractLsb'_append_eq_right)
  · exact (hup _ _ 16).trans ((hup _ _ 8).trans BitVec.extractLsb'_append_eq_left)

/-! ## The rows -/

theorem and_leaves : LeavesMod .and .and (fun c i => c.bitsOf c.f.sa i &&& c.bitsOf c.f.sb i) :=
  leavesMod_eq (fun _ _ => rfl) fun c i => by rw [wideOf_eq, wideOf_eq]

theorem or_leaves : LeavesMod .or .or (fun c i => c.bitsOf c.f.sa i ||| c.bitsOf c.f.sb i) :=
  leavesMod_eq (fun _ _ => rfl) fun c i => by rw [wideOf_eq, wideOf_eq]

theorem xor_leaves : LeavesMod .xor .xor (fun c i => c.bitsOf c.f.sa i ^^^ c.bitsOf c.f.sb i) :=
  leavesMod_eq (fun _ _ => rfl) fun c i => by rw [wideOf_eq, wideOf_eq]

theorem andn_leaves : LeavesMod .andn .andn (fun c i => c.bitsOf c.f.sa i &&& ~~~(c.bitsOf c.f.sb i)) :=
  leavesMod_eq (fun _ _ => rfl) fun c i => by rw [wideOf_eq, wideOf_eq]

theorem not_leaves : LeavesMod .not .not (fun c i => ~~~(c.bitsOf c.f.sa i)) :=
  leavesMod_eq (fun _ _ => rfl) fun c i => by rw [wideOf_eq]

theorem shf_leaves : Leaves32 .shf .shf (fun c i =>
    if c.f.sub.getLsbD 0 then ((c.b32 i ++ c.a32 i) <<< ((c.c32 i).toNat % 64)).extractLsb' 32 32
    else ((c.b32 i ++ c.a32 i) >>> ((c.c32 i).toNat % 64)).extractLsb' 0 32) :=
  leaves32_eq (fun _ _ => rfl) fun c i => funnel_eq _ _ _ _

theorem bfext_leaves : Leaves32 .bfext .bfext (fun c i =>
    let l := min (c.c32 i).toNat 32
    let bit := fun (k : Nat) => if k < 32 then (c.a32 i).getLsbD k else (c.f.md = 0 && (c.a32 i).getLsbD 31)
    BitVec.ofFnLE (n := 32) (fun j => l ≠ 0 && (if j.val < l then bit ((c.b32 i).toNat + j.val)
      else (c.f.md = 0 && bit ((c.b32 i).toNat + l - 1))))) :=
  leaves32_eq (fun _ _ => rfl) fun c i => extractField_eq _ _ _ _

theorem bfins_leaves : Leaves32 .bfins .bfins (fun c i =>
    let p := ((c.c32 i).extractLsb' 0 8).toNat
    let l := min ((c.c32 i).extractLsb' 8 8).toNat 32
    BitVec.ofFnLE (n := 32) (fun j => if p ≤ j.val ∧ j.val < p + l then (c.b32 i).getLsbD (j.val - p) else (c.a32 i).getLsbD j.val)) :=
  leaves32_eq (fun _ _ => rfl) fun c i => insertField_eq _ _ _

theorem popc_leaves : Leaves32 .popc .popc (fun c i => BitVec.ofNat 32 ((List.range 64).filter (c.bitsOf c.f.sa i).getLsbD).length) :=
  leaves32_eq (fun _ _ => rfl) fun c i => by rw [wideOf_eq, popCount_eq (width_le c) (bitsOf_lt c _ i)]

theorem brev_leaves : LeavesMod .brev .brev (fun c i =>
    if c.f.md = 0x0B then BitVec.ofFnLE (n := 64) (fun j => (c.a64 i).getLsbD (63 - j.val))
    else (BitVec.ofFnLE (n := 32) (fun j => (c.a32 i).getLsbD (31 - j.val))).setWidth 64) :=
  leavesMod_eq (fun _ _ => rfl) fun c i => by simp only [reverse_eq, isB64, beq_iff_eq]

theorem clz_counts (f : Fields) (s : State) (c : Ctx) (hr : Ready .clz false f s c) : ∃ x : Lane → Word,
    exec (.clz f) s = .next (c.after32 .clz x) ∧ ∀ i, FirstSet c.width (fun j => (c.bitsOf f.sa i).getLsbD (c.width - 1 - j)) (x i).toNat := by
  obtain rfl := ready_fields hr
  exact firstSet_leaves (row := .clz) (fun _ _ => rfl)
    (fun c i => by rw [wideOf_eq]; exact firstSet_leading (bitsOf_lt c _ i)) (fun _ => rfl) _ s c hr

theorem ctz_counts (f : Fields) (s : State) (c : Ctx) (hr : Ready .ctz false f s c) : ∃ x : Lane → Word,
    exec (.ctz f) s = .next (c.after32 .ctz x) ∧ ∀ i, FirstSet c.width (fun j => (c.bitsOf f.sa i).getLsbD j) (x i).toNat := by
  obtain rfl := ready_fields hr
  exact firstSet_leaves (row := .ctz) (fun _ _ => rfl) (fun c i => by simp only [wideOf_eq]; exact firstSet_find _ _) (fun _ => rfl) _ s c hr

theorem prmt_leaves : Leaves32 .prmt .prmt (fun c i => permute (c.a32 i) (c.b32 i) (c.c32 i)) := leaves32_of (fun _ _ => rfl) fun _ => rfl

/-- Settles O6, row by row and bit by bit: each result is compared in every bit, and the counts by the first set bit. -/
theorem bitResults : Obligations.BitResults :=
  ⟨and_leaves, or_leaves, xor_leaves, andn_leaves, not_leaves, shift_leaves (fun _ x n => x <<< n) (fun _ _ => rfl) shiftLeft_min,
    shift_leaves (fun _ x n => x >>> n) (fun _ _ => rfl) ushiftRight_min,
    shift_leaves (fun _ x n => x.sshiftRight n) (fun _ _ => rfl) sshiftRight_min, shf_leaves, bfext_leaves, bfins_leaves, popc_leaves,
    clz_counts, ctz_counts, brev_leaves, fun f s c hr => ⟨_, prmt_leaves f s c hr, fun _ k hk =>
      (congrArg (BitVec.extractLsb' (8 * k) 8) (permute_eq _ _ _)).trans (extractLsb'_bytes (chosenByte _ _ _) hk)⟩⟩

end Sys2Proof.Machine.Numbers
end

section
/-! PROOF. The system registers: what `rdsr` reads, what `wrsr` writes, and their traps (spec 07 R186, R187, spec 01 R11, R14, spec 08 R212,
R237, spec 11 R289). -/

namespace Sys2Proof.Machine.Numbers

open Storage

set_option Elab.async false

/-! ## From a write's meaning to what it does -/

section
variable {op : Op} {row : Fields → Instr} {body : Ctx → Act} {p : Ctx → Prop}

theorem alters_of {u : Ctx → State → State} (hx : ∀ f s, exec (row f) s = issue op f s body)
    (h : ∀ c, p c → body c = .done (u c c.s) .noResult) (hu : ∀ c, u (c.go op) = u c)
    (hp : ∀ c, p c → p (c.go op) := by exact fun _ h => h) : Alters op row p u := fun f s c hr hc => by
  rw [hx f s, issue_ends hr (h _ (hp c hc)), hu]

theorem unchanged_of (hx : ∀ f s, exec (row f) s = issue op f s body)
    (h : ∀ c, p c → body c = .done c.s .noResult) (hp : ∀ c, p c → p (c.go op) := by exact fun _ h => h) :
    Changes op row p (fun c => c.popped op) := fun f s c hr hc => by
  rw [hx f s, issue_ends hr (h _ (hp c hc)), Ctx.settle_nothing]

/-- A trap that a row raises under q is raised under all that says more. -/
theorem raises_mono {always : Bool} {q : Ctx → Prop} {cause detail : Byte} {addr : Ctx → DWord} {info : Ctx → Word}
    (h : Raises op always row q cause detail addr info) (hp : ∀ c, p c → q c) : Raises op always row p cause detail addr info :=
  fun f s c hr hc => h f s c hr (hp c hc)

end

/-! ## What a register reads -/

/-- The role of the group by its number (Table K-2). -/
theorem readSr_role (c : Ctx) : c.readSr 0x003 = .value (fun _ => c.g.role.code) := rfl

theorem readSr_absent (c : Ctx) {n : Nat} (h : srAbsent n ∨ 0xFFF < n) : c.readSr n = .illegal := by
  simp (disch := omega) only [Ctx.readSr, ↓if_neg]

/-- A register of the spawn context as the dispatcher reads it (R212). -/
theorem readSr_context (c : Ctx) {n : Nat} (h : 0x030 ≤ n ∧ n ≤ 0x034) (hd : c.t.dispatcher = true) : c.readSr n = .value (fun _ =>
    let x := c.s0.dies[c.r.die].disp
    if n = 0x030 then x.gridLo else if n = 0x031 then x.gridHi else if n = 0x032 then x.nteam else if n = 0x033 then x.dieCnt
    else x.spasidWord) := by
  simp (disch := omega) only [Ctx.readSr, ↓if_neg, ↓if_pos, hd, Bool.not_true, Bool.false_eq_true, if_false]

theorem readSr_notDispatcher (c : Ctx) {n : Nat} (h : 0x030 ≤ n ∧ n ≤ 0x034) (hd : c.t.dispatcher = false) :
    c.readSr n = .dispatcherOnly := by
  simp (disch := omega) only [Ctx.readSr, ↓if_neg, ↓if_pos, hd, Bool.not_false, if_true]

theorem readSr_outsideTrap (c : Ctx) {n : Nat} (h : 0x070 ≤ n ∧ n ≤ 0x076) (ht : ∀ x rest, c.g.traps = x :: rest → x.mode ≠ .trap) :
    c.readSr n = .illegal := by
  simp (disch := omega) only [Ctx.readSr, ↓if_neg, ↓if_pos]
  cases e : c.g.traps with
  | nil => rfl
  | cons x rest => exact if_neg (by simpa using ht x rest e)

theorem readSr_inTrap (c : Ctx) {n : Nat} (h : 0x070 ≤ n ∧ n ≤ 0x076) {x : TrapCtx} {rest : List TrapCtx} (ht : c.g.traps = x :: rest)
    (hm : x.mode = .trap) : c.readSr n = .value (fun _ => trapRegister x.info n) := by
  simp (disch := omega) only [Ctx.readSr, ↓if_neg, ↓if_pos, ht]
  exact if_pos (by simp [hm])

theorem readSr_privileged (c : Ctx) {n : Nat} (h : 0x800 ≤ n ∧ n ≤ 0xFFF) (hm : c.g.mode ≠ .firmware) : c.readSr n = .privileged := by
  simp (disch := omega) only [Ctx.readSr, ↓if_neg, ↓if_pos]
  exact if_pos (by simpa using hm)

theorem readSr_dbgen (c : Ctx) (hm : c.g.mode = .firmware) :
    c.readSr 0x800 = .value (fun _ => if c.s0.dies[c.r.die].dbgen then 1 else 0) := by
  simp (disch := omega) only [Ctx.readSr, ↓if_neg, ↓if_pos]
  exact if_neg (by simp [hm])

theorem readSr_otherFirmware (c : Ctx) {n : Nat} (h : 0x800 < n ∧ n ≤ 0xFFF) (hm : c.g.mode = .firmware) : c.readSr n = .illegal := by
  simp (disch := omega) only [Ctx.readSr, ↓if_neg, ↓if_pos]
  exact if_neg (by simp [hm])

theorem readSr_berr (c : Ctx) (b : Fin 16) : c.readSr (0x040 + b.val) = .value (fun _ => c.t.berr[b]) := by
  have hb : Fin.ofNat 16 (0x040 + b.val - 0x040) = b := Fin.ext (by simp)
  simp (disch := omega) only [Ctx.readSr, ↓if_neg, ↓if_pos, hb]

theorem readSr_cterr (c : Ctx) (t : Fin 8) : c.readSr (0x050 + t.val) = .value (fun _ => c.g.cterr[t]) := by
  have ht : Fin.ofNat 8 (0x050 + t.val - 0x050) = t := Fin.ext (by simp)
  simp (disch := omega) only [Ctx.readSr, ↓if_neg, ↓if_pos, ht]

/-- The error record of the grid's intervals (Table K-51). -/
theorem readSr_xerr (c : Ctx) {x : Word} (h : keyGet c.s0.dies[c.r.die].xerr c.t.key 0 = x) : c.readSr 0x05A = .value (fun _ => x) := by
  rw [← h]; rfl

/-! ## What a write of a register does -/

theorem clears_iff (c : Ctx) : c.clears = true ↔ c.writesValid := by
  simp only [Ctx.clears, List.any_eq_true, mem_lanesOf]

theorem writeSr_context (c : Ctx) {n : Nat} (h : 0x030 ≤ n ∧ n ≤ 0x033) (hd : c.t.dispatcher = true) :
    c.writeSr n = .done (c.s.modDie c.r.die (fun x => { x with disp := x.disp.write n c.bLevel })) .noResult := by
  simp (disch := omega) only [Ctx.writeSr, ↓if_neg, ↓if_pos, hd, Bool.not_true, Bool.false_eq_true, if_false]

theorem writeSr_berr (c : Ctx) (b : Fin 16) (hv : c.writesValid) : c.writeSr (0x040 + b.val) =
    .done (c.s.modTeam c.r.die c.r.core c.t.uid (fun t => { t with berr := t.berr.set b 0 })) .noResult := by
  have hb : Fin.ofNat 16 (0x040 + b.val - 0x040) = b := Fin.ext (by simp)
  simp (disch := omega) only [Ctx.writeSr, ↓if_neg, ↓if_pos, hb, (clears_iff c).mpr hv, if_true]

theorem writeSr_cterr (c : Ctx) (t : Fin 8) (hv : c.writesValid) : c.writeSr (0x050 + t.val) =
    .done (c.withGroup (fun g => { g with cterr := g.cterr.set t 0 })) .noResult := by
  have ht : Fin.ofNat 8 (0x050 + t.val - 0x050) = t := Fin.ext (by simp)
  simp (disch := omega) only [Ctx.writeSr, ↓if_neg, ↓if_pos, ht, (clears_iff c).mpr hv, if_true]

theorem writeSr_xerr (c : Ctx) (hv : c.writesValid) : c.writeSr 0x05A =
    .done (c.s.modDie c.r.die (fun x => { x with xerr := x.xerr.filter (fun y => y.1 != c.t.key) })) .noResult :=
  if_pos ((clears_iff c).mpr hv)

theorem writeSr_notValid (c : Ctx) {n : Nat} (h : (0x040 ≤ n ∧ n ≤ 0x057) ∨ n = 0x05A) (hv : ¬ c.writesValid) :
    c.writeSr n = .done c.s .noResult := by
  have hc : c.clears = false := by rw [← Bool.not_eq_true, clears_iff]; exact hv
  have hn : (0x040 ≤ n ∧ n ≤ 0x04F) ∨ (0x050 ≤ n ∧ n ≤ 0x057) ∨ n = 0x05A := by omega
  rcases hn with hn | hn | hn <;>
    simp (disch := omega) only [Ctx.writeSr, ↓if_neg, ↓if_pos, hc, Bool.false_eq_true, if_false]

theorem writeSr_illegal (c : Ctx) {n : Nat} (h : srReadOnly n ∨ srAbsent n ∨ 0xFFF < n) : c.writeSr n = c.illegal := by
  simp (disch := omega) only [Ctx.writeSr, ↓if_neg]

theorem writeSr_otherFirmware (c : Ctx) {n : Nat} (h : 0x800 < n ∧ n ≤ 0xFFF) (hm : c.g.mode = .firmware) : c.writeSr n = c.illegal := by
  simp (disch := omega) only [Ctx.writeSr, ↓if_neg, ↓if_pos]
  exact if_neg (by simp [hm])

theorem writeSr_spasid (c : Ctx) (hd : c.t.dispatcher = true) : c.writeSr 0x034 = c.illegal := by
  simp (disch := omega) only [Ctx.writeSr, ↓if_neg, ↓if_pos, hd, Bool.not_true, Bool.false_eq_true, if_false]

theorem writeSr_notDispatcher (c : Ctx) {n : Nat} (h : 0x030 ≤ n ∧ n ≤ 0x034) (hd : c.t.dispatcher = false) :
    c.writeSr n = c.trap 0x04 0 0 := by
  simp (disch := omega) only [Ctx.writeSr, ↓if_neg, ↓if_pos, hd, Bool.not_false, if_true]

theorem writeSr_privileged (c : Ctx) {n : Nat} (h : 0x800 ≤ n ∧ n ≤ 0xFFF) (hm : c.g.mode ≠ .firmware) : c.writeSr n = c.trap 0x03 0 0 := by
  simp (disch := omega) only [Ctx.writeSr, ↓if_neg, ↓if_pos]
  exact if_pos (by simpa using hm)

theorem writeSr_dbgen (c : Ctx) (hm : c.g.mode = .firmware) : c.writeSr 0x800 =
    .done (c.s.modDie c.r.die (fun x => { x with dbgen := c.bLevel.getLsbD 0 })) .noResult := by
  simp (disch := omega) only [Ctx.writeSr, ↓if_neg, ↓if_pos]
  exact if_neg (by simp [hm])

/-! ## The rows -/

/-- `rdsr` of a register that has a value. -/
theorem rdsr_value (f : Fields) (s : State) (c : Ctx) (x : Lane → Word) (hr : Ready .rdsr false f s c)
    (hv : c.readSr c.srNumber = .value x) : exec (.rdsr f) s = .next (c.after32 .rdsr x) :=
  leaves32If_of (row := .rdsr) (p := fun c => c.readSr c.srNumber = .value x) (x := fun _ => x) (fun _ _ => rfl)
    (fun c h => by rw [h]) (fun _ h => h) (fun _ => rfl) f s c hr hv

theorem rdsr_illegal : Raises .rdsr false .rdsr (fun c => c.readSr c.srNumber = .illegal) 0x02 0 (fun _ => 0) (fun _ => 0) :=
  raises_of (fun _ _ => rfl) fun c h => by rw [h]; rfl

theorem rdsr_privileged : Raises .rdsr false .rdsr (fun c => c.readSr c.srNumber = .privileged) 0x03 0 (fun _ => 0) (fun _ => 0) :=
  raises_of (fun _ _ => rfl) fun c h => by rw [h]

theorem rdsr_dispatcherOnly : Raises .rdsr false .rdsr (fun c => c.readSr c.srNumber = .dispatcherOnly) 0x04 0 (fun _ => 0) (fun _ => 0) :=
  raises_of (fun _ _ => rfl) fun c h => by rw [h]

theorem popped_fpstat (c : Ctx) (op : Op) : (c.popped op).fpstat = c.g.fpstat := by rw [c.popped_eq]
theorem popped_cterr (c : Ctx) (op : Op) : (c.popped op).cterr = c.g.cterr := by rw [c.popped_eq]

theorem wrsr_fpstat : Changes .wrsr .wrsr (fun c => c.srNumber = 0x020) (fun c =>
    { c.popped .wrsr with fpstat := updLanes c.g.fpstat c.m (fun i => (c.b32 i).setWidth 5) }) := by
  have h : Changes .wrsr .wrsr (fun c => c.srNumber = 0x020) (fun c =>
      { c.popped .wrsr with fpstat := updLanes (c.popped .wrsr).fpstat c.m (fun i => (c.b32 i).setWidth 5) }) :=
    changes_of (F := fun c g => { g with fpstat := updLanes g.fpstat c.m (fun i => (c.b32 i).setWidth 5) }) (fun _ _ => rfl)
      fun c h => by rw [h]; rfl
  simpa only [popped_fpstat] using h

theorem wrsr_context {n : Nat} (hn : 0x030 ≤ n ∧ n ≤ 0x033) : Alters .wrsr .wrsr (fun c => c.srNumber = n ∧ c.t.dispatcher = true)
    (fun c s => s.modDie c.r.die (fun x => { x with disp := x.disp.write n c.bLevel })) :=
  alters_of (fun _ _ => rfl) (fun c ⟨h, hd⟩ => by rw [h]; exact writeSr_context c hn hd) fun _ => rfl

theorem wrsr_berr (b : Fin 16) : Alters .wrsr .wrsr (fun c => c.srNumber = 0x040 + b.val ∧ c.writesValid)
    (fun c s => s.modTeam c.r.die c.r.core c.t.uid (fun t => { t with berr := t.berr.set b 0 })) :=
  alters_of (fun _ _ => rfl) (fun c ⟨h, hv⟩ => by rw [h]; exact writeSr_berr c b hv) fun _ => rfl

theorem wrsr_cterr (n : Fin 8) : Changes .wrsr .wrsr (fun c => c.srNumber = 0x050 + n.val ∧ c.writesValid)
    (fun c => { c.popped .wrsr with cterr := c.g.cterr.set n 0 }) := by
  have h : Changes .wrsr .wrsr (fun c => c.srNumber = 0x050 + n.val ∧ c.writesValid)
      (fun c => { c.popped .wrsr with cterr := (c.popped .wrsr).cterr.set n 0 }) :=
    changes_of (F := fun _ g => { g with cterr := g.cterr.set n 0 }) (fun _ _ => rfl)
      fun c ⟨h, hv⟩ => by rw [h]; exact writeSr_cterr c n hv
  simpa only [popped_cterr] using h

theorem wrsr_xerr : Alters .wrsr .wrsr (fun c => c.srNumber = 0x05A ∧ c.writesValid)
    (fun c s => s.modDie c.r.die (fun x => { x with xerr := x.xerr.filter (fun y => y.1 != c.t.key) })) :=
  alters_of (fun _ _ => rfl) (fun c ⟨h, hv⟩ => by rw [h]; exact writeSr_xerr c hv) fun _ => rfl

theorem wrsr_notValid : Changes .wrsr .wrsr
    (fun c => ((0x040 ≤ c.srNumber ∧ c.srNumber ≤ 0x057) ∨ c.srNumber = 0x05A) ∧ ¬ c.writesValid) (fun c => c.popped .wrsr) :=
  unchanged_of (fun _ _ => rfl) fun c ⟨h, hv⟩ => writeSr_notValid c h hv

theorem wrsr_dbgen : Alters .wrsr .wrsr (fun c => c.srNumber = 0x800 ∧ c.g.mode = .firmware)
    (fun c s => s.modDie c.r.die (fun x => { x with dbgen := c.bLevel.getLsbD 0 })) :=
  alters_of (fun _ _ => rfl) (fun c ⟨h, hm⟩ => by rw [h]; exact writeSr_dbgen c hm) fun _ => rfl

theorem wrsr_illegal : Raises .wrsr false .wrsr (fun c => srReadOnly c.srNumber ∨ srAbsent c.srNumber ∨ 0xFFF < c.srNumber) 0x02 0
    (fun _ => 0) (fun _ => 0) :=
  raises_of (fun _ _ => rfl) fun c h => writeSr_illegal c h

theorem wrsr_otherFirmware : Raises .wrsr false .wrsr (fun c => 0x800 < c.srNumber ∧ c.srNumber ≤ 0xFFF ∧ c.g.mode = .firmware) 0x02 0
    (fun _ => 0) (fun _ => 0) :=
  raises_of (fun _ _ => rfl) fun c ⟨h1, h2, hm⟩ => writeSr_otherFirmware c ⟨h1, h2⟩ hm

theorem wrsr_spasid : Raises .wrsr false .wrsr (fun c => c.srNumber = 0x034 ∧ c.t.dispatcher = true) 0x02 0 (fun _ => 0) (fun _ => 0) :=
  raises_of (fun _ _ => rfl) fun c ⟨h, hd⟩ => by rw [h]; exact writeSr_spasid c hd

theorem wrsr_privileged : Raises .wrsr false .wrsr (fun c => 0x800 ≤ c.srNumber ∧ c.srNumber ≤ 0xFFF ∧ c.g.mode ≠ .firmware) 0x03 0
    (fun _ => 0) (fun _ => 0) :=
  raises_of (fun _ _ => rfl) fun c ⟨h1, h2, hm⟩ => writeSr_privileged c ⟨h1, h2⟩ hm

theorem wrsr_notDispatcher : Raises .wrsr false .wrsr (fun c => 0x030 ≤ c.srNumber ∧ c.srNumber ≤ 0x034 ∧ c.t.dispatcher = false) 0x04 0
    (fun _ => 0) (fun _ => 0) :=
  raises_of (fun _ _ => rfl) fun c ⟨h1, h2, hd⟩ => writeSr_notDispatcher c ⟨h1, h2⟩ hd

theorem wrsr_readOnly : Raises .wrsr false .wrsr (fun c => srReadOnly c.srNumber ∨ (c.srNumber = 0x034 ∧ c.t.dispatcher = true)) 0x02 0
    (fun _ => 0) (fun _ => 0) :=
  fun f s c hr h => h.elim (fun h => wrsr_illegal f s c hr (.inl h)) (fun h => wrsr_spasid f s c hr h)

/-- Settles O9: each read by the value of its register, and each trap and each write by the range that its number lies in. -/
theorem systemRegisters : Obligations.SystemRegisters := by
  refine ⟨⟨rdsr_value, fun c => ⟨rfl, rfl, rfl, ?role, rfl, rfl, rfl, rfl, rfl, rfl, rfl, rfl, rfl, ?lease, ?leased, rfl, rfl, rfl, ?context,
      readSr_berr c, readSr_cterr c, rfl, rfl, readSr_xerr c ?xerr, rfl, rfl, rfl, ?trap, ?dbgen⟩,
      raises_mono rdsr_illegal fun c h => readSr_absent c h,
      raises_mono rdsr_illegal fun c ⟨h1, h2, ht⟩ => readSr_outsideTrap c ⟨h1, h2⟩ ht,
      raises_mono rdsr_illegal fun c ⟨h1, h2, hm⟩ => readSr_otherFirmware c ⟨h1, h2⟩ hm,
      raises_mono rdsr_privileged fun c ⟨h1, h2, hm⟩ => readSr_privileged c ⟨h1, h2⟩ hm,
      raises_mono rdsr_dispatcherOnly fun c ⟨h1, h2, hd⟩ => readSr_notDispatcher c ⟨h1, h2⟩ hd⟩,
    wrsr_fpstat, wrsr_context (by norm_num), wrsr_context (by norm_num), wrsr_context (by norm_num), wrsr_context (by norm_num), wrsr_berr,
    wrsr_cterr, wrsr_xerr, wrsr_notValid, wrsr_dbgen, wrsr_readOnly,
    raises_mono wrsr_illegal fun _ h => .inr h, wrsr_otherFirmware, wrsr_privileged, wrsr_notDispatcher⟩
  case role => refine (readSr_role c).trans ?_; cases c.g.role <;> rfl
  case lease => exact fun hd => congrArg SrRead.value (funext fun _ => if_pos hd)
  case leased => exact fun hd => congrArg SrRead.value (funext fun _ => if_neg (by simp [hd]))
  case context =>
    intro hd
    refine ⟨?_, ?_, ?_, ?_, ?_⟩ <;> exact readSr_context c (by norm_num) hd
  case xerr => unfold keyGet; cases c.s0.dies[c.r.die].xerr.find? (fun y => y.1 == c.t.key) <;> rfl
  case trap =>
    intro x rest ht hm
    refine ⟨?_, ?_, ?_, ?_, ?_, ?_, ?_⟩ <;> exact readSr_inTrap c (by norm_num) ht hm
  case dbgen => exact readSr_dbgen c

end Sys2Proof.Machine.Numbers
end

section
/-! PROOF. Branches and calls, and the register budgets of a group (spec 01 R46, spec 08 R197, R198, R204). -/

namespace Sys2Proof.Machine.Control

open Storage

set_option Elab.async false

/-! ## Branches and calls (R197, R198) -/

/-- A group that goes on past the instruction, its members then sent to their targets. -/
theorem advance_branched (c : Ctx) {g : Group} (hp : g.pcs = c.g.pcs) (target : Lane → DWord) :
    { g.advance c.run c.next with pcs := updLanes (g.advance c.run c.next).pcs c.m target } = c.branched g target := by
  simp [Group.advance, Ctx.branched, updLanes, hp]

/-- A branch, of a group that has just been put. -/
theorem settle_branch (c : Ctx) (op : Op) {g : Group} (hp : g.pcs = c.g.pcs) (slot : WinSlot) (target : Lane → DWord) :
    c.settle ((c.go op).branch (c.s0.setGroup c.r g) slot target) = c.placed (c.branched g target) slot := by
  show c.settle (.placed ((c.s0.setGroup c.r g).modGroup c.r fun g =>
    { g.advance c.run c.next with pcs := updLanes (g.advance c.run c.next).pcs c.m target }) slot) = _
  rw [State.modGroup_setGroup, advance_branched c hp]
  simp only [Ctx.settle, Ctx.ended_setGroup]
  rfl

theorem branches_of {op : Op} {row : Fields → Instr} {target : Ctx → Lane → DWord}
    (hx : ∀ f s, exec (row f) s = issue op f s fun c => c.branch c.s .noResult (target c))
    (ht : ∀ c, target (c.go op) = target c := by exact fun _ => rfl) :
    Places op false row (fun _ => True) (fun c => c.branched (c.popped op) (target c)) (fun _ => .noResult) := fun f s c hr _ => by
  rw [hx, issue_ready hr, ht]
  exact congrArg _ (settle_branch c op (popped_pcs c op) .noResult (target c))

theorem write64_pcs (f : Fields) (m : Mask) (g : Group) (x : Lane → DWord) : (g.write64 f.dst m x).pcs = g.pcs := by
  have h := congrArg Group.pcs (write64_writesDest f m g x).rest
  exact h

theorem calls_of {op : Op} {row : Fields → Instr} {target : Ctx → Lane → DWord}
    (hx : ∀ f s, exec (row f) s = issue op f s fun c => c.callTo (target c))
    (ht : ∀ c, target (c.go op) = target c := by exact fun _ => rfl) :
    Places op false row (fun _ => True) (fun c => c.branched ((c.popped op).write64 c.f.dst c.m (fun _ => c.next)) (target c))
      (fun c => slotOf c.f c.m (fun _ => c.next)) := fun f s c hr _ => by
  have hwrite : (c.go op).withGroup (fun g => g.write64 c.f.dst c.m fun _ => c.next) =
      c.s0.setGroup c.r ((c.popped op).write64 c.f.dst c.m fun _ => c.next) := State.modGroup_setGroup ..
  rw [hx, issue_ready hr, ht]
  show Host.Outcome.next (c.settle ((c.go op).branch ((c.go op).withGroup fun g => g.write64 c.f.dst c.m fun _ => c.next) _ _)) = _
  rw [hwrite]
  exact congrArg _ (settle_branch c op ((write64_pcs ..).trans (popped_pcs c op)) _ (target c))

/-- Settles O14: each row by its target, and the calls after the write of the return address. -/
theorem branches : Obligations.Branches :=
  ⟨branches_of (target := fun c _ => c.label) fun _ _ => rfl,
    branches_of (target := fun c i => c.a64 i + c.f.imm.signExtend 64) fun _ _ => rfl,
    branches_of (target := fun c => c.a64) fun _ _ => rfl,
    calls_of (target := fun c _ => c.label) fun _ _ => rfl,
    calls_of (target := fun c i => c.a64 i + c.f.imm.signExtend 64) fun _ _ => rfl⟩

/-! ## Rows that leave the group as it is, and holds after a part of the effect -/

/-- A row that does nothing but issue. -/
theorem nothing_of {op : Op} {row : Fields → Instr} {body : Ctx → Act} {p : Ctx → Prop}
    (hx : ∀ f s, exec (row f) s = issue op f s body) (h : ∀ c, p c → body c = .done c.s .noResult)
    (hp : ∀ c, p c → p (c.go op) := by exact fun _ h => h) : Changes op row p (fun c => c.popped op) := fun f s c hr hc => by
  rw [hx, issue_ends hr (h _ (hp c hc)), Ctx.settle_nothing]

/-- A group that holds once its meaning has changed it is left as `Ctx.holding` says (R69, R296). -/
theorem settle_holdWith (c : Ctx) (g : Group) (x : Hold) : c.settle (.holdWith (c.s0.setGroup c.r g) x) = c.holding g x := by
  simp only [Ctx.settle, Ctx.held, Ctx.holding, Ctx.after, Ctx.taken]
  unfold Ctx.counted
  cases c.g.hold.isSome
  · cases x.allocates <;> simp
  · simp

/-! ## Register budgets (R46, R204) -/

theorem budgetFixed_iff (c : Ctx) : c.budgetFixed = true ↔ c.fixedBudget := by
  simp [Ctx.budgetFixed, Ctx.fixedBudget, Vector.any_eq_true, Fin.exists_iff]

/-- While a group issues, it is no group that waits for granules: those are the others of its core. -/
theorem anyGrowing_go (c : Ctx) (op : Op) : (c.go op).s.anyGrowing c.r.die c.r.core = true ↔
    ∃ i g, i ≠ c.r.slot ∧ c.s0.group? ⟨c.r.die, c.r.core, i⟩ = some g ∧ g.growing = true := by
  have hself : (c.go op).s.group? ⟨c.r.die, c.r.core, c.r.slot⟩ = some (c.popped op) := State.group?_setGroup_same ..
  have hother : ∀ i, i ≠ c.r.slot → (c.go op).s.group? ⟨c.r.die, c.r.core, i⟩ = c.s0.group? ⟨c.r.die, c.r.core, i⟩ := fun i hi =>
    State.group?_setGroup_other _ _ _ _ fun h => hi (congrArg GRef.slot h).symm
  have hstill : (c.popped op).growing = false := by rw [c.popped_eq]; rfl
  simp only [State.anyGrowing, List.any_eq_true, allSlots, List.mem_finRange, true_and]
  constructor
  · rintro ⟨i, hi⟩
    by_cases h : i = c.r.slot
    · subst h
      simp [hself, hstill] at hi
    · rw [hother i h] at hi
      cases hg : c.s0.group? ⟨c.r.die, c.r.core, i⟩ with
      | none => simp [hg] at hi
      | some g => exact ⟨i, g, h, hg, by simpa [hg] using hi⟩
  · rintro ⟨i, g, hi, hg, hw⟩
    exact ⟨i, by simp [hother i hi, hg, hw]⟩

/-- The request of granules that a group may make. -/
abbrev MayGrow (c : Ctx) : Prop := ¬ c.fixedBudget ∧ c.aLevel ≠ 0 ∧ c.g.budget + c.aLevel.toNat ≤ 32 ∧
  c.s0.teamGranules c.r.die c.r.core c.t + c.aLevel.toNat ≤ coreGranules c.r.core

theorem level_ne_zero {x : Word} (h : x ≠ 0) : x.toNat ≠ 0 := fun h0 => h (BitVec.eq_of_toNat_eq h0)

/-- A request that may be made is granted when the granules are free and no other group of the core waits, else it holds (log 51). -/
theorem vgrow_asks {f : Fields} {s : State} {c : Ctx} (hr : Ready .vgrow false f s c) (h : MayGrow c) :
    exec (.vgrow f) s = .next (c.settle
      (if c.aLevel.toNat ≤ c.s0.freeGranules c.r.die c.r.core ∧ (c.go .vgrow).s.anyGrowing c.r.die c.r.core = false then
        .done ((c.go .vgrow).withGroup (fun g => { g with budget := g.budget + c.aLevel.toNat })) .noResult
      else .holdWith (c.go .vgrow).s (.vgrow c.aLevel.toNat))) := by
  obtain ⟨hfix, h0, h32, hcore⟩ := h
  rw [← budgetFixed_iff, Bool.not_eq_true] at hfix
  have hfix' : (c.go .vgrow).budgetFixed = false := hfix
  have h0' : (c.go .vgrow).aLevel.toNat ≠ 0 := level_ne_zero h0
  have h32' : ¬ 32 < (c.go .vgrow).g.budget + (c.go .vgrow).aLevel.toNat := Nat.not_lt.mpr h32
  have hcore' : ¬ coreGranules (c.go .vgrow).r.core <
      (c.go .vgrow).s0.teamGranules (c.go .vgrow).r.die (c.go .vgrow).r.core (c.go .vgrow).t + (c.go .vgrow).aLevel.toNat :=
    Nat.not_lt.mpr hcore
  refine issue_ends hr ?_
  simp only [hfix', h0', h32', hcore', if_false, Bool.false_eq_true, Bool.and_eq_true, decide_eq_true_eq, Bool.not_eq_true']
  rfl

theorem vgrow_changes : Changes .vgrow .vgrow (fun c => ¬ c.fixedBudget ∧ c.aLevel ≠ 0 ∧ c.g.budget + c.aLevel.toNat ≤ 32 ∧
      c.s0.teamGranules c.r.die c.r.core c.t + c.aLevel.toNat ≤ coreGranules c.r.core ∧
      c.aLevel.toNat ≤ c.s0.freeGranules c.r.die c.r.core ∧
      ∀ i : SlotId, i ≠ c.r.slot → ∀ g, c.s0.group? ⟨c.r.die, c.r.core, i⟩ = some g → g.growing = false)
    (fun c => { c.popped .vgrow with budget := c.g.budget + c.aLevel.toNat }) := by
  rintro f s c hr ⟨hfix, h0, h32, hcore, hfree, hnone⟩
  have hgrow : (c.go .vgrow).s.anyGrowing c.r.die c.r.core = false := by
    rw [Bool.eq_false_iff, ne_eq, anyGrowing_go]
    rintro ⟨i, g, hi, hg, hw⟩
    rw [hnone i hi g hg] at hw
    cases hw
  rw [vgrow_asks hr ⟨hfix, h0, h32, hcore⟩, if_pos ⟨hfree, hgrow⟩, Ctx.settle_withGroup, popped_budget]

theorem vgrow_holds : Holds .vgrow .vgrow (fun c => ¬ c.fixedBudget ∧ c.aLevel ≠ 0 ∧ c.g.budget + c.aLevel.toNat ≤ 32 ∧
      c.s0.teamGranules c.r.die c.r.core c.t + c.aLevel.toNat ≤ coreGranules c.r.core ∧
      (c.s0.freeGranules c.r.die c.r.core < c.aLevel.toNat ∨
        ∃ i g, i ≠ c.r.slot ∧ c.s0.group? ⟨c.r.die, c.r.core, i⟩ = some g ∧ g.growing = true))
    (fun c => c.popped .vgrow) (fun c => .vgrow c.aLevel.toNat) := by
  rintro f s c hr ⟨hfix, h0, h32, hcore, hwait⟩
  have hnot : ¬ (c.aLevel.toNat ≤ c.s0.freeGranules c.r.die c.r.core ∧ (c.go .vgrow).s.anyGrowing c.r.die c.r.core = false) := by
    rintro ⟨hfree, hgrow⟩
    rcases hwait with hwait | hwait
    · omega
    · rw [← anyGrowing_go c .vgrow, hgrow] at hwait
      cases hwait
  rw [vgrow_asks hr ⟨hfix, h0, h32, hcore⟩, if_neg hnot]
  exact congrArg _ (settle_holdWith c _ _)

theorem vgrow_raises : Raises .vgrow false .vgrow (fun c => c.fixedBudget ∨ (c.aLevel ≠ 0 ∧ (32 < c.g.budget + c.aLevel.toNat ∨
    coreGranules c.r.core < c.s0.teamGranules c.r.die c.r.core c.t + c.aLevel.toNat))) 0x02 0 (fun _ => 0) (fun _ => 0) := by
  refine raises_of (fun _ _ => rfl) fun c h => ?_
  by_cases hfix : c.budgetFixed = true
  · simp only [hfix, if_true]
    rfl
  · rw [budgetFixed_iff] at hfix
    obtain ⟨h0, h⟩ := h.resolve_left hfix
    rw [← budgetFixed_iff] at hfix
    simp only [hfix, level_ne_zero h0, if_false, Bool.false_eq_true]
    by_cases h32 : 32 < c.g.budget + c.aLevel.toNat
    · simp only [h32, if_true]
      rfl
    · simp only [h32, h.resolve_left h32, if_false, if_true]
      rfl

theorem vshrink_changes : Changes .vshrink .vshrink (fun c => ¬ c.fixedBudget ∧ c.aLevel ≠ 0 ∧ c.aLevel.toNat < c.g.budget) (fun c =>
    { c.popped .vshrink with
      budget := c.g.budget - c.aLevel.toNat
      v := Vector.ofFn fun k => if 8 * (c.g.budget - c.aLevel.toNat) ≤ k.val then Vector.replicate 32 0 else c.g.v[k] }) := by
  have h := changes_of (op := .vshrink) (row := .vshrink) (p := fun c => ¬ c.fixedBudget ∧ c.aLevel ≠ 0 ∧ c.aLevel.toNat < c.g.budget)
    (F := fun c g => { g.clearAbove (g.budget - c.aLevel.toNat) with budget := g.budget - c.aLevel.toNat }) (fun _ _ => rfl) (by
      rintro c ⟨hfix, h0, hb⟩
      rw [← budgetFixed_iff] at hfix
      simp only [hfix, level_ne_zero h0, Nat.not_le.mpr hb, if_false, Bool.false_eq_true])
  have hv : ∀ c : Ctx, (c.popped .vshrink).v = c.g.v := fun c => by rw [c.popped_eq]
  simpa only [Group.clearAbove, popped_budget, hv] using h

theorem vshrink_raises : Raises .vshrink false .vshrink (fun c => c.fixedBudget ∨ c.aLevel ≠ 0 ∧ c.g.budget ≤ c.aLevel.toNat) 0x02 0
    (fun _ => 0) (fun _ => 0) := by
  refine raises_of (fun _ _ => rfl) fun c h => ?_
  by_cases hfix : c.budgetFixed = true
  · simp only [hfix, if_true]
    rfl
  · rw [budgetFixed_iff] at hfix
    obtain ⟨h0, hb⟩ := h.resolve_left hfix
    rw [← budgetFixed_iff] at hfix
    simp only [hfix, level_ne_zero h0, hb, if_false, if_true, Bool.false_eq_true]
    rfl

theorem vgrow_zero : Changes .vgrow .vgrow (fun c => ¬ c.fixedBudget ∧ c.aLevel = 0) (fun c => c.popped .vgrow) := by
  refine nothing_of (fun _ _ => rfl) ?_
  rintro c ⟨hfix, h0⟩
  rw [← budgetFixed_iff] at hfix
  have hzero : c.aLevel.toNat = 0 := by rw [h0]; rfl
  simp only [hfix, hzero, if_true, if_false, Bool.false_eq_true]

theorem vshrink_zero : Changes .vshrink .vshrink (fun c => ¬ c.fixedBudget ∧ c.aLevel = 0) (fun c => c.popped .vshrink) := by
  refine nothing_of (fun _ _ => rfl) ?_
  rintro c ⟨hfix, h0⟩
  rw [← budgetFixed_iff] at hfix
  have hzero : c.aLevel.toNat = 0 := by rw [h0]; rfl
  simp only [hfix, hzero, if_true, if_false, Bool.false_eq_true]

/-- Settles O19: each row by the branches of its meaning, and a request by the other groups of the core. -/
theorem registerBudgets : Obligations.RegisterBudgets :=
  ⟨vgrow_zero, vgrow_changes, vgrow_holds, vgrow_raises, vshrink_zero, vshrink_changes, vshrink_raises⟩

end Sys2Proof.Machine.Control
end

section
/-! PROOF. The entry of a trap that an instruction raises by itself (spec 08 R202, spec 12 R289, spec 18 R347). -/

namespace Sys2Proof.Machine.Control

open Storage

set_option Elab.async false

/-- The entry leaves of a group what `Entered` says; the times of the issue and of the entry stand beside it. -/
theorem entered_enter (g : Group) (mode : Mode) (x : TrapInfo) (handler : DWord) (n : Nat) (was : Bool) (now : Nat) :
    Entered g (((g.passed n).enter mode x handler).roused was now) mode x handler := by
  have hgang : (g.passed n).gangMask = g.gangMask := rfl
  refine ⟨rfl, rfl, rfl, rfl, fun i hi => ⟨?_, fun he => ?_⟩, fun i hi => ?_, fun i he => ?_, fun i hi hg => ?_, ?_, ?_⟩
  · simp [Group.roused, Group.enter, hi]
  · rw [Fin.getElem_fin] at he
    simp [Group.roused, Group.enter, Group.passed, hi, he]
  · simp [Group.roused, Group.enter, Group.passed, hi]
  · rw [Fin.getElem_fin] at he
    simp [Group.roused, Group.enter, Group.passed, he]
  · have hrest : (g.gangMask &&& x.mask != 0) = false := by simp [hg]
    have hstatus : (g.passed n).status = g.status := rfl
    by_cases he : g.status[i.val] = .exited
    · simp [Group.roused, Group.enter, hstatus, he]
    · simp only [Group.roused, Group.enter, hgang, hstatus, Fin.getElem_fin, Vector.getElem_ofFn, hi, hrest, beq_iff_eq, he, Bool.and_false,
        Bool.or_self, if_false, Bool.false_eq_true]
  · simp only [Group.roused, Group.enter, Group.passed]
  · simp only [Group.roused, Group.enter, Group.dropClaims, Group.passed]

/-- A group that waits for nothing takes its trap at once, in the handler of its address space (R346, R347). -/
theorem raise_enters {s : State} {r : GRef} {g : Group} {t : Team} {x : TrapInfo} (hg : s.group? r = some g)
    (ht : s.team? r.die r.core g.team = some t) (hhold : g.hold = none) (hmode : g.mode = .user) (howes : s.owes r g = false)
    (hpend : g.pendingTrap = none) (hh : s.handler t.asid ≠ 0) (hgang : g.gangMask = 0) (hx : x.cause ≠ 0x21)
    (hb : x.cause = 0x0C → s.dies[r.die].dbgen = false) :
    s.raise r x = s.setGroup r ((g.enter .trap x (s.handler t.asid)).roused (s.eligible r) s.now) := by
  have hcause : (x.cause == 0x21) = false := beq_eq_false_iff_ne.mpr hx
  have hfault : s.faulted r x = s := by simp only [State.faulted, hcause, Bool.false_and, Bool.false_eq_true, if_false]
  have hwalk : x.rewalks = false := by simp only [TrapInfo.rewalks, hcause, Bool.false_and]
  have hbreak : (x.cause == 0x0C && s.dies[r.die].dbgen) = false := by
    by_cases h : x.cause = 0x0C
    · rw [hb h, Bool.and_false]
    · rw [beq_eq_false_iff_ne.mpr h, Bool.false_and]
  have hstay : s.leaveLatch r g x.mask = s := by simp [State.leaveLatch, hhold, hgang]
  have htake : s.takeTrap r x = s.toHandler r g t x := by
    have hfw : (g.mode == Mode.firmware) = false := by rw [hmode]; rfl
    simp only [State.takeTrap, hg, ht, hfw, hwalk, hbreak, Bool.false_and, Bool.false_eq_true, if_false]
  have hto : s.toHandler r g t x = s.rouse r (fun _ => g.enter .trap x (s.handler t.asid)) := by
    have huser : (g.mode != Mode.user || s.handler t.asid == 0) = false := by
      rw [hmode, beq_eq_false_iff_ne.mpr hh]
      rfl
    simp only [State.toHandler, huser, hstay, Bool.false_eq_true, if_false]
  simp only [State.raise, hfault, hg, howes, hpend, Bool.not_false, Option.isNone_none, Bool.and_self, if_true]
  rw [htake, hto, State.rouse, hg]

/-- A trap that an instruction raises by itself, in user mode with nothing of the group outstanding: the issue is counted and the group enters the
handler. -/
theorem charged_raise_enters {f : Fields} {s : State} {c : Ctx} {x : TrapInfo} (hc : s.ctx? f = some c) (hhold : c.g.hold = none)
    (hmode : c.g.mode = .user) (howes : s.owes c.r c.g = false) (hpend : c.g.pendingTrap = none) (hh : s.handler c.t.asid ≠ 0)
    (hgang : c.g.gangMask = 0) (hx : x.cause ≠ 0x21) (hb : x.cause = 0x0C → s.dies[c.r.die].dbgen = false) :
    ∃ g, (c.charged s).raise c.r x = c.after g ∧ Entered c.g g .trap x (s.handler c.t.asid) := by
  obtain ⟨-, hg, ht, -, h0, -⟩ := State.ctx?_spec hc
  have hcharged : c.charged s = (s.count c.r.die 0 1).setGroup c.r (c.g.passed s.now) := by
    have hg' : (s.count c.r.die 0 1).group? c.r = some c.g := by rw [State.group?_count, hg]
    have htimed : c.timed c.g = c.g.passed s.now := by simp only [Ctx.timed, hhold, Option.isSome_none, Bool.false_eq_true, if_false, h0]
    simp only [Ctx.charged, Ctx.counted, hhold, Option.isSome_none, Bool.false_eq_true, if_false]
    rw [State.modGroup_some _ _ _ _ hg', htimed]
  have hafter : ∀ g, c.after g = (s.count c.r.die 0 1).setGroup c.r g := fun g => by
    simp only [Ctx.after, Ctx.counted, hhold, Option.isSome_none, Bool.false_eq_true, if_false, h0, State.count_setGroup]
  have hteam : ∀ uid, ((s.count c.r.die 0 1).setGroup c.r (c.g.passed s.now)).team? c.r.die c.r.core uid = s.team? c.r.die c.r.core uid :=
    fun uid => by rw [State.team?_setGroup, State.team?, State.core_count, State.team?]
  have howes' : ((s.count c.r.die 0 1).setGroup c.r (c.g.passed s.now)).owes c.r (c.g.passed s.now) = false := by
    simp only [State.owes, hteam]
    exact howes
  have hdbg : ((s.count c.r.die 0 1).setGroup c.r (c.g.passed s.now)).dies[c.r.die].dbgen = s.dies[c.r.die].dbgen := by
    simp [State.setGroup, State.modCore, State.count]
  rw [hcharged, raise_enters (State.group?_setGroup_same ..) ((hteam _).trans ht) hhold hmode howes' hpend hh hgang hx fun h => hdbg.trans (hb h),
    State.setGroup_setGroup]
  exact ⟨_, (hafter _).symm, entered_enter ..⟩

/-- TRMASK of a trap of an issue that has members (R289). -/
theorem trmask_members {c : Ctx} (h : c.m ≠ 0) : c.trmask = c.m := if_neg (by simpa using h)

/-- Settles O18: both rows raise their trap, and the group waits for nothing. -/
theorem softwareTrapEntry : Obligations.SoftwareTrapEntry := by
  constructor
  · intro f s c hr hhold hmode howes hpend hh hgang
    have hm : c.trmask = c.m := trmask_members (hr.member rfl)
    obtain ⟨h0, hf⟩ := ready_eqs hr
    obtain ⟨g, hg, he⟩ := charged_raise_enters (x := c.info 0x0B 0 0 ((c.g.read32 c.f c.f.sa 0) &&& 0xFFFF)) hr.issuing hhold hmode howes hpend
      hh hgang (by simp [Ctx.info]) (by simp [Ctx.info])
    refine ⟨g, ?_, ?_⟩
    · have hx : exec (.trap f) s = .next (c.settle (.trap c.s0 (c.info 0x0B 0 0 ((c.g.read32 c.f c.f.sa 0) &&& 0xFFFF)))) := issue_ends hr rfl
      rw [hx, ← hg, ← h0]
      rfl
    · simpa only [Ctx.info, hm, hf] using he
  · intro f s c hr hhold hmode howes hpend hh hgang hdbg
    have hm : c.trmask = c.m := trmask_members (hr.member rfl)
    obtain ⟨g, hg, he⟩ := charged_raise_enters (x := c.info 0x0C 0 0 0) hr.issuing hhold hmode howes hpend hh hgang (by simp [Ctx.info])
      fun _ => hdbg
    have hx : exec (.brkpt f) s = .next ((c.charged s).raise c.r (c.info 0x0C 0 0 0)) := issue_traps hr rfl
    refine ⟨g, hx.trans (congrArg _ hg), ?_⟩
    simpa only [Ctx.info, hm] using he

end Sys2Proof.Machine.Control
end

section
/-! PROOF. A barrier register written, and the lanes that its phase releases (spec 08 R206, R207). -/

namespace Sys2Proof.Machine.Control

open Storage

set_option Elab.async false

/-- The lanes that wait at a register go on when its phase is another, once and for all. -/
theorem releaseBar_status {g : Group} {i : Lane} {b : Fin 16} {ph : BitVec 16} (bars : Vector Barrier 16)
    (h : g.status[i] = .barHold b ph ∨ (bars[b].phase ≠ ph ∧ g.status[i] = .run)) :
    (g.releaseBar bars).status[i] = if bars[b].phase = ph then .barHold b ph else .run := by
  rw [Fin.getElem_fin] at h ⊢
  simp only [Group.releaseBar, Group.mapStatus, Vector.getElem_ofFn, Fin.getElem_fin]
  rcases h with h | ⟨hp, h⟩
  · rw [h]
    simp
  · rw [h]
    simpa using hp

/-- The group once the registers of its team have been seen, or not yet: its lanes stand where they stood, and a lane that waited for a phase is
released if that has passed. -/
structure Seen (bars : Vector Barrier 16) (i : Lane) (b : Fin 16) (ph : BitVec 16) (done : Prop) (g h : Group) : Prop where
  v : h.v = g.v
  pcs : h.pcs = g.pcs
  before : ¬ done → h.status[i] = .barHold b ph
  after : done → h.status[i] = if bars[b].phase = ph then .barHold b ph else .run

theorem Seen.release {bars : Vector Barrier 16} {i : Lane} {b : Fin 16} {ph : BitVec 16} {done : Prop} {g h : Group}
    (w : Seen bars i b ph done g h) (was : Bool) (now : Nat) : Seen bars i b ph True g ((h.releaseBar bars).roused was now) where
  v := by simpa only [Group.roused, Group.releaseBar, Group.mapStatus] using w.v
  pcs := by simpa only [Group.roused, Group.releaseBar, Group.mapStatus] using w.pcs
  before hn := absurd trivial hn
  after _ := releaseBar_status (g := h) bars (by
    by_cases hd : done
    · have := w.after hd
      by_cases hp : bars[b].phase = ph <;> simp_all
    · exact .inl (w.before hd))

/-- The groups of a list roused in turn, a group among them or not. -/
theorem foldl_rouse_seen {bars : Vector Barrier 16} {r : GRef} {g : Group} {i : Lane} {b : Fin 16} {ph : BitVec 16} (gs : List (GRef × Group))
    {u : State} {h : Group} {done : Prop} (hu : u.group? r = some h) (w : Seen bars i b ph done g h) :
    ∃ h', (gs.foldl (fun u p => u.rouse p.1 (fun g => g.releaseBar bars)) u).group? r = some h' ∧
      Seen bars i b ph (done ∨ ∃ p ∈ gs, p.1 = r) g h' := by
  induction gs generalizing u h done with
  | nil => exact ⟨h, hu, by simpa using w⟩
  | cons p gs ih =>
    rw [List.foldl_cons]
    by_cases hp : p.1 = r
    · have hroused : (u.rouse p.1 (fun g => g.releaseBar bars)).group? r = some ((h.releaseBar bars).roused (u.eligible r) u.now) := by
        rw [hp, State.rouse, hu]
        exact State.group?_setGroup_same ..
      obtain ⟨h', hh, w'⟩ := ih hroused (w.release (u.eligible r) u.now)
      exact ⟨h', hh, by simpa [hp] using w'⟩
    · have hkept : (u.rouse p.1 (fun g => g.releaseBar bars)).group? r = some h := by
        unfold State.rouse
        split
        · exact hu
        · rw [State.group?_setGroup_other _ _ _ _ hp]
          exact hu
      obtain ⟨h', hh, w'⟩ := ih hkept w
      exact ⟨h', hh, by simpa [hp] using w'⟩

/-- A change of a resident team leaves the groups. -/
theorem group?_modTeam {s : State} {d : DieId} {c : CoreId} {t : Team} (h : s.team? d c t.uid = some t) (f : Team → Team) (i : SlotId) :
    (s.modTeam d c t.uid f).group? ⟨d, c, i⟩ = s.group? ⟨d, c, i⟩ := by
  rw [State.modTeam, h, Option.isSome_some, if_pos rfl]
  exact group?_modCore (r := ⟨d, c, i⟩) fun _ => rfl

/-- A barrier register of a team that is in no halo chain written: the groups of the team are roused. -/
theorem putBar_rouses {s : State} {d : DieId} {c : CoreId} {t : Team} (h : s.team? d c t.uid = some t) (hh : t.desc.halo = false) (b : Fin 16)
    (x : Barrier) :
    s.putBar d c t b x = (s.groupsOf d c t).foldl (fun u p => u.rouse p.1 (fun g => g.releaseBar (t.barriers.set b x)))
      (s.modTeam d c t.uid (fun t => { t with barriers := t.barriers.set b x })) := by
  obtain ⟨hteam, -⟩ := modTeam_resident h (fun t => { t with barriers := t.barriers.set b x }) (fun _ => rfl) d
  have hgroups : (s.modTeam d c t.uid (fun t => { t with barriers := t.barriers.set b x })).groupsOf d c
      { t with barriers := t.barriers.set b x } = s.groupsOf d c t := by
    simp only [State.groupsOf, group?_modTeam h]
  rw [putBar_plain hh, State.putBarOne]
  simp only [hteam, hgroups, hh, Bool.false_and, Bool.false_eq_true, if_false]

/-- A group of a team stands where its reference says. -/
theorem group?_of_groupsOf {s : State} {d : DieId} {c : CoreId} {t : Team} {r : GRef} {g : Group} (h : (r, g) ∈ s.groupsOf d c t) :
    (∃ i, r = ⟨d, c, i⟩) ∧ s.group? r = some g := by
  obtain ⟨i, -, hi⟩ := List.mem_filterMap.mp h
  split at hi
  · rename_i g' hg
    split at hi
    · cases hi
      exact ⟨⟨i, rfl⟩, hg⟩
    · cases hi
  · cases hi

/-- Settles O21: the write rouses the groups of the team, this one among them. -/
theorem barrierRelease : Obligations.BarrierRelease := by
  intro s d k t b x r g i ph ht hh hmem hst
  obtain ⟨⟨j, rfl⟩, hg⟩ := group?_of_groupsOf hmem
  have hput := (putBarOne_resident ht hh b x d).1
  rw [← putBar_plain hh] at hput
  have hstart : (s.modTeam d k t.uid (fun t => { t with barriers := t.barriers.set b x })).group? ⟨d, k, j⟩ = some g :=
    (group?_modTeam ht _ j).trans hg
  obtain ⟨g', hg', w⟩ := foldl_rouse_seen (bars := t.barriers.set b x) (s.groupsOf d k t) hstart
    (⟨rfl, rfl, fun _ => hst, False.elim⟩ : Seen _ i b ph False g g)
  have hseen := w.after (.inr ⟨_, hmem, rfl⟩)
  refine ⟨_, g', hput, by simp, ?_, by simpa using hseen, w.v, w.pcs⟩
  rw [putBar_rouses ht hh]
  exact hg'

end Sys2Proof.Machine.Control
end

section
/-! PROOF. Work that an issue queues: a fork, and a bank operation that the sequencer accepts (spec 04 R115, spec 08 R206, spec 09 R235, spec 10
R260, R265). -/

namespace Sys2Proof.Machine.Storage

set_option Elab.async false

/-! ## A release changes no operation of a die and no team -/

@[simp] theorem unitsOf_modGroup (s : State) (r : GRef) (f : Group → Group) : unitsOf (s.modGroup r f) = unitsOf s := by
  unfold State.modGroup; split
  · exact unitsOf_setGroup s _ _
  · rfl

@[simp] theorem unitsOf_count (s : State) (d : DieId) (i : Fin 9) (n : Nat) : unitsOf (s.count d i n) = unitsOf s :=
  unitsOf_modDie s d _ fun _ => ⟨rfl, rfl⟩

@[simp] theorem unitsOf_clearPoison (s : State) (a n : Nat) : unitsOf (s.clearPoison a n) = unitsOf s :=
  unitsOf_congr rfl

@[simp] theorem unitsOf_l2TakeAll (s : State) (d : DieId) (lines : List Nat) : unitsOf (s.l2TakeAll d lines) = unitsOf s :=
  unitsOf_foldl lines _ s fun t l => unitsOf_l2Take t d l

@[simp] theorem unitsOf_writeDie (s : State) (d : DieId) (a : Nat) (bs : List Byte) : unitsOf (s.writeDie d a bs) = unitsOf s := by
  unfold State.writeDie
  rw [unitsOf_modDie, unitsOf_l2TakeAll, unitsOf_clearPoison]
  exact fun _ => ⟨rfl, rfl⟩

@[simp] theorem unitsOf_performStore (s : State) (d : DieId) (c : CoreId) (x : PendingStore) : unitsOf (s.performStore d c x) = unitsOf s := by
  have hcore : ∀ t : State, unitsOf ((t.writeAt d c .core x.pa x.bytes).modCore d c (fun k => k.recordCore (x.pa / 128))) = unitsOf t :=
    fun t => by
      rw [unitsOf_modCore, State.writeAt, unitsOf_modCore, unitsOf_clearPoison]
      · exact fun _ => rfl
      · exact fun _ => rfl
  unfold State.performStore
  simp only
  split
  · exact hcore s
  · split
    · rw [hcore]
      split
      · rfl
      · exact unitsOf_foldl _ _ s fun t sec => unitsOf_fillSector t d c sec
    · rw [State.writeAt, unitsOf_modCore, unitsOf_writeDie]
      · exact unitsOf_l1WriteBack ..
      · exact fun _ => rfl

@[simp] theorem unitsOf_performStores (s : State) (d : DieId) (c : CoreId) (p : PendingStore → Bool) :
    unitsOf (s.performStores d c p) = unitsOf s := by
  unfold State.performStores
  split
  · rfl
  · rw [unitsOf_foldl _ _ _ fun t x => unitsOf_performStore t d c x]
    exact unitsOf_modCore s d c _ fun _ => rfl

@[simp] theorem unitsOf_evictLine (s : State) (d : DieId) (c : CoreId) (x : L1Line) (e : SlotId) : unitsOf (s.evictLine d c x e) = unitsOf s := by
  rw [State.evictLine, unitsOf_modCore, unitsOf_l1WriteBack]
  exact fun _ => rfl

@[simp] theorem unitsOf_l1Miss (s : State) (r : GRef) (line : Nat) : unitsOf (s.l1Miss r line) = unitsOf s := by
  have hmiss : unitsOf ((s.count r.die 3 1).modCore r.die r.core (fun k =>
      { k with adm := { k.adm with misses := k.adm.misses + 1 }, victims := k.victims.filter (fun v => v.line != line) })) = unitsOf s := by
    rw [unitsOf_modCore, unitsOf_count]
    exact fun _ => rfl
  unfold State.l1Miss
  simp only
  split
  · split
    · rw [unitsOf_modGroup, unitsOf_count, hmiss]
    · rw [unitsOf_modCore, unitsOf_count, hmiss]
      exact fun _ => rfl
  · exact hmiss

@[simp] theorem unitsOf_l1Access (s : State) (r : GRef) (line : Nat) (bytes : List Nat) (store : Bool) (hint : BitVec 2)
    (wrote : Option Nat) (lease miss : Bool) : unitsOf (s.l1Access r line bytes store hint wrote lease miss) = unitsOf s := by
  have hleased : unitsOf (if lease then s.modGroup r (fun g => { g with lease := g.lease.access line }) else s) = unitsOf s := by
    split
    · exact unitsOf_modGroup ..
    · rfl
  have hmissed : ∀ (b : Bool) (t : State), unitsOf (if b then t else t.l1Miss r line) = unitsOf t := fun b t => by
    split
    · rfl
    · exact unitsOf_l1Miss ..
  have hfilled : ∀ (secs : List Nat) (t : State), unitsOf (secs.foldl (fun t c => t.fillSector r.die r.core c) t) = unitsOf t := fun secs t =>
    unitsOf_foldl secs _ t fun t sec => unitsOf_fillSector t _ _ sec
  have hevicted : ∀ (x : Option L1Line) (t : State),
      unitsOf (match x with | some v => t.evictLine r.die r.core v r.slot | none => t) = unitsOf t := fun x t => by cases x <;> simp
  unfold State.l1Access
  rw [← hleased]
  generalize (if lease then s.modGroup r (fun g => { g with lease := g.lease.access line }) else s) = t
  simp only
  split
  · exact hmissed _ t
  · rw [unitsOf_modCore, hfilled]
    · exact (hevicted _ _).trans (hmissed _ t)
    · exact fun _ => rfl

@[simp] theorem unitsOf_readNow (s : State) (r : GRef) (x : LoadSpec) (m : Mask) : unitsOf (s.readNow r x m).s = unitsOf s := by
  have hhome : ∀ (t : State) (p : ReadPlace), unitsOf (t.lineHome r.die r.core p.pa) = unitsOf t := fun t p =>
    (unitsOf_l2WriteBack ..).trans (unitsOf_l1WriteBack ..)
  exact (unitsOf_foldl _ _ _ fun t line => unitsOf_l1Access t r line _ _ _ _ _ _).trans
    ((unitsOf_foldl _ _ _ hhome).trans (unitsOf_performStores ..))

@[simp] theorem unitsOf_readFlight (s : State) (r : GRef) (x : Flight) : unitsOf (s.readFlight r x) = unitsOf s := by
  unfold State.readFlight
  split
  · rfl
  · rw [unitsOf_modGroup, unitsOf_readNow]

@[simp] theorem unitsOf_readLate (s : State) (r : GRef) (p : Flight → Bool) : unitsOf (s.readLate r p) = unitsOf s := by
  unfold State.readLate
  split
  · rfl
  · exact unitsOf_foldl _ _ s fun t x => unitsOf_readFlight t r x

@[simp] theorem unitsOf_releaseTo (s : State) (d : DieId) (c : CoreId) (lvl : Level) : unitsOf (s.releaseTo d c lvl) = unitsOf s := by
  cases lvl with
  | core => exact unitsOf_performStores ..
  | die => exact (unitsOf_l1WriteBack ..).trans (unitsOf_performStores ..)
  | home => exact (unitsOf_l2WriteBack ..).trans ((unitsOf_l1WriteBack ..).trans (unitsOf_performStores ..))

@[simp] theorem unitsOf_releaseBy (s : State) (r : GRef) (lvl : Level) : unitsOf (s.releaseBy r lvl) = unitsOf s :=
  (unitsOf_releaseTo ..).trans (unitsOf_readLate ..)

/-! ## A fork (R115, R206, R235) -/

/-- An operation put at the end of a die's queue. -/
theorem queued_last (u : State) (n : Nat) (d : DieId) (e : EngineOp) (c : CoreId) (uid : Nat) :
    (State.modDie { u with uid := n } d (fun x => { x with engines := x.engines ++ [e] })).team? d c uid = u.team? d c uid ∧
    (State.modDie { u with uid := n } d (fun x => { x with engines := x.engines ++ [e] })).dies[d.val].engines =
      u.dies[d.val].engines ++ [e] := by
  constructor
  · rw [State.team?, State.core_modDie _ _ _ _ _ (by rfl)]
    rfl
  · rw [State.modDie_same]

/-- The operation that a fork queues (R235). -/
def forked (c : Ctx) (u : State) (b : Fin 16) (kind : EngKind) (src dst : DWord) (len : Nat) : EngineOp :=
  { c.engineOp u kind (.bar b) src dst len with id := c.s.uid }

/-- A fork puts its operation at the end, once the register is written. -/
theorem fork_last {c : Ctx} {lvl : Level} {b : Fin 16} {kind : EngKind} {src dst : DWord} {len : Nat} {u : State}
    (hu : (c.s.releaseBy c.r lvl).putBar c.r.die c.r.core c.t b { c.t.barriers[b] with pend := c.t.barriers[b].pend + 1 } = u) :
    c.fork lvl b kind src dst len = State.modDie { u with uid := u.uid + 1 } c.r.die
      (fun x => { x with engines := x.engines ++ [forked c u b kind src dst len] }) := by
  subst hu
  rfl

/-- A fork under a register of a team that is in no halo chain. -/
theorem fork_queues {c : Ctx} {f : Fields} {s : State} (op : Op) (lvl : Level) (b : Fin 16) (kind : EngKind) (src dst : DWord) (len : Nat)
    (hc : s.ctx? f = some c) (hh : c.t.desc.halo = false) :
    ∃ t x, ((c.go op).fork lvl b kind src dst len).team? c.r.die c.r.core c.t.uid = some t ∧
      t.barriers[b] = { c.t.barriers[b] with pend := c.t.barriers[b].pend + 1 } ∧
      ((c.go op).fork lvl b kind src dst len).dies[c.r.die].engines = s.dies[c.r.die].engines ++ [x] ∧
      x.kind = kind ∧ x.completion = .bar b ∧ x.src = src ∧ x.dst = dst ∧ x.len = len ∧ x.id = s.uid ∧ x.team = c.t.uid := by
  obtain ⟨-, -, ht, -, h0, -⟩ := State.ctx?_spec hc
  have hunits : unitsOf ((c.go op).s.releaseBy c.r lvl) = unitsOf s := by rw [unitsOf_releaseBy, Ctx.go_state, unitsOf_setGroup, h0]
  have hteam : ((c.go op).s.releaseBy c.r lvl).team? c.r.die c.r.core c.t.uid = some c.t := by
    rw [team?_units hunits, team?_uid ht, ht]
  obtain ⟨hput, heng⟩ := putBarOne_resident hteam hh b { c.t.barriers[b] with pend := c.t.barriers[b].pend + 1 } c.r.die
  rw [← putBar_plain hh] at hput heng
  obtain ⟨u, hu⟩ : ∃ u, ((c.go op).s.releaseBy c.r lvl).putBar c.r.die c.r.core c.t b
    { c.t.barriers[b] with pend := c.t.barriers[b].pend + 1 } = u := ⟨_, rfl⟩
  rw [hu] at hput heng
  rw [fork_last (c := c.go op) hu]
  obtain ⟨hlast, hqueue⟩ := queued_last u (u.uid + 1) c.r.die (forked (c.go op) u b kind src dst len) c.r.core c.t.uid
  refine ⟨_, forked (c.go op) u b kind src dst len, hlast.trans hput, by simp, hqueue.trans ?_, rfl, rfl, rfl, rfl, rfl, ?_, rfl⟩
  · rw [heng, engines_units hunits c.r.die]
    rfl
  · show (c.go op).s.uid = s.uid
    rw [Ctx.go_state, State.setGroup_uid, h0]

/-! ## A bank operation accepted (R260, R265) -/

/-- The format that an operation leaves in the banks of its chain changes neither the bank order nor what the banks hold. -/
structure SameContents (k l : Core) : Prop where
  seq : l.seq = k.seq
  acc : ∀ b : Fin 64, l.banks[b].acc = k.banks[b].acc
  mem : ∀ b : Fin 64, l.banks[b].mem = k.banks[b].mem

theorem sameContents_modBank (k : Core) (a : Fin 64) (f : Bank → Bank) (hf : ∀ x, (f x).acc = x.acc ∧ (f x).mem = x.mem) :
    SameContents k (k.modBank a f) := by
  have hbank : ∀ b : Fin 64, (k.modBank a f).banks[b] = if a = b then f k.banks[a] else k.banks[b] := fun b => by
    simp [Core.modBank, Vector.getElem_set, Fin.ext_iff]
  refine ⟨rfl, fun b => ?_, fun b => ?_⟩ <;>
  · rw [hbank]
    split
    · next h => subst h; simp [hf]
    · rfl

theorem sameContents_noteFormat (op : BankOp) (k : Core) : SameContents k (op.noteFormat k) := by
  unfold BankOp.noteFormat
  generalize op.entry.chain = bs
  induction bs generalizing k with
  | nil => exact ⟨rfl, fun _ => rfl, fun _ => rfl⟩
  | cons a bs ih =>
    have hone := sameContents_modBank k a (fun x => { x with lastI8 := op.entry.i8 }) fun _ => ⟨rfl, rfl⟩
    have hrest := ih (k.modBank a (fun x => { x with lastI8 := op.entry.i8 }))
    exact ⟨hrest.seq.trans hone.seq, fun b => (hrest.acc b).trans (hone.acc b), fun b => (hrest.mem b).trans (hone.mem b)⟩

theorem core_acceptMac (s : State) (d : DieId) (c : CoreId) (op : BankOp) : (s.acceptMac d c op).core d c =
    op.noteFormat { s.core d c with seq := (s.core d c).seq ++ [seqItem s.uid (.mac op)] } := State.core_modCore_same ..

/-- Settles O36: the release leaves the units of the die, the fork adds its own, and an accepted operation takes the last place. -/
theorem queuedWork : Obligations.QueuedWork := by
  refine ⟨fun c f s op lvl b kind src dst len => fork_queues op lvl b kind src dst len, fun s d c op => ?_⟩
  have hsame := sameContents_noteFormat op { s.core d c with seq := (s.core d c).seq ++ [seqItem s.uid (.mac op)] }
  rw [core_acceptMac]
  exact ⟨hsame.seq, rfl, fun b => ⟨hsame.acc b, hsame.mem b⟩, rfl⟩

end Sys2Proof.Machine.Storage
end

section
/-! PROOF. Fences and supersteps, and the rows that create work (spec 01 R24 to R28, spec 04 R112, spec 08 R210 to R216). -/

namespace Sys2Proof.Machine.Control

open Storage

set_option Elab.async false

/-! ## Fences and supersteps (R112, R210, R211) -/

theorem fence_within {c : Ctx} (sc : Bool) (h : scopeLevel (c.f.md.toNat % 8) = .core) : c.fence sc = .done (c.s.releaseBy c.r .core) .noResult := by
  simp only [Ctx.fence, Numbers.extractLsb'_low, Nat.reducePow, h, beq_self_eq_true, if_true]

theorem fence_beyond {c : Ctx} (sc : Bool) (h : scopeLevel (c.f.md.toNat % 8) ≠ .core) : c.fence sc =
    .holdWith (if sc then c.s.readLate c.r (fun _ => true)
      else (c.s.readLate c.r (fun _ => true)).acquireAt c.r.die c.r.core (scopeLevel (c.f.md.toNat % 8))) (.fence (c.f.md.toNat % 8) sc) := by
  have hb : (scopeLevel (c.f.md.toNat % 8) == .core) = false := by simpa using h
  simp only [Ctx.fence, Numbers.extractLsb'_low, Nat.reducePow, hb, Bool.false_eq_true, if_false]

theorem fence_ends {op : Op} {row : Fields → Instr} {sc : Bool} (hx : ∀ f s, exec (row f) s = issue op f s fun c => c.fence sc) :
    Ends op row (fun c => scopeLevel (c.f.md.toNat % 8) = .core) (fun c => .done (c.s.releaseBy c.r .core) .noResult) :=
  ends_of hx fun _ h => fence_within sc h

/-- The group with its members held until the superstep completes (R211). -/
def stepHeld (c : Ctx) (g : Group) : Group :=
  { g.advance c.run c.next with status := updLanes (g.advance c.run c.next).status c.m (fun _ => .sstepHold) }

theorem sstep_places : Places .sstep false .sstep (fun c => c.t.inRange = true ∧ c.t.packed = false) (fun c =>
    { c.popped .sstep with
      pcs := updLanes c.g.pcs c.run (fun _ => c.next)
      status := updLanes c.g.status c.m (fun _ => .sstepHold) }) (fun _ => .noResult) := by
  have h : Places .sstep false .sstep (fun c => c.t.inRange = true ∧ c.t.packed = false) (fun c => stepHeld c (c.popped .sstep))
      (fun _ => .noResult) := by
    refine places_of (F := stepHeld) (fun _ _ => rfl) ?_
    rintro c ⟨hi, hp⟩
    simp only [hi, hp, Bool.not_true, Bool.or_self, Bool.false_eq_true, if_false]
    rfl
  intro f s c hr hc
  rw [h f s c hr hc]
  simp only [stepHeld, Group.advance, popped_pcs, popped_status]

theorem sstep_raises : Raises .sstep false .sstep (fun c => c.t.inRange = false ∨ c.t.packed = true) 0x02 0 (fun _ => 0) (fun _ => 0) := by
  refine raises_of (fun _ _ => rfl) fun c h => ?_
  have hbad : (!c.t.inRange || c.t.packed) = true := by rcases h with h | h <;> simp [h]
  simp only [hbad, if_true]
  rfl

/-- Settles O22: each fence by its scope, and `sstep` by the team. -/
theorem fencesAndSupersteps : Obligations.FencesAndSupersteps := by
  refine ⟨fun p hp => ?_, ends_of (fun _ _ => rfl) fun _ h => fence_beyond false h, ends_of (fun _ _ => rfl) fun _ h => fence_beyond true h,
    fun s r h => ⟨readLate_none _ h.2, releaseBy_none h⟩, sstep_places, sstep_raises⟩
  rcases List.mem_cons.mp hp with rfl | hp
  · exact fence_ends (sc := false) fun _ _ => rfl
  · obtain rfl := List.mem_singleton.mp hp
    exact fence_ends (sc := true) fun _ _ => rfl

/-! ## spawn (R213, R214) -/

theorem cacheEntry_uid (s : State) (d : DieId) (c : Option CoreId) (e : TlbEntry) : (s.cacheEntry d c e).uid = s.uid := by
  cases c <;> rfl

theorem noteWalk_uid (s : State) (d : DieId) (c : Option CoreId) (asid : BitVec 12) (va : DWord) : (s.noteWalk d c asid va).uid = s.uid := by
  unfold State.noteWalk
  cases s.lookup d c asid (va57 va) with
  | ok e => simp only [apply_ite State.uid, cacheEntry_uid, ite_self]
  | error e => simp only [ite_self]

/-- The team of one lane, with the context of Table K-51, at the end of the wait list. -/
theorem spawnOne_eq (s : State) (d : DieId) (asid : BitVec 12) (desc : Descriptor) (addr : DWord) (ix : Word) :
    s.spawnOne d asid desc addr ix = State.modDie { s.noteWalk d (some 0) asid addr with uid := s.uid + 1 } d (fun z => { z with
      waitList := z.waitList ++ [freshTeam s.uid asid desc addr (s.dies[d].disp.gridHi ++ s.dies[d].disp.gridLo) ix s.dies[d].disp.nteam
        (s.inLaunch d asid (s.dies[d].disp.gridHi ++ s.dies[d].disp.gridLo) addr ix.toNat) s.dies[d].disp.dieCnt.toNat] }) := by
  simp only [State.spawnOne, State.enterTeam, noteWalk_uid]

theorem spawn_ends (asid : BitVec 12) (xs : List (Lane × Descriptor)) : Ends .spawn .spawn
    (fun c => c.t.dispatcher = true ∧ c.s0.dies[c.r.die].disp.spasid = some asid ∧ c.descriptors asid = .ok xs ∧
      c.s0.dies[c.r.die].waitCount + xs.length ≤ 256)
    (fun c => .done (xs.foldl (fun u x =>
        let y := u.dies[c.r.die].disp
        { u.noteWalk c.r.die (some 0) asid (c.a64 x.1) with uid := u.uid + 1 }.modDie c.r.die (fun z => { z with waitList := z.waitList ++
          [freshTeam u.uid asid x.2 (c.a64 x.1) (y.gridHi ++ y.gridLo) (c.b32 x.1) y.nteam
            (u.inLaunch c.r.die asid (y.gridHi ++ y.gridLo) (c.a64 x.1) (c.b32 x.1).toNat) y.dieCnt.toNat] }))
        (c.s.releaseBy c.r .die)) .noResult) := by
  refine ends_of (fun _ _ => rfl) ?_
  rintro c ⟨hd, hs, hx, hroom⟩
  simp only [hd, hs, hx, Nat.not_lt.mpr hroom, Bool.not_true, Bool.false_eq_true, if_false, spawnOne_eq]

theorem spawn_holds (asid : BitVec 12) (xs : List (Lane × Descriptor)) : Holds .spawn .spawn
    (fun c => c.t.dispatcher = true ∧ c.s0.dies[c.r.die].disp.spasid = some asid ∧ c.descriptors asid = .ok xs ∧
      256 < c.s0.dies[c.r.die].waitCount + xs.length) (fun c => c.g) (fun _ => .spawn) := by
  refine holds_of (fun _ _ => rfl) ?_
  rintro c ⟨hd, hs, hx, hfull⟩
  simp only [hd, hs, hx, hfull, Bool.not_true, Bool.false_eq_true, if_false, if_true]

theorem spawn_role : Raises .spawn false .spawn (fun c => c.t.dispatcher = false) 0x04 0 (fun _ => 0) (fun _ => 0) := by
  refine raises_of (fun _ _ => rfl) fun c h => ?_
  simp only [h, Bool.not_false, if_true]

theorem spawn_noSpace : Raises .spawn false .spawn (fun c => c.t.dispatcher = true ∧ c.s0.dies[c.r.die].disp.spasid = none) 0x05 0
    (fun _ => 0) (fun _ => 0) := by
  refine raises_of (fun _ _ => rfl) ?_
  rintro c ⟨hd, hs⟩
  simp only [hd, hs, Bool.not_true, Bool.false_eq_true, if_false]

theorem spawn_badDescriptor (asid : BitVec 12) (e : DescFault) (f : Fields) (s : State) (c : Ctx) (hr : Ready .spawn false f s c)
    (hd : c.t.dispatcher = true) (hs : s.dies[c.r.die].disp.spasid = some asid) (he : c.descriptors asid = .error e) :
    exec (.spawn f) s = .next ((c.charged s).raise c.r { c.info e.cause e.detail e.addr 0 with space := some asid }) := by
  obtain ⟨h0, -⟩ := ready_eqs hr
  rw [← h0] at hs
  have hx : exec (.spawn f) s = .next (c.settle (.trap c.s0 { c.info e.cause e.detail e.addr 0 with space := some asid })) := issue_ends hr (by
    have hd' : (c.go .spawn).t.dispatcher = true := hd
    have hs' : (c.go .spawn).s0.dies[(c.go .spawn).r.die].disp.spasid = some asid := hs
    have he' : (c.go .spawn).descriptors asid = .error e := he
    simp only [hd', hs', he', Bool.not_true, Bool.false_eq_true, if_false]
    rfl)
  rw [hx, ← h0]
  rfl

/-! ## launch (R24, R215) -/

/-- Whether a `launch` of the core holds a place before this one's. -/
theorem launchesBefore_iff (c : Ctx) :
    (c.s0.launchPlaces c.r.die c.r.core).any (fun n => decide (n < c.launchPlace)) = true ↔ c.launchesBefore := by
  simp only [State.launchPlaces, List.any_eq_true, List.mem_filterMap, allSlots, List.mem_finRange, true_and, decide_eq_true_eq]
  constructor
  · rintro ⟨n, ⟨i, hi⟩, hn⟩
    cases hg : c.s0.group? ⟨c.r.die, c.r.core, i⟩ with
    | none => simp [hg] at hi
    | some g =>
      refine ⟨i, g, n, hg, ?_, hn⟩
      rw [hg, Option.bind_some] at hi
      split at hi
      · next h => rw [h, Option.some.inj hi]
      · cases hi
  · rintro ⟨i, g, n, hg, hh, hn⟩
    exact ⟨n, ⟨i, by simp [hg, hh]⟩, hn⟩

theorem launch_ends : Ends .launch .launch
    (fun c => (c.s0.core c.r.die c.r.core).children.length + (lanesOf c.m).length ≤ 4096 ∧ ¬ c.launchesBefore)
    (fun c => .done ((c.s.releaseBy c.r .core).modCore c.r.die c.r.core (fun k => { k with children := k.children ++ (lanesOf c.m).map (fun i =>
      ⟨c.pc + c.f.imm.signExtend 64, (List.range 4).map (fun j => (c.g.read128 c.f.sa i).extractLsb' (32 * j) 32), c.t.uid, c.t.asid,
        c.t.desc, c.t.grid, c.t.teamIx, c.t.nteam, c.s0.now, c.t.originAge⟩) })) .noResult) := by
  refine ends_of (fun _ _ => rfl) ?_
  rintro c ⟨hroom, hnone⟩
  rw [← launchesBefore_iff, Bool.not_eq_true] at hnone
  simp only [List.length_map, Nat.not_lt.mpr hroom, hnone, decide_false, Bool.or_self, Bool.false_eq_true, if_false]
  rfl

theorem launch_waits : Ends .launch .launch
    (fun c => 4096 < (c.s0.core c.r.die c.r.core).children.length + (lanesOf c.m).length ∨ c.launchesBefore)
    (fun c => .holdWith { c.s0 with uid := c.s0.uid + 1 } (.launch c.launchPlace)) := by
  refine ends_of (fun _ _ => rfl) fun c h => ?_
  simp only [List.length_map]
  refine if_pos ?_
  rw [Bool.or_eq_true, decide_eq_true_eq, launchesBefore_iff]
  exact h

theorem launchPlace_spec (c : Ctx) : (c.g.hold = none → c.launchPlace = c.s0.uid) ∧ ∀ n, c.g.hold = some (.launch n) → c.launchPlace = n :=
  ⟨fun h => by simp only [Ctx.launchPlace, h], fun n h => by simp only [Ctx.launchPlace, h]⟩

/-! ## reorder (R27, R216) -/

theorem reorder_ends : Ends .reorder .reorder
    (fun c => c.t.desc.nprod = 0 ∧ (c.t.label = none ∨ c.t.label = some (c.pc + c.f.imm.signExtend 64)))
    (fun c => Ctx.exitMembers { c with s := c.s.modTeam c.r.die c.r.core c.t.uid (fun t =>
      { t with
        label := some (c.pc + c.f.imm.signExtend 64)
        deposits := t.deposits ++ (lanesOf c.m).map (fun i => ⟨c.a32 i, c.depositWords i⟩) }) }) := by
  refine ends_of (fun _ _ => rfl) ?_
  rintro c ⟨hn, hl⟩
  have hok : ¬ (c.t.desc.nprod ≠ 0 ∨ (c.t.label.isSome ∧ c.t.label ≠ some c.label)) := by
    rintro (h | ⟨hsome, hne⟩)
    · exact h hn
    · rcases hl with hl | hl
      · rw [hl] at hsome; cases hsome
      · exact hne hl
  simp only [hok, if_false]
  rfl

theorem reorder_raises : Raises .reorder false .reorder
    (fun c => c.t.desc.nprod ≠ 0 ∨ ∃ l, c.t.label = some l ∧ l ≠ c.pc + c.f.imm.signExtend 64) 0x02 0 (fun _ => 0) (fun _ => 0) := by
  refine raises_of (fun _ _ => rfl) fun c h => ?_
  have hbad : c.t.desc.nprod ≠ 0 ∨ (c.t.label.isSome ∧ c.t.label ≠ some c.label) :=
    h.imp_right fun ⟨l, hl, hne⟩ => ⟨by rw [hl]; rfl, fun he => hne (Option.some.inj (hl.symm.trans he))⟩
  simp only [hbad, if_true]
  rfl

/-- Settles O23: each row by the branches of its meaning. -/
theorem workCreation : Obligations.WorkCreation :=
  ⟨spawn_ends, spawn_holds, spawn_role, spawn_noSpace, spawn_badDescriptor, fun _ _ _ _ h => if_pos h, launch_ends, launch_waits,
    launchPlace_spec, reorder_ends, reorder_raises⟩

end Sys2Proof.Machine.Control
end

section
/-! PROOF. The placement that `route` chooses, and the gang and lease registers (spec 08 R219 to R221). -/

namespace Sys2Proof.Machine.Control

open Storage

set_option Elab.async false

/-! ## route (R219) -/

/-- The choice of a lane: its source, or its number where the source is omitted. -/
theorem routeChoice_eq (c : Ctx) (i : Lane) :
    (c.orElse c.f.sb i (BitVec.ofNat 32 i.val)).toNat = if c.f.sb = .none then i.val else (c.b32 i).toNat := by
  unfold Ctx.orElse
  by_cases h : c.f.sb = .none
  · simp only [h, beq_self_eq_true, if_true, BitVec.toNat_ofNat]
    omega
  · have hb : (c.f.sb == .none) = false := by simpa using h
    simp only [hb, h, Bool.false_eq_true, if_false]
    rfl

theorem route_ends : Ends .route .route (fun c => ∀ i : Lane, inMask c.m i = true → (c.a32 i).toNat ≤ 4095)
    (fun c => Ctx.result64 { c with s := c.s.acquireAt c.r.die c.r.core .home } (fun i =>
      routeOf c.s0.dies[c.r.die].replicas (c.a32 i).toNat (if c.f.sb = .none then i.val else (c.b32 i).toNat))) := by
  refine ends_of (fun _ _ => rfl) fun c h => ?_
  have hok : (lanesOf c.m).any (fun i => decide (4095 < (c.a32 i).toNat)) = false := by
    rw [List.any_eq_false]
    exact fun i hi => by simpa using h i (mem_lanesOf.mp hi)
  simp only [hok, Bool.false_eq_true, if_false, routeChoice_eq]

theorem route_raises : Raises .route false .route (fun c => ∃ i : Lane, inMask c.m i = true ∧ 4095 < (c.a32 i).toNat) 0x02 0
    (fun _ => 0) (fun _ => 0) := by
  refine raises_of (fun _ _ => rfl) ?_
  rintro c ⟨i, hi, ha⟩
  have hbad : (lanesOf c.m).any (fun i => decide (4095 < (c.a32 i).toNat)) = true :=
    List.any_eq_true.mpr ⟨i, mem_lanesOf.mpr hi, decide_eq_true ha⟩
  simp only [hbad, if_true]
  rfl

theorem routeOf_none (t : ReplicaTable) (e b : Nat) (h : t.places e = []) : routeOf t e b = 0xFFFFFFFFFFFFFFFF := by
  simp only [routeOf, h, List.getElem?_nil]

theorem routeOf_fields (t : ReplicaTable) (e b : Nat) (p : Placement) (h : (t.places e)[b % (t.places e).length]? = some p)
    (hs : p.slot < 256) : ((routeOf t e b).extractLsb' 0 8).toNat = p.die.val ∧ ((routeOf t e b).extractLsb' 8 8).toNat = p.slot ∧
    (routeOf t e b).extractLsb' 16 16 = t.version := by
  have hword : routeOf t e b = BitVec.ofNat 32 (b % (t.places e).length) ++
      (t.version ++ BitVec.ofNat 8 p.slot ++ BitVec.ofNat 8 p.die.val : BitVec 32) := by simp only [routeOf, h]
  have hlow : ∀ (n len : Nat), n + len ≤ 32 → (routeOf t e b).extractLsb' n len =
      (t.version ++ BitVec.ofNat 8 p.slot ++ BitVec.ofNat 8 p.die.val : BitVec 32).extractLsb' n len := fun n len hn => by
    rw [hword, BitVec.extractLsb'_append_eq_of_add_le hn]
  have hup : ∀ len : Nat, ∀ n, (t.version ++ BitVec.ofNat 8 p.slot ++ BitVec.ofNat 8 p.die.val : BitVec 32).extractLsb' (n + 8) len =
      (t.version ++ BitVec.ofNat 8 p.slot).extractLsb' n len := fun len n =>
    BitVec.extractLsb'_append_eq_of_le (Nat.le_add_left 8 n)
  refine ⟨?_, ?_, ?_⟩
  · rw [hlow 0 8 (by omega), BitVec.extractLsb'_append_eq_right, BitVec.toNat_ofNat]
    omega
  · rw [hlow 8 8 (by omega), hup 8 0, BitVec.extractLsb'_append_eq_right, BitVec.toNat_ofNat]
    omega
  · rw [hlow 16 16 (by omega), hup 16 8]
    exact BitVec.extractLsb'_append_eq_left

/-! ## gang and lease (R220, R221) -/

/-- A mask that no gang can have: too few groups, too many, or one that the team does not have. -/
abbrev BadGang (c : Ctx) : Prop := (lanesOf c.aLevel).length < 2 ∨ 8 < (lanesOf c.aLevel).length ∨
  (lanesOf c.aLevel).any (fun i => decide (c.t.slots.length ≤ i.val)) = true

theorem outside_iff (c : Ctx) : (lanesOf c.aLevel).any (fun i => decide (c.t.slots.length ≤ i.val)) = true ↔
    ∃ i : Lane, inMask c.aLevel i = true ∧ c.t.slots.length ≤ i.val := by
  simp only [List.any_eq_true, mem_lanesOf, decide_eq_true_eq]

theorem goodGang {c : Ctx} (h2 : 2 ≤ (lanesOf c.aLevel).length) (h8 : (lanesOf c.aLevel).length ≤ 8)
    (hin : ∀ i : Lane, inMask c.aLevel i = true → i.val < c.t.slots.length) : ¬ BadGang c := by
  rintro (h | h | h)
  · omega
  · omega
  · obtain ⟨i, hi, hl⟩ := (outside_iff c).mp h
    exact absurd (hin i hi) (Nat.not_lt.mpr hl)

theorem gang_ends : Ends .gang .gang (fun c => 2 ≤ (lanesOf c.aLevel).length ∧ (lanesOf c.aLevel).length ≤ 8 ∧
      (∀ i : Lane, inMask c.aLevel i = true → i.val < c.t.slots.length) ∧ c.t.latch = none)
    (fun c => .done (c.s.modTeam c.r.die c.r.core c.t.uid (fun t => { t with gang := c.aLevel })) .noResult) := by
  refine ends_of (fun _ _ => rfl) ?_
  rintro c ⟨h2, h8, hin, hl⟩
  refine (if_neg (goodGang h2 h8 hin)).trans ?_
  rw [hl]
  rfl

theorem gang_holds : Holds .gang .gang (fun c => 2 ≤ (lanesOf c.aLevel).length ∧ (lanesOf c.aLevel).length ≤ 8 ∧
      (∀ i : Lane, inMask c.aLevel i = true → i.val < c.t.slots.length) ∧ c.t.latch ≠ none) (fun c => c.g) (fun _ => .gang) := by
  refine holds_of (fun _ _ => rfl) ?_
  rintro c ⟨h2, h8, hin, hl⟩
  exact (if_neg (goodGang h2 h8 hin)).trans (if_pos (Option.isSome_iff_ne_none.mpr hl))

theorem gang_raises : Raises .gang false .gang (fun c => (lanesOf c.aLevel).length < 2 ∨ 8 < (lanesOf c.aLevel).length ∨
    ∃ i : Lane, inMask c.aLevel i = true ∧ c.t.slots.length ≤ i.val) 0x02 0 (fun _ => 0) (fun _ => 0) := by
  refine raises_of (fun _ _ => rfl) fun c h => ?_
  rw [← outside_iff] at h
  exact if_pos h

theorem gangRd_leaves : Leaves32 .gangRd .gangRd (fun c _ => c.t.gang) := fun f s c hr => by
  rw [← Ctx.settle_result32]
  exact issue_ends hr rfl

theorem lease_changes (n : Nat) : Changes .lease .lease (fun c => c.t.dispatcher = false ∧ c.aLevel.toNat = n ∧ n ≤ 128)
    (fun c => { c.popped .lease with lease := c.g.lease.declare n }) := by
  have h := changes_of (op := .lease) (row := .lease) (p := fun c => c.t.dispatcher = false ∧ c.aLevel.toNat = n ∧ n ≤ 128)
    (F := fun _ g => { g with lease := g.lease.declare n }) (fun _ _ => rfl) (by
      rintro c ⟨hd, ha, hn⟩
      simp only [hd, ha, Nat.not_lt.mpr hn, Bool.false_eq_true, if_false])
  have hl : ∀ c : Ctx, (c.popped .lease).lease = c.g.lease := fun c => by rw [c.popped_eq]
  simpa only [hl] using h

theorem lease_dispatcher : Changes .lease .lease (fun c => c.t.dispatcher = true) (fun c => c.popped .lease) :=
  nothing_of (fun _ _ => rfl) fun c h => by simp only [h, if_true]

theorem lease_raises : Raises .lease false .lease (fun c => c.t.dispatcher = false ∧ 128 < c.aLevel.toNat) 0x02 0 (fun _ => 0)
    (fun _ => 0) := by
  refine raises_of (fun _ _ => rfl) ?_
  rintro c ⟨hd, ha⟩
  simp only [hd, ha, Bool.false_eq_true, if_false, if_true]
  rfl

/-- Settles O25: `route` by its lanes and the table, `gang` by its mask and the latch, `lease` by its number. -/
theorem routeGangLease : Obligations.RouteGangLease := by
  refine ⟨route_ends, route_raises, routeOf_none, routeOf_fields, gang_ends, gang_holds, gang_raises, gangRd_leaves, lease_dispatcher, ?_, ?_,
    lease_raises⟩
  · rintro f s c hr ⟨hd, ha⟩
    exact lease_changes 0 f s c hr ⟨hd, by rw [ha]; rfl, by omega⟩
  · rintro f s c hr ⟨hd, h1, h128⟩
    have hdeclare : c.g.lease.declare c.aLevel.toNat =
        { c.g.lease with measured := false, units := c.aLevel.toNat, accesses := 0, lines := [], windowLost := 0 } :=
      if_neg (by omega)
    exact (lease_changes c.aLevel.toNat f s c hr ⟨hd, rfl, h128⟩).trans
      (congrArg (fun l => Host.Outcome.next (c.after (c.stepped { c.popped .lease with lease := l } .noResult))) hdeclare)

end Sys2Proof.Machine.Control
end
